-- ==== Sys2Proof/Word.lean ====
section
/-! DEFINITION. The word, byte, mask and lane types (R4, R5, R176). -/

namespace Sys2Proof

/-- A 32-bit register or instruction word (R203). -/
abbrev Word := BitVec 32
/-- A byte of memory (R4). -/
abbrev Byte := BitVec 8
/-- A set of lanes: bit i is lane i, so em0 is bits 31:0, em1 bits 63:32 and em2 bits 95:64 (R5). -/
abbrev Mask := BitVec 96
/-- One vector register: the 32-bit word of each of the 96 lanes (R176). -/
abbrev Lanes := Vector Word 96

end Sys2Proof
end

