-- ==== Sys2Proof/Machine/Bits.lean ====
section
/-! DEFINITION. Bit fields, byte order, masks and lists by key: the plain helpers of the machine. -/

namespace Sys2Proof.Machine

/-- Bits [hi:lo] of a number. -/
def bits (x hi lo : Nat) : Nat := x / 2 ^ lo % 2 ^ (hi + 1 - lo)
/-- Bit i of a number. -/
def bitOf (x i : Nat) : Bool := x.testBit i
/-- x with its bits [hi:lo] replaced. -/
def setBits (x hi lo v : Nat) : Nat := x - bits x hi lo * 2 ^ lo + v % 2 ^ (hi + 1 - lo) * 2 ^ lo
/-- 1 for true. -/
def b2n (b : Bool) : Nat := if b then 1 else 0
/-- x read as a signed number of n bits. -/
def sgn (n x : Nat) : Int := if x % 2 ^ n < 2 ^ (n - 1) then (x % 2 ^ n : Nat) else (x % 2 ^ n : Nat) - (2 ^ n : Nat)
/-- An integer as its n-bit pattern. -/
def wrapN (n : Nat) (x : Int) : Nat := (x % (2 ^ n : Nat)).toNat
/-- Saturating increment of a 16-bit counter (R372, R108). -/
def sat16 (x : BitVec 16) : BitVec 16 := if x = 0xFFFF then x else x + 1

/-- n little-endian bytes of a number (R4). -/
def bytesOf : Nat → Nat → List Byte
  | 0, _ => []
  | n + 1, x => BitVec.ofNat 8 x :: bytesOf n (x / 256)
/-- The number that little-endian bytes spell (R4). -/
def leNat : List Byte → Nat
  | [] => 0
  | b :: bs => b.toNat + 256 * leNat bs

/-- A number's bits below n, lowest first. -/
def natBits (n : Nat) (f : Nat → Bool) : Nat :=
  (List.range n).foldr (fun i acc => b2n (f i) + 2 * acc) 0 

/-- The mask of the lanes that satisfy f. -/
def maskOf (f : Nat → Bool) : Mask := BitVec.ofNat 96 ((List.range 96).foldl (fun a i => if f i then a + 2 ^ i else a) 0)
/-- The lanes of a mask, ascending. -/
def lanesOf (m : Mask) : List Nat := (List.range 96).filter (fun i => m.getLsbD i)
/-- Number of lanes of a mask. -/
def countMask (m : Mask) : Nat := (lanesOf m).length
/-- A lane register given lane by lane. -/
def mkLanes (f : Nat → Word) : Lanes := ⟨((List.range 96).map f).toArray, by simp⟩
/-- The word of lane i; 0 beyond the lanes. -/
def laneOf (v : Lanes) (i : Nat) : Word := v.toArray.getD i 0
/-- Every lane holds x. -/
def splat (x : Word) : Lanes := Vector.replicate 96 x
/-- Under mask m the new lanes, elsewhere the old (R258). -/
def mergeLanes (m : Mask) (new old : Lanes) : Lanes :=
  mkLanes fun i => if m.getLsbD i then laneOf new i else laneOf old i

/-- Number of one bits of a word. -/
def popcount (n x : Nat) : Nat := (List.range n).foldl (fun a i => a + b2n (x.testBit i)) 0
/-- Leading zero bits of an n-bit number. -/
def clzN (n x : Nat) : Nat := if x = 0 then n else n - 1 - Nat.log2 x
/-- The bits of an n-bit number in reverse order. -/
def revBits (n x : Nat) : Nat := (List.range n).foldl (fun a i => a + b2n (x.testBit i) * 2 ^ (n - 1 - i)) 0

/-- The first element that satisfies p replaced by f of it; `new` appended where there is none. -/
def upsert (p : α → Bool) (f : α → α) (new : α) : List α → List α
  | [] => [f new]
  | x :: xs => if p x then f x :: xs else x :: upsert p f new xs
/-- f applied to every element that satisfies p. -/
def updWhere (p : α → Bool) (f : α → α) (l : List α) : List α := l.map fun x => if p x then f x else x
/-- The list without the element at an index. -/
def dropAt (n : Nat) (l : List α) : List α := l.eraseIdx n
/-- The numbers from a, n of them. -/
def span (a n : Nat) : List Nat := (List.range n).map (a + ·)
/-- A list without repeats, first occurrences kept. -/
def dedup [BEq α] (l : List α) : List α := l.foldl (fun acc x => if acc.contains x then acc else acc ++ [x]) []
/-- Sum of a list of integers. -/
def sumInt (l : List Int) : Int := l.foldl (· + ·) 0
/-- The least element, or a default. -/
def minOf (d : Nat) (l : List Nat) : Nat := l.foldl Nat.min d
/-- a / b rounded up. -/
def ceilDiv (a b : Nat) : Nat := (a + b - 1) / b

/-! ## Memory: a canonical list of bytes -/

/-- The byte at an address: 0 where nothing is listed (R60, log entry 6). -/
def memByte : List Host.Cell → Nat → Byte
  | [], _ => 0
  | (k, b) :: m, a => if k = a then b else if a < k then 0 else memByte m a
/-- A byte written in canonical form: writing 0 removes the entry. -/
def memSet : List Host.Cell → Nat → Byte → List Host.Cell
  | [], a, v => if v = 0 then [] else [(a, v)]
  | (k, b) :: m, a, v =>
    if a < k then (if v = 0 then (k, b) :: m else (a, v) :: (k, b) :: m)
    else if a = k then (if v = 0 then m else (a, v) :: m)
    else (k, b) :: memSet m a v
/-- The canonical form: addresses strictly rising, no entry 0. -/
def memWf : List Host.Cell → Bool
  | [] => true
  | (k, b) :: m => b != 0 && m.all (fun c => k < c.1) && memWf m
/-- n bytes from an address. -/
def memBytes (m : List Host.Cell) (a n : Nat) : List Byte := (List.range n).map fun i => memByte m (a + i)
/-- n bytes from an address as a little-endian number. -/
def memNat (m : List Host.Cell) (a n : Nat) : Nat := leNat (memBytes m a n)
/-- Bytes written from an address on. -/
def memPut : List Host.Cell → Nat → List Byte → List Host.Cell
  | m, _, [] => m
  | m, a, b :: bs => memPut (memSet m a b) (a + 1) bs
/-- An n-byte little-endian number written at an address. -/
def memPutNat (m : List Host.Cell) (a n x : Nat) : List Host.Cell := memPut m a (bytesOf n x)

end Sys2Proof.Machine
end

