-- ==== Sys2Proof/Syntax.lean ====
section
/-! DEFINITION. The instruction set as syntax: one constructor for each row of the opcode table, the
234 instruction words first (R204 to R337), then the 128 indivisible events of the machine, whose
operands name the wave, the core, the die or the message they act on. -/

namespace Sys2Proof

/-- A scalar register field, s0 to s63 (R205). -/
abbrev SReg := BitVec 6
/-- An 8-bit operand selector (R206). -/
abbrev VSel := BitVec 8
/-- An operand-file register field, w0 to w7 (R205). -/
abbrev WReg := BitVec 3
/-- A translation register field: tx0 to tx6, 7 is scratchpad space (R205). -/
abbrev TxSel := BitVec 3
/-- A completion flag field, f0 to f11; 12 to 15 trap (R205, R214). -/
abbrev FlagN := BitVec 4
/-- A lookahead field (R210). -/
abbrev LaN := BitVec 4

/-- The state selectors of `setmode` and `getmode` (R183). -/
inductive ModeSel | mode | mmode | stat | seed
  deriving DecidableEq, Repr
/-- The memory scopes (R112, R303). -/
inductive Scope | wave | group | cluster | pkg | pod | sys
  deriving DecidableEq, Repr
/-- How a compare combines its result with the destination triple (R267). -/
inductive CmpComb | set | and | or
  deriving DecidableEq, Repr
/-- Integer condition codes (R268). -/
inductive IcmpCc | eq | ne | lt | le | gt | ge
  deriving DecidableEq, Repr
/-- Float condition codes (R268). -/
inductive FcmpCc | eq | ne | lt | le | gt | ge | un | or
  deriving DecidableEq, Repr
/-- The orders of `atom.ar` (R290). -/
inductive AtomOrd | acq | rel | acqrel
  deriving DecidableEq, Repr
/-- The reduction operations of `redst` and `nmop.red` (R296). -/
inductive RedOp | i32 | f32 | bf16 | maxf32
  deriving DecidableEq, Repr
/-- The conditions of `waita` (R309). -/
inductive WaitCond | eq | ne | geu | ges | anyBit
  deriving DecidableEq, Repr
/-- The element types of MODE.ETYPE and `cvt` (R182). -/
inductive EType | fp32 | fp16 | bf16 | e4m3 | e5m2 | e2m1 | i32 | u32 | i16 | u16 | i8 | u8 | i4 | u4
  deriving DecidableEq, Repr
/-- The scope of a joined group (R163, R303). -/
inductive GScope | core | cluster
  deriving DecidableEq, Repr
/-- The selectors of `ginfo` (R308). -/
inductive GinfoSel | count | key | info
  deriving DecidableEq, Repr
/-- A barrier number (R166). -/
inductive Bar4 | b0 | b1 | b2 | b3
  deriving DecidableEq, Repr
/-- A translation register that `xlat` may name (R292). -/
inductive TxN | t0 | t1 | t2 | t3 | t4 | t5 | t6
  deriving DecidableEq, Repr

/-- The cause codes of recorded events (R357). -/
inductive Cause
  | ill | rsvf | priv | align | bounds | noxl | perm | poison | mcrange | pstack | rlost | dbg
  | preempt | launch | unreach | alarm | drain | therm
  deriving DecidableEq, Repr

/-- A core: its compute die as a unit number (package·16 + die) and its number 0 to 95 on the die (R370). -/
structure CoreId where
  cd : Nat
  core : Nat
  deriving DecidableEq, Repr
/-- A wave by the slot that holds it: 0 to 15 wave slots, 16 to 19 handler slots of a partition (R359). -/
structure WaveId where
  cd : Nat
  core : Nat
  part : Nat
  slot : Nat
  deriving DecidableEq, Repr
/-- A block: the launch's tag and the linear index L (R156). -/
structure BlockId where
  launch : Nat
  idx : Nat
  deriving DecidableEq, Repr
/-- What a host read asks to keep of a line (R381), or the PCIe AtomicOp that it is, of 8 bytes if it is wide, else of 4 (R376). -/
inductive CxlReq
  | none | shared | exclusive
  | fetchAdd (wide : Bool) (x : BitVec 64) | swap (wide : Bool) (x : BitVec 64) | cas (wide : Bool) (x new : BitVec 64)
  deriving DecidableEq, Repr
/-- The detector classes of the security controller (R375). -/
inductive AlarmClass | volt | clk | temp | light | mesh
  deriving DecidableEq, Repr
/-- The four firmware images (R394). -/
inductive FwTarget | security | iod | compute | memside
  deriving DecidableEq, Repr
/-- The lifecycle states (R397). -/
inductive Lifecycle | test | prod | rma | scrap
  deriving DecidableEq, Repr
/-- A confidential stream (R401). -/
structure Stream where
  sid : Nat
  outbound : Bool
  obj : BitVec 24
  tagObj : BitVec 24
  key : BitVec 256
  salt : BitVec 32
  cbase : BitVec 64
  written : Nat
  tagf : Bool
  deriving DecidableEq, Repr
/-- The keys a tenant sets over its session: trace key, trace salt and streams (R400, R401). -/
structure TenantKeys where
  trace : BitVec 256
  tsalt : BitVec 32
  streams : List Stream
  deriving DecidableEq, Repr
/-- A register of a stopped wave as the debugger names it (R404): of the path stack, word k of the 24 bytes of hardware entry n, and
the depth (R187). -/
inductive DbgReg
  | s (n : Nat) | v (r lane : Nat) | w (r lane : Nat) | em (k : Nat) | xl (k : Nat) | tx (n k : Nat)
  | pc | mode | mmode | stat | seed | flag (n : Nat) | tfaddr (k : Nat) | tsaddr (k : Nat) | tscr (n : Nat)
  | path (n k : Nat) | depth
  deriving DecidableEq, Repr
/-- A driver or system register without a table row of its own, with the unit that holds it (R6). -/
inductive MmioReg
  | timeerr (die : Nat) | time (die : Nat) | cycle (cd : Nat) | vdie (cd : Nat) | atomsz (cd : Nat)
  | lcstate (pkg : Nat) | devid (pkg : Nat)
  | hotctl (md : Nat) | hotbuf (md : Nat) | hotidx (md : Nat) | migstat (md : Nat) | biasstat (md : Nat)
  | cohctl (cd : Nat) | cohcnt (die : Nat) | errcnt (cd : Nat)
  | ctxtbl (pkg iod : Nat) | ctxstat (pkg : Nat)
  | ldrsrc (pkg : Nat) | ldrlen (pkg : Nat) | ldrobja (pkg : Nat) | ldrobjb (pkg : Nat)
  | ldrstat (pkg : Nat) | ldrhandle (pkg : Nat)
  | qbase (pkg q : Nat) | qctl (pkg q : Nat) | schctl (pkg iod : Nat)
  | flogbase (pkg : Nat) | flogidx (pkg : Nat) | almctl (pkg : Nat) | almstat (pkg : Nat)
  | invobj (pkg iod : Nat) | invstat (pkg iod : Nat)
  | froute (pkg dest : Nat) | mcgroup (pkg g : Nat) | hdm (pkg link : Nat)
  | sampctl (cd : Nat) | trcctl (cd : Nat) | trcbase (cd : Nat) | trcidx (cd : Nat)
  deriving DecidableEq, Repr

/-- The instructions and events: one constructor for each row of the opcode table. -/
inductive Instr
  /-- R226: Writes the 32-bit sum of two scalars to a scalar. -/
  | sadd (d a b : SReg)
  /-- R226: Writes the 32-bit difference of two scalars. -/
  | ssub (d a b : SReg)
  /-- R226: Writes the bitwise AND of two scalars. -/
  | sand (d a b : SReg)
  /-- R226: Writes the bitwise OR of two scalars. -/
  | sor (d a b : SReg)
  /-- R226: Writes the bitwise XOR of two scalars. -/
  | sxor (d a b : SReg)
  /-- R226: Writes a AND NOT b of two scalars. -/
  | sandn (d a b : SReg)
  /-- R226: Shifts a scalar left, giving 0 for counts of 32 or more. -/
  | sshl (d a b : SReg)
  /-- R226: Shifts a scalar right with zero fill. -/
  | sshr (d a b : SReg)
  /-- R226: Shifts a scalar right with sign fill. -/
  | ssar (d a b : SReg)
  /-- R226: Writes the low 32 bits of the product of two scalars. -/
  | smul (d a b : SReg)
  /-- R226: Writes the high word of the signed product. -/
  | smulhs (d a b : SReg)
  /-- R226: Writes the high word of the unsigned product. -/
  | smulhu (d a b : SReg)
  /-- R226: Writes the signed minimum of two scalars. -/
  | smin (d a b : SReg)
  /-- R226: Writes the signed maximum of two scalars. -/
  | smax (d a b : SReg)
  /-- R226: Writes the unsigned minimum of two scalars. -/
  | sminu (d a b : SReg)
  /-- R226: Writes the unsigned maximum of two scalars. -/
  | smaxu (d a b : SReg)
  /-- R226: Writes 1 if the first scalar is less than the second, signed. -/
  | sslt (d a b : SReg)
  /-- R226: Writes 1 if the first scalar is less than the second, unsigned. -/
  | ssltu (d a b : SReg)
  /-- R226: Writes 1 if two scalars are equal. -/
  | sseq (d a b : SReg)
  /-- R226: Writes the count of leading zero bits of a scalar. -/
  | sclz (d a : SReg)
  /-- R226: Writes the number of one bits of a scalar. -/
  | spopc (d a : SReg)
  /-- R226: Sign-extends the low byte of a scalar. -/
  | ssext8 (d a : SReg)
  /-- R226: Sign-extends the low half of a scalar. -/
  | ssext16 (d a : SReg)
  /-- R226: Adds two scalar pairs modulo 2^64. -/
  | sadd64 (d a b : SReg)
  /-- R226: Subtracts two scalar pairs modulo 2^64. -/
  | ssub64 (d a b : SReg)
  /-- R227: Adds a sign-extended 14-bit immediate to a scalar. -/
  | saddi (d a : SReg) (i : BitVec 14)
  /-- R227: ANDs a scalar with a sign-extended immediate. -/
  | sandi (d a : SReg) (i : BitVec 14)
  /-- R227: ORs a scalar with a sign-extended immediate. -/
  | sori (d a : SReg) (i : BitVec 14)
  /-- R227: XORs a scalar with a sign-extended immediate. -/
  | sxori (d a : SReg) (i : BitVec 14)
  /-- R228: Loads one 32-bit word from an object address into a scalar, once for the wave. -/
  | sld (d a : SReg) (i : BitVec 14)
  /-- R227: Writes a 20-bit immediate shifted left by 12 into a scalar. -/
  | slui (d : SReg) (i : BitVec 20)
  /-- R228: Stores one 32-bit scalar word to an object address, once for the wave. -/
  | sst (d a : SReg) (i : BitVec 14)
  /-- R231: Branches the whole wave if a scalar is zero. -/
  | bz (c : SReg) (o : BitVec 16)
  /-- R231: Branches the whole wave if a scalar is nonzero. -/
  | bnz (c : SReg) (o : BitVec 16)
  /-- R231: Branches if a scalar is negative. -/
  | bltz (c : SReg) (o : BitVec 16)
  /-- R231: Branches if a scalar is non-negative. -/
  | bgez (c : SReg) (o : BitVec 16)
  /-- R231: Branches if a scalar is positive. -/
  | bgtz (c : SReg) (o : BitVec 16)
  /-- R231: Branches if a scalar is zero or negative. -/
  | blez (c : SReg) (o : BitVec 16)
  /-- R232: Branches if any active lane is set in a mask triple. -/
  | bany (c : SReg) (o : BitVec 16)
  /-- R232: Branches if every active lane is set in a mask triple. -/
  | ball (c : SReg) (o : BitVec 16)
  /-- R232: Branches if no active lane is set in a mask triple. -/
  | bnone (c : SReg) (o : BitVec 16)
  /-- R236: Pushes merge and else entries and starts the then-path of a divergent conditional. -/
  | split (c : SReg) (o : BitVec 16)
  /-- R237: Ends the then-path and starts the else-path from the path stack. -/
  | elseW (o : BitVec 16)
  /-- R238: Pops a merge entry or collects continued lanes at a loop latch. -/
  | merge
  /-- R239: Moves lanes of a triple into a break entry, leaving one or more loops. -/
  | breakv (c : SReg) (o : BitVec 16)
  /-- R239: Opens a loop by pushing a break entry and a continue entry. -/
  | breakvOpen (o : BitVec 16)
  /-- R240: Moves lanes of a triple into the loop's continue entry. -/
  | contv (c : SReg) (o : BitVec 16)
  /-- R233: Branches the whole wave unconditionally. -/
  | branch (o : BitVec 16)
  /-- R233: Writes the return PC to a scalar and branches. -/
  | call (c : SReg) (o : BitVec 16)
  /-- R249: Has no effect. -/
  | nop
  /-- R233: Jumps to the PC held in a scalar. -/
  | ret (a : SReg)
  /-- R250: Ends the wave, leaving its groups and freeing its slot once requests and drains complete. -/
  | exitW
  /-- R241: Ends the lanes of a triple, adding them to the exited set. -/
  | exitv (a : SReg)
  /-- R246: Issues only when every named completion flag reads 0. -/
  | waitW (mask : BitVec 12)
  /-- R247: Writes MODE, MMODE, STAT or SEED from a scalar. -/
  | setmode (a : SReg) (sel : ModeSel)
  /-- R247: Writes selected bits of a state register under a bit mask. -/
  | setmodeM (a b : SReg) (sel : ModeSel)
  /-- R247: Reads MODE, MMODE, STAT or SEED into a scalar. -/
  | getmode (a : SReg) (sel : ModeSel)
  /-- R249: Raises a precise DBG trap with a code. -/
  | trapW (n : BitVec 4)
  /-- R248: Holds the wave for at least a given number of ns. -/
  | sleep (a : SReg)
  /-- R230: ANDs two mask triples. -/
  | mand (d a b : SReg)
  /-- R230: ORs two mask triples. -/
  | mor (d a b : SReg)
  /-- R230: XORs two mask triples. -/
  | mxor (d a b : SReg)
  /-- R230: Writes A AND NOT B of mask triples. -/
  | mandn (d a b : SReg)
  /-- R230: Inverts a mask triple. -/
  | mnot (d a : SReg)
  /-- R230: Sets all 96 bits of a mask triple. -/
  | mset (d : SReg)
  /-- R230: Clears a mask triple. -/
  | mclr (d : SReg)
  /-- R230: Writes the number of set bits of a triple to a scalar. -/
  | mcnt (d a : SReg)
  /-- R230: Writes the lowest set lane of a triple, or 96. -/
  | mfirst (d a : SReg)
  /-- R230: Writes a triple holding only the lane named by a scalar. -/
  | mlane (d a : SReg)
  /-- R253: Reads a system register into a scalar or pair. -/
  | sysr (a : SReg) (num : BitVec 10)
  /-- R253: Writes a system register from a scalar or pair. -/
  | sysw (a : SReg) (num : BitVec 10)
  /-- R254: Restores state from the trap frame, leaves trap state and resumes at the restored PC. -/
  | eret
  /-- R255: Starts a translation invalidation of pages of an object and waits for every die. -/
  | cacheopInvx (a : SReg)
  /-- R255: Makes every die cache write modified sectors of pages back to their homes. -/
  | cacheopWb (a : SReg)
  /-- R255: Makes every die cache return all tokens and data of the pages to their homes. -/
  | cacheopWbinv (a : SReg)
  /-- R256: Stops the partition for the debugger, or acts as trap when the port is closed. -/
  | dbgbrk (n : BitVec 4)
  /-- R257: Erases every tenant key of the package and waits for the acknowledgement. -/
  | keywipeAll
  /-- R257: Erases the keys of the issuing context. -/
  | keywipeContext
  /-- R256: Puts the compute die into debug hold, or traps PRIV when the port is closed. -/
  | halt
  /-- R260: Adds integer elements, saturating under SAT. -/
  | iadd (d a b : VSel)
  /-- R260: Subtracts integer elements. -/
  | isub (d a b : VSel)
  /-- R260: Multiplies integer elements. -/
  | imul (d a b : VSel)
  /-- R260: Writes the high half of the exact element product. -/
  | imulh (d a b : VSel)
  /-- R260: Adds the product of two elements to the destination. -/
  | imad (d a b : VSel)
  /-- R260: Writes the lesser integer element. -/
  | imin (d a b : VSel)
  /-- R260: Writes the greater integer element. -/
  | imax (d a b : VSel)
  /-- R260: Writes the absolute difference of elements. -/
  | iabsd (d a b : VSel)
  /-- R260: ANDs lane words. -/
  | vand (d a b : VSel)
  /-- R260: ORs lane words. -/
  | vor (d a b : VSel)
  /-- R260: XORs lane words. -/
  | vxor (d a b : VSel)
  /-- R260: Writes a AND NOT b of lane words. -/
  | vandn (d a b : VSel)
  /-- R260: Shifts integer elements left. -/
  | shl (d a b : VSel)
  /-- R260: Shifts integer elements right with zero fill. -/
  | shr (d a b : VSel)
  /-- R260: Shifts integer elements right with sign fill. -/
  | sar (d a b : VSel)
  /-- R260: Rotates integer elements left. -/
  | irot (d a b : VSel)
  /-- R262: Forms a packed integer dot product into a 32-bit accumulator. -/
  | idp (d a b : VSel)
  /-- R268: Compares integer elements and writes or combines a mask triple. -/
  | icmp (o : CmpComb) (c : IcmpCc) (k : BitVec 5) (a b : VSel)
  /-- R268: Compares float elements and writes or combines a mask triple. -/
  | fcmp (o : CmpComb) (c : FcmpCc) (k : BitVec 5) (a b : VSel)
  /-- R264: Adds float elements with one rounding. -/
  | fadd (d a b : VSel)
  /-- R264: Subtracts float elements. -/
  | fsub (d a b : VSel)
  /-- R264: Multiplies float elements. -/
  | fmul (d a b : VSel)
  /-- R265: Writes minimumNumber of float elements. -/
  | fmin (d a b : VSel)
  /-- R265: Writes maximumNumber of float elements. -/
  | fmax (d a b : VSel)
  /-- R265: Writes NaN-propagating minimum. -/
  | fminp (d a b : VSel)
  /-- R265: Writes NaN-propagating maximum. -/
  | fmaxp (d a b : VSel)
  /-- R264: Writes the fused x·y + d. -/
  | ffma (d a b : VSel)
  /-- R264: Writes the fused x·y − d. -/
  | ffms (d a b : VSel)
  /-- R264: Writes the fused −(x·y) + d. -/
  | ffnma (d a b : VSel)
  /-- R264: Writes the fused −(x·y) − d. -/
  | ffnms (d a b : VSel)
  /-- R266: Adds a two-element 16-bit float dot product to an FP32 accumulator. -/
  | fdp2 (d a b : VSel)
  /-- R271: Negates integer elements. -/
  | ineg (d a : VSel)
  /-- R271: Writes the absolute value of integer elements. -/
  | iabs (d a : VSel)
  /-- R271: Inverts lane words. -/
  | vnot (d a : VSel)
  /-- R271: Counts one bits of lane words. -/
  | popc (d a : VSel)
  /-- R271: Counts leading zeros of lane words. -/
  | clz (d a : VSel)
  /-- R271: Reverses the bits of lane words. -/
  | brev (d a : VSel)
  /-- R271: Negates float elements. -/
  | fneg (d a : VSel)
  /-- R271: Writes the magnitude of float elements. -/
  | fabs (d a : VSel)
  /-- R271: Rounds float elements down to integral values. -/
  | ffloor (d a : VSel)
  /-- R271: Rounds float elements up to integral values. -/
  | fceil (d a : VSel)
  /-- R271: Rounds float elements toward zero to integral values. -/
  | ftrunc (d a : VSel)
  /-- R271: Rounds float elements to integral values under MODE.RM. -/
  | frnd (d a : VSel)
  /-- R272: Converts elements of a named source type into MODE.ETYPE. -/
  | cvt (d : VSel) (p : BitVec 3) (t : EType) (a : VSel)
  /-- R273: Writes a scalar into every active lane. -/
  | vsplat (d : VSel) (a : SReg)
  /-- R273: Writes each active lane's index. -/
  | vlaneid (d : VSel)
  /-- R273: Expands a mask triple to all-ones or zero lane words. -/
  | vmask (d a : VSel)
  /-- R275: Reads a lane chosen by index, with validity in xv. -/
  | vperm (d a i : VSel)
  /-- R275: Broadcasts a lane within each sub-group. -/
  | vbcst (d a i : VSel)
  /-- R275: Reads the lane at a signed offset. -/
  | vshf (d a i : VSel)
  /-- R275: Reads the lane at index XOR k. -/
  | vbfly (d a i : VSel)
  /-- R270: Copies lane words. -/
  | mov (d a : VSel)
  /-- R270: Selects between two operands under the guard triple. -/
  | sel (d a b : VSel)
  /-- R270: Reads one lane of a vector into a scalar. -/
  | vrdl (d : SReg) (a : VSel) (b : SReg)
  /-- R270: Writes a scalar into one lane of a vector. -/
  | vwrl (d : VSel) (a b : SReg)
  /-- R277: Starts a long-latency integer division. -/
  | idiv (d : VSel) (a b : WReg) (fl : FlagN) (la : LaN)
  /-- R277: Starts a long-latency integer remainder. -/
  | irem (d : VSel) (a b : WReg) (fl : FlagN) (la : LaN)
  /-- R278: Starts a long-latency float division. -/
  | fdiv (d : VSel) (a b : WReg) (fl : FlagN) (la : LaN)
  /-- R278: Starts a long-latency square root. -/
  | fsqrt (d : VSel) (a : WReg) (fl : FlagN) (la : LaN)
  /-- R278: Starts a long-latency reciprocal. -/
  | frcp (d : VSel) (a : WReg) (fl : FlagN) (la : LaN)
  /-- R279: Starts a reciprocal square root. -/
  | frsq (d : VSel) (a : WReg) (fl : FlagN) (la : LaN)
  /-- R279: Starts a base-2 exponential. -/
  | fexp2 (d : VSel) (a : WReg) (fl : FlagN) (la : LaN)
  /-- R279: Starts a base-2 logarithm. -/
  | flog2 (d : VSel) (a : WReg) (fl : FlagN) (la : LaN)
  /-- R279: Starts sin(πx). -/
  | fsinpi (d : VSel) (a : WReg) (fl : FlagN) (la : LaN)
  /-- R279: Starts cos(πx). -/
  | fcospi (d : VSel) (a : WReg) (fl : FlagN) (la : LaN)
  /-- R279: Starts tanh(x). -/
  | ftanh (d : VSel) (a : WReg) (fl : FlagN) (la : LaN)
  /-- R280: Starts a sub-group sum reduction. -/
  | rsum (d : VSel) (a : WReg) (fl : FlagN) (la : LaN)
  /-- R280: Starts a sub-group minimum reduction. -/
  | rmin (d : VSel) (a : WReg) (fl : FlagN) (la : LaN)
  /-- R280: Starts a sub-group maximum reduction. -/
  | rmax (d : VSel) (a : WReg) (fl : FlagN) (la : LaN)
  /-- R280: Starts a sub-group AND reduction. -/
  | rand (d : VSel) (a : WReg) (fl : FlagN) (la : LaN)
  /-- R280: Starts a sub-group OR reduction. -/
  | ror (d : VSel) (a : WReg) (fl : FlagN) (la : LaN)
  /-- R280: Starts a sub-group XOR reduction. -/
  | rxor (d : VSel) (a : WReg) (fl : FlagN) (la : LaN)
  /-- R284: Translates and checks each lane and starts a zero-extended byte load. -/
  | ld8u (d : VSel) (w : WReg) (tx : TxSel) (fl : FlagN) (la : LaN)
  /-- R284: Starts a sign-extended byte load. -/
  | ld8s (d : VSel) (w : WReg) (tx : TxSel) (fl : FlagN) (la : LaN)
  /-- R284: Starts a zero-extended halfword load. -/
  | ld16u (d : VSel) (w : WReg) (tx : TxSel) (fl : FlagN) (la : LaN)
  /-- R284: Starts a sign-extended halfword load. -/
  | ld16s (d : VSel) (w : WReg) (tx : TxSel) (fl : FlagN) (la : LaN)
  /-- R284: Starts a 32-bit load per lane. -/
  | ld32 (d : VSel) (w : WReg) (tx : TxSel) (fl : FlagN) (la : LaN)
  /-- R284: Starts a 64-bit load per lane. -/
  | ld64 (d : VSel) (w : WReg) (tx : TxSel) (fl : FlagN) (la : LaN)
  /-- R284: Starts a 128-bit load per lane. -/
  | ld128 (d : VSel) (w : WReg) (tx : TxSel) (fl : FlagN) (la : LaN)
  /-- R288: Starts a byte acquire load. -/
  | ld8uAcq (d : VSel) (w : WReg) (tx : TxSel) (fl : FlagN) (la : LaN)
  /-- R288: Starts a signed byte acquire load. -/
  | ld8sAcq (d : VSel) (w : WReg) (tx : TxSel) (fl : FlagN) (la : LaN)
  /-- R288: Starts a halfword acquire load. -/
  | ld16uAcq (d : VSel) (w : WReg) (tx : TxSel) (fl : FlagN) (la : LaN)
  /-- R288: Starts a signed halfword acquire load. -/
  | ld16sAcq (d : VSel) (w : WReg) (tx : TxSel) (fl : FlagN) (la : LaN)
  /-- R288: Starts a 32-bit acquire load. -/
  | ld32Acq (d : VSel) (w : WReg) (tx : TxSel) (fl : FlagN) (la : LaN)
  /-- R288: Starts a 64-bit acquire load. -/
  | ld64Acq (d : VSel) (w : WReg) (tx : TxSel) (fl : FlagN) (la : LaN)
  /-- R288: Starts a 128-bit acquire load. -/
  | ld128Acq (d : VSel) (w : WReg) (tx : TxSel) (fl : FlagN) (la : LaN)
  /-- R286: Starts a byte store per lane. -/
  | st8 (d : VSel) (w : WReg) (tx : TxSel) (fl : FlagN) (la : LaN)
  /-- R286: Starts a halfword store per lane. -/
  | st16 (d : VSel) (w : WReg) (tx : TxSel) (fl : FlagN) (la : LaN)
  /-- R286: Starts a 32-bit store per lane. -/
  | st32 (d : VSel) (w : WReg) (tx : TxSel) (fl : FlagN) (la : LaN)
  /-- R286: Starts a 64-bit store per lane. -/
  | st64 (d : VSel) (w : WReg) (tx : TxSel) (fl : FlagN) (la : LaN)
  /-- R286: Starts a 128-bit store per lane. -/
  | st128 (d : VSel) (w : WReg) (tx : TxSel) (fl : FlagN) (la : LaN)
  /-- R288: Starts a byte release store. -/
  | st8Rel (d : VSel) (w : WReg) (tx : TxSel) (fl : FlagN) (la : LaN)
  /-- R288: Starts a halfword release store. -/
  | st16Rel (d : VSel) (w : WReg) (tx : TxSel) (fl : FlagN) (la : LaN)
  /-- R288: Starts a 32-bit release store. -/
  | st32Rel (d : VSel) (w : WReg) (tx : TxSel) (fl : FlagN) (la : LaN)
  /-- R288: Starts a 64-bit release store. -/
  | st64Rel (d : VSel) (w : WReg) (tx : TxSel) (fl : FlagN) (la : LaN)
  /-- R288: Starts a 128-bit release store. -/
  | st128Rel (d : VSel) (w : WReg) (tx : TxSel) (fl : FlagN) (la : LaN)
  /-- R291: Starts a relaxed 32-bit atomic add per lane. -/
  | atomAdd (d : VSel) (w : WReg) (tx : TxSel) (fl : FlagN) (la : LaN)
  /-- R291: Starts an atomic AND. -/
  | atomAnd (d : VSel) (w : WReg) (tx : TxSel) (fl : FlagN) (la : LaN)
  /-- R291: Starts an atomic OR. -/
  | atomOr (d : VSel) (w : WReg) (tx : TxSel) (fl : FlagN) (la : LaN)
  /-- R291: Starts an atomic XOR. -/
  | atomXor (d : VSel) (w : WReg) (tx : TxSel) (fl : FlagN) (la : LaN)
  /-- R291: Starts an atomic signed minimum. -/
  | atomMin (d : VSel) (w : WReg) (tx : TxSel) (fl : FlagN) (la : LaN)
  /-- R291: Starts an atomic signed maximum. -/
  | atomMax (d : VSel) (w : WReg) (tx : TxSel) (fl : FlagN) (la : LaN)
  /-- R291: Starts an atomic unsigned minimum. -/
  | atomMinu (d : VSel) (w : WReg) (tx : TxSel) (fl : FlagN) (la : LaN)
  /-- R291: Starts an atomic unsigned maximum. -/
  | atomMaxu (d : VSel) (w : WReg) (tx : TxSel) (fl : FlagN) (la : LaN)
  /-- R291: Starts an atomic 32-bit swap. -/
  | atomSwap (d : VSel) (w : WReg) (tx : TxSel) (fl : FlagN) (la : LaN)
  /-- R291: Starts an atomic 32-bit compare-and-swap. -/
  | atomCas (d : VSel) (w : WReg) (tx : TxSel) (fl : FlagN) (la : LaN)
  /-- R291: Starts an atomic FP32 add under RNE. -/
  | atomFadd (d : VSel) (w : WReg) (tx : TxSel) (fl : FlagN) (la : LaN)
  /-- R291: Starts an atomic 64-bit add. -/
  | atomAdd64 (d : VSel) (w : WReg) (tx : TxSel) (fl : FlagN) (la : LaN)
  /-- R291: Starts an atomic 64-bit swap. -/
  | atomSwap64 (d : VSel) (w : WReg) (tx : TxSel) (fl : FlagN) (la : LaN)
  /-- R291: Starts an atomic 64-bit compare-and-swap. -/
  | atomCas64 (d : VSel) (w : WReg) (tx : TxSel) (fl : FlagN) (la : LaN)
  /-- R291: Starts an atomic wrapping increment. -/
  | atomInc (d : VSel) (w : WReg) (tx : TxSel) (fl : FlagN) (la : LaN)
  /-- R291: Starts an ordered atomic add with acquire, release or acq_rel order. -/
  | atomArAdd (o : AtomOrd) (d : VSel) (w : WReg) (tx : TxSel) (fl : FlagN) (la : LaN)
  /-- R291: Starts an ordered atomic swap. -/
  | atomArSwap (o : AtomOrd) (d : VSel) (w : WReg) (tx : TxSel) (fl : FlagN) (la : LaN)
  /-- R291: Starts an ordered atomic compare-and-swap. -/
  | atomArCas (o : AtomOrd) (d : VSel) (w : WReg) (tx : TxSel) (fl : FlagN) (la : LaN)
  /-- R291: Starts an ordered 64-bit compare-and-swap. -/
  | atomArCas64 (o : AtomOrd) (d : VSel) (w : WReg) (tx : TxSel) (fl : FlagN) (la : LaN)
  /-- R299: Copies a scratchpad source to a list of destinations as relaxed writes. -/
  | mcst (a : SReg) (fl : FlagN) (la : LaN)
  /-- R299: Reduces a scratchpad source into a list of destinations as relaxed RMWs. -/
  | redst (a : SReg) (o : RedOp) (fl : FlagN) (la : LaN)
  /-- R297: Checks a request block and starts a bulk read whose bursts become handler waves. -/
  | bulkrd (a b : SReg) (fl : FlagN) (la : LaN)
  /-- R151: Checks a request block and starts a copy between a tensor and the scratchpad. -/
  | copy (a b : SReg) (fl : FlagN) (la : LaN)
  /-- R152: Checks a request block and starts a copy multicast to cluster members' scratchpads. -/
  | copymc (a b : SReg) (fl : FlagN) (la : LaN)
  /-- R301: Starts a near-memory fill of a shadow range with a pattern. -/
  | nmopFill (a : SReg) (fl : FlagN) (la : LaN)
  /-- R301: Starts a near-memory copy into a shadow range. -/
  | nmopCopy (a : SReg) (fl : FlagN) (la : LaN)
  /-- R301: Starts a near-memory compare of two ranges. -/
  | nmopCmp (a : SReg) (fl : FlagN) (la : LaN)
  /-- R301: Starts a near-memory reduction of a source into a destination. -/
  | nmopRed (a : SReg) (o : RedOp) (fl : FlagN) (la : LaN)
  /-- R39: Sets a translation register from an object address, walking the table if needed. -/
  | xlat (a : SReg) (n : TxN)
  /-- R293: Checks a layout record, pins its pages and returns a handle. -/
  | layreg (a d : SReg)
  /-- R294: Releases a layout record handle after its requests complete. -/
  | layrel (a : SReg)
  /-- R295: Swaps the extent lists of an object and its shadow and invalidates both. -/
  | publ (a b : SReg)
  /-- R304: An acquire fence at a scope. -/
  | fenceAcq (sc : Scope)
  /-- R304: A release fence at a scope. -/
  | fenceRel (sc : Scope)
  /-- R304: An acq_rel fence at a scope. -/
  | fenceAr (sc : Scope)
  /-- R304: A sequentially consistent fence at a scope. -/
  | fenceSc (sc : Scope)
  /-- R305: Arrives at a barrier of the current group with a quota and waits. -/
  | bar (a d : SReg) (n : Bar4)
  /-- R306: Adds a remote arrival to a barrier of a cluster member's block group. -/
  | barr (a : SReg) (n : Bar4)
  /-- R308: Joins or creates a group with a key and scope. -/
  | gjoin (a d : SReg) (g : GScope)
  /-- R308: Leaves the current group. -/
  | gleave
  /-- R308: Returns membership, key or state of the current group. -/
  | ginfo (d : SReg) (s : GinfoSel)
  /-- R309: Reads a scratchpad word and sleeps until it meets a condition or times out. -/
  | waita (a d : SReg) (c : WaitCond)
  /-- R310: Compares a token-coherent word and sleeps on a die-cache monitor. -/
  | mwait (a d : SReg)
  /-- R311: Returns the hop distance between two virtual dies. -/
  | dist (a d : SReg)
  /-- R312: Appends a launch record to a launch queue and rings its doorbell. -/
  | lnch (a d : SReg)
  /-- R325: Writes MMODE from a scalar after checking the format combination. -/
  | msetm (a : SReg) (fl : FlagN) (la : LaN)
  /-- R321: Queues a load of a codebook slot from the scratchpad. -/
  | mcb (k : BitVec 3) (a : SReg) (fl : FlagN) (la : LaN)
  /-- R322: Queues a plane load from the scratchpad. -/
  | mld (a : SReg) (p : BitVec 2) (fl : FlagN) (la : LaN)
  /-- R323: Queues a load of a plane's weight scale row. -/
  | mldsw (a : SReg) (p : BitVec 2) (fl : FlagN) (la : LaN)
  /-- R323: Queues a load of a plane's activation scale row. -/
  | mldsa (a : SReg) (p : BitVec 2) (fl : FlagN) (la : LaN)
  /-- R324: Queues a plane load converted from half of a tile. -/
  | mldc (c : BitVec 4) (a : SReg) (p : BitVec 2) (fl : FlagN) (la : LaN)
  /-- R327: Queues one streaming pass of activations against a plane into a tile. -/
  | mstc (c : BitVec 4) (a : SReg) (p : BitVec 2) (fl : FlagN) (la : LaN)
  /-- R329: Queues the zeroing of a tile. -/
  | mzero (c : BitVec 4) (fl : FlagN) (la : LaN)
  /-- R331: Queues a store of a tile's FP32 elements. -/
  | mstr (c : BitVec 4) (a : SReg) (fl : FlagN) (la : LaN)
  /-- R331: Queues a scaled and converted tile store. -/
  | mstrs (c : BitVec 4) (a : SReg) (fl : FlagN) (la : LaN)
  /-- R332: Queues a tile store as MX blocks with E8M0 scales. -/
  | mstrx (c : BitVec 4) (a : SReg) (fl : FlagN) (la : LaN)
  /-- R329: Queues a copy of tile bytes to the scratchpad. -/
  | mrdc (c : BitVec 4) (a : SReg) (fl : FlagN) (la : LaN)
  /-- R329: Queues a copy of scratchpad bytes into a tile. -/
  | mwrc (c : BitVec 4) (a : SReg) (fl : FlagN) (la : LaN)
  /-- R333: Queues a task that completes once every task ahead of it has completed. -/
  | msync (fl : FlagN) (la : LaN)
  /-- R276: A divider, special-function or reduction result is written and its flag decremented. -/
  | vlCompletion (w : WaveId) (n : Nat)
  /-- R45: A wave waiting under migration re-executes its instruction on a covering invalidation or after 10 µs. -/
  | migrationWaitRetry (w : WaveId)
  /-- R284: Every active lane has its bytes, the destination is written for all lanes and the flag falls. -/
  | loadCompletion (w : WaveId) (n : Nat)
  /-- R291: Every lane's RMW has returned, the old values are written and the flag falls. -/
  | atomicCompletion (w : WaveId) (n : Nat) (order : List Nat)
  /-- R299: Every write or RMW of an mcst or redst is acknowledged and the flag falls. -/
  | collectiveCompletion (w : WaveId) (n : Nat)
  /-- R145: The copy/bulk engine issues the next burst read once fewer than 64 bursts await handlers. -/
  | engineBurstIssue (c : CoreId) (tag : Nat)
  /-- R142: A returning burst takes a handler slot and is born as a narrow handler wave. -/
  | burstReturn (c : CoreId) (tag b : Nat)
  /-- R147: Once every burst and handler has ended, the status and completion words are written and the flag falls. -/
  | lastBurstEvent (c : CoreId) (tag : Nat)
  /-- R149: A handler wave not ended by the drain limit after pre-emption is killed and counted in NKILL. -/
  | handlerDrainLimit (w : WaveId)
  /-- R72: A near-memory unit takes a queued page piece and processes its sectors. -/
  | nmopPiece (md : Nat)
  /-- R302: All pieces are acknowledged; the result record is written and the flag falls. -/
  | nmopCompletion (c : CoreId) (n : Nat)
  /-- R165: A join, leave, arrival, remote arrival or kill reaches the group's home and counts are updated. -/
  | groupEventArrival (n : Nat)
  /-- R309: A write to the watched word makes a sleeping waita read it again. -/
  | waitaReread (w : WaveId)
  /-- R309: The waita timeout expires and the word is read as a plain read. -/
  | waitaTimeout (w : WaveId)
  /-- R104: Loss of the last token, a new-serial REBUILD or a local write wakes every sleeper on a monitor. -/
  | monitorWake (cd sector : Nat)
  /-- R310: The mwait timeout expires and the wave completes with 1. -/
  | mwaitTimeout (w : WaveId)
  /-- R248: The sleep duration passes and the wave becomes ready. -/
  | sleepExpiry (w : WaveId)
  /-- R318: A free engine unit takes the oldest ready task whose conflicting predecessors have completed. -/
  | tileTaskStart (c : CoreId) (n : Nat)
  /-- R320: A tile task completes, writes its completion word if any and decrements its flag. -/
  | tileTaskCompletion (c : CoreId) (n : Nat)
  /-- R86: A holder receives a read request and answers with tokens and data as its state allows. -/
  | rdreq (n : Nat)
  /-- R86: A holder receives a write request and sends all its tokens. -/
  | wrreq (n : Nat)
  /-- R84: A holder receives tokens and accepts, forwards or destroys them by serial number. -/
  | tok (n : Nat)
  /-- R90: A home receives a trump request and adds it to the waiting set or a round. -/
  | trumpreq (n : Nat)
  /-- R91: A holder receives an activation and sends every token to the trump winner. -/
  | act (n : Nat)
  /-- R91: A holder receives a deactivation and serves requests normally again. -/
  | deact (n : Nat)
  /-- R91: The home learns the winner holds 64 tokens. -/
  | gathered (n : Nat)
  /-- R91: The home receives the winner's release and sends DEACT. -/
  | release (n : Nat)
  /-- R83: The home counts an acknowledgement of ACT, DEACT, CENSUS or REBUILD and acts when the count completes. -/
  | coherenceAck (n : Nat)
  /-- R93: A compute die receives a census, freezes the sector and sends REPORT. -/
  | census (n : Nat)
  /-- R93: The home receives a holder's report of tokens, owner and data validity. -/
  | report (n : Nat)
  /-- R93: The home adds tokens that arrived at a frozen die after its report. -/
  | late (n : Nat)
  /-- R94: A compute die receives a rebuild, destroys old-serial tokens if the serial is new, and unfreezes. -/
  | rebuild (n : Nat)
  /-- R106: A sender receives a wake-pending reply and pauses its timers. -/
  | wakepend (n : Nat)
  /-- R106: A sender receives a hold reply and pauses its timers without limit. -/
  | holdreply (n : Nat)
  /-- R89: An uncompleted request is reissued to all, or raised to a trump request after two reissues. -/
  | reissueTimerExpiry (cd sector : Nat)
  /-- R93: No GATHERED arrived in the census time, so the home starts a census. -/
  | censusTimeExpiry (sector : Nat)
  /-- R94: After the settle time the home sums tokens and decides on a reshuffle. -/
  | settleTimeExpiry (sector : Nat)
  /-- R106: A 20 µs wake pause runs out and is counted as a stall. -/
  | wakeBudgetExpiry (cd sector : Nat)
  /-- R105: A die gives no link-layer response for 64 µs and is declared unreachable. -/
  | linkResponseTimeout (waiter die : Nat)
  /-- R373: A reset die whose firmware is verified and TIME stepped is admitted by a counted broadcast. -/
  | dieAdmission (cd : Nat)
  /-- R85: A token message that waited over 100 µs in one die's buffers is lost and logged. -/
  | messageBufferTimeout (n : Nat)
  /-- R85: A link retries a flit whose CRC failed, dropping it after the retry limit. -/
  | flitCrcFailure (n : Nat)
  /-- R390: A failing lane is replaced by the spare and the link retrains. -/
  | laneSparing (pkg link : Nat)
  /-- R390: A second lane fault tears down a link and routing avoids it. -/
  | linkTeardown (pkg link : Nat)
  /-- R48: A compute die drops matching translations and acknowledges once covered accesses complete. -/
  | translationInvalidation (k cd : Nat)
  /-- R47: The initiator counts a die's acknowledgement and completes the invalidation at full count. -/
  | invalidationAck (k cd : Nat)
  /-- R379: A write of INVRNG starts a translation invalidation from the I/O die. -/
  | driverInvalidation (pkg iod : Nat) (rng : BitVec 64)
  /-- R70: A write-combining entry 2 µs old drains as one masked write. -/
  | wcAgeDrain (c : CoreId) (n : Nat)
  /-- R70: A drain acknowledgement frees the entry and lets waiting bytes and fences proceed. -/
  | wcDrainAck (c : CoreId) (n : Nat)
  /-- R370: A write commits 128 core cycles after becoming final, releasing stores and requests from the core. -/
  | commitWindowClose (w : WaveId)
  /-- R371: A quartz sensor report rolls back every wave of its region to the oldest uncommitted instruction. -/
  | strikeReport (cd region : Nat)
  /-- R162: A ready pending wave takes a free active place and its state is moved in. -/
  | waveSwap (w : WaveId)
  /-- R363: A wave writes its trap frame, enters trap state and starts at TRAPENT. -/
  | trapEntry (w : WaveId)
  /-- R360: The I/O die receives a fault record, writes it to the log ring and acknowledges. -/
  | faultLogAppend (n : Nat)
  /-- R367: A wave is removed, logged with KILL, leaves its groups and frees its slot. -/
  | waveKill (w : WaveId) (cause : Cause)
  /-- R353: A launch starved for PWAIT at a high enough priority triggers the choice of a victim set. -/
  | preemptionRaise (pkg q cd : Nat)
  /-- R172: A victim wave takes the PREEMPT trap at a boundary after its long-latency instructions complete. -/
  | preemptTrap (w : WaveId)
  /-- R172: A pre-empted block is freed without a retirement message once its waves have ended. -/
  | blockFree (b : BlockId)
  /-- R173: A saved block is placed again, its groups, records and matrix state rebuilt, and its waves start at the resume entry. -/
  | blockResumption (b : BlockId) (cd : Nat) (cores : List Nat) (p0 : Nat)
  /-- R169: A block whose waves, requests, stores and drains are done retires and sends a retirement message. -/
  | blockRetirement (b : BlockId)
  /-- R170: The I/O die counts a retired block and, at G, starts the launch-end write-backs. -/
  | retirementMessage (n : Nat)
  /-- R170: After every die's write-back is acknowledged the signal word is released and queue state freed. -/
  | launchEnd (l : Nat)
  /-- R346: A write of QPTR makes ring slots available to the scheduler. -/
  | qptrDoorbell (pkg q : Nat) (tail : BitVec 16)
  /-- R350: The scheduler takes the head record whose dependences are met and starts its launch. -/
  | recordTake (pkg q : Nat)
  /-- R350: The scheduler rereads dependence words at least every 10 µs. -/
  | dependenceReread (pkg q : Nat)
  /-- R349: A queue's effective priority rises by 1 after each millisecond without placement. -/
  | priorityAging (pkg q : Nat)
  /-- R352: A dispatcher with room claims the next block or cluster and places it on a core. -/
  | blockPlacement (l cd : Nat) (cores : List Nat) (p0 : Nat)
  /-- R342: Checks a context descriptor, sends it to every die and marks the context active. -/
  | ctxActivate (pkg ctx : Nat)
  /-- R342: Rechecks and resends the descriptor of an active context with no resident wave. -/
  | ctxUpdate (pkg ctx : Nat)
  /-- R342: Drops the context's TLB entries on every die and marks it inactive. -/
  | ctxRetire (pkg ctx : Nat)
  /-- R344: Checks the named objects, verifies and fills each segment, and records the kernel table in an image slot. -/
  | ldrLoad (pkg : Nat)
  /-- R344: Frees an image slot unless a launch naming it is still live. -/
  | ldrUnload (pkg slot : Nat)
  /-- R78: Starts moving every sector of a source frame to a destination frame. -/
  | migcmdMove (md : Nat) (value : BitVec 64)
  /-- R78: A sector's recall and write are acknowledged; after the last, BUSY clears and DONE rises. -/
  | migrationSectorMoved (md : Nat)
  /-- R75: Writing EN = 1 while 0 clears the counters, candidates and DROP. -/
  | hotctlEnable (md : Nat) (value : BitVec 32)
  /-- R74: At an interval's end the die writes a hot-page record and clears or halves its counters. -/
  | hotnessIntervalEnd (md : Nat)
  /-- R108: Writing PCLR empties the destination-set predictor. -/
  | cohctlPclr (cd : Nat)
  /-- R383: Recalls all sectors of a page to the home, back-invalidates the host and sets host bias. -/
  | biasFlipToHost (md : Nat) (value : BitVec 64)
  /-- R383: Back-invalidates the host's lines of a page, writes returned data home and sets device bias. -/
  | biasFlipToDevice (md : Nat) (value : BitVec 64)
  /-- R381: The home serves a host read of a sector under the page's bias. -/
  | cxlMemrd (pkg link addr : Nat) (req : CxlReq)
  /-- R381: The home performs a host write under all 64 tokens. -/
  | cxlMemwr (pkg link addr : Nat) (data : BitVec 512)
  /-- R383: The home counts a host back-invalidate response, writing any dirty data. -/
  | birsp (n : Nat) (dirty : Option (BitVec 512))
  /-- R377: A host link goes down; outstanding HOST loads return all ones and writes are discarded. -/
  | hostLinkDown (pkg link : Nat)
  /-- R389: A package acts on the first removal notice for another package. -/
  | removalNotice (pkg removed : Nat)
  /-- R388: The I/O-die router copies a multicast flit to its branches and local dies. -/
  | multicastFlit (pkg n : Nat)
  /-- R388: A blocked branch regains credit and its held copy is sent. -/
  | multicastCreditReturn (pkg link : Nat)
  /-- R24: A die completes a delay-request exchange and slews its TIME. -/
  | syncExchange (die : Nat) (reference : BitVec 64) (err : BitVec 16)
  /-- R24: A grandmaster completes an exchange with a neighbour nearer the pod reference. -/
  | podExchange (pkg : Nat) (reference : BitVec 64) (err : BitVec 16)
  /-- R26: No exchange succeeds within 4 intervals and HOLDOVER is set. -/
  | holdoverTimeout (die : Nat)
  /-- R24: IOD1 takes over the grandmaster when IOD0 is lost and sets HOLDOVER everywhere. -/
  | grandmasterFailover (pkg : Nat)
  /-- R25: A package joins a pod and its TIME is stepped. -/
  | podJoin (pkg : Nat) (time : BitVec 64)
  /-- R20: A die changes its core frequency, stalling issue for at most 2 µs. -/
  | coreFrequencyChange (cd mhz : Nat)
  /-- R391: The power manager stops a die's core clock; the uncore keeps running. -/
  | coreClockStop (cd : Nat)
  /-- R20: A die returns its tokens, drops translations and gates its uncore. -/
  | uncoreGate (cd : Nat)
  /-- R391: A gated uncore wakes and its links come up. -/
  | uncoreWake (cd : Nat)
  /-- R392: A die with no context returns tokens, is withdrawn by a counted broadcast and powers down. -/
  | dieOff (cd : Nat)
  /-- R392: A die returns from die-off, is verified, has TIME stepped and is readmitted. -/
  | dieReturn (cd : Nat)
  /-- R391: The host puts the package in D3cold and its state is lost. -/
  | packageD3cold (pkg : Nat)
  /-- R393: A junction reaching 105 °C throttles the core clock toward the floor. -/
  | thermalThrottle (cd mhz : Nat)
  /-- R393: A junction reaching 115 °C stops the core clock and logs THERM. -/
  | thermalStop (cd : Nat)
  /-- R393: All junctions below 100 °C restart the core clock at the floor. -/
  | thermalRestart (cd : Nat)
  /-- R60: The package resets, initialising memory, sidebands and registers. -/
  | packageReset (pkg : Nat)
  /-- R59: A memory-side die scrubs its whole stack once every 24 hours. -/
  | patrolScrub (md : Nat)
  /-- R375: A security detector trips; HIT is set, ALARM logged and the configured action taken. -/
  | alarm (pkg : Nat) (cls : AlarmClass)
  /-- R394: The security controller verifies a firmware image and starts or holds its dies. -/
  | firmwareVerify (pkg : Nat) (target : FwTarget) (image sig : List Byte)
  /-- R393: A signed firmware update over PLDM is accepted and extended into MR4–MR6. -/
  | firmwareUpdate (pkg : Nat) (image sig : List Byte)
  /-- R396: An SPDM request returns signed measurement registers. -/
  | getMeasurements (pkg : Nat) (tdiCtx : Option Nat)
  /-- R397: A signed command moves the lifecycle forward and extends MR7. -/
  | lifecycleTransition (pkg : Nat) (target : Lifecycle) (cmd sig : List Byte)
  /-- R399: A debug-unlock token is checked, keys are wiped, MR7 extended and the port opened. -/
  | debugUnlock (pkg : Nat) (token : List Byte)
  /-- R400: A tenant sets trace and stream keys over an SPDM secure session. -/
  | tenantKeySetup (pkg ctx : Nat) (keys : TenantKeys)
  /-- R404: A debugger stops every wave of one partition on one core cycle. -/
  | debugStopRequest (c : CoreId) (part : Nat)
  /-- R404: A debugger restarts all waves of a stopped partition. -/
  | debugResume (c : CoreId) (part : Nat)
  /-- R404: The debugger writes a register of a stopped wave through the port. -/
  | debugRegisterAccess (w : WaveId) (reg : DbgReg) (value : BitVec 32)
  /-- R339: A die's debug hold is released and its partitions and engines resume. -/
  | debugHoldRelease (cd : Nat)
  /-- R405: Pushes a deferred-lane entry and narrows em to one lane. -/
  | laneFocusEnter (w : WaveId) (lane : Nat)
  /-- R405: Executes the next VB, VU or VX instruction for the focused lane. -/
  | laneFocusStep (w : WaveId)
  /-- R405: Runs the deferred lanes through the stepped instructions and rejoins them. -/
  | laneFocusLeave (w : WaveId)
  /-- R409: A confidential trace page is sealed 1 ms after its first record. -/
  | tracePageSeal (cd ctx : Nat)
  /-- R6: A write to a register with no row of its own updates RW fields, clears W1C bits and discards RW0 bits. -/
  | registerWrite (reg : MmioReg) (value : BitVec 64)
  /-- R41: A table walk returns the entry and extent, fills both TLBs and lets the waiting translation go on. -/
  | tableWalkCompletion (cd n : Nat)
  /-- R229: The data of an sld returns, is written to its scalar and the held wave becomes ready. -/
  | scalarLoadReturn (w : WaveId)
  /-- R123: The acknowledgement of a store performed at the die cache, the home or an owning core's scratchpad returns to the issuing core. -/
  | storeAcknowledgement (w : WaveId) (n : Nat)
  /-- R151: A transfer unit read by a copy or copymc returns and is written, marked or decrypted into its destination. -/
  | transferUnitReturn (c : CoreId) (tag u : Nat)
  /-- R255: A compute die receives a write-back or write-back-invalidate request, returns its sectors to their homes and acknowledges. -/
  | writebackRequest (n : Nat)
  /-- R94: A holder that reported valid data receives the home's request for that data and sends it for the reshuffle. -/
  | reshuffleDataRequest (n : Nat)
  /-- R390: A fabric or UCIe link finishes retraining and carries flits again. -/
  | linkRetrainDone (pkg link : Nat)
  /-- R391: The power manager restarts a stopped core clock and issue resumes. -/
  | coreClockRestart (cd : Nat)
  /-- R377: A host link that was down comes up and carries HOST requests again. -/
  | hostLinkUp (pkg link : Nat)
  deriving DecidableEq, Repr

end Sys2Proof
end

