-- ==== Sys2Proof/Machine/Form.lean ====
section
/-! DEFINITION. What the decode checks of R214 need of each instruction: its operand selectors, pairs,
blocks and triples, its ETYPE class, its privilege and its use in a handler wave. -/

namespace Sys2Proof.Machine

/-- How an instruction reads a vector operand, which decides its inline constants (R207): raw bits, an
element of MODE.ETYPE, or an element of the source type of a `cvt`. -/
inductive SelKind | raw | typed | src (t : EType)
  deriving DecidableEq, Repr
/-- The ETYPE classes of R259; `numeric` is the I or F of R276. -/
inductive Cls | any | int | float | half | narrow | numeric
  deriving DecidableEq, Repr
/-- Privilege (R251, R252): none, major 0x3F, `sysr`/`sysw` of a register number, `eret`. -/
inductive Priv | user | super | sysreg (num : Nat) | eret
  deriving DecidableEq, Repr
/-- The MMODE combinations a tile instruction permits: those of R315, or those of `mldc` (R324). -/
inductive MmUse | none | pass | mldc
  deriving DecidableEq, Repr

/-- The operands of an instruction as R214 checks them. -/
structure Form where
  srcs : List (VSel × SelKind) := []
  dsts : List VSel := []
  /-- First register and number of registers of an MV instruction (R283). -/
  span : Option (VSel × Nat) := none
  pairs : List SReg := []
  blocks : List (SReg × Nat) := []
  /-- Fields that name a mask triple by 3k (R205). -/
  triples : List Nat := []
  /-- The SM field of a compare (R267). -/
  sm : Option (BitVec 5) := none
  fl : Option FlagN := none
  la : Option LaN := none
  cls : Cls := .any
  /-- Source type and part of a `cvt` (R272). -/
  cvt : Option (EType × BitVec 3) := none
  mm : MmUse := .none
  /-- Not permitted in a narrow handler wave (R143). -/
  hill : Bool := false
  priv : Priv := .user
  /-- Waits behind an outstanding acquire (R288). -/
  mem : Bool := false
  deriving DecidableEq, Repr

/-- The system register numbers and whether the register is 64 bits wide (R31, R67, R365, R397, R407, R408). -/
def sysWidth (num : Nat) : Option Bool :=
  if num ∈ [0x010, 0x014, 0x030, 0x032, 0x046, 0x048, 0x04A] then some true
  else if num ∈ [0x012, 0x018, 0x01A, 0x034, 0x035, 0x036, 0x037, 0x040, 0x042, 0x044] then some false
  else none
/-- The registers that `sysr` and `sysw` reach at user privilege (R189). -/
def sysUser (num : Nat) : Bool := num ∈ [0x010, 0x012, 0x014, 0x018, 0x01A]

/-- The form of each instruction word; an event has none. -/
def formOf : Instr → Form
  | .sadd _ _ _ => {}
  | .ssub _ _ _ => {}
  | .sand _ _ _ => {}
  | .sor _ _ _ => {}
  | .sxor _ _ _ => {}
  | .sandn _ _ _ => {}
  | .sshl _ _ _ => {}
  | .sshr _ _ _ => {}
  | .ssar _ _ _ => {}
  | .smul _ _ _ => {}
  | .smulhs _ _ _ => {}
  | .smulhu _ _ _ => {}
  | .smin _ _ _ => {}
  | .smax _ _ _ => {}
  | .sminu _ _ _ => {}
  | .smaxu _ _ _ => {}
  | .sslt _ _ _ => {}
  | .ssltu _ _ _ => {}
  | .sseq _ _ _ => {}
  | .sclz _ _ => {}
  | .spopc _ _ => {}
  | .ssext8 _ _ => {}
  | .ssext16 _ _ => {}
  | .sadd64 d a b => { pairs := [d, a, b] }
  | .ssub64 d a b => { pairs := [d, a, b] }
  | .saddi _ _ _ => {}
  | .sandi _ _ _ => {}
  | .sori _ _ _ => {}
  | .sxori _ _ _ => {}
  | .sld _ a _ => { pairs := [a], mem := true }
  | .slui _ _ => {}
  | .sst _ a _ => { pairs := [a], mem := true }
  | .bz _ _ => {}
  | .bnz _ _ => {}
  | .bltz _ _ => {}
  | .bgez _ _ => {}
  | .bgtz _ _ => {}
  | .blez _ _ => {}
  | .bany c _ => { triples := [c.toNat] }
  | .ball c _ => { triples := [c.toNat] }
  | .bnone c _ => { triples := [c.toNat] }
  | .split c _ => { triples := [c.toNat] }
  | .elseW _ => {}
  | .merge => {}
  | .breakv c _ => { triples := [c.toNat] }
  | .breakvOpen _ => {}
  | .contv c _ => { triples := [c.toNat] }
  | .branch _ => {}
  | .call _ _ => {}
  | .nop => {}
  | .ret _ => {}
  | .exitW => {}
  | .exitv a => { triples := [a.toNat] }
  | .waitW _ => {}
  | .setmode _ _ => {}
  | .setmodeM _ _ _ => {}
  | .getmode _ _ => {}
  | .trapW _ => {}
  | .sleep _ => { hill := true }
  | .mand d a b => { triples := [d.toNat, a.toNat, b.toNat] }
  | .mor d a b => { triples := [d.toNat, a.toNat, b.toNat] }
  | .mxor d a b => { triples := [d.toNat, a.toNat, b.toNat] }
  | .mandn d a b => { triples := [d.toNat, a.toNat, b.toNat] }
  | .mnot d a => { triples := [d.toNat, a.toNat] }
  | .mset d => { triples := [d.toNat] }
  | .mclr d => { triples := [d.toNat] }
  | .mcnt _ a => { triples := [a.toNat] }
  | .mfirst _ a => { triples := [a.toNat] }
  | .mlane d _ => { triples := [d.toNat] }
  | .sysr a num => { priv := .sysreg num.toNat, pairs := if sysWidth num.toNat = some true then [a] else [] }
  | .sysw a num => { priv := .sysreg num.toNat, pairs := if sysWidth num.toNat = some true then [a] else [] }
  | .eret => { priv := .eret }
  | .cacheopInvx a => { priv := .super, pairs := [a], blocks := [(a, 3)] }
  | .cacheopWb a => { priv := .super, pairs := [a], blocks := [(a, 3)] }
  | .cacheopWbinv a => { priv := .super, pairs := [a], blocks := [(a, 3)] }
  | .dbgbrk _ => { priv := .super }
  | .keywipeAll => { priv := .super }
  | .keywipeContext => { priv := .super }
  | .halt => { priv := .super }
  | .iadd d a b => { srcs := [(a, .typed), (b, .typed)], dsts := [d], cls := .int }
  | .isub d a b => { srcs := [(a, .typed), (b, .typed)], dsts := [d], cls := .int }
  | .imul d a b => { srcs := [(a, .typed), (b, .typed)], dsts := [d], cls := .int }
  | .imulh d a b => { srcs := [(a, .typed), (b, .typed)], dsts := [d], cls := .int }
  | .imad d a b => { srcs := [(a, .typed), (b, .typed)], dsts := [d], cls := .int }
  | .imin d a b => { srcs := [(a, .typed), (b, .typed)], dsts := [d], cls := .int }
  | .imax d a b => { srcs := [(a, .typed), (b, .typed)], dsts := [d], cls := .int }
  | .iabsd d a b => { srcs := [(a, .typed), (b, .typed)], dsts := [d], cls := .int }
  | .vand d a b => { srcs := [(a, .raw), (b, .raw)], dsts := [d] }
  | .vor d a b => { srcs := [(a, .raw), (b, .raw)], dsts := [d] }
  | .vxor d a b => { srcs := [(a, .raw), (b, .raw)], dsts := [d] }
  | .vandn d a b => { srcs := [(a, .raw), (b, .raw)], dsts := [d] }
  | .shl d a b => { srcs := [(a, .typed), (b, .typed)], dsts := [d], cls := .int }
  | .shr d a b => { srcs := [(a, .typed), (b, .typed)], dsts := [d], cls := .int }
  | .sar d a b => { srcs := [(a, .typed), (b, .typed)], dsts := [d], cls := .int }
  | .irot d a b => { srcs := [(a, .typed), (b, .typed)], dsts := [d], cls := .int }
  | .idp d a b => { srcs := [(a, .typed), (b, .typed)], dsts := [d], cls := .narrow }
  | .icmp _ _ k a b => { srcs := [(a, .typed), (b, .typed)], sm := some k, cls := .int }
  | .fcmp _ _ k a b => { srcs := [(a, .typed), (b, .typed)], sm := some k, cls := .float }
  | .fadd d a b => { srcs := [(a, .typed), (b, .typed)], dsts := [d], cls := .float }
  | .fsub d a b => { srcs := [(a, .typed), (b, .typed)], dsts := [d], cls := .float }
  | .fmul d a b => { srcs := [(a, .typed), (b, .typed)], dsts := [d], cls := .float }
  | .fmin d a b => { srcs := [(a, .typed), (b, .typed)], dsts := [d], cls := .float }
  | .fmax d a b => { srcs := [(a, .typed), (b, .typed)], dsts := [d], cls := .float }
  | .fminp d a b => { srcs := [(a, .typed), (b, .typed)], dsts := [d], cls := .float }
  | .fmaxp d a b => { srcs := [(a, .typed), (b, .typed)], dsts := [d], cls := .float }
  | .ffma d a b => { srcs := [(a, .typed), (b, .typed)], dsts := [d], cls := .float }
  | .ffms d a b => { srcs := [(a, .typed), (b, .typed)], dsts := [d], cls := .float }
  | .ffnma d a b => { srcs := [(a, .typed), (b, .typed)], dsts := [d], cls := .float }
  | .ffnms d a b => { srcs := [(a, .typed), (b, .typed)], dsts := [d], cls := .float }
  | .fdp2 d a b => { srcs := [(a, .typed), (b, .typed)], dsts := [d], cls := .half }
  | .ineg d a => { srcs := [(a, .typed)], cls := .int, dsts := [d] }
  | .iabs d a => { srcs := [(a, .typed)], cls := .int, dsts := [d] }
  | .vnot d a => { srcs := [(a, .raw)], dsts := [d] }
  | .popc d a => { srcs := [(a, .raw)], dsts := [d] }
  | .clz d a => { srcs := [(a, .raw)], dsts := [d] }
  | .brev d a => { srcs := [(a, .raw)], dsts := [d] }
  | .fneg d a => { srcs := [(a, .typed)], cls := .float, dsts := [d] }
  | .fabs d a => { srcs := [(a, .typed)], cls := .float, dsts := [d] }
  | .ffloor d a => { srcs := [(a, .typed)], cls := .float, dsts := [d] }
  | .fceil d a => { srcs := [(a, .typed)], cls := .float, dsts := [d] }
  | .ftrunc d a => { srcs := [(a, .typed)], cls := .float, dsts := [d] }
  | .frnd d a => { srcs := [(a, .typed)], cls := .float, dsts := [d] }
  | .cvt d p t a => { srcs := [(a, .src t)], cvt := some (t, p), dsts := [d] }
  | .vsplat d _ => { dsts := [d] }
  | .vlaneid d => { dsts := [d] }
  | .vmask d a => { dsts := [d], triples := [a.toNat] }
  | .vperm d a i => { srcs := [(a, .raw), (i, .raw)], dsts := [d] }
  | .vbcst d a i => { srcs := [(a, .raw), (i, .raw)], dsts := [d] }
  | .vshf d a i => { srcs := [(a, .raw), (i, .raw)], dsts := [d] }
  | .vbfly d a i => { srcs := [(a, .raw), (i, .raw)], dsts := [d] }
  | .mov d a => { srcs := [(a, .raw)], dsts := [d] }
  | .sel d a b => { srcs := [(a, .raw), (b, .raw)], dsts := [d] }
  | .vrdl _ a _ => { srcs := [(a, .raw)] }
  | .vwrl d _ _ => { dsts := [d] }
  | .idiv d _ _ fl la => { dsts := [d], cls := .int, fl := some fl, la := some la }
  | .irem d _ _ fl la => { dsts := [d], cls := .int, fl := some fl, la := some la }
  | .fdiv d _ _ fl la => { dsts := [d], cls := .float, fl := some fl, la := some la }
  | .fsqrt d _ fl la => { dsts := [d], cls := .float, fl := some fl, la := some la }
  | .frcp d _ fl la => { dsts := [d], cls := .float, fl := some fl, la := some la }
  | .frsq d _ fl la => { dsts := [d], cls := .float, fl := some fl, la := some la }
  | .fexp2 d _ fl la => { dsts := [d], cls := .float, fl := some fl, la := some la }
  | .flog2 d _ fl la => { dsts := [d], cls := .float, fl := some fl, la := some la }
  | .fsinpi d _ fl la => { dsts := [d], cls := .float, fl := some fl, la := some la }
  | .fcospi d _ fl la => { dsts := [d], cls := .float, fl := some fl, la := some la }
  | .ftanh d _ fl la => { dsts := [d], cls := .float, fl := some fl, la := some la }
  | .rsum d _ fl la => { dsts := [d], cls := .numeric, fl := some fl, la := some la }
  | .rmin d _ fl la => { dsts := [d], cls := .numeric, fl := some fl, la := some la }
  | .rmax d _ fl la => { dsts := [d], cls := .numeric, fl := some fl, la := some la }
  | .rand d _ fl la => { dsts := [d], fl := some fl, la := some la }
  | .ror d _ fl la => { dsts := [d], fl := some fl, la := some la }
  | .rxor d _ fl la => { dsts := [d], fl := some fl, la := some la }
  | .ld8u d _ _ fl la => { span := some (d, 1), mem := true, fl := some fl, la := some la }
  | .ld8s d _ _ fl la => { span := some (d, 1), mem := true, fl := some fl, la := some la }
  | .ld16u d _ _ fl la => { span := some (d, 1), mem := true, fl := some fl, la := some la }
  | .ld16s d _ _ fl la => { span := some (d, 1), mem := true, fl := some fl, la := some la }
  | .ld32 d _ _ fl la => { span := some (d, 1), mem := true, fl := some fl, la := some la }
  | .ld64 d _ _ fl la => { span := some (d, 2), mem := true, fl := some fl, la := some la }
  | .ld128 d _ _ fl la => { span := some (d, 4), mem := true, fl := some fl, la := some la }
  | .ld8uAcq d _ _ fl la => { span := some (d, 1), mem := true, fl := some fl, la := some la }
  | .ld8sAcq d _ _ fl la => { span := some (d, 1), mem := true, fl := some fl, la := some la }
  | .ld16uAcq d _ _ fl la => { span := some (d, 1), mem := true, fl := some fl, la := some la }
  | .ld16sAcq d _ _ fl la => { span := some (d, 1), mem := true, fl := some fl, la := some la }
  | .ld32Acq d _ _ fl la => { span := some (d, 1), mem := true, fl := some fl, la := some la }
  | .ld64Acq d _ _ fl la => { span := some (d, 2), mem := true, fl := some fl, la := some la }
  | .ld128Acq d _ _ fl la => { span := some (d, 4), mem := true, fl := some fl, la := some la }
  | .st8 d _ _ fl la => { span := some (d, 1), mem := true, fl := some fl, la := some la }
  | .st16 d _ _ fl la => { span := some (d, 1), mem := true, fl := some fl, la := some la }
  | .st32 d _ _ fl la => { span := some (d, 1), mem := true, fl := some fl, la := some la }
  | .st64 d _ _ fl la => { span := some (d, 2), mem := true, fl := some fl, la := some la }
  | .st128 d _ _ fl la => { span := some (d, 4), mem := true, fl := some fl, la := some la }
  | .st8Rel d _ _ fl la => { span := some (d, 1), mem := true, fl := some fl, la := some la }
  | .st16Rel d _ _ fl la => { span := some (d, 1), mem := true, fl := some fl, la := some la }
  | .st32Rel d _ _ fl la => { span := some (d, 1), mem := true, fl := some fl, la := some la }
  | .st64Rel d _ _ fl la => { span := some (d, 2), mem := true, fl := some fl, la := some la }
  | .st128Rel d _ _ fl la => { span := some (d, 4), mem := true, fl := some fl, la := some la }
  | .atomAdd d _ _ fl la => { span := some (d, 1), mem := true, fl := some fl, la := some la }
  | .atomAnd d _ _ fl la => { span := some (d, 1), mem := true, fl := some fl, la := some la }
  | .atomOr d _ _ fl la => { span := some (d, 1), mem := true, fl := some fl, la := some la }
  | .atomXor d _ _ fl la => { span := some (d, 1), mem := true, fl := some fl, la := some la }
  | .atomMin d _ _ fl la => { span := some (d, 1), mem := true, fl := some fl, la := some la }
  | .atomMax d _ _ fl la => { span := some (d, 1), mem := true, fl := some fl, la := some la }
  | .atomMinu d _ _ fl la => { span := some (d, 1), mem := true, fl := some fl, la := some la }
  | .atomMaxu d _ _ fl la => { span := some (d, 1), mem := true, fl := some fl, la := some la }
  | .atomSwap d _ _ fl la => { span := some (d, 1), mem := true, fl := some fl, la := some la }
  | .atomCas d _ _ fl la => { span := some (d, 2), mem := true, fl := some fl, la := some la }
  | .atomFadd d _ _ fl la => { span := some (d, 1), mem := true, fl := some fl, la := some la }
  | .atomAdd64 d _ _ fl la => { span := some (d, 2), mem := true, fl := some fl, la := some la }
  | .atomSwap64 d _ _ fl la => { span := some (d, 2), mem := true, fl := some fl, la := some la }
  | .atomCas64 d _ _ fl la => { span := some (d, 4), mem := true, fl := some fl, la := some la }
  | .atomInc d _ _ fl la => { span := some (d, 1), mem := true, fl := some fl, la := some la }
  | .atomArAdd _ d _ _ fl la => { span := some (d, 1), mem := true, fl := some fl, la := some la }
  | .atomArSwap _ d _ _ fl la => { span := some (d, 1), mem := true, fl := some fl, la := some la }
  | .atomArCas _ d _ _ fl la => { span := some (d, 2), mem := true, fl := some fl, la := some la }
  | .atomArCas64 _ d _ _ fl la => { span := some (d, 4), mem := true, fl := some fl, la := some la }
  | .mcst a fl la => { blocks := [(a, 4)], mem := true, fl := some fl, la := some la }
  | .redst a _ fl la => { blocks := [(a, 4)], mem := true, fl := some fl, la := some la }
  | .bulkrd a _ fl la => { blocks := [(a, 8)], mem := true, hill := true, fl := some fl, la := some la }
  | .copy a _ fl la => { blocks := [(a, 8)], mem := true, hill := true, fl := some fl, la := some la }
  | .copymc a _ fl la => { blocks := [(a, 8)], mem := true, hill := true, fl := some fl, la := some la }
  | .nmopFill a fl la => { blocks := [(a, 6)], mem := true, hill := true, fl := some fl, la := some la }
  | .nmopCopy a fl la => { blocks := [(a, 6)], mem := true, hill := true, fl := some fl, la := some la }
  | .nmopCmp a fl la => { blocks := [(a, 6)], mem := true, hill := true, fl := some fl, la := some la }
  | .nmopRed a _ fl la => { blocks := [(a, 6)], mem := true, hill := true, fl := some fl, la := some la }
  | .xlat a _ => { mem := true, pairs := [a] }
  | .layreg _ _ => { mem := true, hill := true }
  | .layrel _ => { mem := true, hill := true }
  | .publ a b => { mem := true, pairs := [a, b], hill := true }
  | .fenceAcq _ => { mem := true }
  | .fenceRel _ => { mem := true }
  | .fenceAr _ => { mem := true }
  | .fenceSc _ => { mem := true }
  | .bar _ _ _ => { mem := true, hill := true }
  | .barr _ _ => { mem := true, hill := true }
  | .gjoin _ _ _ => { mem := true, hill := true }
  | .gleave => { mem := true, hill := true }
  | .ginfo _ _ => { mem := true }
  | .waita a _ _ => { blocks := [(a, 3)], mem := true, hill := true }
  | .mwait a _ => { blocks := [(a, 4)], pairs := [a], mem := true, hill := true }
  | .dist _ _ => { mem := true }
  | .lnch a _ => { blocks := [(a, 2)], mem := true, hill := true }
  | .msetm a fl la => { blocks := [(a, 1)], mem := true, hill := true, fl := some fl, la := some la }
  | .mcb _ a fl la => { blocks := [(a, 1)], mem := true, hill := true, fl := some fl, la := some la }
  | .mld a _ fl la => { blocks := [(a, 2)], mem := true, hill := true, mm := .pass, fl := some fl, la := some la }
  | .mldsw a _ fl la => { blocks := [(a, 1)], mem := true, hill := true, fl := some fl, la := some la }
  | .mldsa a _ fl la => { blocks := [(a, 1)], mem := true, hill := true, fl := some fl, la := some la }
  | .mldc _ a _ fl la => { blocks := [(a, 1)], mem := true, hill := true, mm := .mldc, fl := some fl, la := some la }
  | .mstc _ a _ fl la => { blocks := [(a, 3)], mem := true, hill := true, mm := .pass, fl := some fl, la := some la }
  | .mzero _ fl la => { mem := true, hill := true, fl := some fl, la := some la }
  | .mstr _ a fl la => { blocks := [(a, 7)], mem := true, hill := true, fl := some fl, la := some la }
  | .mstrs _ a fl la => { blocks := [(a, 7)], mem := true, hill := true, fl := some fl, la := some la }
  | .mstrx _ a fl la => { blocks := [(a, 7)], mem := true, hill := true, fl := some fl, la := some la }
  | .mrdc _ a fl la => { blocks := [(a, 5)], mem := true, hill := true, fl := some fl, la := some la }
  | .mwrc _ a fl la => { blocks := [(a, 3)], mem := true, hill := true, fl := some fl, la := some la }
  | .msync fl la => { mem := true, hill := true, fl := some fl, la := some la }
  | .vlCompletion _ _ => {}
  | .migrationWaitRetry _ => {}
  | .loadCompletion _ _ => {}
  | .atomicCompletion _ _ _ => {}
  | .collectiveCompletion _ _ => {}
  | .engineBurstIssue _ _ => {}
  | .burstReturn _ _ _ => {}
  | .lastBurstEvent _ _ => {}
  | .handlerDrainLimit _ => {}
  | .nmopPiece _ => {}
  | .nmopCompletion _ _ => {}
  | .groupEventArrival _ => {}
  | .waitaReread _ => {}
  | .waitaTimeout _ => {}
  | .monitorWake _ _ => {}
  | .mwaitTimeout _ => {}
  | .sleepExpiry _ => {}
  | .tileTaskStart _ _ => {}
  | .tileTaskCompletion _ _ => {}
  | .rdreq _ => {}
  | .wrreq _ => {}
  | .tok _ => {}
  | .trumpreq _ => {}
  | .act _ => {}
  | .deact _ => {}
  | .gathered _ => {}
  | .release _ => {}
  | .coherenceAck _ => {}
  | .census _ => {}
  | .report _ => {}
  | .late _ => {}
  | .rebuild _ => {}
  | .wakepend _ => {}
  | .holdreply _ => {}
  | .reissueTimerExpiry _ _ => {}
  | .censusTimeExpiry _ => {}
  | .settleTimeExpiry _ => {}
  | .wakeBudgetExpiry _ _ => {}
  | .linkResponseTimeout _ _ => {}
  | .dieAdmission _ => {}
  | .messageBufferTimeout _ => {}
  | .flitCrcFailure _ => {}
  | .laneSparing _ _ => {}
  | .linkTeardown _ _ => {}
  | .translationInvalidation _ _ => {}
  | .invalidationAck _ _ => {}
  | .driverInvalidation _ _ _ => {}
  | .wcAgeDrain _ _ => {}
  | .wcDrainAck _ _ => {}
  | .commitWindowClose _ => {}
  | .strikeReport _ _ => {}
  | .waveSwap _ => {}
  | .trapEntry _ => {}
  | .faultLogAppend _ => {}
  | .waveKill _ _ => {}
  | .preemptionRaise _ _ _ => {}
  | .preemptTrap _ => {}
  | .blockFree _ => {}
  | .blockResumption _ _ _ _ => {}
  | .blockRetirement _ => {}
  | .retirementMessage _ => {}
  | .launchEnd _ => {}
  | .qptrDoorbell _ _ _ => {}
  | .recordTake _ _ => {}
  | .dependenceReread _ _ => {}
  | .priorityAging _ _ => {}
  | .blockPlacement _ _ _ _ => {}
  | .ctxActivate _ _ => {}
  | .ctxUpdate _ _ => {}
  | .ctxRetire _ _ => {}
  | .ldrLoad _ => {}
  | .ldrUnload _ _ => {}
  | .migcmdMove _ _ => {}
  | .migrationSectorMoved _ => {}
  | .hotctlEnable _ _ => {}
  | .hotnessIntervalEnd _ => {}
  | .cohctlPclr _ => {}
  | .biasFlipToHost _ _ => {}
  | .biasFlipToDevice _ _ => {}
  | .cxlMemrd _ _ _ _ => {}
  | .cxlMemwr _ _ _ _ => {}
  | .birsp _ _ => {}
  | .hostLinkDown _ _ => {}
  | .removalNotice _ _ => {}
  | .multicastFlit _ _ => {}
  | .multicastCreditReturn _ _ => {}
  | .syncExchange _ _ _ => {}
  | .podExchange _ _ _ => {}
  | .holdoverTimeout _ => {}
  | .grandmasterFailover _ => {}
  | .podJoin _ _ => {}
  | .coreFrequencyChange _ _ => {}
  | .coreClockStop _ => {}
  | .uncoreGate _ => {}
  | .uncoreWake _ => {}
  | .dieOff _ => {}
  | .dieReturn _ => {}
  | .packageD3cold _ => {}
  | .thermalThrottle _ _ => {}
  | .thermalStop _ => {}
  | .thermalRestart _ => {}
  | .packageReset _ => {}
  | .patrolScrub _ => {}
  | .alarm _ _ => {}
  | .firmwareVerify _ _ _ _ => {}
  | .firmwareUpdate _ _ _ => {}
  | .getMeasurements _ _ => {}
  | .lifecycleTransition _ _ _ _ => {}
  | .debugUnlock _ _ => {}
  | .tenantKeySetup _ _ _ => {}
  | .debugStopRequest _ _ => {}
  | .debugResume _ _ => {}
  | .debugRegisterAccess _ _ _ => {}
  | .debugHoldRelease _ => {}
  | .laneFocusEnter _ _ => {}
  | .laneFocusStep _ => {}
  | .laneFocusLeave _ => {}
  | .tracePageSeal _ _ => {}
  | .registerWrite _ _ => {}
  | .tableWalkCompletion _ _ => {}
  | .scalarLoadReturn _ => {}
  | .storeAcknowledgement _ _ => {}
  | .transferUnitReturn _ _ _ => {}
  | .writebackRequest _ => {}
  | .reshuffleDataRequest _ => {}
  | .linkRetrainDone _ _ => {}
  | .coreClockRestart _ => {}
  | .hostLinkUp _ _ => {}

end Sys2Proof.Machine
end

