-- ==== Sys2Proof/Config.lean ====
section
/-! DEFINITION. What an implementation fixes and the spec leaves open: the part (R1), the numbers of
the package's arrays that rules count with, the free values, and the external algorithms the spec
names without giving them (XMSS, SHAKE256, AES-GCM). An opaque constant has no body: no proof can
use a value of it. -/

namespace Sys2Proof.Config

/-- The physical compute dies fused off (R1, R15): none, the ZH-8808. DESIGN CHOICE, log entry 2. -/
def fused : List Nat := []
/-- Enabled cores of a compute die: 88 of the 96 numbers (R370). DESIGN CHOICE which, log entry 2. -/
def coreEnabled (core : Nat) : Bool := core < 88
/-- The lifecycle fuses at reset (R397). DESIGN CHOICE, log entry 2. -/
def lifecycle : Lifecycle := .prod
/-- The device identifier fuses (R397). DESIGN CHOICE, log entry 2. -/
def devid : BitVec 64 := 0

/-- The package at the far end of a package's fabric link: how a pod is wired (R385, R386). None, as the machine comes out of reset
as one package. DESIGN CHOICE, log entry 2. -/
def cable (_pkg _link : Nat) : Option Nat := none

/-- A free 64-bit value, fresh for each number (log entry 3). -/
opaque freeWord : Nat → BitVec 64
/-- A free choice, fresh for each number (log entry 3). -/
opaque freeBool : Nat → Bool
/-- The free choice among the machine's own events at a turn (log entry 1). -/
opaque turn : Nat → Nat
/-- Which neighbour a special function returns: the same for the same function, type and input bits
(R279): true is the upper one (log entry 4). -/
opaque sfuUpper : (fn : Nat) → (etype : Nat) → (bits : Word) → Bool

/-- SHAKE256 with an output of n bytes (R220, R395; log entry 5). -/
opaque shake256 : (msg : List Byte) → (n : Nat) → List Byte
/-- XMSS-SHAKE_20_256 verification of RFC 8391 under the key whose digest is given (R222, R394; log entry 5). -/
opaque xmssVerify : (keyDigest : List Byte) → (msg sig : List Byte) → Bool
/-- The device identity key's XMSS signature with a leaf index (R396; log entry 5). -/
opaque xmssSign : (leaf : Nat) → (msg : List Byte) → List Byte
/-- AES-GCM-256 sealing: ciphertext and 16-byte tag (R401, R409; log entry 5). -/
opaque gcmSeal : (key : BitVec 256) → (iv : BitVec 96) → (aad plain : List Byte) → List Byte × List Byte
/-- AES-GCM-256 opening: the plaintext if the tag verifies (R401; log entry 5). -/
opaque gcmOpen : (key : BitVec 256) → (iv : BitVec 96) → (aad cipher tag : List Byte) → Option (List Byte)
/-- The sideband's ECC code over 512 data bits and sideband bits [31:0], whose matrix the spec does not give (R60; log entry 5). -/
opaque ecc : (data : BitVec 512) → (low : Word) → Word
/-- The nonce of the debug unlock that the security controller draws at reset (R398; log entry 3). -/
opaque nonce : BitVec 64
/-- Whether the firmware accepts a signing key for a context (R394; log entry 5). -/
opaque keyAccepted : (ctx : Nat) → (keyDigest : List Byte) → Bool
/-- The fused digests of the vendor firmware and debug keys (R394; log entry 5). -/
opaque fwKey : List Byte
opaque dbgKey : List Byte

end Sys2Proof.Config
end

