-- ==== Sys2Proof/Machine/State.lean ====
section
/-! DEFINITION. The state of the machine as plain data: the pod's packages, their dies, memories,
cores, waves, blocks, launches, contexts and messages in flight, and the state after reset. -/

namespace Sys2Proof.Machine

/-! ## Memory and translation -/

/-- Bytes by address, addresses strictly rising, no entry equal to the 0 that an unlisted address
reads as (R60 for DEV memory; log entry 6 for the others). -/
abbrev Memory := List Host.Cell

/-- KIND of an object (R34). -/
inductive Kind | dev | pod | host
  deriving DecidableEq, Repr
/-- COH of an object (R34). -/
inductive Coh | pkg | pod | none
  deriving DecidableEq, Repr

/-- A translation register, the 256-bit image of R38. -/
structure TxReg where
  v : Bool := false
  cl : Bool := false
  id : BitVec 24 := 0
  base : BitVec 40 := 0
  lo : BitVec 40 := 0
  hi : BitVec 41 := 0
  frame : BitVec 40 := 0
  perm : BitVec 3 := 0
  kind : Kind := .dev
  coh : Coh := .pkg
  deriving DecidableEq, Repr

/-- A page's attributes as a TLB entry holds them, tagged by context (R41). -/
structure TlbEntry where
  ctx : Nat
  id : BitVec 24
  page : Nat
  frame : BitVec 40
  len : Nat
  perm : BitVec 3
  sh : Bool
  kind : Kind
  coh : Coh
  deriving DecidableEq, Repr

/-- What a walk finds of a page (R42): no valid entry, or the entry with a hole, a moving page or a frame. -/
inductive PageOut | hole | moving | frame (f : BitVec 40)
  deriving DecidableEq, Repr
/-- The result of a table walk for one page, with the object offsets of its run (R34 to R37, R39, R41). -/
inductive WalkOut
  | absent
  | found (len : Nat) (perm : BitVec 3) (sh : Bool) (kind : Kind) (coh : Coh) (page : PageOut)
      (runLo runHi : Nat)
  deriving DecidableEq, Repr
/-- A walk result kept for the instruction that waits for it. -/
structure WalkRes where
  id : BitVec 24
  page : Nat
  out : WalkOut
  deriving DecidableEq, Repr
/-- A table walk in progress at a compute die (R41): what it has read so far. -/
structure Walk where
  ctx : Nat
  id : BitVec 24
  page : Nat
  /-- The table entry, once it is read (R34). -/
  entry : Option Nat := none
  /-- The extent entries read, and the first page behind their runs (R36). -/
  pos : Nat := 0
  lo : Nat := 0
  deriving DecidableEq, Repr

/-- The storage an access reaches: a core's scratchpad, DEV or POD memory of the pod, host memory. -/
inductive Space | scr (c : CoreId) | dev | host (pkg : Nat)
  deriving DecidableEq, Repr
/-- A translated place: the byte address in its space, and the attributes that decide how it is
accessed (R56, R63, R66). DEV addresses are global: package·2^44 + physical address. -/
structure Target where
  space : Space
  addr : Nat
  kind : Kind
  coh : Coh
  deriving DecidableEq, Repr

/-! ## The wave -/

/-- The kinds of path-stack entries (R187). -/
inductive PKind | els | merge | brk | cont
  deriving DecidableEq, Repr
/-- A path-stack entry (R187). -/
structure PathEntry where
  kind : PKind
  mask : Mask
  rpc : Word
  pc : Word
  deriving DecidableEq, Repr

/-- The registers of a wave: what a commit window or a rollback covers (R175, R370). -/
structure WaveArch where
  /-- v0 to v191; selectors at or above V trap (R176). -/
  v : Vector Lanes 192
  /-- The operand file w0 to w7 (R177). -/
  w : Vector Lanes 8
  /-- The last-result file (R178). -/
  l0 : Lanes
  l1 : Lanes
  /-- Shifts of the last-result file so far: which of them a completion still reaches (R178). -/
  shifts : Nat
  /-- s0 to s56 (R179). -/
  s : Vector Word 57
  /-- s57 to s59, cross-lane validity (R180). -/
  xv : Mask
  /-- s60 to s62, the execution mask (R180). -/
  em : Mask
  /-- The exited set (R234). -/
  xl : Mask
  mode : Word
  mmode : Word
  stat : Word
  seed : Word
  /-- f0 to f11 (R186). -/
  flags : Vector (BitVec 4) 12
  /-- tx0 to tx6 (R38). -/
  tx : Vector TxReg 7
  /-- The hardware entries of the path stack, top first, at most 16 (R187). -/
  stack : List PathEntry
  /-- All entries of the path stack, the spilled ones included (R187). -/
  depth : Nat
  /-- Byte offset within the code object (R203). -/
  pc : Word
  /-- The wave is in trap state (R251). -/
  trap : Bool
  /-- TFADDR, TSADDR, TSCR0 to TSCR3 (R365). -/
  tfaddr : BitVec 64
  tsaddr : BitVec 64
  tscr : Vector Word 4
  deriving DecidableEq, Repr

/-- The order of a memory event (R111). -/
inductive Order | plain | relaxed | acq | rel | acqrel | sc
  deriving DecidableEq, Repr

/-- The functions of `atom` and `atom.ar` (R290). -/
inductive AtomFn
  | add | and | or | xor | min | max | minu | maxu | swap | cas | fadd | add64 | swap64 | cas64 | inc
  deriving DecidableEq, Repr

/-- One lane's access, or a piece of it (R66): its place, its object address, and its data (R284, R286, R291). For a read still
to be made `cmp` is the offset of the piece in the lane's value; of one that has been made `val` is the value. -/
structure LaneAcc where
  lane : Nat
  tgt : Target
  oaddr : BitVec 64
  sz : Nat
  val : Nat
  cmp : Nat
  deriving DecidableEq, Repr

/-- What an outstanding operation is (R209). A `frame` operation carries stores of the wave's own
hardware: a trap frame (R363) or a path-stack spill (R187). -/
inductive OpKind
  | load (signed : Bool) | store | atom (f : AtomFn) | vl | coll (red : Option RedOp)
  | engine (tag : Nat) | nmop | tile | frame
  deriving DecidableEq, Repr

/-- An outstanding operation of a wave, from acceptance to completion (R210). -/
structure Op where
  /-- The core-wide issue number: it orders the operations of a core (R123). -/
  id : Nat
  /-- The number of its instruction in the wave. -/
  seq : Nat
  kind : OpKind
  pc : Word
  flag : Option Nat
  /-- Instructions that may still issue before it completes; none with LA = 15 (R211). -/
  la : Option Nat
  /-- Accesses still to perform, and those that have been performed one by one (R66, R110). -/
  acc : List LaneAcc
  done : List LaneAcc
  /-- The value that a HOST access has read under the lock of its line, of the first access still to perform (R65). -/
  lock : Option Nat
  /-- First destination selector and number of registers. -/
  dst : VSel
  nreg : Nat
  mask : Mask
  order : Order
  scope : Scope
  /-- Its instruction has committed and the operation has left the core (R370). -/
  left : Bool
  /-- MODE.RLT at issue (R181). -/
  rlt : Bool
  /-- The result of a long-latency vector instruction and the STAT bits it will set (R276). -/
  res : Lanes
  stat : Word
  /-- The number of last-result shifts up to and including its own (R178). -/
  shift : Nat
  /-- Destination registers and lanes that later instructions have written since (R212). -/
  clash : List (Nat × Mask)
  /-- The sectors that a sampled instruction touches, and the replays before its final execution (R407). -/
  sampled : Option Nat
  replays : Nat
  /-- The unit of the partition that runs a long-latency vector instruction: 0 divider, 1 special functions, 2 reductions (R281). -/
  unit : Nat := 0
  /-- The packages that the multicast flit of an `mcst` or `redst` has reached; none before it is sent (R299, R388). -/
  carried : Option (List Nat) := none
  /-- For a load some lanes of which have landed before the rest: the wave's last instruction then (R124, R212). -/
  landed : Option Nat := none
  /-- Accesses whose data fails its check as it leaves on a host link: they leave poisoned (R61, R62). -/
  bad : List LaneAcc := []
  deriving DecidableEq, Repr

/-- A fault record (R359). -/
structure FaultRec where
  pkg : Nat
  time : BitVec 64
  cause : Cause
  double : Bool
  kill : Bool
  park : Bool
  conf : Bool
  ctx : Nat
  vdie : Nat
  core : Nat
  part : Nat
  slot : Nat
  pc : Word
  code : Word
  oaddr : BitVec 64
  plm : Mask
  blk : Word
  /-- The wave whose trap handler waits for the log's acknowledgement (R360). -/
  waiter : Option WaveId
  deriving DecidableEq, Repr

/-- A group: a block's own, or a joined one of core or cluster scope (R163). -/
inductive GroupRef
  | block (b : BlockId)
  | core (ctx : Nat) (c : CoreId) (key : Word)
  | cluster (ctx launch cl : Nat) (key : Word)
  deriving DecidableEq, Repr

/-- Why the instruction at a PC cannot issue yet (R162): a long-latency completion, a cause that takes the wave out of the
active set whatever the others do, or another. -/
inductive StallKind | long | leave | other
  deriving DecidableEq, Repr
/-- Why a wave does not issue (R162). -/
inductive Hold
  | ready
  /-- The instruction at the PC could not issue; tried again after the next event (R161, R211). -/
  | stall (k : StallKind)
  | walk (pages : List (BitVec 24 × Nat))
  | migration (id : BitVec 24)
  | sld (d : SReg) (acc : LaneAcc)
  | bar (g : GroupRef) (n : Bar4) (d : SReg) (arrived : Bool)
  | barr
  | join (d : SReg)
  | leave
  | inval (ks : List Nat)
  | writeback (k : Nat)
  /-- Held until the die's TIME is `till` (R248). -/
  | sleep (till : Nat)
  /-- Asleep on a word, with the end of its timeout if it has one (R309). -/
  | waita (d : SReg) (acc : LaneAcc) (x : Word) (c : WaitCond) (till : Option Nat)
  /-- Asleep on a sector's monitor (R103, R310). -/
  | mwait (d : SReg) (sector : Nat) (till : Option Nat)
  /-- In a resumed block a record of which waits for a moving page: nothing of the block issues yet (R135). -/
  | regWait
  | trapPending (r : FaultRec) (frame : Word)
  | logWait
  /-- In the PREEMPT trap, until every block of the victim set has been saved up to its software part (R172). -/
  | saveWait
  | ended
  deriving DecidableEq, Repr

/-- The registers before an uncommitted instruction (R370, R371). -/
structure Snapshot where
  seq : Nat
  a : WaveArch
  deriving DecidableEq, Repr

/-- What a trap entry or an `eret` that has not committed replaced beside the registers (R371). -/
structure Undo where
  seq : Nat
  groups : List GroupRef
  rlost : List (Word × BitVec 64)
  lostHeld : List (Word × BitVec 64)
  deriving DecidableEq, Repr

/-- What a handler wave was born with (R142). -/
structure HandlerInfo where
  tag : Nat
  burst : Nat
  birth : WaveArch
  group : GroupRef
  joined : Nat
  /-- The number of that group: one created later under its key is another (R308). -/
  born : Nat
  deriving DecidableEq, Repr

/-- The debugger's lane focus on a wave (R405): its lane, the steps taken, the stop PC and the deferred lanes, and, once it
is being left, the instructions that the deferred lanes still have to run. -/
structure Focus where
  lane : Nat
  n : Nat
  pc : Word
  mask : Mask
  rest : Option Nat
  deriving DecidableEq, Repr

/-- A wave in its slot. -/
structure Wave where
  id : WaveId
  /-- The slot holds a wave. -/
  live : Bool
  a : WaveArch
  handler : Option HandlerInfo
  blk : BlockId
  /-- Its index in the block (R156). -/
  k : Nat
  ctx : Nat
  /-- V (R155). -/
  vlimit : Nat
  /-- The code object (R203). -/
  code : BitVec 24
  /-- The base level is privileged (R251). -/
  priv : Bool
  hold : Hold
  /-- Member of the active set, and since when (R161). -/
  active : Bool
  since : Nat
  /-- Times passed over in succession while ready (R354). -/
  passed : Nat
  /-- Since when the wave has been ready in the pending set (R162). -/
  readyAt : Option Nat
  ops : List Op
  window : List Snapshot
  /-- The number of its next instruction. -/
  seq : Nat
  /-- Walk results for the instruction at the PC. -/
  xres : List WalkRes
  /-- Joined groups in join order (R163). -/
  groups : List GroupRef
  /-- An RLOST to be trapped at the next boundary: PC and address (R213). -/
  rlost : List (Word × BitVec 64)
  /-- One that was raised before the trap was entered whose handler runs: taken after its `eret` (R213, R361). -/
  lostHeld : List (Word × BitVec 64)
  undo : List Undo
  /-- A PREEMPT is pending (R172). -/
  preempt : Bool
  /-- Times the instruction at the PC has parked or waited under migration (R407). -/
  replays : Nat
  focus : Option Focus
  /-- Where a release of the wave began to wait, or it ended: what the core held then is waited for (R70, R123, R250). -/
  mark : Option Nat
  /-- The numbers of its uncommitted MV instructions, which the partition's sample count counts (R371, R407). -/
  counted : List Nat := []
  /-- Sampled operations that are complete and whose instructions have not committed: their records are written then (R371, R407). -/
  samples : List Op := []
  deriving DecidableEq, Repr

/-! ## The core -/

/-- A write-combining entry: a destination space, a 128-byte line, data and byte mask (R69); its number, by which a drain
request knows the entries present (R70): the lowest operation number of a store that it holds bytes of. -/
structure WcEntry where
  space : Space
  line : Nat
  data : BitVec 1024
  mask : BitVec 128
  draining : Bool
  n : Nat
  /-- Halves whose check value has failed in the buffer: poisoned (R62). -/
  pois : BitVec 2 := 0
  deriving DecidableEq, Repr
/-- The bytes of a committed store for one line on their way into an entry (R69): the store's operation number, and whether
a drain request that names it has been made (R70). -/
structure WcWait where
  space : Space
  line : Nat
  data : BitVec 1024
  mask : BitVec 128
  n : Nat
  due : Bool
  deriving DecidableEq, Repr

/-- A layout record with the frames and permissions recorded at `layreg` (R51, R133). -/
structure LayRec where
  image : BitVec 256
  addr : BitVec 64
  dimx : Nat
  dimy : Nat
  pitch : Nat
  esz : Nat
  rd : Bool
  wr : Bool
  sh : Bool
  kind : Kind
  coh : Coh
  /-- Frame of each reached page (R51). -/
  frames : List (Nat × BitVec 40)
  deriving DecidableEq, Repr

inductive EngKind | bulkrd | copy | copymc
  deriving DecidableEq, Repr

/-- A byte as an engine reads it: its value, and whether it is poisoned or lost (R61, R137, R402). -/
structure EByte where
  val : Byte
  pois : Bool
  lost : Bool
  deriving DecidableEq, Repr
/-- An engine request in flight (R138 to R152). -/
structure EngReq where
  tag : Nat
  kind : EngKind
  issuer : WaveId
  op : Nat
  blk : BlockId
  ctx : Nat
  lay : LayRec
  handle : Nat
  dir : Bool
  gather : Bool
  entry : Word
  arg : Word
  x0 : Int
  y0 : Int
  width : Nat
  height : Nat
  spitch : Nat
  data : Nat
  recOff : Nat
  value : Word
  list : Nat
  /-- Scratchpads written or read: core and allocation base of the issuing block, or of each member. -/
  dests : List (CoreId × Nat)
  mode : Word
  group : GroupRef
  joined : Nat
  born : Nat
  /-- Writes of the completion sequence made so far (R147). -/
  wrote : Nat := 0
  /-- The next burst or transfer unit, and the tensor row of the region row it lies in. -/
  nextB : Nat
  row : Int
  /-- Bursts or transfer units being fetched, with their rows. -/
  flying : List (Nat × Int)
  /-- Bytes of an outbound stream's pages, by offset in the object, with their marks (R61, R401). -/
  staged : List (Nat × EByte)
  /-- The stream that bound the object as the request issued, and the set of keys it belongs to (R401). -/
  bound : Option (Nat × Nat) := none
  /-- Bytes of bursts or units that have been read: burst or unit, index in it, byte (R66). -/
  got : List (Nat × Nat × EByte) := []
  /-- Bytes of units that have been written: unit, destination, index in it (R66). -/
  put : List (Nat × Nat × Nat) := []
  npois : Nat
  nlost : Nat
  nkill : Nat
  deriving DecidableEq, Repr

/-- A burst in a core's burst buffer: its data and status, and the die's TIME as it arrived (R142, R145). -/
structure Burst where
  tag : Nat
  b : Nat
  row : Int
  data : List Byte
  status : Nat
  time : BitVec 64
  deriving DecidableEq, Repr

/-- A tile task in the tile queue (R317, R318). -/
structure TileTask where
  wave : WaveId
  blk : BlockId
  k : Nat
  op : Nat
  fn : BitVec 5
  ct : BitVec 4
  pl : BitVec 2
  flag : Nat
  mmode : Word
  scal : List Word
  base : Nat
  /-- Frame of each destination page with its page number, for an object destination (R330). -/
  dest : List (Nat × Target)
  pc : Word
  started : Bool
  /-- Row groups of an `mstc` done (R336). -/
  progress : Nat
  /-- Placed from a save image; it starts after every wave's `eret` (R338). -/
  saved : Bool
  /-- The engine whose unit runs it (R313). -/
  engine : Nat := 0
  /-- 64-byte units of the scratchpad that it has read ahead of what it does with them: bytes and poisoned words (R66, R131, R320). -/
  got : List (Nat × List Byte × List Nat) := []
  /-- Pieces of a store that it has written ahead of the others, by number (R66, R320). -/
  put : List Nat := []
  /-- Results of walks made for it, as it is checked again before it starts (R41, R338). -/
  xres : List WalkRes := []
  deriving DecidableEq, Repr

/-- A near-memory operation in flight (R300 to R302). -/
structure NmReq where
  op : Nat
  wave : WaveId
  blk : BlockId
  fn : Nat
  red : RedOp
  pattern : BitVec 64
  recAddr : Nat
  /-- Pieces not yet processed. -/
  left : Nat
  result : Word
  npois : Nat
  /-- The objects it reaches (R48, R301). -/
  objs : List (BitVec 24)
  deriving DecidableEq, Repr

/-- A plane's record, data and scale rows (R314). -/
structure Plane where
  pois : Bool := false
  v : Bool := false
  cplx : Bool := false
  wfmt : BitVec 4 := 0
  /-- Rows 0 to 31, 128 bytes each. -/
  rows : Vector (BitVec 1024) 32 := Vector.replicate 32 0
  ws : BitVec 512 := 0
  as : BitVec 512 := 0
  deriving DecidableEq, Repr

/-- A core: scratchpad, matrix state, write-combining buffer, L1 TLB, queues (R54, R188). -/
structure Core where
  id : CoreId
  scr : Memory := []
  /-- Poisoned 64-bit scratchpad words (R58). -/
  scrPoison : List Nat := []
  /-- Tiles c0 to c15: byte 0x4000·j + 256·m + 4·n (R188). -/
  acc : Memory := []
  accPoison : BitVec 16 := 0
  planes : Vector Plane 4 := Vector.replicate 4 {}
  /-- Codebook slots k0 to k7, entry e at bits 16e (R188). -/
  cbs : Vector (BitVec 256) 8 := Vector.replicate 8 0
  cbPoison : BitVec 8 := 0
  /-- The context whose block the core last held (R188). -/
  lastCtx : Nat := 0
  tiles : List TileTask := []
  reqs : List EngReq := []
  /-- Bursts that have returned and wait for a handler slot, in the order of their arrival (R145). -/
  bursts : List Burst := []
  /-- The tag of the request that the engine served last (R140). -/
  lastReq : Nat := 511
  nm : List NmReq := []
  wc : List WcEntry := []
  /-- Committed bytes that wait for a free write-combining entry (R69). -/
  wcWait : List WcWait := []
  tlb : List TlbEntry := []
  /-- Vector memory instructions counted for sampling, per partition (R407). -/
  mv : Vector Nat 4 := Vector.replicate 4 0
  /-- Stopped partitions (R404). -/
  stopped : BitVec 4 := 0
  /-- The last pick of a partition was a handler wave (R145). -/
  lastHandler : BitVec 4 := 0
  /-- The slot of each partition's last pick (R161), and the picks elsewhere since a partition with a ready wave was picked
  (R168; log entry 1). -/
  lastSlot : Vector Nat 4 := Vector.replicate 4 15
  skipped : Vector Nat 4 := Vector.replicate 4 0
  deriving DecidableEq, Repr

/-! ## Token coherence -/

/-- The outstanding token request of a die for a sector (R82, R89). -/
structure DieReq where
  wr : Bool
  tag : BitVec 12
  reissues : Nat
  trump : Bool
  /-- The units whose WAKEPEND pauses it, oldest first, or HOLDREPLY (R106). -/
  wakes : List Nat := []
  hold : Bool := false
  /-- Units whose present wake has used up its budget (R106). -/
  spent : List Nat := []
  /-- The operation for which a trump request asked has completed before its 64 tokens came (R91). -/
  done : Bool := false
  deriving DecidableEq, Repr

/-- A sector at a compute die's cache (R79, R80). -/
structure DieSector where
  cd : Nat
  sector : Nat
  tokens : Nat := 0
  own : Bool := false
  serial : BitVec 16 := 0
  /-- The newest serial seen in any message, while it holds the sector or requests it (R84). -/
  newest : Option (BitVec 16) := none
  valid : Bool := false
  modified : Bool := false
  poison : Bool := false
  data : BitVec 512 := 0
  req : Option DieReq := none
  tag : BitVec 12 := 0
  /-- The winner of the active trump request (R91). -/
  act : Option Nat := none
  frozen : Bool := false
  /-- Requests held while frozen (R93). -/
  heldReqs : List (Nat × Bool × BitVec 12) := []
  /-- Cores with an L1 copy (R57). -/
  l1 : List Nat := []
  /-- A monitor is set (R103), and its sleepers are due to wake (R104). -/
  monitor : Bool := false
  wakeDue : Bool := false
  deriving DecidableEq, Repr

/-- A holder's report in a census (R93). -/
structure Report where
  die : Nat
  tokens : Nat
  own : Bool
  valid : Bool
  data : BitVec 512
  poison : Bool
  deriving DecidableEq, Repr

/-- The counts a home has open for a sector. -/
inductive HomePhase
  | act | gather | census | settle | fetch (die : Nat) | rebuild (granted : Bool) | deact
  deriving DecidableEq, Repr

/-- The active trump request at a home (R90 to R94). -/
structure Trump where
  winner : Nat
  tag : BitVec 12
  phase : HomePhase
  /-- Dies whose acknowledgement is still owed, and dies whose REPORT is. -/
  owed : List Nat
  due : List Nat
  reports : List Report
  /-- GATHERED has come. -/
  gathered : Bool
  /-- The winner's RELEASE came before its phase. -/
  released : Bool
  /-- HOLDREPLY pauses the census time (R106). -/
  hold : Bool := false
  deriving DecidableEq, Repr

/-- The home's sideband and trump state of a sector (R60, R90); its data is in memory. -/
structure Home where
  sector : Nat
  serial : BitVec 16 := 0
  poison : Bool := false
  own : Bool := true
  tokens : Nat := 64
  frozen : Bool := false
  waiting : List (Nat × BitVec 12) := []
  round : List (Nat × BitVec 12) := []
  trump : Option Trump := none
  /-- All 64 tokens are kept for the host (R381). -/
  hostHeld : Bool := false
  /-- Back-invalidate responses owed before tokens flow (R381). -/
  biOwed : Nat := 0
  /-- A coherence-tracked attribute: the sector's object has COH = POD (R101). -/
  pod : Bool := false
  /-- The coherence group of a POD sector (R100). -/
  pcg : Nat := 0
  deriving DecidableEq, Repr

/-- The messages between units (R83, R94, R255). -/
inductive MsgBody
  | rdreq (sector req : Nat) (tag : BitVec 12)
  | wrreq (sector req : Nat) (tag : BitVec 12)
  | tok (sector : Nat) (serial : BitVec 16) (count : Nat) (own : Bool) (data : Option (BitVec 512))
      (modified poison : Bool) (tag : BitVec 12) (winner : Bool)
  | trumpreq (sector req : Nat) (tag : BitVec 12)
  | act (sector winner : Nat) (serial : BitVec 16)
  | deact (sector winner : Nat) (serial : BitVec 16)
  | gathered (sector req : Nat) (tag : BitVec 12)
  | release (sector req : Nat) (tag : BitVec 12)
  | ack (sector die : Nat)
  | census (sector : Nat) (serial : BitVec 16)
  | report (sector die : Nat) (serial : BitVec 16) (count : Nat) (own valid : Bool) (data : BitVec 512) (poison : Bool)
  | late (sector die : Nat) (serial : BitVec 16) (count : Nat) (own valid : Bool) (data : BitVec 512) (poison : Bool)
  | rebuild (sector : Nat) (serial : BitVec 16)
  | wakepend (sector : Nat)
  | holdreply (sector : Nat)
  | dataReq (sector : Nat) (serial : BitVec 16)
  | writeback (k : Nat)
  /-- A back-invalidate snoop, of a flip if `flip` is set (R381, R383). -/
  | biSnp (link : Nat) (sector : Nat) (inv flip : Bool)
  | retired (launch : Nat)
  /-- The data of an `mcst` or `redst` operation, carried by multicast (R299, R388). -/
  | coll (op : Nat)
  deriving DecidableEq, Repr

/-- A message in flight: source and destination unit, failures of its flit so far (R85). -/
structure Msg where
  src : Nat
  dst : Nat
  body : MsgBody
  retries : Nat := 0
  /-- The host links have been snooped for this request (R381). -/
  snooped : Bool := false
  /-- Answered with WAKEPEND while its destination is gated (R105). -/
  woken : Bool := false
  /-- The package whose router has it, once it has left its own; the hops it has taken, and whether it is in the escape channels
  (R387). -/
  pos : Option Nat := none
  hops : Nat := 0
  esc : Bool := false
  deriving DecidableEq, Repr

/-! ## Dies -/

/-- TIME and TIMEERR of a die (R23, R26). -/
structure TimeSt where
  time : BitVec 64 := 0
  err : BitVec 16 := 0xFFFF
  lock : Bool := false
  step : Bool := true
  holdover : Bool := false
  domain : Bool := false
  /-- ERR and TIME as holdover began: what ERR grows from (R27). -/
  heldErr : BitVec 16 := 0
  heldSince : BitVec 64 := 0
  deriving DecidableEq, Repr

/-- The power state of a compute die (R391), and a die held in reset (R373, R394). -/
inductive Power | run | coreStop | gated | off | reset
  deriving DecidableEq, Repr

/-- Trace state of a die: the ring registers and what the next record needs (R407, R408). -/
structure TraceSt where
  sampctl : Word := 12
  trcctl : Word := 0
  trcbase : BitVec 64 := 0
  head : BitVec 24 := 0
  tail : BitVec 24 := 0
  drop : BitVec 16 := 0
  /-- The word behind those given out to records, which HEAD reaches as they are written. -/
  next : BitVec 24 := 0
  /-- TIME of the previous record; none before the first. -/
  last : Option (BitVec 64) := none
  stepped : Bool := false
  /-- TIME steps, and settings of EN, so far: a record after another one's is absolute if either has risen between them (R408). -/
  steps : Nat := 0
  runs : Nat := 0
  /-- For the stream of each confidential context, TIME, steps and settings at the last record that a sealed page holds (R408,
  R409). -/
  confLast : List (Nat × BitVec 64 × Nat × Nat) := []
  /-- Records dropped since the last one written (R408, TYPE 7). -/
  lost : Nat := 0
  deriving DecidableEq, Repr

/-- A record of a confidential context as it waits in its page, before it is encoded (R408, R409): its TIME and ERR, the steps and
settings of EN at that time, TYPE, PAYLOAD and body. -/
structure PageRec where
  time : BitVec 64
  err : BitVec 16
  steps : Nat
  runs : Nat
  ty : Nat
  payload : Nat
  body : List Nat
  deriving DecidableEq, Repr
/-- A trace write that waits for the tokens of its sectors: words for the die's ring at word `h`, or a page of a confidential
context to be sealed (R75, R80, R408, R409). -/
inductive TraceWrite
  | ring (h : Nat) (ws : List Nat)
  | page (ctx : Nat) (rs : List PageRec)
  deriving DecidableEq, Repr
/-- A compute die (R12, R41, R88, R108, R370, R391). -/
structure CDie where
  unit : Nat
  present : Bool := true
  power : Power := .run
  mhz : Nat := 3000
  thermal : Bool := false
  time : TimeSt := {}
  cycle : BitVec 64 := 0
  dtlb : List TlbEntry := []
  walks : List Walk := []
  /-- The destination-set predictor: 4 KiB region and mask of compute dies (R88). -/
  pred : List (Nat × BitVec 8) := []
  dsp : BitVec 2 := 0
  stall : BitVec 16 := 0
  unreachCnt : BitVec 16 := 0
  stale : BitVec 16 := 0
  trumps : BitVec 16 := 0
  strikes : BitVec 16 := 0
  rollbk : BitVec 16 := 0
  corr : BitVec 16 := 0
  uncorr : BitVec 16 := 0
  trace : TraceSt := {}
  pend : List TraceWrite := []
  /-- Sectors whose tokens were lost here in a message (R85). -/
  lossLog : List Nat := []
  /-- Debug hold (R256), and declared unreachable (R105). -/
  held : Bool := false
  unreachable : Bool := false
  deriving DecidableEq, Repr

/-- A candidate frame of the hotness sketch (R74). -/
structure HotCand where
  frame : Nat
  est : Nat
  dies : BitVec 8
  deriving DecidableEq, Repr

/-- A move in progress (R77, R78). -/
structure Move where
  dst : Nat
  src : Nat
  next : Nat
  deriving DecidableEq, Repr
/-- A bias flip in progress (R383). -/
structure Flip where
  page : Nat
  toHost : Bool
  /-- The recalls of a flip to host bias have come back, and the host is being snooped. -/
  snooping : Bool
  /-- Host responses owed. -/
  owed : Nat
  deriving DecidableEq, Repr
/-- A near-memory page piece queued at a memory-side die (R72, R301). -/
structure NmPiece where
  core : CoreId
  op : Nat
  dst : Nat
  src : Option Nat
  len : Nat
  rel : Nat
  /-- Its 32-byte units that have been processed (R66, R72). -/
  done : List Nat := []
  deriving DecidableEq, Repr

/-- A memory-side die (R60, R72 to R78, R108, R380 to R383). -/
structure MDie where
  unit : Nat
  /-- Held in reset until its firmware has been verified (R373, R394). -/
  inReset : Bool := false
  time : TimeSt := {}
  /-- Nonzero counters of the sketch: row, index, count (R73). -/
  sketch : List (Nat × Nat × Nat) := []
  cands : List HotCand := []
  hotctl : Word := 0x03E80100
  hotbuf : BitVec 64 := 0
  hotHead : BitVec 8 := 0
  hotTail : BitVec 8 := 0
  hotDrop : BitVec 8 := 0
  hotSeq : Word := 0
  move : Option Move := none
  migRej : Bool := false
  migDone : BitVec 16 := 0
  /-- 4 KiB pages with host bias (R380). -/
  hostBias : List Nat := []
  flip : Option Flip := none
  biasRej : Bool := false
  biasLast : Bool := false
  biasDone : BitVec 16 := 0
  census : BitVec 16 := 0
  reshuf : BitVec 16 := 0
  poisoned : BitVec 16 := 0
  stale : BitVec 16 := 0
  pieces : List NmPiece := []
  /-- The lines of its slice, by number through the pod, and whether each is modified (R54). -/
  slice : List (Nat × Bool) := []
  /-- Sectors whose tokens were lost here in a message (R85). -/
  lossLog : List Nat := []
  unreachable : Bool := false
  deriving DecidableEq, Repr

/-! ## Groups, blocks, launches -/

/-- A member of a group: block and wave index. -/
structure Member where
  blk : BlockId
  k : Nat
  deriving DecidableEq, Repr
/-- A barrier's counts: waiting arrivals, quota, remote arrivals (R166). -/
structure Barrier where
  arrived : List WaveId := []
  q : Nat := 0
  r : Nat := 0
  deriving DecidableEq, Repr
/-- A group at its home (R163 to R167). -/
structure Group where
  ref : GroupRef
  /-- Its number, taken at its creation. -/
  born : Nat := 0
  members : List Member := []
  bars : Vector Barrier 4 := Vector.replicate 4 {}
  abandoned : Bool := false
  deriving DecidableEq, Repr
/-- A group event on its way to the group's home (R165). -/
inductive GroupEv
  | join (w : WaveId) (g : GroupRef) (d : SReg)
  | leave (w : WaveId) (g : GroupRef) (resume : Bool) (m : Member)
  | arrive (w : WaveId) (g : GroupRef) (n : Bar4) (quota : Nat)
  | remote (w : WaveId) (g : GroupRef) (n : Bar4)
  | kill (m : Member) (gs : List GroupRef)
  deriving DecidableEq, Repr
/-- A group event with the instruction that sent it; it leaves the core when that commits (R370). -/
structure GroupMsg where
  seq : Nat
  ev : GroupEv
  deriving DecidableEq, Repr

/-- Where a block stands. -/
inductive BlkState | resident | stopping | saved | retired
  deriving DecidableEq, Repr
/-- A block (R155 to R159, R169, R171). -/
structure Block where
  id : BlockId
  pkg : Nat
  ctx : Nat
  core : CoreId
  base : Nat
  size : Nat
  vregs : Nat
  nwaves : Nat
  csize : Nat
  state : BlkState
  /-- Registered layout records by handle (R135). -/
  recs : List (Nat × LayRec)
  /-- Saved images that a page in migration wait keeps from being registered again, by handle (R135). -/
  unreg : List (Nat × BitVec 256) := []
  /-- Its waves have issued a tile instruction (R336). -/
  matrix : Bool
  /-- The block record has been written (R172). -/
  written : Bool
  /-- Waves that have taken the PREEMPT trap, by index: those to resume (R369). -/
  liveW : List Nat
  /-- Save area index, and that of an earlier pre-emption still in use (R368). -/
  area : Nat
  oldArea : Option Nat
  /-- Waves still to execute `eret` after a resumption (R338). -/
  erets : Nat
  placed : Nat
  deriving DecidableEq, Repr

/-- A kernel table entry (R223). -/
structure Kernel where
  entry : Word
  codeSize : Word
  regs : Nat
  scratch : Nat
  handlers : List Word
  deriving DecidableEq, Repr
/-- A loaded image (R344). -/
structure Image where
  pkg : Nat
  slot : Nat
  ctx : Nat
  code : BitVec 24
  kernels : List Kernel
  deriving DecidableEq, Repr

/-- A launch that has been taken (R347, R351). -/
structure Launch where
  tag : Nat
  pkg : Nat
  queue : Nat
  slot : Nat
  ctx : Nat
  image : Nat
  code : BitVec 24
  kernel : Kernel
  nwaves : Nat
  csize : Nat
  gx : Nat
  gy : Nat
  gz : Nat
  dmask : BitVec 8
  flags : BitVec 8
  mode : Word
  mexcl : Bool
  args : BitVec 64
  spill : BitVec 64
  signal : BitVec 64
  sigval : Word
  /-- Blocks placed at least once, and retired (R157, R170). -/
  placed : Nat
  retired : Nat
  /-- The launch-end write-back, once all blocks are retired (R170). -/
  owed : Option Nat
  deriving DecidableEq, Repr

/-- A launch queue (R345, R349). -/
structure Queue where
  pkg : Nat
  q : Nat
  qbase : BitVec 64 := 0
  qctl : Word := 0
  head : BitVec 16 := 0
  tail : BitVec 16 := 0
  /-- Effective priority (R349). -/
  eff : Nat := 0
  /-- The record whose dependences were read and found met (R350). -/
  met : Option Nat := none
  /-- The launch of the queue's last record (R347, R351). -/
  prev : Option Nat := none
  deriving DecidableEq, Repr

/-- A context with the descriptor it runs under (R341). -/
structure Ctx where
  pkg : Nat
  id : Nat
  active : Bool := false
  otbase : BitVec 25 := 0
  otlen : BitVec 24 := 0
  /-- Virtual dies 0 to 7: physical compute die or 0xF (R17). -/
  vdt : BitVec 32 := 0xFFFFFFFF
  cflags : Word := 0
  pcg : BitVec 8 := 0
  trapdesc : BitVec 128 := 0
  ctrace : BitVec 64 := 0
  cmr : List Byte := List.replicate 32 0
  keys : Option TenantKeys := none
  /-- The streams whose keys have been erased or replaced, with the number of their set of keys and their sticky TAGF (R257, R402), and
  the sets of keys so far. -/
  erased : List (Nat × Stream) := []
  keySets : Nat := 0
  /-- Failed by a debug unlock (R399). -/
  failed : Bool := false
  /-- Pages sealed per compute die, and the records of the open page (R409). -/
  sealed : List (Nat × Nat) := []
  openPage : List (Nat × List PageRec) := []
  deriving DecidableEq, Repr

/-- A translation invalidation (R47). -/
structure Inval where
  k : Nat
  pkg : Nat
  ctx : Nat
  id : BitVec 24
  first : Nat
  /-- 0: the whole object. -/
  count : Nat
  /-- Dies that have not yet dropped, and dies whose acknowledgement is not yet counted. -/
  todo : List Nat
  acks : List Nat
  /-- For each die that has dropped, the next operation number then: only older accesses are waited for (R48). -/
  marks : List (Nat × Nat)
  /-- Started through INVRNG of this I/O die (R379). -/
  iod : Option Nat
  deriving DecidableEq, Repr

/-- A write-back sent to the compute dies (R170, R255). -/
structure Writeback where
  k : Nat
  pkg : Nat
  /-- Physical frames of the pages, or none for every modified sector. -/
  frames : Option (List Nat)
  inv : Bool
  owed : List Nat
  launch : Option Nat
  deriving DecidableEq, Repr

/-! ## Package -/

/-- The commands of CTXCMD (R340). -/
inductive CtxOp | activate | update | retire
  deriving DecidableEq, Repr
/-- A context command that counts acknowledgements (R340, R342): the descriptor that it has read and checked, and the dies that owe
one. -/
structure CtxCmd where
  op : CtxOp
  ctx : Nat
  desc : Nat
  owed : List Nat
  deriving DecidableEq, Repr
/-- A segment entry (R221). -/
structure Seg where
  ty : Nat
  align : Nat
  off : Nat
  size : Nat
  memsize : Nat
  sigoff : Nat
  reserved : Nat
  deriving DecidableEq, Repr
/-- Where a load stands (R224, R344): the check of the named objects, segment i, the invalidation k of the object of segment i, and,
of a rejected segment i, the objects whose X is still to be revoked, with the invalidation under way. -/
inductive LoadPhase
  | objects | seg (i : Nat) | inval (i k : Nat) | revoke (i : Nat) (ids : List (BitVec 24)) (k : Option Nat)
  deriving DecidableEq, Repr
/-- A load in progress (R343, R344): the slot it will take, its context, the entries of its image. -/
structure Load where
  slot : Nat
  ctx : Nat
  segs : List Seg
  phase : LoadPhase
  deriving DecidableEq, Repr
/-- A fabric link (R385, R390). -/
structure Link where
  id : Nat
  far : Option Nat
  /-- The number of the link at the far end: its own, where the cabling names no other (log entry 2). -/
  port : Nat := id
  spareUsed : Bool := false
  up : Bool := true
  training : Bool := false
  credit : Bool := true
  deriving DecidableEq, Repr
/-- A multicast flit at a package's router: its group and the message it delivers (R388). -/
structure McFlit where
  group : Nat
  body : MsgBody
  src : Nat
  /-- The package it came from; none where it entered the fabric. -/
  via : Option Nat
  deriving DecidableEq, Repr
/-- A host request at a home (R376, R378, R381): the line it reads and what it asks to keep of it, or performs on the word at
`off`; or the line it writes. -/
inductive HostOp | read (req : CxlReq) (off : Nat) | write (d : BitVec 512)
  deriving DecidableEq, Repr
/-- A host request with its link, its host address and the sector it reaches. -/
structure HostReq where
  link : Nat
  addr : Nat
  sector : Nat
  op : HostOp
  deriving DecidableEq, Repr
/-- The security controller (R394 to R399, R375). -/
structure Security where
  lifecycle : Lifecycle := Config.lifecycle
  port : Bool := lifecycle == .test || lifecycle == .rma
  devid : BitVec 64 := Config.devid
  mr : Vector (List Byte) 8 := Vector.replicate 8 (List.replicate 32 0)
  updates : Nat := 0
  nonce : BitVec 64 := Config.nonce
  leaf : Nat := 0
  almLock : Bool := false
  almctl : Vector (BitVec 2) 5 := Vector.replicate 5 1
  almHit : BitVec 5 := 0
  /-- The package is held in reset until power is removed (R375). -/
  held : Bool := false
  verified : List FwTarget := []
  deriving DecidableEq, Repr

/-- A package's I/O-die state and everything it serves (R340 to R345, R360, R376 to R388). -/
structure Pkg where
  id : Nat
  fused : List Nat := Config.fused
  /-- D3cold (R391). -/
  cold : Bool := false
  /-- IOD1 holds the grandmaster (R24), and the package is in a pod. -/
  iod1 : Bool := false
  inPod : Bool := false
  removed : List Nat := []
  /-- The launch queue whose block was placed last: the next one comes first in the round (R349). -/
  lastQueue : Nat := 255
  /-- IOD0, the grandmaster after reset (R27). -/
  time0 : TimeSt := { err := 0, lock := true }
  time1 : TimeSt := {}
  ctxtbl0 : BitVec 64 := 0
  ctxtbl1 : BitVec 64 := 0
  ctxRej : Bool := false
  ctxCause : BitVec 8 := 0
  ctxDone : BitVec 16 := 0
  /-- The context command that counts acknowledgements (R340). -/
  ctxCmd : Option CtxCmd := none
  ldrsrc : BitVec 64 := 0
  ldrlen : Word := 0
  ldrobja : BitVec 64 := 0
  ldrobjb : BitVec 64 := 0
  ldrResult : BitVec 3 := 0
  ldrSeg : BitVec 4 := 0
  ldrDone : BitVec 16 := 0
  ldrHandle : Word := 0
  /-- The load in progress (R343). -/
  load : Option Load := none
  images : List Image := []
  schctl0 : Word := 0x0640A020
  schctl1 : Word := 0x0640A020
  flogbase : BitVec 64 := 0
  flogHead : BitVec 12 := 0
  flogTail : BitVec 12 := 0
  flogDrop : BitVec 4 := 0
  invobj0 : BitVec 64 := 0
  invobj1 : BitVec 64 := 0
  invRej0 : Bool := false
  invRej1 : Bool := false
  invDone0 : BitVec 16 := 0
  invDone1 : BitVec 16 := 0
  linkUp0 : Bool := true
  linkUp1 : Bool := true
  /-- HDM decoder of each link: host base and size of its window, or disabled (R378). -/
  hdm0 : Option (Nat × Nat) := none
  hdm1 : Option (Nat × Nat) := none
  /-- Host requests that a home holds (R381). -/
  hostReqs : List HostReq := []
  /-- Nonzero route entries (R386), multicast group entries (R388). -/
  froute : List (Nat × BitVec 64) := []
  mcgroups : List (Nat × BitVec 64) := []
  /-- The fabric links, 0 to 15 at IOD0 and 16 to 31 at IOD1 (R385). -/
  links : List Link := (List.range 32).map fun i => { id := i, far := Config.cable id i }
  mcIn : List McFlit := []
  mcHeld : List (Nat × McFlit) := []
  /-- Dropped flits and torn-down links that the links have logged, by link, and sectors whose tokens were lost at its I/O dies
  (R85, R385, R390). -/
  linkLog : List Nat := []
  lossLog : List Nat := []
  /-- Acknowledgements that an I/O die still counts for a home in another package: sector and dies (R101). -/
  acks : List (Nat × List Nat) := []
  /-- Pins of dead blocks still to be taken back: context and object (R135). -/
  unpins : List (Nat × BitVec 24) := []
  sec : Security := {}
  deriving DecidableEq, Repr

/-- MetaValue of a host read's answer (R381): the host keeps no copy, a copy of any state, a shared copy. -/
inductive MetaValue | i | a | s
  deriving DecidableEq, Repr
/-- What the device has returned to the host: a CXL read's data, or a signed measurement (R381, R396). -/
inductive HostReply
  | data (addr : Nat) (d : BitVec 512) (poison : Bool) (mv : MetaValue)
  /-- The old value of a host AtomicOp (R376). -/
  | atomic (addr : Nat) (old : BitVec 64)
  | written (addr : Nat)
  | measurement (body sig : List Byte)
  | spdmError
  /-- A write toward the host carried poisoned data: EP was set (R61). -/
  | poisonedTlp (pkg addr : Nat)
  /-- A `dbgbrk` stopped a partition, with its code (R256). -/
  | debugStop (c : CoreId) (part n : Nat)
  /-- The nonce of the debug unlock, reported through the management path as it is drawn (R398). -/
  | nonce (pkg : Nat) (x : BitVec 64)
  /-- A lane-focus step that was not executed (R405). -/
  | focusRefused (w : WaveId)
  deriving DecidableEq, Repr

/-- The reasons the machine stops. `noWave`: an instruction word is executed although no wave is
issuing; raised by every instruction's meaning in a state whose `cur` slot is empty, which `step`
never does. Safe: the spec executes no instruction outside a wave. -/
inductive Fault | noWave
  deriving DecidableEq, Repr

/-- The reasons a meaning is missing. `notModelled`: the instruction has no meaning yet. Safe. -/
inductive Refusal | notModelled (mnemonic : String)
  deriving DecidableEq, Repr

end Sys2Proof.Machine

open Sys2Proof Sys2Proof.Machine

namespace Sys2Proof.Machine

/-- The registers of an empty slot; every one 0 (birth values, R159; log entry 7). -/
def WaveArch.zero : WaveArch where
  v := Vector.replicate 192 (Vector.replicate 96 0)
  w := Vector.replicate 8 (Vector.replicate 96 0)
  l0 := Vector.replicate 96 0
  l1 := Vector.replicate 96 0
  shifts := 0
  s := Vector.replicate 57 0
  xv := 0
  em := 0
  xl := 0
  mode := 0
  mmode := 0
  stat := 0
  seed := 0
  flags := Vector.replicate 12 0
  tx := Vector.replicate 7 {}
  stack := []
  depth := 0
  pc := 0
  trap := false
  tfaddr := 0
  tsaddr := 0
  tscr := Vector.replicate 4 0

/-- A slot without a wave. -/
def Wave.empty (id : WaveId) : Wave where
  id := id
  live := false
  a := .zero
  handler := none
  blk := ⟨0, 0⟩
  k := 0
  ctx := 0
  vlimit := 0
  code := 0
  priv := false
  hold := .ready
  active := false
  since := 0
  passed := 0
  readyAt := none
  ops := []
  window := []
  seq := 0
  xres := []
  groups := []
  rlost := []
  lostHeld := []
  undo := []
  preempt := false
  replays := 0
  focus := none
  mark := none

/-- The machine. -/
structure State where
  /-- The wave whose instruction issues next; an empty slot when no wave is resident. -/
  cur : Wave
  /-- Every other resident wave. -/
  waves : List Wave
  /-- DEV memory of the pod, global addresses: the home's data (R55). -/
  mem : Memory
  /-- Host physical memory, package·2^56 + host address (R37, R377). -/
  hostMem : Memory
  /-- Home state of sectors that differ from the reset sideband (R60). -/
  homes : List Home
  /-- Sectors known to a compute die's cache. -/
  sectors : List DieSector
  cds : List CDie
  mds : List MDie
  /-- Cores that differ from reset. -/
  cores : List Core
  net : List Msg
  pkgs : List Pkg
  /-- The reference package of the pod (R24). -/
  podRef : Option Nat
  ctxs : List Ctx
  queues : List Queue
  launches : List Launch
  blocks : List Block
  groups : List Group
  groupMsgs : List GroupMsg
  invals : List Inval
  wbs : List Writeback
  /-- Fault records on their way to the log (R360). -/
  faults : List FaultRec
  hostOut : List HostReply
  /-- The events that come next, in order: the model's own schedule, an input of the machine. -/
  agenda : List Instr
  /-- The model's own counters: the next operation or request number, the order of entries into the
  active set, and the number of the next free value (log entry 3). -/
  nextId : Nat
  tick : Nat
  free : Nat
  deriving DecidableEq, Repr

/-- The machine right after reset (R60 and the Reset columns of R18 to R408): one package, no context,
no wave, memory all zero, every token at its home. -/
def State.reset : State where
  cur := .empty ⟨0, 0, 0, 0⟩
  waves := []
  mem := []
  hostMem := []
  homes := []
  sectors := []
  cds := (List.range 8).map fun u => { unit := u, present := !(Config.fused.contains u), power := .reset }
  mds := (List.range 8).map fun u => { unit := 8 + u, inReset := true }
  cores := []
  net := []
  pkgs := [{ id := 0 }]
  podRef := none
  ctxs := []
  queues := []
  launches := []
  blocks := []
  groups := []
  groupMsgs := []
  invals := []
  wbs := []
  faults := []
  hostOut := [.nonce 0 Config.nonce]
  agenda := []
  nextId := 1
  tick := 0
  free := 0

end Sys2Proof.Machine
end

