-- ==== Sys2Proof/WellFormed.lean ====
section
/-! DEFINITION. Well-formed instructions: the operand checks of order 4 of R214, with the register limit
V as a parameter, and at the largest V for an instruction by itself. -/

namespace Sys2Proof

open Sys2Proof.Machine

/-- A source selector names an operand (R206) below the limit V of vector registers (R159). -/
def srcOk (V : Nat) (s : VSel) : Bool :=
  if s.toNat < 0xC0 then s.toNat < V else (s.toNat < 0xCA || 0xD0 ≤ s.toNat) && s.toNat < 0xFF
/-- A destination selector names a writable register (R206). -/
def dstOk (V : Nat) (s : VSel) : Bool := if s.toNat < 0xC0 then s.toNat < V else s.toNat < 0xC8
/-- n registers from a selector, all v below V or all w (R283). -/
def spanOk (V : Nat) (s : VSel) (n : Nat) : Bool :=
  s.toNat + n ≤ V || (0xC0 ≤ s.toNat && s.toNat + n ≤ 0xC8)
/-- A pair field: even and no higher than s54 (R205). -/
def pairOk (r : SReg) : Bool := r.toNat % 2 = 0 && r.toNat ≤ 54
/-- A block of n scalars ends at s56 or below (R205). -/
def blockOk (r : SReg) (n : Nat) : Bool := r.toNat + n ≤ 57
/-- A triple field holds 3k with k at most 20 (R205). -/
def tripleOk (t : Nat) : Bool := t % 3 = 0 && t ≤ 60

/-- Check 4 of R214 under a register limit V. -/
def operandsOk (V : Nat) (f : Form) : Bool :=
  f.srcs.all (fun p => srcOk V p.1) && f.dsts.all (dstOk V) &&
  (match f.span with | some (d, n) => spanOk V d n | none => true) &&
  f.pairs.all pairOk && f.blocks.all (fun p => blockOk p.1 p.2) && f.triples.all tripleOk &&
  (match f.sm with | some k => k.toNat ≤ 18 | none => true) &&
  (match f.fl with | some n => n.toNat ≤ 11 | none => true)

/-- A system register number that some chapter allocates (R253). -/
def sysOk (f : Form) : Bool :=
  match f.priv with
  | .sysreg n => (sysWidth n).isSome
  | _ => true

/-- A well-formed instruction: its operands pass check 4 of R214 under the largest V, and a system
register number is allocated. -/
def wellFormed (i : Instr) : Bool := operandsOk 192 (formOf i) && sysOk (formOf i)

end Sys2Proof
end

