-- ==== Sys2Proof/Machine/Ops.lean ====
section
/-! DEFINITION. The named operations over the state: waves, registers, memory, translation, the issue
of an instruction, taking an exception and returning from one, and killing a wave. -/

namespace Sys2Proof.Machine

/-- The outcome of a meaning. -/
abbrev Res := Host.Outcome State Fault Refusal

/-! ## Waves, cores, dies by name -/

/-- The resident wave of a slot. -/
def getWave (s : State) (id : WaveId) : Option Wave :=
  if s.cur.live && s.cur.id == id then some s.cur else s.waves.find? fun w => w.live && w.id == id
/-- Every resident wave. -/
def allWaves (s : State) : List Wave := if s.cur.live then s.cur :: s.waves else s.waves
/-- f applied to every resident wave. -/
def mapWaves (s : State) (f : Wave → Wave) : State := { s with cur := f s.cur, waves := s.waves.map f }
/-- f applied to the wave of a slot. -/
def onWave (s : State) (id : WaveId) (f : Wave → Wave) : State :=
  if s.cur.live && s.cur.id == id then { s with cur := f s.cur }
  else { s with waves := updWhere (fun w => w.live && w.id == id) f s.waves }
/-- A wave put back into its slot. -/
def putWave (s : State) (w : Wave) : State := onWave s w.id fun _ => w
/-- A wave put into its slot, which may have been empty. -/
def addWave (s : State) (w : Wave) : State :=
  if s.cur.live && s.cur.id == w.id then { s with cur := w }
  else { s with waves := w :: s.waves.filter fun x => !(x.id == w.id) }
/-- f applied to the registers of the issuing wave. -/
def mapA (s : State) (f : WaveArch → WaveArch) : State := { s with cur := { s.cur with a := f s.cur.a } }

/-- A core; one that is not listed is as after reset. -/
def getCore (s : State) (c : CoreId) : Core := (s.cores.find? (·.id == c)).getD { id := c }
/-- f applied to a core. -/
def onCore (s : State) (c : CoreId) (f : Core → Core) : State :=
  { s with cores := upsert (·.id == c) f { id := c } s.cores }
/-- The core of a wave. -/
def coreId (w : WaveId) : CoreId := ⟨w.cd, w.core⟩
/-- A compute die by its unit number. -/
def getCd (s : State) (u : Nat) : CDie := (s.cds.find? (·.unit == u)).getD { unit := u, present := false }
/-- f applied to a compute die. -/
def onCd (s : State) (u : Nat) (f : CDie → CDie) : State := { s with cds := updWhere (·.unit == u) f s.cds }
/-- A memory-side die by its unit number. -/
def getMd (s : State) (u : Nat) : MDie := (s.mds.find? (·.unit == u)).getD { unit := u }
/-- f applied to a memory-side die. -/
def onMd (s : State) (u : Nat) (f : MDie → MDie) : State := { s with mds := updWhere (·.unit == u) f s.mds }
/-- A package. -/
def getPkg (s : State) (p : Nat) : Pkg := (s.pkgs.find? (·.id == p)).getD { id := p }
/-- f applied to a package. -/
def onPkg (s : State) (p : Nat) (f : Pkg → Pkg) : State := { s with pkgs := updWhere (·.id == p) f s.pkgs }
/-- The package of a unit. -/
def pkgOf (unit : Nat) : Nat := unit / 16
/-- A package runs: it has power, and no alarm holds it in reset (R375, R391). -/
def pkgRuns (s : State) (pkg : Nat) : Bool := s.pkgs.any fun p => p.id == pkg && !p.cold && !p.sec.held
/-- Its I/O-die firmware has been verified, so its I/O dies run, and with them the registers, queues, links and memory that the host
reaches through them (R394; log entry 94). -/
def iodRuns (s : State) (pkg : Nat) : Bool := pkgRuns s pkg && (getPkg s pkg).sec.verified.contains .iod
/-- The security controller runs: its own firmware has been verified (R394; log entry 94). -/
def securityRuns (s : State) (pkg : Nat) : Bool := pkgRuns s pkg && (getPkg s pkg).sec.verified.contains .security
/-- A memory-side die serves: its package runs, and it is neither held in reset nor declared unreachable (R373, R391, R394). -/
def mdUp (s : State) (u : Nat) : Bool :=
  pkgRuns s (pkgOf u) && !(getMd s u).inReset && !(getMd s u).unreachable
/-- A context of a package. -/
def getCtx (s : State) (pkg ctx : Nat) : Ctx :=
  (s.ctxs.find? fun c => c.pkg == pkg && c.id == ctx).getD { pkg := pkg, id := ctx }
/-- f applied to a context. -/
def onCtx (s : State) (pkg ctx : Nat) (f : Ctx → Ctx) : State :=
  { s with ctxs := upsert (fun c => c.pkg == pkg && c.id == ctx) f { pkg := pkg, id := ctx } s.ctxs }
/-- A block, if it is known. -/
def getBlock (s : State) (b : BlockId) : Option Block := s.blocks.find? (·.id == b)
/-- f applied to a block. -/
def onBlock (s : State) (b : BlockId) (f : Block → Block) : State := { s with blocks := updWhere (·.id == b) f s.blocks }
/-- The launch of a tag. -/
def getLaunch (s : State) (l : Nat) : Option Launch := s.launches.find? (·.tag == l)
/-- f applied to a launch. -/
def onLaunch (s : State) (l : Nat) (f : Launch → Launch) : State := { s with launches := updWhere (·.tag == l) f s.launches }

/-- The compute dies of a package that are enabled and take part in acknowledgement counts: not fused
off, not withdrawn into die-off, not declared unreachable (R47, R49, R392). -/
def countedDies (s : State) (pkg : Nat) : List Nat :=
  (s.cds.filter fun d => pkgOf d.unit == pkg && d.present && !d.unreachable && d.power != .off && d.power != .reset).map (·.unit)

/-! ## Free values and time -/

/-- A fresh free value (log entry 3). -/
def freshWord (s : State) : BitVec 64 × State := (Config.freeWord s.free, { s with free := s.free + 1 })
/-- A fresh free mask (log entry 3). -/
def freshMask (s : State) : Mask × State :=
  let (a, s) := freshWord s
  let (b, s) := freshWord s
  (a.extractLsb' 0 32 ++ b, s)
/-- A fresh free choice (log entry 3). -/
def freshBool (s : State) : Bool × State := (Config.freeBool s.free, { s with free := s.free + 1 })

/-- The TIME of a compute or memory-side die, or of an I/O die 0x100000 + 2·package + iod. -/
def timeSt (s : State) (die : Nat) : TimeSt :=
  if 0x100000 ≤ die then
    let p := getPkg s ((die - 0x100000) / 2)
    if die % 2 = 0 then p.time0 else p.time1
  else if die % 16 < 8 then (getCd s die).time else (getMd s die).time
/-- f applied to the TIME registers of a die. -/
def onTime (s : State) (die : Nat) (f : TimeSt → TimeSt) : State :=
  if 0x100000 ≤ die then
    onPkg s ((die - 0x100000) / 2) fun p =>
      if die % 2 = 0 then { p with time0 := f p.time0 } else { p with time1 := f p.time1 }
  else if die % 16 < 8 then onCd s die fun d => { d with time := f d.time }
  else onMd s die fun d => { d with time := f d.time }
/-- The unit number under which the I/O die i of a package keeps TIME. -/
def iodUnit (pkg i : Nat) : Nat := 0x100000 + 2 * pkg + i
/-- The I/O die that holds the grandmaster (R24). -/
def grandmaster (s : State) (pkg : Nat) : Nat := iodUnit pkg (if (getPkg s pkg).iod1 then 1 else 0)
/-- The package of a die as `timeSt` names it. -/
def timePkg (die : Nat) : Nat := if 0x100000 ≤ die then (die - 0x100000) / 2 else pkgOf die
/-- The die whose TIME is the reference of a die's bound (R26): the pod's under DOMAIN 1, else the package's grandmaster;
the die itself where the pod has no reference. -/
def timeRef (s : State) (die : Nat) : Nat :=
  if (timeSt s die).domain then (match s.podRef with
    | some p => grandmaster s p
    | none => die)
  else grandmaster s (timePkg die)
/-- A TIME that has counted on, by what passes meanwhile: never back (R23). -/
def laterTime (old x : BitVec 64) : BitVec 64 := if x.toNat < old.toNat then old else x
/-- The TIME of a die whose reference stands at `now`: not below its last sample (R23), and within ERR of the reference
(R26); 0xFFFF bounds nothing. Which of those values is free (log entry 3). -/
def boundedTime (t : TimeSt) (now x : BitVec 64) : BitVec 64 :=
  if t.err = 0xFFFF then laterTime t.time x
  else BitVec.ofNat 64 (Nat.max (Nat.max t.time.toNat (now.toNat - t.err.toNat)) (Nat.min x.toNat (Nat.min (2 ^ 64 - 1) (now.toNat + t.err.toNat))))
/-- A sample of a die's TIME, with the reference as it stands then (R23, R26, R29). The time that passes between two
samples is free (log entry 3). -/
def sampleTime (s : State) (die : Nat) : BitVec 64 × State :=
  let r := timeRef s die
  let (x, s) := freshWord s
  let s := onTime s r fun st => { st with time := laterTime st.time x }
  let (y, s) := freshWord s
  let t := if r = die then (timeSt s r).time else boundedTime (timeSt s die) (timeSt s r).time y
  (t, onTime s die fun st => { st with time := t })
/-- A die's TIME while its reference stands where it does: the reference's own counts on (R23, R26). -/
def timeAt (s : State) (die : Nat) (x : BitVec 64) : BitVec 64 :=
  let r := timeRef s die
  if r = die then laterTime (timeSt s die).time x else boundedTime (timeSt s die) (timeSt s r).time x
/-- The bound ERR that LOCK needs (R27). -/
def lockBound (domain : Bool) : Nat := if domain then 400 else 24
/-- ERR in holdover: 160 units more for each millisecond of TIME since holdover began, saturating (R27). -/
def heldErr (t : TimeSt) : BitVec 16 :=
  BitVec.ofNat 16 (Nat.min 0xFFFF (t.heldErr.toNat + (t.time.toNat - t.heldSince.toNat) / 100000))
/-- TIMEERR at the die's last sample of TIME: in holdover ERR has grown, and LOCK clears past the locked bound (R27). -/
def growErr (s : State) (die : Nat) : State :=
  onTime s die fun t => if t.holdover then { t with err := heldErr t, lock := t.lock && (heldErr t).toNat ≤ lockBound t.domain } else t

/-- ERR of a die against a reference that is itself known up to `e` only: wider by that, and without LOCK past its bound
(R26, R27; log entry 16). -/
def widenErr (e : BitVec 16) (t : TimeSt) : TimeSt :=
  let f := fun x : BitVec 16 => BitVec.ofNat 16 (Nat.min 0xFFFF (x.toNat + e.toNat))
  { t with err := f t.err, heldErr := f t.heldErr, lock := t.lock && (f t.err).toNat ≤ lockBound t.domain }
/-- The core clock of a die runs. -/
def clockRuns (d : CDie) : Bool := d.present && d.power == .run && !d.thermal && !d.unreachable
/-- A sample of CYCLE: by what it has counted since the last sample is free (log entry 3), and nothing while the core clock
stands (R30). -/
def sampleCycle (s : State) (cd : Nat) : BitVec 64 × State :=
  let d := getCd s cd
  if !clockRuns d then (d.cycle, s) else
  let (x, s) := freshWord s
  let c := laterTime d.cycle x
  (c, onCd s cd fun d => { d with cycle := c })
/-- Every unit that keeps a TIME, I/O dies included. -/
def timeUnits (s : State) : List Nat :=
  s.cds.map (·.unit) ++ s.mds.map (·.unit) ++ s.pkgs.flatMap fun p => [iodUnit p.id 0, iodUnit p.id 1]
/-- The bounds of all other dies against a reference that passes to another die grow by `e` (R26). -/
def widenAgainst (s : State) (old : Nat) (e : BitVec 16) : State :=
  ((timeUnits s).filter fun d => d != old && timeRef s d == old).foldl (fun s d => onTime s d (widenErr e)) s
/-- A package is no longer the reference of its pod, if it was: no other die has a bound until an exchange with a new one (R24, R26;
log entry 77). -/
def loseReference (s : State) (pkg : Nat) : State :=
  if s.podRef = some pkg then { widenAgainst s (grandmaster s pkg) 0xFFFF with podRef := none } else s

/-! ## Registers -/

/-- Word k of a mask triple (R5). -/
def maskWord (m : Mask) (k : Nat) : Word := m.extractLsb' (32 * k) 32
/-- A mask with its word k replaced. -/
def setMaskWord (m : Mask) (k : Nat) (x : Word) : Mask :=
  maskWithout m k ||| (x.setWidth 96 <<< (32 * k))
where
  /-- The mask with word k cleared. -/
  maskWithout (m : Mask) (k : Nat) : Mask := m &&& ~~~((0xFFFFFFFF : Mask) <<< (32 * k))

/-- A write of the execution mask: exited lanes stay out, and a handler's em1 and em2 stay 0 (R142, R225). -/
def writeEm (h : Bool) (a : WaveArch) (m : Mask) : WaveArch :=
  { a with em := (if h then m &&& 0xFFFFFFFF else m) &&& ~~~a.xl }

/-- Scalar register r: s0 to s56, xv, em, and s63, which reads 0 (R179, R180). -/
def readS (a : WaveArch) (r : SReg) : Word :=
  let n := r.toNat
  if n < 57 then a.s.toArray.getD n 0
  else if n < 60 then maskWord a.xv (n - 57)
  else if n < 63 then maskWord a.em (n - 60)
  else 0
/-- A write of scalar register r; one of s63 is discarded (R179, R225). -/
def writeS (h : Bool) (a : WaveArch) (r : SReg) (x : Word) : WaveArch :=
  let n := r.toNat
  if hn : n < 57 then { a with s := a.s.set n x hn }
  else if n < 60 then { a with xv := setMaskWord a.xv (n - 57) x }
  else if n < 63 then writeEm h a (setMaskWord a.em (n - 60) x)
  else a
/-- The 64-bit value of the pair at r, low word in the even register (R179). -/
def readPair (a : WaveArch) (r : SReg) : BitVec 64 := readS a (r + 1) ++ readS a r
/-- A write of the pair at r. -/
def writePair (h : Bool) (a : WaveArch) (r : SReg) (x : BitVec 64) : WaveArch :=
  writeS h (writeS h a r (x.extractLsb' 0 32)) (r + 1) (x.extractLsb' 32 32)
/-- Scalar i of the block that starts at r. -/
def readBlk (a : WaveArch) (r : SReg) (i : Nat) : Word := readS a (r + BitVec.ofNat 6 i)
/-- The mask triple whose first register is r (R179). -/
def readTriple (a : WaveArch) (r : Nat) : Mask :=
  readS a (BitVec.ofNat 6 (r + 2)) ++ readS a (BitVec.ofNat 6 (r + 1)) ++ readS a (BitVec.ofNat 6 r)
/-- A triple written whole (R230). -/
def writeTriple (h : Bool) (a : WaveArch) (r : Nat) (m : Mask) : WaveArch :=
  if r = 60 then writeEm h a m
  else writeS h (writeS h (writeS h a (BitVec.ofNat 6 r) (maskWord m 0)) (BitVec.ofNat 6 (r + 1)) (maskWord m 1))
    (BitVec.ofNat 6 (r + 2)) (maskWord m 2)
/-- The issuing wave is a narrow handler wave (R142). -/
def isHandler (w : Wave) : Bool := w.handler.isSome
/-- A scalar of the issuing wave written. -/
def setS (s : State) (r : SReg) (x : Word) : State := mapA s fun a => writeS (isHandler s.cur) a r x

/-- The lanes of selector value n as a register: v0 to v191, w0 to w7, l0, l1 (R206). -/
def regLanes (a : WaveArch) (n : Nat) : Lanes :=
  if n < 192 then a.v.toArray.getD n (splat 0)
  else if n < 200 then a.w.toArray.getD (n - 192) (splat 0)
  else if n = 200 then a.l0 else a.l1
/-- A v or w register written. -/
def setLanes (a : WaveArch) (n : Nat) (x : Lanes) : WaveArch :=
  if h : n < 192 then { a with v := a.v.set n x h }
  else if h : n - 192 < 8 then { a with w := a.w.set (n - 192) x h }
  else a

/-- f5 of MODE and its neighbours (R181). -/
def modeSat (m : Word) : Bool := m.getLsbD 12
def modeFtz (m : Word) : Bool := m.getLsbD 14
def modeRlt (m : Word) : Bool := m.getLsbD 25
def modeRm (m : Word) : Nat := bits m.toNat 11 8
def modeGsel (m : Word) : Nat := bits m.toNat 19 15
/-- The sub-group width of cross-lane operations (R181). -/
def modeSgw (m : Word) : Nat := [8, 16, 32, 96].getD (bits m.toNat 21 20) 8
/-- The element type; none for a reserved code (R182). -/
def modeEtype (m : Word) : Option EType :=
  match bits m.toNat 4 0 with
  | 0 => some .fp32 | 1 => some .fp16 | 2 => some .bf16 | 3 => some .e4m3 | 4 => some .e5m2 | 5 => some .e2m1
  | 8 => some .i32 | 9 => some .u32 | 10 => some .i16 | 11 => some .u16 | 12 => some .i8 | 13 => some .u8
  | 14 => some .i4 | 15 => some .u4 | _ => none
/-- The memory scope (R181); a reserved code is never held (R183). -/
def modeScope (m : Word) : Scope :=
  match bits m.toNat 24 22 with
  | 0 => .wave | 1 => .group | 2 => .cluster | 3 => .pkg | 4 => .pod | _ => .sys
/-- A legal MODE after RW0 bits are discarded, or none if an RW field holds a reserved value (R181, R183). -/
def legalMode (x : Word) : Option Word :=
  let m := x &&& 0x03FFDF1F
  if (modeEtype m).isSome && modeRm m ≤ 5 && modeGsel m ≤ 20 && bits m.toNat 24 22 ≤ 5 then some m else none
/-- The same for MMODE (R184). -/
def legalMmode (x : Word) : Option Word :=
  let m := x &&& 0x000FFEF6
  if bits m.toNat 19 16 ≤ 7 && bits m.toNat 19 16 != 5 && bits m.toNat 15 12 ≤ 7 && bits m.toNat 7 6 ≤ 1 &&
    bits m.toNat 5 4 ≤ 1 then some m else none
/-- STAT with its RW0 bits discarded (R185). -/
def legalStat (x : Word) : Word := x &&& 0xFF0000DF

/-! ## Storage -/

/-- The sector of a global DEV address (R60). -/
def sectorOf (a : Nat) : Nat := a / 64
/-- The unit of the memory-side die that homes a sector (R55). -/
def homeUnit (sector : Nat) : Nat :=
  let a := sector * 64
  a / 2 ^ 44 * 16 + 8 + a % 2 ^ 44 / 65536 % 8
/-- The home state of a sector; one that is not listed is as memory initialisation leaves it (R60). -/
def getHome (s : State) (x : Nat) : Home := (s.homes.find? (·.sector == x)).getD { sector := x }
/-- f applied to a home's state of a sector. -/
def onHome (s : State) (x : Nat) (f : Home → Home) : State :=
  { s with homes := upsert (·.sector == x) f { sector := x } s.homes }
/-- A sector as a compute die's cache holds it; without tokens when it is not listed. -/
def getSec (s : State) (cd x : Nat) : DieSector :=
  (s.sectors.find? fun d => d.cd == cd && d.sector == x).getD { cd := cd, sector := x }
/-- f applied to a die's state of a sector. -/
def onSec (s : State) (cd x : Nat) (f : DieSector → DieSector) : State :=
  { s with sectors := upsert (fun d => d.cd == cd && d.sector == x) f { cd := cd, sector := x } s.sectors }

/-- All ones, the data of a poisoned sector (R61). -/
def ones512 : BitVec 512 := BitVec.allOnes 512
/-- The home's data of a sector. -/
def homeData (s : State) (x : Nat) : BitVec 512 :=
  if (getHome s x).poison then ones512 else BitVec.ofNat 512 (memNat s.mem (x * 64) 64)
/-- The die that holds valid data of a sector, the owner first (R80, R81). -/
def holder (s : State) (x : Nat) : Option DieSector :=
  let hs := s.sectors.filter fun d => d.sector == x && d.valid && d.tokens > 0 && d.serial == (getHome s x).serial
  match hs.find? (·.own) with
  | some d => some d
  | none => hs.head?
/-- Data that travels with the owner token of the current serial (R81). -/
def flying (s : State) (x : Nat) : Option (BitVec 512 × Bool) :=
  s.net.findSome? fun m =>
    match m.body with
    | .tok y ser _ true (some d) _ p _ _ => if y = x ∧ ser = (getHome s x).serial then some (d, p) else none
    | _ => none
/-- The current data of a token-coherent sector and whether it is poisoned (R80): a holder's, or the
owner token's in flight, or the home's. -/
def curSector (s : State) (x : Nat) : BitVec 512 × Bool :=
  match holder s x with
  | some d => (if d.poison then ones512 else d.data, d.poison)
  | none =>
    match flying s x with
    | some (d, p) => (if p then ones512 else d, p)
    | none => (homeData s x, (getHome s x).poison)
/-- The current byte at a global DEV address: that of `curSector`, without the rest of the sector where memory holds it. -/
def devByte (s : State) (a : Nat) : Byte :=
  let x := sectorOf a
  match holder s x, flying s x with
  | none, none => if (getHome s x).poison then 0xFF else memByte s.mem a
  | _, _ => (curSector s x).1.extractLsb' (a % 64 * 8) 8
/-- n current bytes from a global DEV address, little-endian. -/
def devNat (s : State) (a n : Nat) : Nat := leNat ((List.range n).map fun i => devByte s (a + i))
/-- The poison mark of a DEV byte. -/
def devPoison (s : State) (a : Nat) : Bool := (curSector s (sectorOf a)).2

/-- A sector's 64 bytes with new bytes from an offset on. -/
def putBytes512 (d : BitVec 512) (off : Nat) (bs : List Byte) : BitVec 512 :=
  BitVec.ofNat 512 (leNat ((List.range 64).map fun i =>
    if i < off then d.extractLsb' (i * 8) 8 else (bs[i - off]?).getD (d.extractLsb' (i * 8) 8)))

/-- The line of a sector is in the slice of its home from here on, modified if the access writes (R54, R56). -/
def sliceTouch (s : State) (x : Nat) (wr : Bool) : State :=
  onMd s (homeUnit x) fun d => { d with slice := (x / 2, wr || d.slice.contains (x / 2, true)) :: d.slice.filter (·.1 != x / 2) }
/-- Poison after a write of n bytes into a sector: a write of all 64 clears it (R61). -/
def poisonAfter (p : Bool) (n : Nat) : Bool := p && n < 64

/-- A home's sector written with bytes from an offset on. -/
def writeHome (s : State) (x off : Nat) (bs : List Byte) : State :=
  let p := (getHome s x).poison
  let s := sliceTouch { s with mem := memPut s.mem (x * 64 + off) bs } x true
  if p then onHome s x fun h => { h with poison := poisonAfter p bs.length } else s
/-- A home's sector replaced whole. -/
def setHomeData (s : State) (x : Nat) (d : BitVec 512) (p : Bool) : State :=
  let s := sliceTouch { s with mem := memPut s.mem (x * 64) (bytesOf 64 d.toNat) } x true
  if p || (getHome s x).poison then onHome s x fun h => { h with poison := p } else s

/-- The pieces of [a, a + n) that lie in one sector each: sector, offset, index of the first byte. -/
def sectorPieces : Nat → Nat → Nat → Nat → List (Nat × Nat × Nat × Nat)
  | 0, _, _, _ => []
  | fuel + 1, a, i, n =>
    if n = 0 then [] else
    let k := Nat.min n (64 - a % 64)
    (a / 64, a % 64, i, k) :: sectorPieces fuel (a + k) (i + k) (n - k)
/-- The sectors of [a, a + n). -/
def sectorsOf (a n : Nat) : List Nat := if n = 0 then [] else span (a / 64) ((a + n - 1) / 64 - a / 64 + 1)

/-- The sleepers of a monitor are due to wake (R104); MONITOR_WAKE wakes them. -/
def wakeMonitor (s : State) (cd x : Nat) : State :=
  if (getSec s cd x).monitor then onSec s cd x fun d => { d with wakeDue := true } else s
/-- A die's state of a sector without its tokens: the data is invalid, and every L1 copy of it (R57, R80). -/
def dropTokens (d : DieSector) : DieSector :=
  { d with tokens := 0, own := false, valid := false, modified := false, poison := false, l1 := [] }
/-- A die that holds all 64 tokens writes bytes of a sector (R57, R80, R104): L1 copies of other cores go,
the die's sleepers wake. -/
def writeSec (s : State) (cd x off : Nat) (bs : List Byte) (core : Option Nat) : State :=
  let s := wakeMonitor s cd x
  onSec s cd x fun e =>
    let p := poisonAfter e.poison bs.length
    { e with
      data := if p then ones512 else putBytes512 e.data off bs
      poison := p
      modified := true
      l1 := e.l1.filter fun c => some c == core }
/-- Bytes written at a die that holds all 64 tokens of each sector (R61, R80). -/
def dieWrite (s : State) (cd a : Nat) (bs : List Byte) : State :=
  (sectorPieces (bs.length + 1) a 0 bs.length).foldl (fun s (x, off, i, k) => writeSec s cd x off ((bs.drop i).take k) none) s
/-- Bytes written at homes that hold all 64 tokens of each sector (R64, R72). -/
def homeWrite (s : State) (a : Nat) (bs : List Byte) : State :=
  (sectorPieces (bs.length + 1) a 0 bs.length).foldl (fun s (x, off, i, k) => writeHome s x off ((bs.drop i).take k)) s

/-- The scratchpad byte of a core; a poisoned 64-bit word reads all ones (R58). -/
def scrByte (c : Core) (a : Nat) : Byte := if c.scrPoison.contains (a / 8) then 0xFF else memByte c.scr a
/-- n scratchpad bytes. -/
def scrBytes (c : Core) (a n : Nat) : List Byte := (List.range n).map fun i => scrByte c (a + i)
/-- n scratchpad bytes as a number. -/
def scrNat (c : Core) (a n : Nat) : Nat := leNat (scrBytes c a n)
/-- A poisoned word in [a, a + n). -/
def scrPois (c : Core) (a n : Nat) : Bool := n > 0 && c.scrPoison.any fun k => a / 8 ≤ k && k ≤ (a + n - 1) / 8
/-- Scratchpad bytes written; a write of all 64 bits of a word clears its mark (R58). -/
def scrWrite (c : Core) (a : Nat) (bs : List Byte) : Core :=
  { c with scr := memPut c.scr a bs, scrPoison := c.scrPoison.filter fun k => !(a ≤ 8 * k && 8 * k + 8 ≤ a + bs.length) }
/-- A word of the scratchpad marked poisoned (R58). -/
def scrMark (c : Core) (k : Nat) : Core := if c.scrPoison.contains k then c else { c with scrPoison := k :: c.scrPoison }

/-- The key of a host physical address (R37). -/
def hostKey (pkg a : Nat) : Nat := pkg * 2 ^ 56 + a

/-! ## Translation (R32 to R46) -/

/-- The kind of a 2-bit code (R34). -/
def kindOf (n : Nat) : Option Kind := if n = 0 then some .dev else if n = 1 then some .pod else if n = 2 then some .host else none
def kindCode : Kind → Nat | .dev => 0 | .pod => 1 | .host => 2
/-- The coherence attribute of a 2-bit code (R34). -/
def cohOf (n : Nat) : Option Coh := if n = 0 then some .pkg else if n = 1 then some .pod else if n = 2 then some .none else none
def cohCode : Coh → Nat | .pkg => 0 | .pod => 1 | .none => 2
/-- The permitted pairs of R35. -/
def kindCohOk : Kind → Coh → Bool
  | .dev, _ => true
  | .pod, .pod | .pod, .none => true
  | .host, .none => true
  | _, _ => false

/-- A context is confidential (R341, R400). -/
def confidential (s : State) (pkg ctx : Nat) : Bool := (getCtx s pkg ctx).cflags.getLsbD 4
/-- The frame of page i of a run that starts at a frame (R36, R37): a POD frame stays in its package; none where no
memory is installed. A HOST frame past the last host page goes on at host page 0 (log entry 78). -/
def runFrame (k : Kind) (f i : Nat) : Option Nat :=
  match k with
  | .dev => if f + i < 0x1800000 then some (f + i) else none
  | .pod => if f % 2 ^ 28 + i < 0x1800000 then some (f + i) else none
  | .host => some ((f + i) % 2 ^ 40)

/-- The address of an object table entry in the package's DEV memory (R33). -/
def entryAddr (c : Ctx) (id : Nat) : Nat := c.pkg * 2 ^ 44 + c.otbase.toNat * 65536 + 32 * id
/-- A table entry as a 256-bit number is valid (R35). -/
def entryOk (e : Nat) : Bool :=
  match kindOf (bits e 45 44), cohOf (bits e 47 46) with
  | some k, some h =>
    bitOf e 50 && bits e 49 48 ≤ 1 && bits e 191 144 = 0 && bits e 111 105 = 0 && bits e 69 51 = 0 && kindCohOk k h
  | _, _ => false
/-- An id has an entry in a context's table (R32, R33). -/
def hasEntry (c : Ctx) (id : Nat) : Bool := id != 0 && id < c.otlen.toNat
/-- A valid entry of the object table as a 256-bit number (R33 to R35). -/
def validEntry (s : State) (c : Ctx) (id : Nat) : Option Nat :=
  let e := devNat s (entryAddr c id) 32
  if hasEntry c id && entryOk e then some e else none
/-- A run of the extent list (R36): pages [lo, hi), frame of the first page, hole, moving. -/
structure Run where
  lo : Nat
  hi : Nat
  frame : Nat
  hole : Bool
  move : Bool
  deriving DecidableEq, Repr
/-- The run of an extent entry that covers from page `lo` on; none at the end of the list (R36). -/
def runOf (x lo : Nat) : Option Run :=
  let n := bits x 61 40
  if n = 0 then none else some ⟨lo, lo + n, bits x 39 0, bitOf x 62 || bits x 39 0 = 0xFFFFFFFFFF, bitOf x 63⟩
/-- The run that holds a page: at most `fuel` entries from address `a` on, the first covering from `lo` (R36). -/
def findRun (s : State) (a : Nat) (page : Nat) : Nat → Nat → Option Run
  | 0, _ => none
  | fuel + 1, lo =>
    match runOf (devNat s a 8) lo with
    | none => none
    | some r => if page < r.hi then some r else findRun s (a + 8) page fuel r.hi
/-- The address of extent entry i of a table entry's list (R34). -/
def extentAddr (pkg e i : Nat) : Nat := pkg * 2 ^ 44 + bits e 104 70 * 64 + 8 * i
/-- The run of a page in an entry's extent list. -/
def entryRun (s : State) (pkg e page : Nat) : Option Run := findRun s (extentAddr pkg e 0) page (bits e 127 112) 0
/-- The frame of a page of an entry, moving or not; none beyond the list and in a hole (R36, R37). -/
def pageFrame (e page : Nat) (run : Option Run) : Option Nat :=
  run.bind fun r => if r.hole then none else runFrame ((kindOf (bits e 45 44)).getD .dev) r.frame (page - r.lo)
/-- The result of a walk from a valid entry and the run of the page (R34 to R37, R41). -/
def walkOut (e page : Nat) (run : Option Run) : WalkOut :=
  let o : PageOut := match pageFrame e page run with
    | none => .hole
    | some f => if bits e 49 48 = 1 && run.any (·.move) then .moving else .frame (BitVec.ofNat 40 f)
  .found (bits e 39 0) (BitVec.ofNat 3 (bits e 42 40)) (bitOf e 43) ((kindOf (bits e 45 44)).getD .dev)
    ((cohOf (bits e 47 46)).getD .pkg) o ((run.map (·.lo * 65536)).getD 0) ((run.map (·.hi * 65536)).getD 0)
/-- The walk of one page, made at once (R34 to R37, R41). -/
def walkPage (s : State) (pkg ctx : Nat) (id : Nat) (page : Nat) : WalkOut :=
  match validEntry s (getCtx s pkg ctx) id with
  | none => .absent
  | some e => walkOut e page (entryRun s pkg e page)

/-- What a check of R42 gives: a place, a cause with its order, a migration wait, or a walk to make. -/
inductive LaneOut
  | ok (t : Target) | fault (order : Nat) (c : Cause) | wait (id : BitVec 24) | walk (id : BitVec 24) (page : Nat)
  deriving DecidableEq, Repr

/-- The place of an address with a frame (R37). `off` is the offset within the frame. -/
def frameTarget (pkg : Nat) (k : Kind) (c : Coh) (frame off : Nat) : Target :=
  match k with
  | .dev => ⟨.dev, pkg * 2 ^ 44 + frame * 65536 + off, k, c⟩
  | .pod => ⟨.dev, frame / 2 ^ 28 * 2 ^ 44 + frame % 2 ^ 28 * 65536 + off, k, c⟩
  | .host => ⟨.host pkg, frame % 2 ^ 40 * 65536 + off, k, c⟩

/-- A wave's access that is denied whatever the permissions: to a shadow (R42), and a load, store or atomic of a
confidential context to a HOST object (R401). -/
def denied (conf sh : Bool) (k : Kind) (need : BitVec 3) : Bool := sh || (conf && k == .host && need != 0b100)
/-- Orders 4 to 7 of R42 against an entry's attributes; `need` holds the X, W, Rd bits required. -/
def checkAttrs (pkg : Nat) (id : BitVec 24) (e sz len : Nat) (perm need : BitVec 3) (sh wave conf : Bool) (k : Kind) (c : Coh)
    (p : PageOut) : LaneOut :=
  if e + sz > len || e + sz > 2 ^ 40 then .fault 4 .bounds
  else if (wave && denied conf sh k need) || perm &&& need != need then .fault 5 .perm
  else match p with
    | .hole => .fault 6 .noxl
    | .moving => .wait id
    | .frame f => .ok (frameTarget pkg k c f.toNat (e % 65536))
/-- Orders 2 to 7 of R42 on a finished walk. -/
def checkWalk (pkg : Nat) (id : BitVec 24) (e sz : Nat) (need : BitVec 3) (wave conf : Bool) (o : WalkOut) : LaneOut :=
  if id = 0 then .fault 2 .bounds else
  match o with
  | .absent => .fault 3 .noxl
  | .found len perm sh k c p _ _ => checkAttrs pkg id e sz len perm need sh wave conf k c p

/-- The L1 TLB entry, then the die TLB entry, of a page for a core (R41). -/
def tlbAt (s : State) (c : CoreId) (ctx : Nat) (id : BitVec 24) (page : Nat) : Option TlbEntry :=
  let p := fun t : TlbEntry => t.ctx == ctx && t.id == id && t.page == page
  match (getCore s c).tlb.find? p with
  | some t => some t
  | none => (getCd s c.cd).dtlb.find? p
/-- The same for the core of a wave. -/
def tlbFind (s : State) (w : Wave) (id : BitVec 24) (page : Nat) : Option TlbEntry := tlbAt s (coreId w.id) w.ctx id page
/-- An object-space access of a wave at an object address: TLBs, a walk result kept for this
instruction, or a walk to make (R41, R42). -/
def translate (s : State) (w : Wave) (need : BitVec 3) (id : BitVec 24) (e sz : Nat) : LaneOut :=
  if id = 0 then .fault 2 .bounds else
  let conf := confidential s (pkgOf w.id.cd) w.ctx
  match tlbFind s w id (e / 65536) with
  | some t => checkAttrs (pkgOf w.id.cd) id e sz t.len t.perm need t.sh true conf t.kind t.coh (.frame t.frame)
  | none =>
    match w.xres.find? fun r => r.id == id && r.page == e / 65536 with
    | some r => checkWalk (pkgOf w.id.cd) id e sz need true conf r.out
    | none => .walk id (e / 65536)
/-- What a core and its die know of a page: a TLB entry, or the result of a walk that was made for what asks; none where a walk is
to be made (R41). -/
def knownPage (s : State) (c : CoreId) (ctx : Nat) (xres : List WalkRes) (id : BitVec 24) (page : Nat) : Option WalkOut :=
  match tlbAt s c ctx id page with
  | some t => some (.found t.len t.perm t.sh t.kind t.coh (.frame t.frame) 0 0)
  | none => (xres.find? fun r => r.id == id && r.page == page).map (·.out)
/-- The same for the instruction at the PC of a wave. -/
def pageView (s : State) (w : Wave) (id : BitVec 24) (page : Nat) : Option WalkOut :=
  knownPage s (coreId w.id) w.ctx w.xres id page
/-- A walk of a page is in progress at a die (R41). -/
def walking (d : CDie) (ctx : Nat) (p : BitVec 24 × Nat) : Bool :=
  d.walks.any fun k => k.ctx == ctx && k.id == p.1 && k.page == p.2
/-- Those of some pages that a die walks now or can start to walk: those in progress, and of the others as many as make 16 (R41). -/
def walkable (d : CDie) (ctx : Nat) (pages : List (BitVec 24 × Nat)) : List (BitVec 24 × Nat) :=
  pages.filter (walking d ctx) ++ (pages.filter fun p => !walking d ctx p).take (16 - d.walks.length)
/-- Pages whose walk is in progress or starts now at a die (R41). -/
def walkPagesAt (s : State) (cd ctx : Nat) (pages : List (BitVec 24 × Nat)) : State :=
  pages.foldl (fun s p => onCd s cd fun d =>
    if walking d ctx p then d else { d with walks := d.walks ++ [{ ctx := ctx, id := p.1, page := p.2 }] }) s
/-- The same for the context and die of a wave. -/
def startWalks (s : State) (w : Wave) (pages : List (BitVec 24 × Nat)) : State := walkPagesAt s w.id.cd w.ctx pages
/-- A page that the die TLB holds and the core's L1 TLB does not is copied into the L1 TLB as it is used (R41). -/
def fillTlb (s : State) (c : CoreId) (ctx : Nat) (id : BitVec 24) (page : Nat) : State :=
  let p := fun t : TlbEntry => t.ctx == ctx && t.id == id && t.page == page
  if (getCore s c).tlb.any p then s else
  match (getCd s c.cd).dtlb.find? p with
  | none => s
  | some t => onCore s c fun k => { k with tlb := (t :: k.tlb).take 256 }
/-- The same for a wave. -/
def copyTlb (s : State) (w : Wave) (id : BitVec 24) (page : Nat) : State := fillTlb s (coreId w.id) w.ctx id page
/-- The same for the page of an object address. -/
def copyTlbAt (s : State) (w : Wave) (ad : BitVec 64) : State :=
  copyTlb s w (ad.extractLsb' 40 24) (ad.extractLsb' 16 24).toNat
/-- A walk made at once: for the save areas of a block, the images of the loader, and what an I/O die translates (R135, R170; log
entry 9). -/
def translateNow (s : State) (pkg ctx : Nat) (need : BitVec 3) (wave : Bool) (addr : BitVec 64) (sz : Nat) : LaneOut :=
  let id := addr.extractLsb' 40 24
  let e := (addr.extractLsb' 0 40).toNat
  checkWalk pkg id e sz need wave (confidential s pkg ctx) (walkPage s pkg ctx id.toNat (e / 65536))

/-- The block of a wave's cluster with a rank, resident or still holding its allocation (R44, R156). -/
def clusterMember (s : State) (b : BlockId) (rank : Nat) : Option Block :=
  match getBlock s b with
  | none => none
  | some k => if rank < k.csize then getBlock s ⟨b.launch, b.idx - b.idx % k.csize + rank⟩ else none
/-- A cluster window access (R44). -/
def clusterAccess (s : State) (b : BlockId) (e sz : Nat) : LaneOut :=
  if e / 2 ^ 22 != 0 then .fault 4 .bounds else
  match clusterMember s b (e / 2 ^ 18) with
  | none => .fault 4 .bounds
  | some m =>
    if e % 2 ^ 18 + sz > m.size then .fault 4 .bounds
    else .ok ⟨.scr m.core, m.base + e % 2 ^ 18, .dev, .none⟩
/-- A scratchpad access of the block's own allocation (R43). -/
def scratchAccess (s : State) (b : BlockId) (e sz : Nat) : LaneOut :=
  match getBlock s b with
  | none => .fault 4 .bounds
  | some k => if e + sz > k.size then .fault 4 .bounds else .ok ⟨.scr k.core, k.base + e, .dev, .none⟩

/-- The id of a cluster window (R32). -/
def clusterId : BitVec 24 := 0xFFFFFF
/-- A scalar or `mwait` access at a 64-bit object address (R228, R229, R310). -/
def translateAddr (s : State) (w : Wave) (need : BitVec 3) (addr : BitVec 64) (sz : Nat) : LaneOut :=
  let id := addr.extractLsb' 40 24
  let e := (addr.extractLsb' 0 40).toNat
  if e % sz != 0 then .fault 1 .align
  else if id = clusterId then clusterAccess s w.blk e sz
  else translate s w need id e sz

/-- The effective offset of a lane (R40). -/
def laneOffset (w : Wave) (tx : TxSel) (off : Word) : Nat :=
  if tx = 7 then off.toNat else ((w.a.tx.toArray.getD tx.toNat {}).base.toNat + off.toNat)
/-- A lane of an MV access: checks of R42 in order over the paths of R41, R43 and R44. A misaligned lane of a register
with V = 0 gets ALIGN, as check 1 comes first (log entry 79). -/
def translateLane (s : State) (w : Wave) (need : BitVec 3) (tx : TxSel) (off : Word) (sz : Nat) : LaneOut :=
  let e := laneOffset w tx off
  if e % sz != 0 then .fault 1 .align
  else if tx = 7 then scratchAccess s w.blk e sz
  else
    let t := w.a.tx.toArray.getD tx.toNat {}
    if !t.v then .fault 3 .noxl
    else if t.cl then clusterAccess s w.blk e sz
    else if t.lo.toNat ≤ e && e + sz ≤ t.hi.toNat then
      if t.perm &&& need != need || denied (confidential s (pkgOf w.id.cd) w.ctx) false t.kind need then .fault 5 .perm
      else
        let o := e - t.lo.toNat
        .ok (frameTarget (pkgOf w.id.cd) t.kind t.coh (t.frame.toNat + o / 65536) (o % 65536))
    else translate s w need t.id e sz
/-- The object address of a lane, as a fault record names it (R436). -/
def laneAddr (w : Wave) (tx : TxSel) (off : Word) : BitVec 64 :=
  let e := laneOffset w tx off
  let id : BitVec 24 := if tx = 7 then 0 else (w.a.tx.toArray.getD tx.toNat {}).id
  id ++ BitVec.ofNat 40 e

/-! ## Issue -/

/-- The instruction issues (R211, R370): its number is taken, the registers before it enter the commit
window, and each lookahead counts it. -/
def issue (s : State) : State :=
  let w := s.cur
  { s with cur := { w with
      seq := w.seq + 1
      window := w.window ++ [⟨w.seq + 1, w.a⟩]
      ops := w.ops.map fun o => { o with la := o.la.map (· - 1) }
      xres := []
      passed := 0
      mark := none
      replays := if w.a.trap then w.replays else 0 } }
/-- The PC moves on by one word (R203). -/
def advance (s : State) : State := mapA s fun a => { a with pc := a.pc + 4 }
/-- The PC becomes a target. -/
def jump (s : State) (t : Word) : State := mapA s fun a => { a with pc := t }
/-- The instruction issues and commits with its effect, which leaves the core at once: it waited for the commit of
everything before it (log entry 14). -/
def issueNow (s : State) : State :=
  let s := issue s
  { s with cur := { s.cur with window := [] } }
/-- The instruction at the PC does not issue now; it is tried again after the next event. -/
def stallBy (k : StallKind) (s : State) : State := { s with cur := { s.cur with hold := .stall k, passed := 0 } }
/-- The same at a long-latency stall (R162). -/
def stall (s : State) : State := stallBy .long s
/-- The instruction at the PC could not issue. -/
def isStalled (w : Wave) : Bool := match w.hold with
  | .stall _ => true
  | _ => false
/-- The issuing wave waits for a reason, with the PC where it stands. -/
def holdCur (s : State) (h : Hold) : State := { s with cur := { s.cur with hold := h } }

/-- Adds 1 to a completion flag (R186). -/
def flagUp (a : WaveArch) (n : Nat) : WaveArch :=
  if h : n < 12 then { a with flags := a.flags.set n (a.flags[n] + 1) h } else a
/-- Subtracts 1 from a completion flag (R186), mod 16. An operation that a trap handler left outstanding may complete after `eret` has
set its flag: the flag then goes from 0 to 15 (DESIGN CHOICE, log entry 114). -/
def flagDown (a : WaveArch) (n : Nat) : WaveArch :=
  if h : n < 12 then { a with flags := a.flags.set n (a.flags[n] - 1) h } else a
/-- A completion flag's count. -/
def flagOf (a : WaveArch) (n : Nat) : BitVec 4 := a.flags.toArray.getD n 0
/-- The change of registers that a completion makes: in the wave and in every snapshot of its window, as
a completion is no part of the instructions a rollback undoes (R185, R371; log entry 10). -/
def completeIn (w : Wave) (seq : Nat) (f : WaveArch → WaveArch) : Wave :=
  { w with a := f w.a, window := w.window.map fun p => if p.seq > seq then { p with a := f p.a } else p }

/-- The next operation number. -/
def takeId (s : State) : Nat × State := (s.nextId, { s with nextId := s.nextId + 1 })
/-- An operation with no accesses, of the instruction that has just issued. -/
def newOp (s : State) (kind : OpKind) (fl : FlagN) (la : LaN) : Op where
  id := s.nextId
  seq := s.cur.seq
  kind := kind
  pc := s.cur.a.pc
  flag := some fl.toNat
  la := if la = 15 then none else some la.toNat
  acc := []
  done := []
  lock := none
  dst := 0
  nreg := 0
  mask := s.cur.a.em
  order := .plain
  scope := modeScope s.cur.a.mode
  left := false
  rlt := modeRlt s.cur.a.mode
  res := splat 0
  stat := 0
  shift := 0
  clash := []
  sampled := none
  replays := 0
/-- An accepted long-latency instruction: its operation is outstanding and its flag is up (R186, R209). -/
def accept (s : State) (o : Op) : State :=
  let s := { s with nextId := s.nextId + 1, cur := { s.cur with ops := s.cur.ops ++ [o] } }
  match o.flag with
  | some n => mapA s fun a => flagUp a n
  | none => s

/-! ## Conditions for issue -/

/-- An outstanding acquire load or RMW holds back memory events (R288). -/
def acquirePending (w : Wave) : Bool :=
  w.ops.any fun o => match o.kind with
    | .load _ => o.order == .acq
    | .atom _ => o.order == .acq || o.order == .acqrel
    | _ => false
/-- The wave may issue the instruction now (R161, R186, R211, R288). One instruction issues between the lanes of a load that have
landed and the rest: it alone reads across them (R124, R212). -/
def mayIssue (i : Instr) (w : Wave) : Bool :=
  let f := formOf i
  w.ops.all (fun o => o.la != some 0 && !o.landed.any (· < w.seq)) &&
  (match f.fl with | some n => flagOf w.a n.toNat != 15 | none => true) &&
  !(f.mem && acquirePending w)

/-- Runs at privileged level (R251). -/
def privileged (w : Wave) : Bool := w.priv || w.a.trap
/-- The register limit of the wave's selectors (R159, R176). -/
def vLimit (w : Wave) : Nat := if isHandler w then 32 else w.vlimit

def isIntType : EType → Bool
  | .i32 | .u32 | .i16 | .u16 | .i8 | .u8 | .i4 | .u4 => true
  | _ => false
/-- The classes of R259. -/
def clsOk (c : Cls) (t : EType) : Bool :=
  match c with
  | .any => true
  | .int => isIntType t
  | .float => t == .fp32 || t == .fp16 || t == .bf16
  | .half => t == .fp16 || t == .bf16
  | .narrow => isIntType t && t != .i32 && t != .u32
  | .numeric => isIntType t || t == .fp32 || t == .fp16 || t == .bf16
/-- A float selector is ILL for a typed integer operand (R207). -/
def constOk (t : EType) (p : VSel × SelKind) : Bool :=
  if p.1.toNat < 0xF5 then true else
  match p.2 with
  | .raw => true
  | .typed => !isIntType t
  | .src u => !isIntType u
/-- Elements per lane (R182). -/
def elemsOf : EType → Nat
  | .fp32 | .i32 | .u32 => 1
  | .fp16 | .bf16 | .i16 | .u16 => 2
  | .e4m3 | .e5m2 | .i8 | .u8 => 4
  | .e2m1 | .i4 | .u4 => 8

/-- The MMODE fields (R184). -/
def mmAfmt (m : Word) : Nat := bits m.toNat 19 16
def mmWfmt (m : Word) : Nat := bits m.toNat 15 12
def mmCplx (m : Word) : Bool := m.getLsbD 2
/-- The permitted combinations of R315. -/
def mmodePass (m : Word) : Bool :=
  let a := mmAfmt m; let w := mmWfmt m; let sc := bits m.toNat 7 4
  if mmCplx m then (a == 0 || a == 1) && a == w && sc == 0
  else if a ≤ 4 then w ≤ 5
  else (a == 6 || a == 7) && (w == 6 || w == 7) && sc == 0
/-- The combinations of `mldc` (R324), of those R315 permits. -/
def mmodeMldc (m : Word) : Bool := mmodePass m && mmWfmt m ≤ 4 && !mmCplx m

/-- Checks 3 to 5 of R214. -/
def earlyCheck (i : Instr) (w : Wave) : Option Cause :=
  let f := formOf i
  let pr : Option Cause := match f.priv with
    | .user => none
    | .super => if privileged w then none else some .priv
    | .sysreg n => if privileged w then (if (sysWidth n).isSome then none else some .ill)
                   else if sysUser n then none else some .priv
    | .eret => if w.a.trap then none else if w.priv then some .ill else some .priv
  match pr with
  | some c => some c
  | none =>
    if !operandsOk (vLimit w) f then some .ill
    else if f.hill && isHandler w then some .ill
    else none
/-- Check 6 for the part of a `cvt` (R272) and check 7 of R214. -/
def lateCheck (i : Instr) (w : Wave) : Option Cause :=
  let f := formOf i
  let mm : Option Cause :=
    if (f.mm == .pass && !mmodePass w.a.mmode) || (f.mm == .mldc && !mmodeMldc w.a.mmode) then some .rsvf else none
  if f.cls == .any && f.cvt.isNone then mm else
  match modeEtype w.a.mode with
  | none => some .ill
  | some t =>
    let part : Bool := match f.cvt with
      | some (u, p) => p.toNat < Nat.max (elemsOf u) (elemsOf t) / Nat.min (elemsOf u) (elemsOf t)
      | none => true
    let same : Bool := match f.cvt with
      | some (u, _) => u == t
      | none => false
    if !part then some .rsvf
    else if !clsOk f.cls t || same || !f.srcs.all (constOk t) then some .ill
    else mm
/-- Checks 3 to 7 of R214 for a word whose must-be-zero fields are zero. -/
def decodeTrap (i : Instr) (w : Wave) : Option Cause :=
  match earlyCheck i w with
  | some c => some c
  | none => lateCheck i w

/-! ## Trace records (R408, R409) -/

/-- n words given the next place of a die's trace ring; HEAD follows as they are written (R75, R408). -/
def ringWords (s : State) (cd : Nat) (ws : List Nat) : State :=
  onCd s cd fun d =>
    let n := bits d.trace.trcbase.toNat 11 0 * 512
    let h := d.trace.next.toNat % n
    { d with pend := d.pend ++ [.ring h ws], trace := { d.trace with next := BitVec.ofNat 24 ((h + ws.length) % n) } }
/-- Words of fillers before a record of n words, which never wraps past the ring's end (R408). -/
def ringFill (t : TraceSt) (n : Nat) : Nat :=
  let size := bits t.trcbase.toNat 11 0 * 512
  let h := t.next.toNat % size
  if h + n > size then size - h else 0
/-- A record of n words, with its fillers, has room in a die's trace ring (R75, R408). -/
def ringRoom (t : TraceSt) (n : Nat) : Bool :=
  let size := bits t.trcbase.toNat 11 0 * 512
  size != 0 && ringFill t n + n ≤ (t.tail.toNat % size + size - t.next.toNat % size - 1) % size
/-- A record of whole words put into a die's ring, after fillers up to the ring's end where it would wrap;
dropped and counted when the ring has no room (R75, R408). -/
def ringPut (s : State) (cd : Nat) (ws : List Nat) : State :=
  let t := (getCd s cd).trace
  if bits t.trcbase.toNat 11 0 = 0 then s
  else if !ringRoom t ws.length then
    onCd s cd fun d => { d with trace := { d.trace with drop := sat16 d.trace.drop, lost := d.trace.lost + 1 } }
  else
    let fill := ringFill t ws.length
    let s := if fill = 0 then s else ringWords s cd (List.replicate fill 0)
    ringWords s cd ws
/-- A record header as words: absolute for a reason, with TIME and ERR, else with the time since the previous record (R408). -/
def headerWords (reason : Option Nat) (now : BitVec 64) (err : BitVec 16) (gap ty payload : Nat) : List Nat :=
  match reason with
  | some r => [ty * 2 ^ 59 + 2 ^ 58 + r * 2 ^ 56 + err.toNat * 2 ^ 40 + payload % 2 ^ 40, now.toNat]
  | none => [ty * 2 ^ 59 + gap * 2 ^ 41 + payload % 2 ^ 40]
/-- Why a record is absolute: the first after EN, a clock change, the first after a TIME step, a gap of more than 2^16 units (R408). -/
def absReason (prev : Option (BitVec 64)) (stepped : Bool) (now : BitVec 64) (ty : Nat) : Option Nat :=
  match prev with
  | none => some 0
  | some l => if ty = 5 then some 1 else if stepped then some 3 else if now.toNat - l.toNat > 65536 then some 2 else none
/-- The words of a record for a die's ring: absolute in the four cases of R408, else with the time since the ring's previous one. -/
def recordWords (s : State) (cd : Nat) (ty payload : Nat) : List Nat × State :=
  let (now, s) := sampleTime s cd
  let s := growErr s cd
  let t := (getCd s cd).trace
  let gap := match t.last with
    | some l => now.toNat - l.toNat
    | none => 0
  let ws := headerWords (absReason t.last t.stepped now ty) now (getCd s cd).time.err gap ty payload
  (ws, onCd s cd fun d => { d with trace := { d.trace with last := some now, stepped := false } })

/-! ### Pages of a confidential context (R409) -/

/-- What the next record of a stream of pages needs of the one before it. -/
abbrev PagePrev := Option (BitVec 64 × Nat × Nat)
/-- A record is the previous one now. -/
def PageRec.prev (r : PageRec) : PagePrev := some (r.time, r.steps, r.runs)
/-- The words of a record of a page behind a previous record (R408, R409). -/
def PageRec.words (p : PagePrev) (r : PageRec) : List Nat :=
  let q : Option (BitVec 64) := match p with
    | some (l, _, n) => if n = r.runs then some l else none
    | none => none
  let stepped := match p with
    | some (_, n, _) => n != r.steps
    | none => false
  headerWords (absReason q stepped r.time r.ty) r.time r.err (r.time.toNat - (q.getD 0).toNat) r.ty r.payload ++ r.body
/-- The words of the records of a page, the first behind the last record of the page before (R409). -/
def pageWords : PagePrev → List PageRec → List Nat
  | _, [] => []
  | p, r :: rs => r.words p ++ pageWords r.prev rs
/-- The records of the open page of a die in a confidential context (R409). -/
def openRecs (c : Ctx) (cd : Nat) : List PageRec := ((c.openPage.find? (·.1 == cd)).map (·.2)).getD []
/-- The last record of a stream that a sealed page holds. -/
def lastSealed (t : TraceSt) (ctx : Nat) : PagePrev := (t.confLast.find? (·.1 == ctx)).map (·.2)
/-- The last record of a stream in the pages that still wait to be written, or else in a sealed one. -/
def lastClosed (d : CDie) (ctx : Nat) : PagePrev :=
  match d.pend.reverse.findSome? fun w => match w with
    | .page c rs => if c = ctx then rs.getLast? else none
    | .ring _ _ => none with
  | some r => r.prev
  | none => lastSealed d.trace ctx
/-- The 4,096 bytes of a sealed trace page (R409). -/
def sealedPage (k : TenantKeys) (cd n : Nat) (ws : List Nat) : List Byte :=
  let seq := cd % 16 * 2 ^ 56 + n
  let aad := bytesOf 8 seq ++ bytesOf 8 0
  let plain := ws.flatMap (bytesOf 8) ++ bytesOf (8 * (508 - ws.length)) 0
  let (c, t) := Config.gcmSeal k.trace (k.tsalt ++ BitVec.ofNat 64 seq) aad plain
  c ++ aad ++ t
/-- The open trace page of a die and a confidential context is closed; it is sealed as it is written (R409). -/
def sealTrace (s : State) (cd ctx : Nat) : State :=
  let p := pkgOf cd
  let rs := openRecs (getCtx s p ctx) cd
  if rs.isEmpty then s else
  onCd (onCtx s p ctx fun c => { c with openPage := c.openPage.filter (·.1 != cd) }) cd fun d => { d with pend := d.pend ++ [.page ctx rs] }
/-- A record of a confidential context goes into its open page; a page without room for it is closed first, a full one at once
(R409). -/
def pageRecord (s : State) (cd ctx ty payload : Nat) (body : List Nat) : State :=
  let p := pkgOf cd
  let (now, s) := sampleTime s cd
  let s := growErr s cd
  let d := getCd s cd
  let r : PageRec := ⟨now, d.time.err, d.trace.steps, d.trace.runs, ty, payload, body⟩
  let size := fun (s : State) (rs : List PageRec) => (pageWords (lastClosed (getCd s cd) ctx) rs).length
  let s := if size s (openRecs (getCtx s p ctx) cd ++ [r]) > 508 then sealTrace s cd ctx else s
  let rs := openRecs (getCtx s p ctx) cd ++ [r]
  let s := onCtx s p ctx fun c => { c with openPage := (cd, rs) :: c.openPage.filter (·.1 != cd) }
  if size s rs = 508 then sealTrace s cd ctx else s
/-- The record of records lost, once it has room (R408, TYPE 7). -/
def lostRecord (s : State) (cd : Nat) : State :=
  let t := (getCd s cd).trace
  if t.lost = 0 || !t.trcctl.getLsbD 7 then s else
  let (ws, r) := recordWords s cd 7 t.lost
  if !ringRoom t ws.length then s else ringPut (onCd r cd fun d => { d with trace := { d.trace with lost := 0 } }) cd ws
/-- A record for a die's ring; one that is dropped is no previous record of the next (R75, R408). -/
def ringRecord (s : State) (cd ty payload : Nat) (body : List Nat) : State :=
  let (ws, r) := recordWords s cd ty payload
  ringPut (if ringRoom (getCd s cd).trace (ws ++ body).length then r else s) cd (ws ++ body)
/-- Writes a trace record of a context, if the die's TRCCTL enables its TYPE: to the die's ring, or to the
open page of a confidential context (R408, R409). -/
def traceRec (s : State) (cd ctx ty payload : Nat) (body : List Nat) : State :=
  let d := getCd s cd
  if !(d.trace.trcctl.getLsbD 31 && d.trace.trcctl.getLsbD ty) then s
  else if ty = 6 && !d.trace.sampctl.getLsbD 31 then s
  else if confidential s (pkgOf cd) ctx then pageRecord s cd ctx ty payload body
  else ringRecord (lostRecord s cd) cd ty payload body

/-! ## Fault records (R357 to R360, R436) -/

/-- The code of a cause (R357). -/
def causeCode : Cause → Nat
  | .ill => 1 | .rsvf => 2 | .priv => 3 | .align => 4 | .bounds => 5 | .noxl => 6 | .perm => 7 | .poison => 8
  | .mcrange => 9 | .pstack => 10 | .rlost => 11 | .dbg => 12 | .preempt => 13 | .launch => 16 | .unreach => 17
  | .alarm => 18 | .drain => 19 | .therm => 20
/-- STAT with the cause in FCLASS (R185, R357). -/
def withFclass (st : Word) (c : Cause) : Word := BitVec.ofNat 32 (setBits st.toNat 31 24 (causeCode c))
/-- The virtual number of a physical compute die in a context; 0xF where it is not bound (R17). -/
def virtualDie (c : Ctx) (p : Nat) : Nat :=
  ((List.range 8).find? fun k => bits c.vdt.toNat (4 * k + 3) (4 * k) == p).getD 15
/-- The record of an event of a wave (R359). -/
def waveRec (s : State) (w : Wave) (c : Cause) (code pc : Word) (oaddr : BitVec 64) (plm : Mask)
    (park kill double : Bool) : FaultRec × State :=
  let (t, s) := sampleTime s w.id.cd
  let p := pkgOf w.id.cd
  ({ pkg := p, time := t, cause := c, double := double, kill := kill, park := park
     conf := confidential s p w.ctx, ctx := w.ctx, vdie := virtualDie (getCtx s p w.ctx) (w.id.cd % 16)
     core := w.id.core, part := w.id.part, slot := w.id.slot, pc := pc, code := code, oaddr := oaddr, plm := plm
     blk := BitVec.ofNat 32 w.blk.idx, waiter := none }, s)
/-- A log-only record of an event of no wave (R358). -/
def plainRec (pkg : Nat) (t : BitVec 64) (c : Cause) (code : Word) (oaddr : BitVec 64) : FaultRec :=
  { pkg := pkg, time := t, cause := c, double := false, kill := false, park := false, conf := false, ctx := 0, vdie := 0
    core := 0, part := 0, slot := 0, pc := 0, code := code, oaddr := oaddr, plm := 0, blk := 0, waiter := none }
/-- The 64 bytes of a record; the log copy of a confidential context withholds bytes 16 to 47 (R359, R402). -/
def recBytes (r : FaultRec) (log : Bool) : List Byte :=
  let mid := bytesOf 4 r.pc.toNat ++ bytesOf 4 r.code.toNat ++ bytesOf 8 r.oaddr.toNat ++ bytesOf 12 r.plm.toNat ++
    bytesOf 4 r.blk.toNat
  bytesOf 8 r.time.toNat ++ bytesOf 1 (causeCode r.cause) ++
  bytesOf 1 (b2n r.double + 2 * b2n r.kill + 4 * b2n r.park + 8 * b2n r.conf) ++ bytesOf 2 r.ctx ++ bytesOf 1 r.vdie ++
  bytesOf 1 r.core ++ bytesOf 1 r.part ++ bytesOf 1 r.slot ++
  (if log && r.conf then bytesOf 32 0 else mid) ++ bytesOf 16 0

/-! ## Groups of a wave (R163) -/

/-- The group of a wave that is current (R163): the last joined one, or the block's; a handler wave's is
its issuer's (R142). -/
def currentGroup (w : Wave) : GroupRef :=
  match w.handler with
  | some h => h.group
  | none => (w.groups.getLast?).getD (.block w.blk)
/-- Every group a wave is a member of (R163, R165); a handler wave is a member of none. -/
def memberGroups (w : Wave) : List GroupRef := if isHandler w then [] else .block w.blk :: w.groups
/-- The member that a wave is. -/
def memberOf (w : Wave) : Member := ⟨w.blk, w.k⟩
/-- Every group that a wave's end or kill concerns: those it knows, and those that its block's resumption has made it a member
of before its `eret` (R165, R167, R173). -/
def groupsOf (s : State) (w : Wave) : List GroupRef :=
  if isHandler w then [] else
  memberGroups w ++ (s.groups.filter fun g => g.members.contains (memberOf w) && !(memberGroups w).contains g.ref).map (·.ref)
/-- A group event sent by the instruction that has just issued. -/
def sendGroup (s : State) (seq : Nat) (e : GroupEv) : State := { s with groupMsgs := s.groupMsgs ++ [⟨seq, e⟩] }

/-- Every entry of a core's write-combining buffer starts to drain, and the bytes that wait for one will (R69, R70). -/
def drainAll (s : State) (c : CoreId) : State :=
  onCore s c fun k => { k with wc := k.wc.map fun e => { e with draining := true }, wcWait := k.wcWait.map fun b => { b with due := true } }
/-- The wave ends (R250): it leaves its groups, its buffer entries drain, and its slot waits for its
operations. -/
def endWave (s : State) : State :=
  let w := s.cur
  let s := (groupsOf s w).foldl (fun s g => sendGroup s w.seq (.leave w.id g false (memberOf w))) s
  let s := drainAll s (coreId w.id)
  { s with cur := { s.cur with hold := .ended, mark := some s.nextId } }

/-- Registers in the resume code of a block (R174, R365). -/
def inResume (a : WaveArch) : Bool := a.trap && a.tsaddr != 0
/-- The registers after each instruction of a wave's commit window. -/
def windowAfter (w : Wave) : List WaveArch := (w.window.map (·.a)).drop 1 ++ [w.a]
/-- An `eret` of the resume code has issued and not committed (R368, R370). -/
def pendingEret (w : Wave) : Bool := (w.window.zip (windowAfter w)).any fun (p, a) => inResume p.a && !a.trap
/-- A kill (R367), whose record names a block: the wave issues nothing further, its operations complete without register writes, the
record is logged, and the groups it was a member of are abandoned. A resumed block no longer waits for its `eret` (R338),
and one that is being saved does not resume it (R367, R374). -/
def killFor (s : State) (w : Wave) (blk : Nat) (c : Cause) (code pc : Word) (oaddr : BitVec 64) (double : Bool) : State :=
  let (r, s) := waveRec s w c code pc oaddr 0 false true double
  let r := { r with blk := BitVec.ofNat 32 blk }
  let s := if isHandler w then s else sendGroup s 0 (.kill (memberOf w) (groupsOf s w))
  let s := { s with
    faults := updWhere (fun f => f.waiter == some w.id) (fun f => { f with waiter := none }) s.faults ++ [r] }
  let s := if pendingEret w then onBlock s w.blk fun b => { b with erets := b.erets - 1 }
    else if w.a.trap && w.a.tsaddr != 0 then
      onBlock s w.blk fun b => if b.liveW.contains w.k then b else { b with erets := b.erets - 1 }
    else s
  let s := if isHandler w then s else onBlock s w.blk fun b =>
    if b.state == .stopping then { b with liveW := b.liveW.filter (· != w.k) } else b
  let s := drainAll s (coreId w.id)
  let s := if c == .poison then onCd s w.id.cd fun d => { d with uncorr := sat16 d.uncorr } else s
  let s := match w.handler with
    | some h => onCore s (coreId w.id) fun k =>
        { k with reqs := updWhere (fun q => q.tag == h.tag) (fun q => { q with nkill := q.nkill + 1 }) k.reqs }
    | none => s
  let s := traceRec s w.id.cd w.ctx 3 (causeCode c * 2 ^ 32 + pc.toNat) []
  onWave s w.id fun w => { w with
    hold := .ended, window := [], undo := [], rlost := [], lostHeld := [], preempt := false, mark := some s.nextId, counted := [], samples := []
    ops := w.ops.map fun o => { o with left := true, sampled := none }
    a := { w.a with stat := withFclass w.a.stat c } }
/-- A kill whose record names the wave's own block (R359, R367). -/
def killWith (s : State) (w : Wave) (c : Cause) (code pc : Word) (oaddr : BitVec 64) (double : Bool) : State :=
  killFor s w w.blk.idx c code pc oaddr double
/-- A kill whose record carries no code (R359). -/
def killWave (s : State) (w : Wave) (c : Cause) (pc : Word) (oaddr : BitVec 64) (double : Bool) : State :=
  killWith s w c 0 pc oaddr double

/-! ## What a wave reads at a place (R69, R114)

Memory under the wave's own stores that have not been performed, and under the bytes of its core's
write-combining buffer. -/

/-- The byte at a place as it stands in memory, the scratchpad or the host. -/
def placeByte (s : State) (sp : Space) (a : Nat) : Byte :=
  match sp with
  | .dev => devByte s a
  | .scr c => scrByte (getCore s c) a
  | .host p => memByte s.hostMem (hostKey p a)
/-- The poison mark of a place (R58, R61). -/
def placePoison (s : State) (sp : Space) (a : Nat) : Bool :=
  match sp with
  | .dev => devPoison s a
  | .scr c => scrPois (getCore s c) a 1
  | .host _ => false
/-- The byte that an access writes at a place, if it covers it. -/
def accByte (x : LaneAcc) (sp : Space) (a : Nat) : Option Byte :=
  if x.tgt.space == sp && x.tgt.addr ≤ a && a < x.tgt.addr + x.sz then
    some (BitVec.ofNat 8 (x.val / 256 ^ (a - x.tgt.addr)))
  else none
/-- An atomic of which some lane's RMW has been made has still to access a 64-byte unit: until it has, no error and no write marks the
unit, since an atomic that meets poison performs no RMW (R61, R291; log entry 109). -/
def atomOpen (s : State) (sp : Space) (k : Nat) : Bool :=
  (allWaves s).any fun w => w.ops.any fun o => (match o.kind with | .atom _ => true | _ => false) &&
    (!o.done.isEmpty || o.lock.isSome) && o.acc.any fun y => y.tgt.space == sp && y.tgt.addr / 64 == k
/-- The last of a list of accesses that writes a place. -/
def lastByte (xs : List LaneAcc) (sp : Space) (a : Nat) : Option Byte := xs.reverse.findSome? fun x => accByte x sp a
/-- The byte that an operation still has to write at a place: that of the highest lane, unless that lane's has been
performed (R286). -/
def opByte (o : Op) (sp : Space) (a : Nat) : Option Byte :=
  o.acc.reverse.findSome? fun x => if o.done.any fun y => x.lane < y.lane && (accByte y sp a).isSome then none else accByte x sp a
/-- The last byte that operations, oldest first, still have to write at a place. -/
def opsByte (os : List Op) (sp : Space) (a : Nat) : Option Byte := os.reverse.findSome? fun o => opByte o sp a
/-- The operation carries writes of its wave: stores, and stores of the wave's hardware. -/
def isStoreOp (o : Op) : Bool := o.kind == .store || o.kind == .frame
/-- The byte of a place in the write-combining buffer of a core (R69). -/
def wcByte (c : Core) (sp : Space) (a : Nat) : Option Byte :=
  let byte := fun (p : Space) (l : Nat) (m : BitVec 128) (d : BitVec 1024) =>
    if p == sp && l == a / 128 && m.getLsbD (a % 128) then some (d.extractLsb' (a % 128 * 8) 8) else none
  (c.wcWait.reverse.findSome? fun b => byte b.space b.line b.mask b.data).orElse fun _ =>
    c.wc.reverse.findSome? fun e => byte e.space e.line e.mask e.data
/-- The byte that a wave's own later access reads (R114). -/
def viewByte (s : State) (w : Wave) (sp : Space) (a : Nat) : Byte :=
  match opsByte (w.ops.filter isStoreOp) sp a with
  | some b => b
  | none => match wcByte (getCore s (coreId w.id)) sp a with
    | some b => b
    | none => placeByte s sp a
/-- n bytes of a wave's view, as a number. -/
def viewNat (s : State) (w : Wave) (t : Target) (n : Nat) : Nat :=
  leNat ((List.range n).map fun i => viewByte s w t.space (t.addr + i))
/-- First byte and size of what carries one poison mark with a byte: a sector, or a 64-bit scratchpad word (R58, R61). -/
def poisonUnit (sp : Space) (a : Nat) : Nat × Nat :=
  match sp with
  | .scr _ => (a / 8 * 8, 8)
  | _ => (a / 64 * 64, 64)
/-- One store of a list replaces all that carries a mark with a byte; a store of a part leaves the mark (R58, R61). -/
def unitStored (os : List Op) (sp : Space) (a : Nat) : Bool :=
  let u := poisonUnit sp a
  os.any fun o => (List.range u.2).all fun i => (lastByte (o.acc ++ o.done) sp (u.1 + i)).isSome
/-- A write-combining entry holds a whole sector. -/
def sectorHeld (c : Core) (sp : Space) (a : Nat) : Bool :=
  c.wc.any fun e => e.space == sp && e.line == a / 128 && e.mask.extractLsb' (a % 128 / 64 * 64) 64 == BitVec.allOnes 64
/-- A write-combining entry with a failed check value holds a byte (R62). -/
def wcMarked (c : Core) (sp : Space) (a : Nat) : Bool :=
  c.wc.any fun e => e.space == sp && e.line == a / 128 && e.mask.getLsbD (a % 128) && e.pois.getLsbD (a % 128 / 64)
/-- A byte that a wave's own later access finds poisoned. -/
def viewPoison (s : State) (w : Wave) (t : Target) (n : Nat) : Bool :=
  let c := getCore s (coreId w.id)
  (List.range n).any fun i =>
    (wcMarked c t.space (t.addr + i) || (placePoison s t.space (t.addr + i) && !sectorHeld c t.space (t.addr + i))) &&
    !unitStored (w.ops.filter isStoreOp) t.space (t.addr + i)

/-! ## Taking an exception, and returning from one (R361 to R366) -/

/-- Fields of TRAPDESC (R362). -/
def saveObj (c : Ctx) : Nat := bits c.trapdesc.toNat 127 104
def saveCount (c : Ctx) : Nat := bits c.trapdesc.toNat 103 88
def saveSize (c : Ctx) : Nat := bits c.trapdesc.toNat 87 80 * 65536
def trapObj (c : Ctx) : Nat := bits c.trapdesc.toNat 79 56
def resumeEntry (c : Ctx) : Word := BitVec.ofNat 32 (bits c.trapdesc.toNat 47 24 * 4)
def trapEntryPc (c : Ctx) : Word := BitVec.ofNat 32 (bits c.trapdesc.toNat 23 0 * 4)
/-- An object address. -/
def objAddr (id off : Nat) : BitVec 64 := BitVec.ofNat 64 (id * 2 ^ 40 + off)
/-- The address of a wave's frame for any cause but PREEMPT (R363). -/
def frameAddr (c : Ctx) (w : WaveId) : BitVec 64 :=
  objAddr (trapObj c) (1024 * (((w.cd % 16 * 96 + w.core) * 4 + w.part) * 16 + w.slot))
/-- The address of a wave's frame in save area `area` (R368). -/
def saveFrameAddr (c : Ctx) (area k : Nat) : BitVec 64 := objAddr (saveObj c) (area * saveSize c + 0x1000 + 0x400 * k)

/-- The code of a path-stack kind (R187). -/
def pkindCode : PKind → Nat | .els => 0 | .merge => 1 | .brk => 2 | .cont => 3
/-- A kind that is written (R187). -/
def pkindOf (n : Nat) : Option PKind :=
  if n = 0 then some .els else if n = 1 then some .merge else if n = 2 then some .brk else if n = 3 then some .cont else none
/-- The 24 bytes of a path-stack entry (R187). -/
def entryBytes (e : PathEntry) : List Byte :=
  bytesOf 4 (pkindCode e.kind) ++ bytesOf 4 e.pc.toNat ++ bytesOf 4 e.rpc.toNat ++ bytesOf 12 e.mask.toNat
/-- A path-stack entry read back; none if its KIND is never written (R187). -/
def entryOfNat (x : Nat) : Option PathEntry :=
  (pkindOf (bits x 2 0)).map fun k =>
    ⟨k, BitVec.ofNat 96 (bits x 191 96), BitVec.ofNat 32 (bits x 95 64), BitVec.ofNat 32 (bits x 63 32)⟩
/-- Key and cluster bit of a joined group. -/
def groupKey : GroupRef → Word
  | .block _ => 0 | .core _ _ k => k | .cluster _ _ _ k => k
def groupIsCluster : GroupRef → Bool | .cluster .. => true | _ => false

/-- The 1,024 bytes of a trap frame (R364). -/
def frameBytes (w : Wave) (r : FaultRec) (resume : Word) : List Byte :=
  let a := w.a
  let flags := (List.range 12).foldl (fun n i => n + (flagOf a i).toNat * 16 ^ i) 0
  let tx := (List.range 7).flatMap fun i =>
    let t := a.tx.toArray.getD i {}
    bytesOf 8 (t.id ++ t.base).toNat ++ bytesOf 8 (b2n t.v)
  let gs := w.groups.take 3
  let keys := (List.range 3).flatMap fun i => bytesOf 4 (((gs[i]?).map fun g => (groupKey g).toNat).getD 0)
  let gbits := (List.range 3).foldl (fun n i => n + b2n (((gs[i]?).map groupIsCluster).getD false) * 2 ^ i) (gs.length * 8)
  let stack := (List.range 16).flatMap fun i => ((a.stack[i]?).map entryBytes).getD (bytesOf 24 0)
  recBytes r false ++ bytesOf 4 resume.toNat ++ bytesOf 4 0 ++ bytesOf 12 a.em.toNat ++ bytesOf 12 a.xl.toNat ++
  bytesOf 4 a.mode.toNat ++ bytesOf 4 a.mmode.toNat ++ bytesOf 4 a.stat.toNat ++ bytesOf 8 flags ++ bytesOf 4 a.depth ++
  bytesOf 8 0 ++ tx ++ keys ++ bytesOf 4 gbits ++ stack ++ bytesOf 384 0

/-- The largest size that is accessed at once at a place (R66). -/
def pieceLimit (t : Target) : Nat := match t.space with | .scr _ => 64 | .dev => 32 | .host _ => 8
/-- An access in pieces that are performed at once each; a piece's `cmp` is its offset (R66). -/
def splitAcc (x : LaneAcc) : List LaneAcc :=
  let z := pieceLimit x.tgt
  if x.sz ≤ z then [x] else (List.range (ceilDiv x.sz z)).map fun i =>
    { x with tgt := { x.tgt with addr := x.tgt.addr + z * i }, oaddr := x.oaddr + BitVec.ofNat 64 (z * i)
             sz := Nat.min z (x.sz - z * i), val := x.val / 256 ^ (z * i), cmp := z * i }
/-- A write of the wave's own hardware from a place on, in pieces (R66). -/
def piecesOf (ad : BitVec 64) (t : Target) (bs : List Byte) : List LaneAcc :=
  splitAcc ⟨0, t, ad, bs.length, leNat bs, 0⟩

/-- Some long-latency instruction of the wave is not complete (R361). -/
def pendingLong (w : Wave) : Bool := w.ops.any fun o => o.flag.isSome
/-- The same without its tile tasks, which a pre-emption does not wait for (R172). -/
def pendingLongNoTile (w : Wave) : Bool := w.ops.any fun o => o.flag.isSome && o.kind != .tile

/-- The page of an object address (R32). -/
def pageOf (ad : BitVec 64) : BitVec 24 × Nat := (ad.extractLsb' 40 24, (ad.extractLsb' 16 24).toNat)
/-- The address of the frame that a pending trap of a wave writes (R363, R368). -/
def pendFrame (s : State) (w : Wave) (r : FaultRec) : BitVec 64 :=
  let c := getCtx s (pkgOf w.id.cd) w.ctx
  if r.cause = .preempt then saveFrameAddr c (((getBlock s w.blk).map (·.area)).getD 0) w.k else frameAddr c w.id
/-- TAKING AN EXCEPTION at a precise point (R363): the frame is written at `addr` by stores of the wave, STAT
takes the cause, but for PREEMPT, which is neither fault nor kill (R185, R417), the wave enters trap state at privileged level, TFADDR, TSADDR and TSCR are set, and the PC
goes to TRAPENT; the record goes to the log, whose acknowledgement the handler waits for (R360). A frame that
cannot be written kills the wave (R361); one whose page is being walked, or in migration wait, is tried again (R41, R45). -/
def enterTrap (s : State) (w : Wave) (r : FaultRec) (resume : Word) (addr tsaddr : BitVec 64) : State :=
  let p := pkgOf w.id.cd
  match translate s w 0b010 (pageOf addr).1 (addr.extractLsb' 0 40).toNat 1024 with
  | .fault _ c => killWave s { w with a := { w.a with trap := true } } c resume 0 true
  | .wait _ => putWave s { w with hold := .trapPending r resume, xres := [] }
  | .walk id page =>
    let d := getCd s w.id.cd
    let s := if d.walks.length < 16 || walking d w.ctx (id, page) then startWalks s w [(id, page)] else s
    putWave s { w with hold := .trapPending r resume }
  | .ok t =>
    let a := if r.cause = .preempt then w.a else { w.a with stat := withFclass w.a.stat r.cause }
    let bs := frameBytes { w with a := a } r resume
    let o : Op := { newOp s .frame 0 15 with seq := w.seq + 1, pc := resume, flag := none, acc := piecesOf addr t bs }
    let w' : Wave := { w with
      window := w.window ++ [⟨w.seq + 1, w.a⟩], seq := w.seq + 1, ops := w.ops ++ [o]
      hold := .logWait, xres := [], mark := none, rlost := [], lostHeld := if r.cause = .rlost then w.rlost.drop 1 else w.rlost
      undo := w.undo ++ [⟨w.seq + 1, w.groups, w.rlost, w.lostHeld⟩]
      a := { a with trap := true, pc := trapEntryPc (getCtx s p w.ctx), tfaddr := addr, tsaddr := tsaddr
                    tscr := Vector.replicate 4 0 } }
    putWave { copyTlbAt s w addr with nextId := s.nextId + 1, faults := s.faults ++ [{ r with waiter := some w.id }] } w'
/-- A fault of the issuing wave (R357), whose record names a block: a trap, or a kill in trap state (R361) and in a handler wave (R143);
entry waits until every accepted long-latency instruction has completed (R213, R254). -/
def raiseTrapFor (s : State) (blk : Nat) (c : Cause) (code : Word) (resume pc : Word) (oaddr : BitVec 64) (plm : Mask) (park : Bool) : State :=
  let w := s.cur
  if w.a.trap || isHandler w then killFor s w blk c code pc oaddr w.a.trap
  else
    let (r, s) := waveRec s w c code pc oaddr plm park false false
    let r := { r with blk := BitVec.ofNat 32 blk }
    if pendingLong w then holdCur s (.trapPending r resume)
    else enterTrap s s.cur r resume (frameAddr (getCtx s (pkgOf w.id.cd) w.ctx) w.id) 0
/-- A fault of the issuing wave whose record names the wave's own block (R359). -/
def raiseTrap (s : State) (c : Cause) (code : Word) (resume pc : Word) (oaddr : BitVec 64) (plm : Mask) (park : Bool) : State :=
  raiseTrapFor s s.cur.blk.idx c code resume pc oaddr plm park
/-- A trap at the instruction with no address (R214). -/
def trapAt (s : State) (c : Cause) : State := raiseTrap s c 0 s.cur.a.pc s.cur.a.pc 0 0 false
/-- One more replay of the instruction at the PC (R407). -/
def countReplay (s : State) : State :=
  if s.cur.a.trap then s else { s with cur := { s.cur with replays := s.cur.replays + 1 } }
/-- The instruction at the PC waits under migration and is executed again (R45). -/
def holdMigration (s : State) (id : BitVec 24) : State := holdCur (countReplay s) (.migration id)
/-- A park at the instruction, replayed after the handler's `eret` (R45). -/
def parkAt (s : State) (c : Cause) (oaddr : BitVec 64) (plm : Mask) : State :=
  raiseTrap (countReplay s) c 0 s.cur.a.pc s.cur.a.pc oaddr plm true
/-- A park with every active lane in the PLM (R359). -/
def parkActive (s : State) (c : Cause) (oaddr : BitVec 64) : State := parkAt s c oaddr s.cur.a.em

/-- The translation register that `xlat` of an object address sets, from the walk of its page (R39); a shadow
gives no permission (R38), and the window stops where installed memory does (R37, R42). -/
def txOf (old : TxReg) (addr : BitVec 64) (o : WalkOut) : TxReg :=
  let id := addr.extractLsb' 40 24
  let base := addr.extractLsb' 0 40
  let t := { old with v := true, cl := id == clusterId, id := id, base := base, lo := base, hi := base.setWidth 41 }
  if t.cl || id = 0 then t else
  match o with
  | .absent => t
  | .found len perm sh k c page lo hi =>
    let t := { t with perm := if sh then 0 else perm, kind := k, coh := c }
    match page with
    | .frame f =>
      if base.toNat < len then
        let f0 := (f.toNat + 2 ^ 40 - (base.toNat / 65536 - lo / 65536)) % 2 ^ 40
        let installed := match k with
          | .dev => lo + (0x1800000 - f0) * 65536
          | .pod => lo + (0x1800000 - f0 % 2 ^ 28) * 65536
          | .host => hi
        { t with lo := BitVec.ofNat 40 lo, frame := BitVec.ofNat 40 f0
                 hi := BitVec.ofNat 41 (Nat.min (Nat.min hi installed) (Nat.min len (base.toNat + 2 ^ 32))) }
      else t
    | _ => t
/-- The walk that `xlat` of an address needs. -/
def walkAddr (s : State) (pkg ctx : Nat) (addr : BitVec 64) : WalkOut :=
  walkPage s pkg ctx (addr.extractLsb' 40 24).toNat ((addr.extractLsb' 0 40).toNat / 65536)

/-- A saved tile task of a wave that names a flag (R338, R366). -/
def savedTasks (s : State) (w : Wave) (n : Nat) : Nat :=
  ((getCore s (coreId w.id)).tiles.filter fun t => t.saved && t.blk == w.blk && t.k == w.k && t.flag == n).length

/-- The wave-scope part of a release, for what the wave issued before number n (R123): its loads, atomics and
collective operations have returned and its stores have left the commit window. -/
def ownReleased (w : Wave) (n : Nat) : Bool :=
  w.ops.all fun o => n ≤ o.id || match o.kind with
    | .load _ | .atom _ | .coll _ => false
    | .store | .frame => o.left
    | _ => true
/-- A register and lanes written, noted in an older operation that writes the same register (R212). -/
def noteClash (ds : List Nat) (m : Mask) (o : Op) : Op :=
  { o with clash := o.clash ++ (ds.filter fun d => o.dst.toNat ≤ d && d < o.dst.toNat + o.nreg).map fun d => (d, m) }
/-- Vector registers written at the issue of an instruction, in the lanes of a mask, are noted in the operations that were
outstanding (R212). -/
def noteWrites (ds : List VSel) (m : Mask) (old : Wave) : Res → Res
  | .next t =>
    match ds with
    | [] => .next t
    | d :: ds =>
      if t.cur.seq = old.seq + 1 then
        .next { t with cur := { t.cur with ops := t.cur.ops.map (noteClash ((d :: ds).map (·.toNat)) m) } }
      else .next t
  | r => r
/-- The vector registers that an instruction writes as it issues. -/
def shortDsts (i : Instr) : List VSel := if (formOf i).la.isSome then [] else (formOf i).dsts
/-- The lanes in which it writes them: the active ones, or the one that `vwrl` names (R258, R270). -/
def shortLanes (i : Instr) (a : WaveArch) : Mask :=
  match i with
  | .vwrl _ _ b => maskOf fun l => l == (readS a b).toNat
  | _ => a.em

/-- The guard of every instruction word's meaning: a wave is issuing, the checks of R214 pass or trap, and the
instruction may issue now or stalls. -/
def checked (i : Instr) (s : State) (k : State → Res) : Res :=
  if !s.cur.live then .fault .noWave
  else match decodeTrap i s.cur with
    | some c => .next (trapAt s c)
    | none => if mayIssue i s.cur then noteWrites (shortDsts i) (shortLanes i s.cur.a) s.cur (k s) else .next (stall s)
/-- The meaning of an instruction that only changes registers and moves on (R225, R258). -/
def simple (i : Instr) (s : State) (f : WaveArch → WaveArch) : Res :=
  checked i s fun s => .next (advance (mapA (issue s) f))

/-- The die, core and partition of the wave let it issue: the die runs and is not held, the partition is not
stopped (R20, R256, R391, R404). -/
def partitionRuns (s : State) (id : WaveId) : Bool :=
  let d := getCd s id.cd
  d.power == .run && !d.held && !d.thermal && !(getCore s (coreId id)).stopped.getLsbD id.part
/-- Same partition. -/
def samePart (a b : WaveId) : Bool := a.cd == b.cd && a.core == b.core && a.part == b.part
/-- The older of two waves in the active set; on a tie the one whose slot comes first behind the last pick's (R161). -/
def older (last : Nat) (a b : Wave) : Wave :=
  if b.since < a.since || (b.since == a.since && (b.id.slot + 15 - last) % 16 < (a.id.slot + 15 - last) % 16) then b else a
/-- The slot of a partition's last pick (R161). -/
def lastSlotOf (s : State) (w : WaveId) : Nat := (getCore s (coreId w)).lastSlot.toArray.getD w.part 15
/-- Picks elsewhere since the partition was last picked, in which it had a ready wave (R168). -/
def skippedOf (s : State) (w : WaveId) : Nat := (getCore s (coreId w)).skipped.toArray.getD w.part 0
/-- HFIRST of a wave's launch (R354). -/
def hfirst (s : State) (w : Wave) : Bool := match getLaunch s w.blk.launch with
  | some l => l.flags.getLsbD 3
  | none => false
/-- A wave becomes the issuing one. -/
def focusOn (s : State) (w : Wave) : State :=
  if s.cur.live && s.cur.id == w.id then s
  else { s with cur := w, waves := (if s.cur.live then [s.cur] else []) ++ s.waves.filter fun x => !(x.id == w.id) }
/-- A bit of a 4-bit set of partitions. -/
def setPart (x : BitVec 4) (p : Nat) (b : Bool) : BitVec 4 :=
  if b then x ||| (1 <<< p) else x &&& ~~~((1 : BitVec 4) <<< p)

end Sys2Proof.Machine
end

