-- ==== Sys2Proof/Machine/Fetch.lean ====
section
/-! DEFINITION. Fetching: table walks that an instruction waits for, and the translation of a PC. -/

namespace Sys2Proof.Machine

/-- The issuing wave waits for the table walks of its pages: those in progress, and of the others as many as make 16 at its
die; where it can wait for none it tries again later (R41). -/
def waitWalks (s : State) (pages : List (BitVec 24 × Nat)) : State :=
  let now := walkable (getCd s s.cur.id.cd) s.cur.ctx pages
  if now.isEmpty then stall s else holdCur (startWalks s s.cur now) (.walk now)

/-- The value read from a place at once: n bytes, little-endian. -/
def readPlace (s : State) (t : Target) (n : Nat) : Nat :=
  match t.space with
  | .dev => devNat s t.addr n
  | .scr c => scrNat (getCore s c) t.addr n
  | .host p => memNat s.hostMem (hostKey p t.addr) n

/-- The object address of the word at a PC of the wave's code object (R203). -/
def codeAddr (w : Wave) (pc : Word) : BitVec 64 := w.code ++ pc.setWidth 40
/-- What a fetch of the word at a PC finds, checked under R42 with the X permission (R203). -/
def fetchOut (s : State) (w : Wave) (pc : Word) : LaneOut :=
  if pc.toNat % 4 = 0 then translate s w 0b100 w.code pc.toNat 4 else .fault 1 .align

end Sys2Proof.Machine
end

