-- ==== Sys2Proof/Machine/Release.lean ====
section
/-! DEFINITION. The conditions of releases (R123, R127) and the broadcasts that wait for acknowledgements:
translation invalidations (R47) and write-backs (R170, R255). -/

namespace Sys2Proof.Machine

/-- What a core's write-combining buffer held before number n has drained (R70). -/
def bufferDrained (s : State) (c : CoreId) (n : Nat) : Bool :=
  (getCore s c).wc.all (fun e => n ≤ e.n) && (getCore s c).wcWait.all fun b => n ≤ b.n
/-- Every store and atomic that a core issued before number n has been acknowledged where it is performed, and what its
write-combining buffer held has drained: the group-scope and wider part of a release (R123). -/
def coreReleased (s : State) (c : CoreId) (n : Nat) : Bool :=
  ((allWaves s).filter fun w => coreId w.id == c).all (fun w =>
    w.ops.all fun o => n ≤ o.id || match o.kind with
      | .store | .frame | .atom _ | .coll _ => false
      | _ => true) && bufferDrained s c n
/-- A release at a scope may be performed now: what the buffer held has drained whatever the scope (R70); host writes leave the
model's core only when the host has them, so the sys row asks nothing more than the row before it (R123). -/
def releasedBefore (s : State) (w : Wave) (sc : Scope) (n : Nat) : Bool :=
  ownReleased w n && bufferDrained s (coreId w.id) n && (match sc with
    | .wave => true
    | _ => coreReleased s (coreId w.id) n)
/-- A release by the instruction at the PC: of what was there as it began to wait, or now. -/
def released (s : State) (w : Wave) (sc : Scope) : Bool := releasedBefore s w sc (w.mark.getD s.nextId)
/-- Waits for a release: what the buffer holds as the wait begins drains, and the instruction is tried again (R70, R123). -/
def waitRelease (s : State) : State :=
  if s.cur.mark.isSome then stallBy .leave s
  else
    let s := drainAll s (coreId s.cur.id)
    stallBy .leave { s with cur := { s.cur with mark := some s.nextId } }

/-- A group event by which a wave leaves its groups as it ends or is killed is on its way (R165). -/
def leaveOf (w : Wave) (m : GroupMsg) : Bool :=
  match m.ev with
  | .leave _ _ _ x => x == memberOf w
  | .kill x _ => x == memberOf w
  | _ => false
/-- A wave that no longer needs its slot: it has ended, its leaves are counted, its requests are complete, and what the
write-combining buffer held of it has drained. It does not wait for its stores (R69, R148, R165, R250). -/
def slotFreed (s : State) (w : Wave) : Bool :=
  w.hold == .ended && w.window.isEmpty && !s.groupMsgs.any (leaveOf w) &&
  w.ops.all (fun o => match o.kind with
    | .engine _ => false
    | _ => true) && bufferDrained s (coreId w.id) (w.mark.getD 0)
/-- An ended wave whose slot is taken again while operations of it are outstanding goes on under a number of its own (R250). -/
def moveEnded (s : State) (id : WaveId) : State :=
  let new : WaveId := { id with slot := 64 + s.nextId }
  let moved := fun x : WaveId => if x = id then new else x
  let s := mapWaves s fun w => if w.id = id then { w with id := new } else w
  onCore { s with nextId := s.nextId + 1 } (coreId id) fun c => { c with
    tiles := c.tiles.map fun t => { t with wave := moved t.wave }
    reqs := c.reqs.map fun q => { q with issuer := moved q.issuer }
    nm := c.nm.map fun q => { q with wave := moved q.wave } }
/-- Starts an invalidation of pages of an object, or of all of it, at every counted die of the package (R47). -/
def startInval (s : State) (pkg ctx : Nat) (id : BitVec 24) (first count : Nat) (iod : Option Nat) : Nat × State :=
  let k := s.nextId
  let ds := countedDies s pkg
  (k, { s with
    nextId := k + 1
    invals := s.invals ++ [{ k := k, pkg := pkg, ctx := ctx, id := id, first := first, count := count, todo := ds, acks := ds, marks := [], iod := iod }] })
/-- Starts a write-back at some dies of the package: of given pages (global frame numbers), or of every modified
sector (R170, R255). -/
def startWritebackAt (s : State) (pkg : Nat) (ds : List Nat) (frames : Option (List Nat)) (inv : Bool) (launch : Option Nat) :
    Nat × State :=
  let k := s.nextId
  (k, { s with
    nextId := k + 1
    wbs := if ds.isEmpty then s.wbs
      else s.wbs ++ [{ k := k, pkg := pkg, frames := frames, inv := inv, owed := ds, launch := launch }]
    net := s.net ++ ds.map fun d => { src := iodUnit pkg 0, dst := d, body := .writeback k } })
/-- Starts a write-back at every counted die of the package (R255). -/
def startWriteback (s : State) (pkg : Nat) (frames : Option (List Nat)) (inv : Bool) : Nat × State :=
  startWritebackAt s pkg (countedDies s pkg) frames inv none

/-- The global frame numbers of the pages [first, first + count) of an object, moving ones among them, holes and pages beyond
LENGTH left out; every page when count is 0 (R255). -/
def pageFrames (s : State) (pkg ctx : Nat) (id : Nat) (first count : Nat) : List Nat :=
  match validEntry s (getCtx s pkg ctx) id with
  | none => []
  | some e =>
    let n := ceilDiv (bits e 39 0) 65536
    let hi := if count = 0 then n else Nat.min n (first + count)
    let lo := if count = 0 then 0 else first
    (span lo (hi - lo)).filterMap fun p =>
      (pageFrame e p (entryRun s pkg e p)).bind fun f =>
        let t := frameTarget pkg ((kindOf (bits e 45 44)).getD .dev) .pkg f 0
        if t.space = .dev then some (t.addr / 65536) else none

end Sys2Proof.Machine
end

