-- ==== Sys2Proof/Machine/Tokens.lean ====
section
/-! DEFINITION. Token coherence (R79 to R108): the requests of compute dies and homes, and the operations that the
coherence messages share. -/

namespace Sys2Proof.Machine

/-- Serial a is newer than serial b (R84). -/
def newer (a b : BitVec 16) : Bool := 1 ≤ (a - b).toNat && (a - b).toNat ≤ 0x7FFF
/-- A unit is a compute die. -/
def isCd (u : Nat) : Bool := u < 0x100000 && u % 16 < 8
/-- The sort key of a requester: memory-side units first, then package, then unit (R90). -/
def trumpKey (u : Nat) : Nat := (if isCd u then 0x10000 else 0) + u
/-- A package has been removed for another (R389). -/
def isRemoved (s : State) (pkg far : Nat) : Bool := (getPkg s pkg).removed.contains far
/-- A package can be reached over the fabric: it is there and the route entry is valid (R386, R389). -/
def pkgReachable (s : State) (pkg far : Nat) : Bool :=
  pkg == far || (!isRemoved s pkg far && (getPkg s pkg).froute.any fun e => e.1 == far && e.2.getLsbD 12)
/-- The packages of a coherence group: those whose multicast entry delivers locally (R388; log entry 13). -/
def groupPkgs (s : State) (g : Nat) : List Nat :=
  (s.pkgs.filter fun p => p.mcgroups.any fun e => e.1 == g && e.2.getLsbD 32).map (·.id)
/-- The packages that the counted messages of a home reach: its own, and for a POD sector those of the group, but for removed and
unreachable ones (R101). -/
def countPkgs (s : State) (x : Nat) : List Nat :=
  let h := getHome s x
  let p := pkgOf (homeUnit x)
  if h.pod then (dedup (p :: groupPkgs s h.pcg)).filter fun q => pkgReachable s p q && !(countedDies s q).isEmpty else [p]
/-- Every compute die that the counted messages of a home reach (R83, R101). -/
def groupDies (s : State) (x : Nat) : List Nat := (countPkgs s x).flatMap (countedDies s)
/-- The units whose acknowledgements a home counts: its package's dies, or for a POD sector an I/O die for each package of the group,
its own among them (R83, R101). -/
def countUnits (s : State) (x : Nat) : List Nat :=
  if (getHome s x).pod then (countPkgs s x).map fun q => iodUnit q 0 else groupDies s x

/-- The package of a unit, an I/O die's included. -/
def unitPkg (u : Nat) : Nat := if 0x100000 ≤ u then (u - 0x100000) / 2 else pkgOf u
/-- The package whose router has a message (R387). -/
def msgPkg (m : Msg) : Nat := m.pos.getD (unitPkg m.src)
/-- A message has reached the package of its destination (R387). -/
def arrived (m : Msg) : Bool := msgPkg m == unitPkg m.dst
/-- A message sent. -/
def send (s : State) (src dst : Nat) (b : MsgBody) : State := { s with net := s.net ++ [{ src := src, dst := dst, body := b }] }
/-- A message sent to each of a list of units. -/
def sendAll (s : State) (src : Nat) (ds : List Nat) (b : MsgBody) : State :=
  { s with net := s.net ++ ds.map fun d => { src := src, dst := d, body := b } }
/-- A message given to the package's router for a multicast group (R388). -/
def multicast (s : State) (pkg g src : Nat) (b : MsgBody) : State :=
  onPkg s pkg fun p => { p with mcIn := p.mcIn ++ [{ group := g, body := b, src := src, via := none }] }
/-- A message of a home to every compute die of its package, and for a POD sector to the group (R83, R101). -/
def broadcast (s : State) (x : Nat) (b : MsgBody) : State :=
  let u := homeUnit x
  let h := getHome s x
  let qs := countPkgs s x
  let s := sendAll s u (countedDies s (pkgOf u)) b
  if h.pod then
    let s := qs.foldl (fun s q => onPkg s q fun p => { p with acks := (x, countedDies s q) :: p.acks.filter (·.1 != x) }) s
    multicast s (pkgOf u) h.pcg u b
  else s
/-- A die's acknowledgement, to the home, or for a POD sector to its package's I/O die (R83, R101). -/
def sendAck (s : State) (cd x : Nat) : State :=
  if pkgOf cd = pkgOf (homeUnit x) ∧ (getHome s x).pod = false then send s cd (homeUnit x) (.ack x cd)
  else send s cd (iodUnit (pkgOf cd) 0) (.ack x cd)
/-- An I/O die counts an acknowledgement of its package, and with the last answers for the package (R101). -/
def pkgAck (s : State) (q x die : Nat) : State :=
  match (getPkg s q).acks.find? (·.1 == x) with
  | none => s
  | some (_, ds) =>
    let left := ds.filter (· != die)
    if !ds.contains die then s
    else if left.isEmpty then
      send (onPkg s q fun p => { p with acks := p.acks.filter (·.1 != x) }) (iodUnit q 0) (homeUnit x) (.ack x (iodUnit q 0))
    else onPkg s q fun p => { p with acks := (x, left) :: p.acks.filter (·.1 != x) }

/-! ## Hotness (R73, R74) -/

/-- Index of a frame in row j of the sketch (R73). -/
def hotIndex (f j : Nat) : Nat := f * [0x9E3779B1, 0x85EBCA77, 0xC2B2AE3D, 0x27D4EB2F].getD j 0 % 2 ^ 32 / 2 ^ 20
/-- A counter of the sketch. -/
def hotCell (d : MDie) (j i : Nat) : Nat := ((d.sketch.find? fun c => c.1 == j && c.2.1 == i).map (·.2.2)).getD 0
/-- A counter raised by one, saturating (R73). -/
def hotBump (d : MDie) (j i : Nat) : MDie :=
  { d with sketch := upsert (fun c => c.1 == j && c.2.1 == i) (fun c => (j, i, Nat.min 0xFFFF (c.2.2 + 1))) (j, i, 0) d.sketch }
/-- The least candidate: by estimate, the higher frame on a tie (R74). -/
def leastCand (l : List HotCand) : Option HotCand :=
  match l with
  | [] => none
  | c :: cs => some (cs.foldl (fun a b => if b.est < a.est || (b.est == a.est && a.frame < b.frame) then b else a) c)
/-- A counted request for a frame at its home, from a compute die of the package or from elsewhere; only the first sets a bit of
the die mask (R73, R74; log entry 82). -/
def hotReq (d : MDie) (f : Nat) (die : Option Nat) : MDie :=
  if !d.hotctl.getLsbD 0 then d else
  let d := (List.range 4).foldl (fun d j => hotBump d j (hotIndex f j)) d
  let x := minOf 0xFFFF ((List.range 4).map fun j => hotCell d j (hotIndex f j))
  let bit : BitVec 8 := match die with
    | some p => (1 : BitVec 8) <<< p
    | none => 0
  let c : HotCand := ⟨f, x, bit⟩
  if d.cands.any (·.frame == f) then
    { d with cands := updWhere (·.frame == f) (fun c => { c with est := x, dies := c.dies ||| bit }) d.cands }
  else if d.cands.length < 64 then { d with cands := d.cands ++ [c] }
  else match leastCand d.cands with
    | some l => if l.est < x then { d with cands := d.cands.filter (·.frame != l.frame) ++ [c] } else d
    | none => d
/-- A request for a sector counted at its home, whose slice then holds the line (R54, R73). -/
def countHot (s : State) (x : Nat) (die : Option Nat) : State :=
  let u := homeUnit x
  let own := die.bind fun d => if pkgOf d = pkgOf u ∧ isCd d then some (d % 16) else none
  sliceTouch (onMd s u fun d => hotReq d (x / 1024 % 2 ^ 28) own) x false

/-! ## Requests of a compute die (R82, R88, R89) -/

/-- The predicted dies of a sector's 4 KiB region; every enabled die where there is no entry, or where DSP says so
(R88, R108). -/
def predicted (s : State) (cd x : Nat) : List Nat :=
  let d := getCd s cd
  let all := (countedDies s (pkgOf cd)).filter (· != cd)
  if d.dsp = 0 ∨ d.dsp = 2 then
    match d.pred.find? (·.1 == x / 64) with
    | some (_, m) => all.filter fun u => m.getLsbD (u % 16)
    | none => all
  else all
/-- A die is added to the predictor's mask of a region: 4,096 entries in sets of 4 (R88). Only under DSP = 0 is it trained; a new region
takes the place of the set's oldest entry where the set is full (log entry 88). -/
def train (s : State) (cd x : Nat) (die : Nat) : State :=
  if (getCd s cd).dsp != 0 || pkgOf die != pkgOf cd || !isCd die || die == cd then s else
  onCd s cd fun d =>
    let r := x / 64
    let bit : BitVec 8 := (1 : BitVec 8) <<< (die % 16)
    if d.pred.any (·.1 == r) then { d with pred := updWhere (·.1 == r) (fun e => (r, e.2 ||| bit)) d.pred }
    else
      let same := d.pred.filter fun e => e.1 % 1024 == r % 1024
      let pred := if same.length ≥ 4 then
          match same with
          | v :: _ => d.pred.filter (· != v)
          | [] => d.pred
        else d.pred
      { d with pred := pred ++ [(r, bit)] }
/-- The messages of one issue of a die's request (R88, R101). -/
def issueReq (s : State) (cd x : Nat) (wr : Bool) (tag : BitVec 12) (dies : List Nat) (first : Bool) : State :=
  let b : MsgBody := if wr then .wrreq x cd tag else .rdreq x cd tag
  let u := homeUnit x
  if pkgOf u != pkgOf cd then send s cd u b
  else
    let s := sendAll s cd (dies ++ [u]) b
    if first && (getHome s x).pod then multicast s (pkgOf cd) (getHome s x).pcg cd b else s
/-- A die requests a sector, for reading or writing; one request per sector is outstanding, and a later one waits
behind it (R82, R86, R88). -/
def postReq (s : State) (cd x : Nat) (wr : Bool) : State :=
  let e := getSec s cd x
  if e.req.isSome then s else
  let tag := e.tag + 1
  let dies := predicted s cd x
  let s := onSec s cd x fun e =>
    { e with
      tag := tag, req := some { wr := wr, tag := tag, reissues := 0, trump := false }, newest := if e.tokens = 0 then none else e.newest }
  issueReq s cd x wr tag dies true
/-- The home knows the coherence group of a sector's object, as the context that uses it has it now; it keeps the group of an active
trump request to its end (R100, R101). -/
def markPod (s : State) (pkg ctx x : Nat) (c : Coh) : State :=
  let k := getCtx s pkg ctx
  let pod := c == .pod && k.cflags.getLsbD 5
  let g := if pod then k.pcg.toNat else 0
  let h := getHome s x
  if (h.pod == pod && h.pcg == g) || h.trump.isSome then s else onHome s x fun h => { h with pod := pod, pcg := g }
/-- The die may read the sector (R80, R93). -/
def canRead (e : DieSector) : Bool := e.tokens > 0 && e.valid && !e.frozen
/-- The die may write the sector (R80, R93). -/
def canWrite (e : DieSector) : Bool := e.tokens == 64 && e.valid && !e.frozen
/-- A page of a memory-side die is in transition, by the sector (R380). -/
def inFlip (s : State) (x : Nat) : Bool := match (getMd s (homeUnit x)).flip with
  | some f => f.page == x / 64
  | none => false
/-- What HOLDREPLY has paused for a sector goes on (R106). -/
def holdOver (s : State) (xs : List Nat) : State :=
  { s with
    sectors := updWhere (fun e => xs.contains e.sector) (fun e => { e with req := e.req.map fun r => { r with hold := false } }) s.sectors
    homes := updWhere (fun h => xs.contains h.sector) (fun h => { h with trump := h.trump.map fun t => { t with hold := false } }) s.homes }
/-- The operation for which a die asked has been performed: its trump request is released, once all 64 tokens have come; what HOLDREPLY
of a die in debug hold has paused meanwhile goes on (R91, R406). -/
def opDone (s : State) (cd x : Nat) : State :=
  let e := getSec s cd x
  match e.req with
  | some r =>
    if r.trump && e.act == some cd && e.tokens == 64 then
      let s := if (getCd s cd).held && !inFlip s x then holdOver s [x] else s
      send (onSec s cd x fun e => { e with req := none }) cd (homeUnit x) (.release x cd r.tag)
    else if r.trump then onSec s cd x fun e => { e with req := e.req.map fun r => { r with done := true } }
    else s
  | none => s

/-! ## Tokens sent -/

/-- All tokens of a die go to a unit, data with the owner token; the die's data is invalid and its sleepers wake
(R57, R80, R81, R104). -/
def giveAll (s : State) (cd x dst : Nat) (tag : BitVec 12) (winner : Bool) : State :=
  let e := getSec s cd x
  if e.tokens = 0 then s else
  let d : Option (BitVec 512) := if e.own then some (if e.poison then ones512 else e.data) else none
  let s := wakeMonitor s cd x
  let s := onSec s cd x dropTokens
  send s cd dst (.tok x e.serial e.tokens e.own d (e.own && e.modified) (e.own && e.poison) tag winner)
/-- All tokens of a home go to a unit, with the data (R91, R94). -/
def homeGiveAll (s : State) (x dst : Nat) (tag : BitVec 12) (winner : Bool) : State :=
  let h := getHome s x
  if h.tokens = 0 then s else
  let d : Option (BitVec 512) := if h.own then some (homeData s x) else none
  let s := onHome s x fun h => { h with tokens := 0, own := false }
  send s (homeUnit x) dst (.tok x h.serial h.tokens h.own d false (h.own && h.poison) tag winner)
/-- Tokens accepted at a die (R80, R84). -/
def acceptTok (s : State) (cd x : Nat) (serial : BitVec 16) (count : Nat) (own : Bool) (d : Option (BitVec 512))
    (modified poison : Bool) : State :=
  onSec s cd x fun e =>
    let e := { e with tokens := e.tokens + count, own := e.own || own, serial := serial, newest := some serial
                      modified := e.modified || modified }
    match d with
    | some x => { e with data := x, valid := true, poison := poison }
    | none => e

/-! ## Host bias (R380, R381) -/

/-- A page of a memory-side die has host bias, by the sector (R380). -/
def hostBiased (s : State) (x : Nat) : Bool := (getMd s (homeUnit x)).hostBias.contains (x / 64)
/-- The flip of a sector's page snoops the host: no tokens of the page flow any more (R381, R383). -/
def flipSnooping (s : State) (x : Nat) : Bool := match (getMd s (homeUnit x)).flip with
  | some f => f.page == x / 64 && f.snooping
  | none => false
/-- A decoder passes the line of a sector, by its number in the package's memory (R378). -/
def hdmCovers (d : Option (Nat × Nat)) (x : Nat) : Bool := match d with
  | some b => x % 2 ^ 38 * 64 < b.2
  | none => false
/-- The host links that are up and whose decoder covers a sector (R377, R378, R381). -/
def coveringLinks (s : State) (x : Nat) : List Nat :=
  let p := getPkg s (pkgOf (homeUnit x))
  (if p.linkUp0 && hdmCovers p.hdm0 x then [0] else []) ++ (if p.linkUp1 && hdmCovers p.hdm1 x then [1] else [])
/-- A back-invalidate snoop to every covering link, counted; with none the host holds nothing (R381, R383). -/
def snoopHost (s : State) (x : Nat) (inv flip : Bool) : State :=
  let ls := coveringLinks s x
  let u := homeUnit x
  let s := { s with net := s.net ++ ls.map fun l => { src := u, dst := iodUnit (pkgOf u) l, body := .biSnp l x inv flip } }
  onHome s x fun h => { h with biOwed := h.biOwed + ls.length, hostHeld := h.hostHeld && !ls.isEmpty }
/-- The tokens that a home keeps for the host are asked back, once (R381). -/
def snoopHeld (s : State) (x : Nat) : State :=
  let h := getHome s x
  if h.hostHeld && h.biOwed == 0 then snoopHost s x true false else s

/-! ## Trump requests (R90 to R92) -/

/-- The next request of the round by ascending key (R90). -/
def leastKey (l : List (Nat × BitVec 12)) : Option (Nat × BitVec 12) :=
  match l with
  | [] => none
  | r :: rs => some (rs.foldl (fun a b => if trumpKey b.1 < trumpKey a.1 then b else a) r)
/-- A trump request counts the acknowledgements of a REBUILD (R94). -/
def rebuilding (t : Trump) : Bool := match t.phase with
  | .rebuild _ => true
  | _ => false
/-- Where a trump request is active, the home's own tokens go to its winner, but while a census freezes them or its REBUILD is being
acknowledged, while the host holds them or its answer is owed, and while a flip snoops the page (R91, R93, R94, R381, R383). -/
def homeToWinner (s : State) (x : Nat) : State :=
  match (getHome s x).trump with
  | some t =>
    if t.winner = homeUnit x ∨ (getHome s x).frozen ∨ rebuilding t then s else
    let s := snoopHeld s x
    if (getHome s x).hostHeld || (getHome s x).biOwed != 0 || flipSnooping s x then s
    else homeGiveAll s x t.winner t.tag true
  | none => s
/-- The home activates the next trump request of its round, or of a new round (R90, R91). -/
def activateNext (s : State) (x : Nat) : State :=
  let h := getHome s x
  if h.trump.isSome then s else
  let s := if h.round = [] then onHome s x fun h => { h with round := h.waiting, waiting := [] } else s
  match leastKey (getHome s x).round with
  | none => s
  | some (w, tag) =>
    let ds := countUnits s x
    let t : Trump := { winner := w, tag := tag, phase := if ds.isEmpty then .gather else .act, owed := ds, due := []
                       reports := [], gathered := false, released := false }
    let s := onHome s x fun h => { h with round := h.round.filter (· != (w, tag)), trump := some t }
    homeToWinner (broadcast s x (.act x w h.serial)) x
/-- A trump request enters the waiting set of a home (R90). -/
def trumpIn (s : State) (x w : Nat) (tag : BitVec 12) : State :=
  let s := onHome s x fun h => if h.waiting.contains (w, tag) then h else { h with waiting := h.waiting ++ [(w, tag)] }
  activateNext s x
/-- The end of a trump request: DEACT goes out and is counted (R91). -/
def startDeact (s : State) (x : Nat) : State :=
  match (getHome s x).trump with
  | none => s
  | some t =>
    let ds := countUnits s x
    let s := broadcast s x (.deact x t.winner (getHome s x).serial)
    if ds.isEmpty then activateNext (onHome s x fun h => { h with trump := none }) x
    else onHome s x fun h => { h with trump := some { t with phase := .deact, owed := ds } }
/-- A home has all 64 tokens of a sector, for itself or for the host, and no trump request of another unit is active (R80, R91,
R92). -/
def homeHas (s : State) (x : Nat) : Bool :=
  let h := getHome s x
  h.tokens == 64 && h.own && !h.frozen && (match h.trump with
    | none => true
    | some t => t.winner == homeUnit x && t.owed.isEmpty)
/-- A home holds all 64 tokens of a sector and may perform an operation of its own on it: the host holds nothing of it either (R80,
R91, R92, R381). -/
def homeReady (s : State) (x : Nat) : Bool :=
  homeHas s x && !(getHome s x).hostHeld && (getHome s x).biOwed == 0
/-- The home asks for all tokens of a sector for an operation of its own, once: the host for those it keeps for it, else the dies
(R92, R381). -/
def homeRequest (s : State) (x : Nat) : State :=
  let u := homeUnit x
  let h := getHome s x
  if h.hostHeld || (h.biOwed != 0 && homeHas s x) then snoopHeld s x else
  let known := (h.waiting ++ h.round).any (·.1 == u) || (match h.trump with | some t => t.winner == u | none => false)
  if known then s else trumpIn s x u 0
/-- The operation for which a home gathered tokens has been performed: its trump request ends, once the count in progress is complete
(R91, R92). -/
def homeDone (s : State) (x : Nat) : State :=
  match (getHome s x).trump with
  | some t =>
    if t.winner != homeUnit x || t.phase == .deact then s
    else if t.phase = .gather then startDeact s x
    else onHome s x fun h => { h with trump := some { t with released := true } }
  | none => s
/-- The homes of a list of sectors hold all their tokens, or request those that they lack; true where they have them all (R92). -/
def homeGather (s : State) (xs : List Nat) : Bool × State :=
  if xs.all (homeReady s) then (true, s) else (false, (xs.filter fun x => !homeReady s x).foldl homeRequest s)
/-- An operation for the host has been performed: tokens gathered for it are free, but not those that a flip gathers (R92, R383). -/
def hostDone (s : State) (x : Nat) : State := if inFlip s x then s else homeDone s x
/-- The die that holds the owner token of a sector, under the home's serial. -/
def ownerDie (s : State) (x : Nat) : Option Nat :=
  (s.cds.map (·.unit)).find? fun cd =>
    let e := getSec s cd x
    e.own && e.valid && e.tokens != 0 && e.serial == (getHome s x).serial
/-- The home obtains a sector's data as a read: its own under the owner token, else that of the die which holds it, with one token
more, the owner token where that die has no other. Where no die answers, the home asks for all tokens (R86, R92, R381). -/
def homeRead (s : State) (x : Nat) : Option (BitVec 512 × Bool) × State :=
  let h := getHome s x
  if h.own then (some (homeData s x, h.poison), hostDone s x)
  else match ownerDie s x with
    | none => (none, homeRequest s x)
    | some cd =>
      let e := getSec s cd x
      let d := if e.poison then ones512 else e.data
      if e.frozen || e.act.isSome || h.frozen || h.trump.isSome then (none, s)
      else if e.tokens = 1 then
        let s := setHomeData (onSec (wakeMonitor s cd x) cd x dropTokens) x d e.poison
        (some (d, e.poison), onHome s x fun h => { h with tokens := h.tokens + 1, own := true })
      else
        let s := onSec s cd x fun e => { e with tokens := e.tokens - 1 }
        (some (d, e.poison), onHome s x fun h => { h with tokens := h.tokens + 1 })
/-- A compute die holds all tokens of a list of sectors for an engine of its own, or requests those it lacks; true where it has them
all (R80, R86). -/
def dieGather (s : State) (cd : Nat) (xs : List Nat) : Bool × State :=
  if xs.all fun x => canWrite (getSec s cd x) then (true, s)
  else (false, (xs.filter fun x => !canWrite (getSec s cd x)).foldl (fun s x => postReq s cd x true) s)
/-- A compute die may read a list of sectors for an engine of its own, or requests those that it cannot (R80, R86). -/
def dieRead (s : State) (cd : Nat) (xs : List Nat) : Bool × State :=
  if xs.all fun x => canRead (getSec s cd x) then (true, s)
  else (false, (xs.filter fun x => !canRead (getSec s cd x)).foldl (fun s x => postReq s cd x false) s)

/-! ## Trace writes (R75, R408, R409) -/

/-- The oldest trace write of a die is done. -/
def popTrace (s : State) (cd : Nat) : State := onCd s cd fun d => { d with pend := d.pend.drop 1 }
/-- Words of a record written into a die's ring under their tokens; HEAD moves behind them (R75, R80). -/
def writeRing (s : State) (cd h : Nat) (ws : List Nat) : State :=
  let t := (getCd s cd).trace
  let n := bits t.trcbase.toNat 11 0 * 512
  let a := pkgOf cd * 2 ^ 44 + bits t.trcbase.toNat 40 12 * 4096 + 8 * h
  if n = 0 then popTrace s cd else
  let xs := sectorsOf a (8 * ws.length)
  let (ok, s) := dieGather s cd xs
  if !ok then s
  else
    let s := xs.foldl (fun s x => opDone s cd x) (dieWrite s cd a (ws.flatMap (bytesOf 8)))
    onCd (popTrace s cd) cd fun d => { d with trace := { d.trace with head := BitVec.ofNat 24 ((h + ws.length) % n) } }
/-- The number of a page of a context's ring of n pages, as its control page holds it: 1 to n; any other number counts as 1 (R409; log
entry 15). -/
def ringPage (n x : Nat) : Nat := if 1 ≤ x ∧ x ≤ n then x else 1
/-- The last record of the page that is to be written next goes to the front of the context's next page on the die (R409). -/
def carryRecord (s : State) (cd ctx : Nat) (rs : List PageRec) : State :=
  let later := ((getCd s cd).pend.drop 1).findIdx? fun x => match x with
    | .page c _ => c == ctx
    | .ring _ _ => false
  let last := rs.drop (rs.length - 1)
  let add := fun x : TraceWrite => match x with
    | .page c us => .page c (last ++ us)
    | x => x
  let moved := fun ps : List TraceWrite => match later with
    | some i => ps.modify (i + 1) add
    | none => ps
  let s := onCd s cd fun d => { d with pend := (moved d.pend).modify 0 fun _ => .page ctx rs.dropLast }
  if later.isSome then s
  else onCtx s (pkgOf cd) ctx fun c => { c with openPage := (cd, last ++ openRecs c cd) :: c.openPage.filter (·.1 != cd) }
/-- A page sealed into its context's ring under the tokens of its sectors, at the page that HEAD names; a page that finds the
ring full, or no key, is dropped and counted, and the records of the next one follow the last that a sealed page holds; a record that
a page has then no room for goes into the next (R75, R408, R409; log entry 15). -/
def writePage (s : State) (cd ctx : Nat) (rs : List PageRec) : State :=
  let p := pkgOf cd
  let c := getCtx s p ctx
  let n := bits c.ctrace.toNat 11 0 - 1
  let base := p * 2 ^ 44 + bits c.ctrace.toNat 40 12 * 4096
  let h := ringPage n (devNat s base 8)
  let t := ringPage n (devNat s (base + 8) 8)
  let h' := if h = n then 1 else h + 1
  let k := ((c.sealed.find? (·.1 == cd)).map (·.2)).getD 0
  let ws := pageWords (lastSealed (getCd s cd).trace ctx) rs
  let drop := onCd (popTrace s cd) cd fun d => { d with trace := { d.trace with drop := sat16 d.trace.drop } }
  match c.keys with
  | none => drop
  | some keys =>
    if n = 0 ∨ k ≥ 2 ^ 56 then drop else
    if ws.length > 508 then carryRecord s cd ctx rs else
    let (ok, s') := dieRead s cd [sectorOf base]
    if !ok then s'
    else if h' = t then drop
    else
      let a := base + 4096 * h
      let xs := sectorOf base :: sectorsOf a 4096
      let (ok, s) := dieGather s cd xs
      if !ok then s
      else
        let s := dieWrite (dieWrite s cd a (sealedPage keys cd k ws)) cd base (bytesOf 8 h')
        let s := xs.foldl (fun s x => opDone s cd x) (popTrace s cd)
        let s := match (rs.getLast?).bind PageRec.prev with
          | some l => onCd s cd fun d => { d with trace := { d.trace with confLast := (ctx, l) :: d.trace.confLast.filter (·.1 != ctx) } }
          | none => s
        onCtx s p ctx fun c => { c with sealed := (cd, k + 1) :: c.sealed.filter (·.1 != cd) }
/-- The oldest trace write of a die is made, or what it lacks requested. -/
def traceWrite (s : State) (cd : Nat) : State :=
  match (getCd s cd).pend with
  | [] => s
  | .ring h ws :: _ => writeRing s cd h ws
  | .page ctx rs :: _ => writePage s cd ctx rs

/-! ## Census and reshuffle (R93 to R95) -/

/-- The home sends REBUILD and counts its acknowledgements (R94). -/
def sendRebuild (s : State) (x : Nat) (fresh : Bool) : State :=
  let ds := countUnits s x
  let s := onHome s x fun h =>
    { h with frozen := false, trump := h.trump.map fun t => { t with phase := .rebuild fresh, owed := ds, due := [], reports := [] } }
  broadcast s x (.rebuild x (getHome s x).serial)
/-- Tokens held outside the dies that a home's REBUILD reaches are destroyed by a reshuffle (R101). -/
def dropOutside (s : State) (x : Nat) : State :=
  ((s.sectors.filter fun e => e.sector == x && e.tokens != 0 && !(groupDies s x).contains e.cd).map (·.cd)).foldl
    (fun s cd => onSec (wakeMonitor s cd x) cd x dropTokens) s
/-- A reshuffle: a new serial with 64 tokens at the home and the chosen data; one whose data is lost is poisoned and counted as
such (R94, R95, R108). -/
def reshuffle (s : State) (x : Nat) (d : BitVec 512) (poison lost : Bool) : State :=
  let s := setHomeData s x d poison
  let s := dropOutside s x
  let s := onHome s x fun h => { h with serial := h.serial + 1, tokens := 64, own := true }
  let s := onMd s (homeUnit x) fun m =>
    { m with reshuf := sat16 m.reshuf, poisoned := if lost then sat16 m.poisoned else m.poisoned }
  sendRebuild s x true
/-- A unit, such as the winner of a trump request, can be reached from a sector's home (R94, R386). -/
def winnerReachable (s : State) (x w : Nat) : Bool :=
  w == homeUnit x || (pkgReachable s (pkgOf (homeUnit x)) (pkgOf w) && (countedDies s (pkgOf w)).contains w)
/-- The acknowledgements of a phase are complete: the home goes on (R83, R91, R94). -/
def phaseDone (s : State) (x : Nat) : State :=
  match (getHome s x).trump with
  | none => s
  | some t =>
    let go := fun s fresh => onHome s x fun h => { h with trump := some { t with phase := .gather, gathered := t.gathered && !fresh } }
    match t.phase with
    | .act => if t.released then startDeact s x
              else onHome s x fun h => { h with trump := some { t with phase := .gather } }
    | .census => if t.due.isEmpty then onHome s x fun h => { h with trump := some { t with phase := .settle } } else s
    | .rebuild fresh =>
      if t.released then startDeact s x
      else if fresh && !winnerReachable s x t.winner then startDeact s x
      else homeToWinner (go s fresh) x
    | .deact => activateNext (onHome s x fun h => { h with trump := none }) x
    | _ => s
/-- One acknowledgement counted at a home (R83). -/
def countAck (s : State) (x die : Nat) : State :=
  match (getHome s x).trump with
  | none => s
  | some t =>
    if !t.owed.contains die then s else
    let s := onHome s x fun h => { h with trump := some { t with owed := t.owed.filter (· != die) } }
    if (t.owed.filter (· != die)).isEmpty then phaseDone s x else s
/-- A die is left out of every open count and report wait of the homes and of its I/O die (R101, R105). -/
def dropFromCounts (s : State) (die : Nat) : State :=
  let s := ((getPkg s (pkgOf die)).acks.map (·.1)).foldl (fun s x => pkgAck s (pkgOf die) x die) s
  (s.homes.map (·.sector)).foldl (fun s x =>
    let s := onHome s x fun h => { h with trump := h.trump.map fun t => { t with due := t.due.filter (· != die) } }
    match (getHome s x).trump with
    | some t =>
      if t.owed.contains die then countAck s x die
      else if t.phase == .census && t.owed.isEmpty && t.due.isEmpty then phaseDone s x else s
    | none => s) s
/-- The sum of the home's tokens and all reported ones (R94). -/
def censusTotal (h : Home) (t : Trump) : Nat := h.tokens + (t.reports.map (·.tokens)).foldl (· + ·) 0
/-- The report of the lowest key among some (R94). -/
def leastReport (l : List Report) : Option Report :=
  match l with
  | [] => none
  | r :: rs => some (rs.foldl (fun a b => if trumpKey b.die < trumpKey a.die then b else a) r)
/-- The reports of holders of valid data that a home can still ask for it (R94, R98). -/
def dataReports (s : State) (x : Nat) (t : Trump) : List Report := t.reports.filter fun r => r.valid && winnerReachable s x r.die
/-- The decision after the settle time (R94). -/
def settleHome (s : State) (x : Nat) (t : Trump) : State :=
  let h := getHome s x
  if censusTotal h t = 64 then sendRebuild s x false
  else if h.own then reshuffle s x (homeData s x) h.poison false
  else match t.reports.find? (·.own) with
    | some r => reshuffle s x r.data r.poison false
    | none => match leastReport (dataReports s x t) with
      | some r => send (onHome s x fun h => { h with trump := some { t with phase := .fetch r.die } }) (homeUnit x) r.die
          (.dataReq x h.serial)
      | none => reshuffle s x ones512 true true

end Sys2Proof.Machine
end

