-- ==== Sys2Proof/Machine/Coherence.lean ====
section
/-! DEFINITION. The coherence messages as they arrive, and the timers of requests and censuses (R83 to R106). -/

namespace Sys2Proof.Machine

/-- Tokens that a message carried are lost at a unit, which logs it (R85). -/
def logLoss (s : State) (u : Nat) (m : Msg) : State :=
  match m.body with
  | .tok x _ _ _ _ _ _ _ _ =>
    if 0x100000 ≤ u then onPkg s (unitPkg u) fun p => { p with lossLog := p.lossLog ++ [x] }
    else if isCd u then onCd s u fun d => { d with lossLog := d.lossLog ++ [x] } else onMd s u fun d => { d with lossLog := d.lossLog ++ [x] }
  | _ => s
/-- The sector of a message whose sender is answered WAKEPEND (R105). -/
def wakeSector : MsgBody → Option Nat
  | .rdreq x _ _ | .wrreq x _ _ | .tok x _ _ _ _ _ _ _ _ | .trumpreq x _ _ | .act x _ _ | .deact x _ _ | .gathered x _ _ => some x
  | .release x _ _ | .ack x _ | .census x _ | .report x _ _ _ _ _ _ _ | .late x _ _ _ _ _ _ _ | .rebuild x _ => some x
  | .wakepend _ | .holdreply _ => none
  | .dataReq x _ => some x
  | .writeback _ | .biSnp _ _ _ _ | .retired _ | .coll _ => none
/-- A message toward a die whose uncore is gated, or whose link is waking, is answered with WAKEPEND by the link layer, once, and
waits (R105). -/
def wakeReply (s : State) (n : Nat) (m : Msg) : State :=
  match wakeSector m.body with
  | some x => if m.woken || m.src ≥ 0x100000 then s
      else send { s with net := s.net.set n { m with woken := true } } m.dst m.src (.wakepend x)
  | none => s
/-- A message is of no use at its destination's package: the sender's package has been removed for it (R389). -/
def fromRemoved (s : State) (m : Msg) : Bool := isRemoved s (unitPkg m.dst) (unitPkg m.src)
/-- Message n of the network reaches its destination (`f`, for a message of its kind), once it has come to the package: it is lost
where the destination is off, in reset or unreachable, or its sender's package has been removed, and it waits, with WAKEPEND to its
sender, where the uncore is gated (R85, R105, R387, R389). -/
def onMsg (s : State) (n : Nat) (f : Msg → State → Option State) : Res :=
  match s.net[n]? with
  | none => .next s
  | some m =>
    let s' := { s with net := dropAt n s.net }
    match f m s' with
    | none => .next s
    | some t =>
      if !arrived m then .next s
      else if fromRemoved s m then .next (logLoss s' m.dst m)
      else if isCd m.dst then
        match (getCd s m.dst).power with
        | .off | .reset => .next (logLoss s' m.dst m)
        | .gated => .next (wakeReply s n m)
        | _ => if (getCd s m.dst).unreachable then .next (logLoss s' m.dst m) else .next t
      else if m.dst < 0x100000 && !mdUp s m.dst then .next (logLoss s' m.dst m) else .next t

/-- The lines of a 4 KiB page, numbered through the pod, as sectors (R383). -/
def pageLines (page : Nat) : List Nat := span (page * 64) 64
/-- The end of a flip: the bias changes, the tracker and BUSY are cleared, DONE rises, what HOLDREPLY had paused goes on, and tokens
flow again (R91, R106, R381, R383). -/
def endFlip (s : State) (md : Nat) (f : Flip) : State :=
  let s := onMd s md fun d =>
    { d with
      hostBias := if f.toHost then f.page :: d.hostBias else d.hostBias.filter (· != f.page)
      flip := none, biasLast := f.toHost, biasDone := d.biasDone + 1 }
  (pageLines f.page).foldl homeToWinner (holdOver s (pageLines f.page))
/-- A flip snoops every line of its page at every covering host link; with none it ends (R383). -/
def flipSnoop (s : State) (md : Nat) (f : Flip) : State :=
  let xs := pageLines f.page
  let owed := (xs.map fun x => (coveringLinks s x).length).foldl (· + ·) 0
  let s := xs.foldl (fun s x => snoopHost s x true true) s
  let f := { f with snooping := true, owed := owed }
  let s := onMd s md fun d => { d with flip := some f }
  if owed = 0 then endFlip s md f else s
/-- The home holds the tokens of a sector of a page that flips to host bias, or asks for what it lacks (R92, R383). -/
def flipGather (s : State) (xs : List Nat) : Bool × State :=
  if xs.all (homeHas s) then (true, s) else (false, (xs.filter fun x => !homeHas s x).foldl homeRequest s)
/-- A host request of a page waits at its home (R381). -/
def hostWaits (s : State) (page : Nat) : Bool := (getPkg s (pkgOf (homeUnit (page * 64)))).hostReqs.any fun q => q.sector / 64 == page
/-- A flip to host bias goes on once all tokens and data of its page are at the home, and the host requests that waited for them have
been served (R92, R381, R383). -/
def flipProgress (s : State) (md : Nat) : State :=
  match (getMd s md).flip with
  | none => s
  | some f =>
    if f.snooping || !f.toHost then s
    else
      let xs := pageLines f.page
      let g := flipGather s xs
      if !g.1 || hostWaits s f.page then g.2 else
      let s := onMd g.2 md fun d => { d with flip := some { f with snooping := true } }
      flipSnoop (xs.foldl homeDone s) md f

/-- The flip of a memory-side die goes on, whatever has brought home the tokens that it waited for (R383). -/
def flipStep (md : Nat) (s : State) : Res := .next (flipProgress s md)

/-- The home's response to a request, from its own tokens (R86). -/
def homeServe (s : State) (x req : Nat) (tag : BitVec 12) (wr : Bool) : State :=
  let h := getHome s x
  let u := homeUnit x
  if h.tokens = 0 then s
  else if wr then homeGiveAll s x req tag false
  else if !h.own then s
  else if h.tokens = 1 then homeGiveAll s x req tag false
  else
    let d := homeData s x
    let s := onHome s x fun h => { h with tokens := h.tokens - 1 }
    send s u req (.tok x h.serial 1 false (some d) false h.poison tag false)
/-- What a home does before it serves a die's request: in a flip it answers HOLDREPLY; under host bias it snoops the covering links,
again where the host has taken a copy since, and counts their answers. The request waits meanwhile (R381, R383). None where it may be
served. -/
def hostFirst (s : State) (m : Msg) (x req : Nat) (inv : Bool) : Option State :=
  let h := getHome s x
  let back := fun (s : State) (m : Msg) => some { s with net := s.net ++ [m] }
  if inFlip s x then
    let asked := match (getSec s req x).req with | some r => r.hold | none => true
    back (if asked then s else send s (homeUnit x) req (.holdreply x)) m
  else if h.biOwed != 0 then back s m
  else if h.hostHeld || (hostBiased s x && !m.snooped && !(coveringLinks s x).isEmpty) then
    back (snoopHost s x inv false) { m with snooped := true }
  else none
/-- A request at its home: counted, answered HOLDREPLY in a flip, held behind a host back-invalidate under host bias,
ignored under a trump, else served, and forwarded to the group when it comes from another package
(R73, R86, R91, R101, R381). -/
def homeReq (s : State) (m : Msg) (x req : Nat) (tag : BitVec 12) (wr : Bool) : State :=
  let h := getHome s x
  let u := homeUnit x
  match hostFirst s m x req wr with
  | some t => t
  | none =>
    let s := countHot s x (some req)
    if h.trump.isSome || h.frozen then s
    else
      let s := homeServe s x req tag wr
      let b : MsgBody := if wr then .wrreq x req tag else .rdreq x req tag
      if h.pod && pkgOf req != pkgOf u then multicast (sendAll s u (countedDies s (pkgOf u)) b) (pkgOf u) h.pcg u b
      else s
/-- An operation of a die that has been sent uses a sector: of a wave, of an engine, of its trace, or a walk (R82). -/
def sectorUsed (s : State) (cd x : Nat) : Bool :=
  let on := fun y : LaneAcc => y.tgt.space == .dev && (sectorsOf y.tgt.addr y.sz).contains x
  (allWaves s).any (fun w => w.id.cd == cd && (w.ops.any (fun o => o.acc.any on) || (match w.hold with
    | .sld _ y => on y
    | _ => false))) ||
  s.cores.any (fun c => c.id.cd == cd && (!c.reqs.isEmpty || !c.tiles.isEmpty)) || !(getCd s cd).pend.isEmpty || !(getCd s cd).walks.isEmpty
/-- A wave of a die waits to issue an instruction, for which the die may have asked for a sector. -/
def issueWaits (s : State) (cd : Nat) : Bool :=
  (allWaves s).any fun w => w.id.cd == cd && (match w.hold with
    | .ready | .stall _ => true
    | _ => false)
/-- A die in debug hold has won a trump request, and the instruction for which it asked waits to issue in a held partition, which so
owes the answer to every request for the sector; what its caches and engines serve themselves is no such debt (R91, R105, R406). -/
def heldOwes (s : State) (cd x : Nat) : Bool :=
  let e := getSec s cd x
  (getCd s cd).held && e.act == some cd && e.tokens == 64 && e.req.any (·.trump) && issueWaits s cd && !sectorUsed s cd x
/-- A request at a compute die: held in a census, answered HOLDREPLY where a held partition owes the answer, ignored under a trump, else answered with tokens (R86, R91, R93). -/
def dieReq (s : State) (cd x req : Nat) (tag : BitVec 12) (wr : Bool) : State :=
  let s := train s cd x req
  let e := getSec s cd x
  if e.frozen then onSec s cd x fun e => { e with heldReqs := e.heldReqs ++ [(req, wr, tag)] }
  else if heldOwes s cd x && req != cd then send s cd req (.holdreply x)
  else if e.act.isSome || e.tokens = 0 || req = cd then s
  else if wr then giveAll s cd x req tag false
  else if !e.own then s
  else if e.tokens = 1 then giveAll s cd x req tag false
  else
    let d := if e.poison then ones512 else e.data
    let s := onSec s cd x fun e => { e with tokens := e.tokens - 1 }
    send s cd req (.tok x e.serial 1 false (some d) false e.poison tag false)
/-- RDREQ arrives (R86). -/
def execRdreq (n : Nat) (s : State) : Res :=
  onMsg s n fun m s => match m.body with
    | .rdreq x req tag => some (if isCd m.dst then dieReq s m.dst x req tag false else homeReq s m x req tag false)
    | _ => none
/-- WRREQ arrives (R86). -/
def execWrreq (n : Nat) (s : State) : Res :=
  onMsg s n fun m s => match m.body with
    | .wrreq x req tag => some (if isCd m.dst then dieReq s m.dst x req tag true else homeReq s m x req tag true)
    | _ => none

/-- A die's outstanding request, once its tokens suffice: a read or write request is complete, a trump request sends
GATHERED, and RELEASE where its operation has completed meanwhile (R87, R91). -/
def reqProgress (s : State) (cd x : Nat) : State :=
  let e := getSec s cd x
  match e.req with
  | none => s
  | some r =>
    if r.trump then
      if e.tokens = 64 && e.act == some cd then
        let s := send s cd (homeUnit x) (.gathered x cd r.tag)
        if r.done then opDone s cd x else s
      else s
    else if (if r.wr then canWrite e else canRead e) then onSec s cd x fun e => { e with req := none }
    else s
/-- A counter raised by a number, saturating (R84, R108). -/
def satAdd16 (x : BitVec 16) (n : Nat) : BitVec 16 := BitVec.ofNat 16 (Nat.min 0xFFFF (x.toNat + n))
/-- Tokens destroyed at a unit are counted in its STALE (R84). -/
def countStale (s : State) (u n : Nat) : State :=
  if isCd u then onCd s u fun d => { d with stale := satAdd16 d.stale n } else onMd s u fun d => { d with stale := satAdd16 d.stale n }
/-- Tokens at a home: accepted under its serial, else destroyed; under another unit's trump they go on to the winner
(R84, R91). -/
def homeTok (s : State) (x : Nat) (ser : BitVec 16) (c : Nat) (own : Bool) (d : Option (BitVec 512)) (poison : Bool) : State :=
  let h := getHome s x
  if ser != h.serial then countStale s (homeUnit x) c
  else
    let s := match d with
      | some v => if own then setHomeData s x v poison else s
      | none => s
    let s := onHome s x fun h => { h with tokens := h.tokens + c, own := h.own || own }
    flipProgress (if h.frozen then s else homeToWinner s x) (homeUnit x)
/-- The newest serial a die has seen (R84). -/
def seeSerial (e : DieSector) (ser : BitVec 16) : DieSector :=
  match e.newest with
  | some o => { e with newest := some (if newer ser o then ser else o) }
  | none => { e with newest := some ser }
/-- Tokens at a compute die, by the rules of R84. Tokens that answer no request of the die go on to the home, by R84's row, even where
a census freezes the sector here: R93, which keeps arriving tokens frozen and reports them LATE, is read as meaning tokens that the
die accepts (DESIGN CHOICE, log entry 108). -/
def dieTok (s : State) (m : Msg) (x : Nat) (ser : BitVec 16) (c : Nat) (own : Bool) (d : Option (BitVec 512))
    (modified poison : Bool) (tag : BitVec 12) (winner : Bool) : State :=
  let cd := m.dst
  let e := getSec s cd x
  let mine := match e.req with | some r => r.tag == tag | none => false
  let s := train s cd x m.src
  if !mine && !winner then send (onSec s cd x fun e => seeSerial e ser) cd (homeUnit x) m.body
  else if (match e.newest with | some o => newer o ser | none => false) then countStale s cd c
  else
    let s := if e.tokens > 0 && newer ser e.serial then
        onSec (wakeMonitor (countStale s cd e.tokens) cd x) cd x dropTokens else s
    let s := acceptTok s cd x ser c own d modified poison
    if e.frozen then
      send s cd (homeUnit x) (.late x cd ser c own d.isSome (d.getD 0) poison)
    else match e.act with
      | some w => if w = cd then reqProgress s cd x else giveAll s cd x w 0 true
      | none => reqProgress s cd x
/-- TOK arrives (R84). -/
def execTok (n : Nat) (s : State) : Res :=
  onMsg s n fun m s => match m.body with
    | .tok x ser c own d md p tag w =>
      some (if isCd m.dst then dieTok s m x ser c own d md p tag w else homeTok s x ser c own d p)
    | _ => none

/-- TRUMPREQ arrives at the home, which counts it, once the host holds nothing of the sector (R73, R90, R381). -/
def execTrumpreq (n : Nat) (s : State) : Res :=
  onMsg s n fun m s => match m.body with
    | .trumpreq x req tag => some (match hostFirst s m x req true with
      | some t => t
      | none => trumpIn (countHot s x (some req)) x req tag)
    | _ => none
/-- ACT arrives: the die sends every token to the winner, and acknowledges (R83, R91). -/
def execAct (n : Nat) (s : State) : Res :=
  onMsg s n fun m s => match m.body with
    | .act x w ser =>
      let s := onSec s m.dst x fun e => { seeSerial e ser with act := some w }
      let s := if w = m.dst then reqProgress s m.dst x else giveAll s m.dst x w 0 true
      some (sendAck s m.dst x)
    | _ => none
/-- DEACT arrives: the die serves requests again, a timer that HOLDREPLY of the winner paused goes on, and it acknowledges (R83, R91,
R106). -/
def execDeact (n : Nat) (s : State) : Res :=
  onMsg s n fun m s => match m.body with
    | .deact x _ ser =>
      let s := onSec s m.dst x fun e =>
        { seeSerial e ser with act := none, req := e.req.map fun r => { r with hold := r.hold && inFlip s x } }
      some (sendAck s m.dst x)
    | _ => none
/-- GATHERED of the active request arrives: no census follows (R91, R93). -/
def execGathered (n : Nat) (s : State) : Res :=
  onMsg s n fun m s => match m.body with
    | .gathered x req tag =>
      some (onHome s x fun h => { h with trump := h.trump.map fun t =>
        if t.winner = req ∧ t.tag = tag then { t with gathered := true } else t })
    | _ => none
/-- RELEASE of the active request arrives: the home sends DEACT, once its count of ACT is complete (R91). -/
def execRelease (n : Nat) (s : State) : Res :=
  onMsg s n fun m s => match m.body with
    | .release x req tag => some (match (getHome s x).trump with
      | some t =>
        if t.winner != req || t.tag != tag then s
        else if t.phase = .gather then startDeact s x
        else onHome s x fun h => { h with trump := some { t with released := true } }
      | none => s)
    | _ => none
/-- An acknowledgement arrives at the home, or at the I/O die that counts for its package (R83, R101). -/
def execCoherenceAck (n : Nat) (s : State) : Res :=
  onMsg s n fun m s => match m.body with
    | .ack x die =>
      some (if 0x100000 ≤ m.dst then pkgAck s ((m.dst - 0x100000) / 2) x die else flipProgress (countAck s x die) (homeUnit x))
    | _ => none
/-- CENSUS arrives: the die freezes the sector, reports and acknowledges (R83, R93). -/
def execCensus (n : Nat) (s : State) : Res :=
  onMsg s n fun m s => match m.body with
    | .census x ser =>
      let s := onSec s m.dst x fun e => { seeSerial e ser with frozen := true }
      let e := getSec s m.dst x
      let has := e.serial == ser && e.tokens > 0
      let s := send s m.dst (homeUnit x) (.report x m.dst ser (if has then e.tokens else 0) (has && e.own) (has && e.valid)
        (if has && e.own then (if e.poison then ones512 else e.data) else 0) (has && e.own && e.poison))
      some (sendAck s m.dst x)
    | _ => none
/-- REPORT arrives at the home (R93). -/
def execReport (n : Nat) (s : State) : Res :=
  onMsg s n fun m s => match m.body with
    | .report x die _ c own valid d p =>
      match (getHome s x).trump with
      | some t =>
        if t.phase = .census ∧ die ∈ t.due then
          let t := { t with due := t.due.filter (· != die), reports := t.reports ++ [⟨die, c, own, valid, d, p⟩] }
          let s := onHome s x fun h => { h with trump := some t }
          some (if t.due.isEmpty && t.owed.isEmpty then phaseDone s x else s)
        else some s
      | none => some s
    | _ => none
/-- LATE arrives at the home: its tokens are added (R93). -/
def execLate (n : Nat) (s : State) : Res :=
  onMsg s n fun m s => match m.body with
    | .late x die ser c own valid d p =>
      some (if (getHome s x).serial = ser then
        onHome s x fun h => { h with trump := h.trump.map fun t =>
          if t.phase = .census ∨ t.phase = .settle then { t with reports := t.reports ++ [⟨die, c, own, valid, d, p⟩] } else t }
        else s)
    | _ => none
/-- REBUILD arrives: tokens and data of an older serial are destroyed, sleepers wake; the sector is unfrozen, its
tokens go to the winner, and held requests are served (R94, R104). -/
def execRebuild (n : Nat) (s : State) : Res :=
  onMsg s n fun m s => match m.body with
    | .rebuild x ser =>
      let cd := m.dst
      let e := getSec s cd x
      let s := if e.serial != ser && e.tokens > 0 then onSec (wakeMonitor s cd x) cd x dropTokens else s
      let s := onSec s cd x fun e => { seeSerial e ser with frozen := false, heldReqs := [] }
      let s := match e.act with
        | some w => if w = cd then reqProgress s cd x else giveAll s cd x w 0 true
        | none => s
      let s := e.heldReqs.foldl (fun s r => dieReq s cd x r.1 r.2.2 r.2.1) s
      some (sendAck s cd x)
    | _ => none
/-- WAKEPEND arrives: the request's timer pauses until every wake that it names is over, unless this one has used up its budget (R106).
A home waits on for its acknowledgements and reports in any case. -/
def execWakepend (n : Nat) (s : State) : Res :=
  onMsg s n fun m s => match m.body with
    | .wakepend x =>
      let pause := fun r : DieReq => if r.wakes.contains m.src || r.spent.contains m.src then r else { r with wakes := r.wakes ++ [m.src] }
      some (if !isCd m.dst || (getSec s m.dst x).req.isNone then s
        else onSec s m.dst x fun e => { e with req := e.req.map pause })
    | _ => none
/-- The wake of a unit, or of the link toward it, is over: the pauses that it made end, and another wake on the way of a message to the
unit may answer it again (R106). -/
def wakeOver (s : State) (u : Nat) : State :=
  let go := fun r : DieReq => { r with wakes := r.wakes.filter (· != u), spent := r.spent.filter (· != u) }
  { s with
    sectors := s.sectors.map fun e => { e with req := e.req.map go }
    net := updWhere (·.dst == u) (fun m => { m with woken := false }) s.net }
/-- A unit still owes the answer for which it sent HOLDREPLY: a home in a flip, or a die in debug hold (R381, R406). -/
def stillHolds (s : State) (u x : Nat) : Bool := if isCd u then heldOwes s u x else inFlip s x
/-- HOLDREPLY arrives: the timer of a request, or a home's census time, pauses without limit; one that comes when its cause has ended
pauses nothing (R106, R381, R406). -/
def execHoldreply (n : Nat) (s : State) : Res :=
  onMsg s n fun m s => match m.body with
    | .holdreply x =>
      some (if !stillHolds s m.src x then s
        else if isCd m.dst then onSec s m.dst x fun e => { e with req := e.req.map fun r => { r with hold := true } }
        else if m.dst ≥ 0x100000 then s
        else onHome s x fun h => { h with trump := h.trump.map fun t => { t with hold := true } })
    | _ => none
/-- The home's request for the data of a holder that reported it valid: the holder sends it, and the home reshuffles
with it (R94). -/
def execReshuffleDataRequest (n : Nat) (s : State) : Res :=
  onMsg s n fun m s => match m.body with
    | .dataReq x _ =>
      let e := getSec s m.dst x
      match (getHome s x).trump with
      | some t => some (if t.phase = .fetch m.dst then
          reshuffle s x (if e.poison then ones512 else e.data) e.poison false else s)
      | none => some s
    | _ => none

/-! ## Timers (R89, R93, R94, R106) -/

/-- An operation of a die uses a sector, or may be about to (R82). -/
def sectorWanted (s : State) (cd x : Nat) : Bool := sectorUsed s cd x || issueWaits s cd
/-- The reissue time of a die's request passes: it is reissued to all, or after two reissues raised to a trump request
(R89). A trump request that is satisfied and that no operation uses any more is released (R91, R126). -/
def execReissueTimerExpiry (cd sector : Nat) (s : State) : Res :=
  let e := getSec s cd sector
  match e.req with
  | none => .next s
  | some r =>
    if !r.wakes.isEmpty || r.hold then .next s
    else if r.trump then
      if e.tokens = 64 && e.act == some cd && !sectorWanted s cd sector then .next (opDone s cd sector) else .next s
    else if r.reissues < 2 then
      let s := onSec s cd sector fun e => { e with req := some { r with reissues := r.reissues + 1 } }
      .next (issueReq s cd sector r.wr r.tag ((countedDies s (pkgOf cd)).filter (· != cd)) false)
    else
      let s := onSec s cd sector fun e => { e with req := some { r with trump := true } }
      let s := onCd s cd fun d => { d with trumps := sat16 d.trumps }
      .next (send s cd (homeUnit sector) (.trumpreq sector cd r.tag))
/-- The census time passes without GATHERED: the home freezes its count and sends CENSUS (R93). -/
def execCensusTimeExpiry (sector : Nat) (s : State) : Res :=
  match (getHome s sector).trump with
  | none => .next s
  | some t =>
    if t.phase != .gather || t.gathered || t.hold || (getHome s sector).hostHeld || (getHome s sector).biOwed != 0 || flipSnooping s sector ||
        (t.winner = homeUnit sector && (getHome s sector).tokens = 64) then .next s
    else
      let ds := groupDies s sector
      let t := { t with phase := if ds.isEmpty then .settle else .census, owed := countUnits s sector, due := ds, reports := [] }
      let s := onHome s sector fun h => { h with frozen := true, trump := some t }
      let s := onMd s (homeUnit sector) fun m => { m with census := sat16 m.census }
      .next (broadcast s sector (.census sector (getHome s sector).serial))
/-- The settle time passes: the home sums the tokens and decides (R94). -/
def execSettleTimeExpiry (sector : Nat) (s : State) : Res :=
  match (getHome s sector).trump with
  | none => .next s
  | some t => if t.phase = .settle then .next (settleHome s sector t) else .next s
/-- The 20 µs wake budget of a paused request's oldest wake runs out: counted in STALL, never a failure, and the same wake pauses it no more
(R106). -/
def execWakeBudgetExpiry (cd sector : Nat) (s : State) : Res :=
  match (getSec s cd sector).req with
  | none => .next s
  | some r => match r.wakes with
    | [] => .next s
    | u :: us =>
      let s := onSec s cd sector fun e => { e with req := some { r with wakes := us, spent := u :: r.spent } }
      .next (onCd s cd fun d => { d with stall := sat16 d.stall })
/-- The link toward a unit is up again after a low-power state: the pauses that its wake made end (R106). -/
def linkAwake (u : Nat) (s : State) : Res := .next (if (getCd s u).power == .gated then s else wakeOver s u)

/-- A message that waited over 100 µs in one die's buffers is lost, if it carries tokens, and the die, here its sender, logs the loss
(R85; log entry 86). -/
def execMessageBufferTimeout (n : Nat) (s : State) : Res :=
  match s.net[n]? with
  | some m => match m.body with
    | .tok _ _ _ _ _ _ _ _ _ => .next (logLoss { s with net := dropAt n s.net } m.src m)
    | _ => .next s
  | none => .next s
/-- A link on the way of a message is waking from a low-power state: its link layer answers WAKEPEND, and the message comes later
(R105, R106, R391). When a link sleeps is free (log entry 1). -/
def linkWaking (n : Nat) (s : State) : Res :=
  match s.net[n]? with
  | some m => .next (wakeReply s n m)
  | none => .next s
/-- The lines that a die's cache holds in the set of a sector: 65,536 sets by the line's number (R54; log entry 87). -/
def setLines (s : State) (cd x : Nat) : List Nat :=
  dedup ((s.sectors.filter fun e => e.cd == cd && e.tokens > 0 && e.sector / 2 % 65536 == x / 2 % 65536).map (·.sector / 2))
/-- A sector leaves a die's cache for room: its set holds more lines than 16, and no request of the die for it is open; its tokens go
home, the owner token with its data. The last token of a sector under a monitor stays, and so does what a trump request or a census
holds (R54, R59, R82, R91, R93, R103). -/
def evictSector (cd x : Nat) (s : State) : Res :=
  let e := getSec s cd x
  if e.tokens = 0 || e.req.isSome || e.frozen || e.act.isSome || e.monitor || (setLines s cd x).length ≤ 16 then .next s
  else .next (giveAll s cd x (homeUnit x) 0 false)
/-- The lines that a core's L1 holds in the set of a sector: 128 sets by the line's number (R54; log entry 37). -/
def l1Lines (s : State) (cd x core : Nat) : List Nat :=
  dedup ((s.sectors.filter fun e => e.cd == cd && e.l1.contains core && e.sector / 2 % 128 == x / 2 % 128).map (·.sector / 2))
/-- A line dropped from a core's L1 (R57). -/
def dropL1 (s : State) (cd x core : Nat) : State :=
  { s with sectors := updWhere (fun e => e.cd == cd && e.sector / 2 == x / 2) (fun e => { e with l1 := e.l1.filter (· != core) }) s.sectors }
/-- A line leaves a core's L1 for room: its set holds more than 8; the die cache has its data (R54, R57). -/
def evictL1 (cd x core : Nat) (s : State) : Res :=
  .next (if (l1Lines s cd x core).length ≤ 8 then s else dropL1 s cd x core)
/-- The set of a line in the slice of its home: 32,768 sets by the line's number in the stack (R54, R55; log entry 37). -/
def sliceSet (line : Nat) : Nat := (line % 2 ^ 37 / 512 / 8 * 512 + line % 512) % 32768
/-- The lines that a slice holds in the set of a line. -/
def sliceLines (s : State) (md line : Nat) : List Nat :=
  ((getMd s md).slice.filter fun e => sliceSet e.1 == sliceSet line).map (·.1)
/-- A line leaves a slice for room, its set holding more than 16: it is written back to the stack (R54, R60). -/
def evictSlice (md line : Nat) (s : State) : Res :=
  .next (if (sliceLines s md line).length ≤ 16 then s else onMd s md fun d => { d with slice := d.slice.filter (·.1 != line) })
end Sys2Proof.Machine
end

