-- ==== Sys2Proof/Machine/Flags.lean ====
section
/-! DEFINITION. The sticky conditions of STAT (R185) and the ranges of integer results (R193, R200, R261). -/

namespace Sys2Proof.Machine

/-- The condition bits of STAT (R185). -/
def fNX : Nat := 1
def fUF : Nat := 2
def fOF : Nat := 4
def fDZ : Nat := 8
def fNV : Nat := 16
def fSATF : Nat := 64
def fRLOST : Nat := 128

/-- Conditions ORed into STAT (R185). -/
def orStat (a : WaveArch) (fl : Nat) : WaveArch := { a with stat := a.stat ||| BitVec.ofNat 32 fl }

/-- The conditions that any of the lanes of a mask raises (R185, R258). -/
def flagsOver (m : Mask) (f : Nat → Nat) : Nat := (lanesOf m).foldl (fun n i => n ||| f i) 0

/-- Signed integer types (R182). -/
def isSigned : EType → Bool
  | .i32 | .i16 | .i8 | .i4 => true
  | _ => false
/-- Width of an element in bits (R182). -/
def widthOf : EType → Nat
  | .fp32 | .i32 | .u32 => 32
  | .fp16 | .bf16 | .i16 | .u16 => 16
  | .e4m3 | .e5m2 | .i8 | .u8 => 8
  | .e2m1 | .i4 | .u4 => 4
/-- Least and greatest value of an integer type of width b (R193). -/
def intMin (sg : Bool) (b : Nat) : Int := if sg then -(2 ^ (b - 1) : Nat) else 0
def intMax (sg : Bool) (b : Nat) : Int := if sg then (2 ^ (b - 1) : Nat) - 1 else (2 ^ b : Nat) - 1
/-- A b-bit pattern as its value. -/
def intOf (sg : Bool) (b x : Nat) : Int := if sg then sgn b x else (x % 2 ^ b : Nat)

/-- An exact integer result written to b bits: wrapped, or clamped with SATF under SAT = 1 (R200, R261). -/
def satInt (sat sg : Bool) (b : Nat) (t : Int) : Nat × Nat :=
  if t < intMin sg b then (if sat then (wrapN b (intMin sg b), fSATF) else (wrapN b t, 0))
  else if intMax sg b < t then (if sat then (wrapN b (intMax sg b), fSATF) else (wrapN b t, 0))
  else (wrapN b t, 0)

end Sys2Proof.Machine
end

