-- ==== Sys2Proof/Machine/Float.lean ====
section
/-! DEFINITION. The floating-point formats and their exact arithmetic (R191 to R200, R264, R265, R278,
R279): values are dyadic numbers, and every result is rounded once. -/

namespace Sys2Proof.Machine

/-! ## Formats (R191) -/

/-- Fraction bits of a float format. -/
def manBits : EType → Nat
  | .fp32 => 23 | .fp16 => 10 | .bf16 => 7 | .e4m3 => 3 | .e5m2 => 2 | .e2m1 => 1 | _ => 0
/-- Exponent bias. -/
def biasOf : EType → Nat
  | .fp32 => 127 | .bf16 => 127 | .fp16 => 15 | .e5m2 => 15 | .e4m3 => 7 | .e2m1 => 1 | _ => 0
/-- Exponent bits. -/
def expBits (t : EType) : Nat := widthOf t - 1 - manBits t
/-- The format has infinities. -/
def hasInf : EType → Bool
  | .e4m3 | .e2m1 => false
  | _ => true
/-- FTZ applies to FP32, FP16 and BF16 only (R196). -/
def ftzFmt (t : EType) : Bool := t == .fp32 || t == .fp16 || t == .bf16
/-- The largest finite value as significand and exponent. -/
def maxFin : EType → Nat × Int
  | .fp32 => (0xFFFFFF, 104) | .fp16 => (0x7FF, 5) | .bf16 => (0xFF, 120)
  | .e4m3 => (14, 5) | .e5m2 => (7, 13) | .e2m1 => (3, 1) | _ => (0, 0)
/-- Bit patterns: sign, infinity, largest finite, canonical NaN (R191, R197); E2M1 gives +0 for NaN (R198). -/
def signBit (t : EType) (n : Bool) : Nat := if n then 2 ^ (widthOf t - 1) else 0
def infBits (t : EType) (n : Bool) : Nat := signBit t n + (2 ^ expBits t - 1) * 2 ^ manBits t
def maxBits (t : EType) (n : Bool) : Nat :=
  signBit t n + (match t with | .e4m3 => 0x7E | .e2m1 => 7 | _ => infBits t false - 1)
def nanBits : EType → Nat
  | .fp32 => 0x7FC00000 | .fp16 => 0x7E00 | .bf16 => 0x7FC0 | .e4m3 => 0x7F | .e5m2 => 0x7E | _ => 0

/-- A value: a NaN and whether it signals, an infinity, or ±m·2^e. -/
inductive FVal | nan (sig : Bool) | inf (neg : Bool) | fin (neg : Bool) (m : Nat) (e : Int)
  deriving DecidableEq, Repr

/-- The value of a bit pattern; with ftz a subnormal is read as zero of its sign (R191, R196). -/
def fdec (t : EType) (ftz : Bool) (x : Nat) : FVal :=
  let mb := manBits t
  let n := bitOf x (widthOf t - 1)
  let E := bits x (widthOf t - 2) mb
  let F := x % 2 ^ mb
  let top := 2 ^ expBits t - 1
  if t = .e4m3 ∧ E = 15 ∧ F = 7 then .nan false
  else if hasInf t ∧ E = top then (if F = 0 then .inf n else .nan (F < 2 ^ (mb - 1)))
  else if E = 0 then
    (if ftz && ftzFmt t then .fin n 0 0 else .fin n F (1 - (biasOf t : Int) - mb))
  else .fin n (2 ^ mb + F) ((E : Int) - biasOf t - mb)

/-! ## Rounding (R194 to R196, R198, R199) -/

/-- x · 2^e of a signed exponent, as a natural number when it is one, rounded down. -/
def shiftNat (x : Nat) (e : Int) : Nat := if 0 ≤ e then x * 2 ^ e.toNat else x / 2 ^ (-e).toNat
/-- Whether m1·2^e1 > m2·2^e2. -/
def gtDy (m1 : Nat) (e1 : Int) (m2 : Nat) (e2 : Int) : Bool :=
  let e := min e1 e2
  m1 * 2 ^ (e1 - e).toNat > m2 * 2 ^ (e2 - e).toNat

/-- The stochastic draw of R199. -/
def srDraw (seed lane elem : Nat) : Nat :=
  let h := (seed ^^^ (lane * 0x9E3779B9 % 2 ^ 32)) ^^^ (elem * 0x85EBCA6B % 2 ^ 32)
  let h := (h ^^^ (h / 65536)) * 0x7FEB352D % 2 ^ 32
  let h := (h ^^^ (h / 32768)) * 0x846CA68B % 2 ^ 32
  h ^^^ (h / 65536)

/-- Whether a magnitude k + r/2^sh between two multiples rounds up in magnitude (R194, R199). -/
def roundUp (rm rnd : Nat) (neg : Bool) (k r sh : Nat) : Bool :=
  let h := 2 ^ sh
  match rm with
  | 0 => 2 * r > h || (2 * r == h && k % 2 == 1)
  | 1 => false
  | 2 => neg && r > 0
  | 3 => !neg && r > 0
  | 4 => 2 * r ≥ h
  | _ => r > 0 && (if neg then !(rnd < (h - r) * 2 ^ 32 / h) else rnd < r * 2 ^ 32 / h)
/-- ±m·2^e rounded to a multiple of 2^q: the multiple, and whether it differs (R194). -/
def roundAt (rm rnd : Nat) (neg : Bool) (m : Nat) (e q : Int) : Nat × Bool :=
  if q ≤ e then (m * 2 ^ (e - q).toNat, false)
  else
    let sh := (q - e).toNat
    let k := m / 2 ^ sh
    let r := m % 2 ^ sh
    (k + b2n (roundUp rm rnd neg k r sh), r != 0)
/-- The pattern of ±k·2^q, k at most 2^(fraction bits + 1) with q at least the subnormal quantum (R191). -/
def packF (t : EType) (neg : Bool) (k : Nat) (q : Int) : Nat :=
  let mb := manBits t
  signBit t neg +
  (if k = 0 then 0
   else if k < 2 ^ mb then k
   else if k = 2 ^ (mb + 1) then (q + 1 + mb + biasOf t).toNat * 2 ^ mb
   else (q + mb + biasOf t).toNat * 2 ^ mb + (k - 2 ^ mb))

/-- The rounding parameters of an operation. -/
structure Rnd where
  rm : Nat
  sat : Bool
  ftz : Bool
  rnd : Nat
  deriving DecidableEq, Repr

/-- RM gives an infinity for an overflow of this sign (R195, R198). -/
def infMode (rm : Nat) (neg : Bool) : Bool :=
  rm == 0 || rm == 4 || rm == 5 || (rm == 3 && !neg) || (rm == 2 && neg)
/-- The result of an overflow and its conditions (R195, R198). -/
def overflow (t : EType) (c : Rnd) (neg : Bool) : Nat × Nat :=
  let fl := fOF ||| fNX
  match t with
  | .e2m1 => (maxBits t neg, fl ||| fSATF)
  | .e4m3 =>
    if c.sat then (maxBits t neg, fl ||| fSATF)
    else if infMode c.rm neg then (nanBits t, fl) else (maxBits t neg, fl)
  | .e5m2 =>
    if c.sat then (maxBits t neg, fl ||| fSATF)
    else if infMode c.rm neg then (infBits t neg, fl) else (maxBits t neg, fl)
  | _ => if infMode c.rm neg then (infBits t neg, fl) else (maxBits t neg, fl)
/-- Under SR a magnitude beyond the largest finite one rounds as under RNE (R199). -/
def srBeyond (t : EType) (rm m : Nat) (e : Int) : Nat :=
  if rm = 5 ∧ gtDy m e (maxFin t).1 (maxFin t).2 then 0 else rm
/-- A nonzero ±m·2^e rounded once into a format: bits and conditions (R194 to R196). -/
def roundF (t : EType) (c : Rnd) (neg : Bool) (m : Nat) (e : Int) : Nat × Nat :=
  if m = 0 then (signBit t neg, 0) else
  let mb := manBits t
  let emin : Int := 1 - biasOf t
  let top : Int := e + Nat.log2 m
  let rm := srBeyond t c.rm m e
  let q : Int := max (top - mb) (emin - mb)
  let (k, inex) := roundAt rm c.rnd neg m e q
  if gtDy k q (maxFin t).1 (maxFin t).2 then overflow t c neg
  else
    let tiny := top < emin && (roundAt rm c.rnd neg m e (top - mb)).1 < 2 ^ (emin - top + mb).toNat
    if tiny && c.ftz && ftzFmt t then (signBit t neg, fUF ||| fNX)
    else (packF t neg k q, (if inex then fNX else 0) ||| (if tiny && inex then fUF else 0))

/-! ## Exact arithmetic (R194, R197, R264) -/

/-- NV of a signalling NaN input (R197). -/
def sigNV : FVal → Nat
  | .nan true => fNV
  | _ => 0
/-- The value with its sign reversed. -/
def negVal : FVal → FVal
  | .nan s => .nan s
  | .inf n => .inf (!n)
  | .fin n m e => .fin (!n) m e
def isNan : FVal → Bool
  | .nan _ => true
  | _ => false
/-- ±m·2^e in units of 2^e0, for e0 at most e. -/
def inUnits (e0 : Int) : FVal → Int
  | .fin n m e => (if n then -1 else 1) * (m * 2 ^ (e - e0).toNat : Nat)
  | _ => 0
/-- The exponent of a finite value. -/
def expOf : FVal → Int
  | .fin _ _ e => e
  | _ => 0
/-- The exact product; 0·∞ is invalid (R264). -/
def mulVal : FVal → FVal → FVal × Nat
  | .nan _, _ => (.nan false, 0)
  | _, .nan _ => (.nan false, 0)
  | .inf a, .inf b => (.inf (a != b), 0)
  | .inf a, .fin b m _ => if m = 0 then (.nan false, fNV) else (.inf (a != b), 0)
  | .fin a m _, .inf b => if m = 0 then (.nan false, fNV) else (.inf (a != b), 0)
  | .fin a m e, .fin b n f => (.fin (a != b) (m * n) (e + f), 0)
/-- The exact sum of terms, an exact zero with the given sign; infinities of both signs are invalid. -/
def sumVal (zneg : Bool) (xs : List FVal) : FVal × Nat :=
  if xs.any isNan then (.nan false, 0)
  else
    let pi := xs.contains (.inf false)
    let ni := xs.contains (.inf true)
    if pi && ni then (.nan false, fNV)
    else if pi then (.inf false, 0)
    else if ni then (.inf true, 0)
    else
      let e0 := xs.foldl (fun m x => min m (expOf x)) 0
      let t := sumInt (xs.map (inUnits e0))
      if t = 0 then (.fin zneg 0 0, 0) else (.fin (t < 0) t.natAbs e0, 0)
/-- The sign of a finite zero, or none. -/
def zeroSign : FVal → Option Bool
  | .fin n 0 _ => some n
  | _ => none
/-- Every term is a zero of the sign n. -/
def allZero (n : Bool) (xs : List FVal) : Bool := xs.all fun x => zeroSign x == some n
/-- The sign of an exact zero sum under a rounding mode: that of the terms when they are zeros of one sign,
else negative only under RDN (R264). -/
def zeroSum (rm : Nat) (xs : List FVal) : Bool := allZero true xs || (rm == 2 && !allZero false xs)
/-- A value rounded into a format (R194 to R197). -/
def finish (t : EType) (c : Rnd) (r : FVal × Nat) : Nat × Nat :=
  match r.1 with
  | .nan _ => (nanBits t, r.2)
  | .inf n => (infBits t n, r.2)
  | .fin n m e => let o := roundF t c n m e; (o.1, o.2 ||| r.2)
/-- x + y, rounded once. -/
def addF (t : EType) (c : Rnd) (x y : FVal) : Nat × Nat :=
  let r := sumVal (zeroSum c.rm [x, y]) [x, y]
  finish t c (r.1, r.2 ||| sigNV x ||| sigNV y)
/-- x · y, rounded once. -/
def mulF (t : EType) (c : Rnd) (x y : FVal) : Nat × Nat :=
  let r := mulVal x y
  finish t c (r.1, r.2 ||| sigNV x ||| sigNV y)
/-- ±(x · y) + z, rounded once; the product alone is never rounded (R264). -/
def fmaF (t : EType) (c : Rnd) (neg : Bool) (x y z : FVal) : Nat × Nat :=
  let p := mulVal x y
  let q := if neg then negVal p.1 else p.1
  let r := sumVal (zeroSum c.rm [q, z]) [q, z]
  finish t c (r.1, r.2 ||| p.2 ||| sigNV x ||| sigNV y ||| sigNV z)

/-- Order of two values that are no NaN: whether x < y, with −0 = +0. -/
def ltVal : FVal → FVal → Bool
  | .inf a, .inf b => a && !b
  | .inf a, .fin _ _ _ => a
  | .fin _ _ _, .inf b => !b
  | .fin a m e, .fin b n f =>
    let e0 := min e f
    inUnits e0 (.fin a m e) < inUnits e0 (.fin b n f)
  | _, _ => false
/-- x < y with −0 below +0 (R265). -/
def ltTotal (x y : FVal) : Bool :=
  ltVal x y || (!ltVal y x && zeroSign x == some true && zeroSign y == some false)
/-- The bits of an input that is passed on: a zero where FTZ reads one (R265). -/
def passBits (t : EType) (x : Nat) : FVal → Nat
  | .nan _ => nanBits t
  | .fin n 0 _ => signBit t n
  | _ => x
/-- `fmin`, `fmax`, `fminp` and `fmaxp` on bits (R265). -/
def minMax (t : EType) (ftz mx propagate : Bool) (a b : Nat) : Nat × Nat :=
  let x := fdec t ftz a
  let y := fdec t ftz b
  let fl := sigNV x ||| sigNV y
  if isNan x && isNan y then (nanBits t, fl)
  else if isNan x then (if propagate then nanBits t else passBits t b y, fl)
  else if isNan y then (if propagate then nanBits t else passBits t a x, fl)
  else
    let second := if mx then ltTotal x y else ltTotal y x
    (if second then passBits t b y else passBits t a x, fl)
/-- A compare's bit and NV (R268). -/
def fcmpBit (cc : FcmpCc) (x y : FVal) : Bool × Nat :=
  let nan := isNan x || isNan y
  let sig := sigNV x ||| sigNV y
  let any := if nan then fNV else 0
  match cc with
  | .eq => (!nan && !ltVal x y && !ltVal y x, sig)
  | .ne => (nan || ltVal x y || ltVal y x, sig)
  | .lt => (!nan && ltVal x y, any)
  | .le => (!nan && !ltVal y x, any)
  | .gt => (!nan && ltVal y x, any)
  | .ge => (!nan && !ltVal x y, any)
  | .un => (nan, sig)
  | .or => (!nan, sig)

/-- x rounded to an integral value; NX only where asked for (R271). -/
def integral (t : EType) (rm : Nat) (nx : Bool) (x : Nat) (v : FVal) : Nat × Nat :=
  match v with
  | .nan s => (nanBits t, sigNV (.nan s))
  | .inf _ => (x, 0)
  | .fin n m e =>
    let r := roundAt rm 0 n m e 0
    if e ≥ 0 then (passBits t x v, 0)
    else ((roundF t ⟨0, false, false, 0⟩ n r.1 0).1, if nx && r.2 then fNX else 0)

/-! ## Conversion (R198, R200, R272) -/

/-- Float to float (R198). -/
def convFF (src dst : EType) (c : Rnd) (x : Nat) : Nat × Nat :=
  match fdec src c.ftz x with
  | .nan s => if dst = .e2m1 then (0, fNV) else (nanBits dst, sigNV (.nan s))
  | .inf n => if hasInf dst && !(dst == .e5m2 && c.sat) then (infBits dst n, 0) else overflow dst { c with rm := 0 } n
  | .fin n m e => roundF dst c n m e
/-- Float to integer: FTZ and SAT are ignored (R196, R200). -/
def convFI (src dst : EType) (c : Rnd) (x : Nat) : Nat × Nat :=
  let b := widthOf dst
  let sg := isSigned dst
  match fdec src false x with
  | .nan _ => (0, fNV)
  | .inf n => (wrapN b (if n then intMin sg b else intMax sg b), fSATF)
  | .fin n m e =>
    let r := roundAt c.rm c.rnd n m e 0
    let v : Int := if n then -(r.1 : Int) else r.1
    if v < intMin sg b then (wrapN b (intMin sg b), fSATF)
    else if intMax sg b < v then (wrapN b (intMax sg b), fSATF)
    else (wrapN b v, if r.2 then fNX else 0)
/-- Integer to float (R200). -/
def convIF (src dst : EType) (c : Rnd) (x : Nat) : Nat × Nat :=
  let v := intOf (isSigned src) (widthOf src) x
  roundF dst c (v < 0) v.natAbs 0
/-- Integer to integer (R272). -/
def convII (src dst : EType) (c : Rnd) (x : Nat) : Nat × Nat :=
  satInt c.sat (isSigned dst) (widthOf dst) (intOf (isSigned src) (widthOf src) x)
/-- The conversion of one element (R272). -/
def conv (src dst : EType) (c : Rnd) (x : Nat) : Nat × Nat :=
  match isIntType src, isIntType dst with
  | false, false => convFF src dst c x
  | false, true => convFI src dst c x
  | true, false => convIF src dst c x
  | true, true => convII src dst c x

/-! ## Division and square root (R278) -/

/-- The integer square root: k bits of it still to find. -/
def isqrtGo : Nat → Nat → Nat → Nat
  | 0, _, r => r
  | k + 1, n, r => isqrtGo k n (if (r + 2 ^ k) * (r + 2 ^ k) ≤ n then r + 2 ^ k else r)
/-- The integer square root, rounded down. -/
def isqrt (n : Nat) : Nat := isqrtGo (Nat.log2 n / 2 + 1) n 0
/-- A quotient of integers with a last bit that marks an inexact one, times 2^(s+1). -/
def quoSticky (a b s : Nat) : Nat := 2 * (a * 2 ^ s / b) + b2n (a * 2 ^ s % b != 0)
/-- x / y, rounded once (R278). -/
def divF (t : EType) (c : Rnd) (x y : FVal) : Nat × Nat :=
  let fl := sigNV x ||| sigNV y
  match x, y with
  | .nan _, _ => (nanBits t, fl)
  | _, .nan _ => (nanBits t, fl)
  | .inf _, .inf _ => (nanBits t, fNV)
  | .inf a, .fin b _ _ => (infBits t (a != b), 0)
  | .fin a _ _, .inf b => (signBit t (a != b), 0)
  | .fin a m e, .fin b n f =>
    if n = 0 then (if m = 0 then (nanBits t, fNV) else (infBits t (a != b), fDZ))
    else
      let s := 70 + Nat.log2 n
      roundF t c (a != b) (quoSticky m n s) (e - f - s - 1)
/-- A finite value with an even exponent. -/
def evenExp (m : Nat) (e : Int) : Nat × Int := if e % 2 = 0 then (m, e) else (2 * m, e - 1)
/-- √x, rounded once (R278). -/
def sqrtF (t : EType) (c : Rnd) (x : FVal) : Nat × Nat :=
  match x with
  | .nan s => (nanBits t, sigNV (.nan s))
  | .inf n => if n then (nanBits t, fNV) else (infBits t false, 0)
  | .fin n m e =>
    if m = 0 then (signBit t n, 0)
    else if n then (nanBits t, fNV)
    else
      let (m, e) := evenExp m e
      let y := m * 2 ^ 160
      let r := isqrt y
      roundF t c false (2 * r + b2n (r * r != y)) (e / 2 - 81)

/-! ## The special functions (R279)

A result that is not exact is known to more than 600 bits with an odd last bit, so that its two
neighbours are the roundings upward and downward. -/

/-- Fraction bits of the approximations, and π and ln 2 in them. -/
def sfP : Nat := 640
def sfPi : Nat := 0x3243f6a8885a308d313198a2e03707344a4093822299f31d0082efa98ec4e6c89452821e638d01377be5466cf34e90c6cc0ac29b7c97c50dd3f84d5b5b54709179216d5d98979fb1bd1310ba698dfb5ac
def sfLn2 : Nat := 0xb17217f7d1cf79abc9e3b39803f2f6af40f343267298b62d8a0d175b8baafa2be7b876206debac98559552fb4afa1b10ed2eae35c138214427573b291169b8253e96ca16224ae8c51acbda11317c387e
/-- The neighbour above or below of an inexact result; an overflow gives ∞ (R279). -/
def neighbour (t : EType) (ftz up neg : Bool) (m : Nat) (e : Int) : Nat × Nat :=
  let r := roundF t ⟨if up then 3 else 2, false, ftz, 0⟩ neg m e
  if r.2 &&& fOF != 0 then (infBits t neg, r.2) else r
/-- e^t of 0 ≤ t < 1 by its series. -/
def expGo : Nat → Nat → Nat → Nat → Nat → Nat
  | 0, _, _, _, acc => acc
  | n + 1, t, k, term, acc =>
    let term := term * t / 2 ^ sfP / k
    expGo n t (k + 1) term (acc + term)
def expFix (t : Nat) : Nat := expGo 150 t 1 (2 ^ sfP) (2 ^ sfP)
/-- sin t of 0 ≤ t ≤ π/2 by its series, the signs alternating. -/
def sinGo : Nat → Nat → Nat → Nat → Nat → Nat → Nat
  | 0, _, _, _, pos, neg => pos - neg
  | n + 1, tt, k, term, pos, neg =>
    let term := term * tt / 2 ^ sfP / ((k + 1) * (k + 2))
    sinGo n tt (k + 2) term (if k % 4 = 3 then pos + term else pos) (if k % 4 = 3 then neg else neg + term)
def sinFix (t : Nat) : Nat := sinGo 90 (t * t / 2 ^ sfP) 1 t t 0
/-- artanh z of 0 ≤ z ≤ 1/3 by its series. -/
def atanhGo : Nat → Nat → Nat → Nat → Nat → Nat
  | 0, _, _, _, acc => acc
  | n + 1, zz, k, term, acc =>
    let term := term * zz / 2 ^ sfP
    atanhGo n zz (k + 2) term (acc + term / (k + 2))
def atanhFix (z : Nat) : Nat := atanhGo 210 (z * z / 2 ^ sfP) 1 z z
/-- A nonnegative number m·2^e in units of 2^-640, for an exponent of at least −640. -/
def toFix (m : Nat) (e : Int) : Nat := m * 2 ^ (e + sfP).toNat
/-- An exact result ±m·2^e. -/
def exactF (t : EType) (ftz neg : Bool) (m : Nat) (e : Int) : Nat × Nat := roundF t ⟨0, false, ftz, 0⟩ neg m e

/-- 1/√x. -/
def frsqF (t : EType) (ftz up : Bool) (x : FVal) : Nat × Nat :=
  match x with
  | .nan s => (nanBits t, sigNV (.nan s))
  | .inf n => if n then (nanBits t, fNV) else (0, 0)
  | .fin n m e =>
    if m = 0 then (infBits t n, fDZ)
    else if n then (nanBits t, fNV)
    else
      let (m, e) := evenExp m e
      let r := isqrt (2 ^ 320 / m)
      if r * r * m = 2 ^ 320 then exactF t ftz false r (-(e / 2) - 160)
      else neighbour t ftz up false (2 * r + 1) (-(e / 2) - 161)
/-- 2^x: exact for an integer x in range, one of the two neighbours for one below it, as for any other inexact result (R279; log
entry 4). -/
def fexp2F (t : EType) (ftz up : Bool) (x : FVal) : Nat × Nat :=
  match x with
  | .nan s => (nanBits t, sigNV (.nan s))
  | .inf n => (if n then 0 else infBits t false, 0)
  | .fin n m e =>
    let big := m ≠ 0 ∧ e + Nat.log2 m > 15
    if big then (if n then neighbour t ftz up false 1 (-40000) else neighbour t ftz up false 1 40000)
    else
      let y := toFix m e
      let v : Int := if n then -(y : Int) else y
      let k : Int := v / (2 ^ sfP : Nat)
      let f := (v % (2 ^ sfP : Nat)).toNat
      if f = 0 then neighbour t ftz up false 1 k
      else neighbour t ftz up false (2 * expFix (f * sfLn2 / 2 ^ sfP) + 1) (k - sfP - 1)
/-- log2 x. -/
def flog2F (t : EType) (ftz up : Bool) (x : FVal) : Nat × Nat :=
  match x with
  | .nan s => (nanBits t, sigNV (.nan s))
  | .inf n => if n then (nanBits t, fNV) else (infBits t false, 0)
  | .fin n m e =>
    if m = 0 then (infBits t true, fDZ)
    else if n then (nanBits t, fNV)
    else
      let L := Nat.log2 m
      let k : Int := e + L
      if m = 2 ^ L then exactF t ftz (k < 0) k.natAbs 0
      else
        let z := (m - 2 ^ L) * 2 ^ sfP / (m + 2 ^ L)
        let v : Int := k * (2 ^ sfP : Nat) + (2 * atanhFix z * 2 ^ sfP / sfLn2 : Nat)
        neighbour t ftz up (v < 0) (2 * v.natAbs + 1) (-(sfP : Int) - 1)
/-- sin of π·y for y in units of 2^-640, y ≥ 0, with the sign of the argument; a zero has the sign z. -/
def sinPiFix (t : EType) (ftz up neg z : Bool) (y : Nat) : Nat × Nat :=
  let one := 2 ^ sfP
  let r := y % (2 * one)
  let neg := if r ≥ one then !neg else neg
  let r := r % one
  if r = 0 then (signBit t z, 0)
  else if 2 * r = one then exactF t ftz neg 1 0
  else
    let r := if 2 * r > one then one - r else r
    neighbour t ftz up neg (2 * sinFix (r * sfPi / one) + 1) (-(sfP : Int) - 1)
/-- sin πx. -/
def fsinpiF (t : EType) (ftz up : Bool) (x : FVal) : Nat × Nat :=
  match x with
  | .nan s => (nanBits t, sigNV (.nan s))
  | .inf _ => (nanBits t, fNV)
  | .fin n m e => sinPiFix t ftz up n n (toFix m e)
/-- cos πx = sin π(|x| + 1/2). -/
def fcospiF (t : EType) (ftz up : Bool) (x : FVal) : Nat × Nat :=
  match x with
  | .nan s => (nanBits t, sigNV (.nan s))
  | .inf _ => (nanBits t, fNV)
  | .fin _ m e => sinPiFix t ftz up false false (toFix m e + 2 ^ (sfP - 1))
/-- n squarings of a fixed-point number. -/
def squarings : Nat → Nat → Nat
  | 0, x => x
  | n + 1, x => squarings n (x * x / 2 ^ sfP)
/-- tanh x = (e^2x − 1)/(e^2x + 1). -/
def ftanhF (t : EType) (ftz up : Bool) (x : FVal) : Nat × Nat :=
  match x with
  | .nan s => (nanBits t, sigNV (.nan s))
  | .inf n => exactF t ftz n 1 0
  | .fin n m e =>
    if m = 0 then (signBit t n, 0)
    else
      let y := if e + Nat.log2 m ≥ 5 then 32 * 2 ^ sfP else toFix m e
      let E := squarings 7 (expFix (2 * y / 128))
      let v := (E - 2 ^ sfP) * 2 ^ sfP / (E + 2 ^ sfP)
      neighbour t ftz up n (2 * v + 1) (-(sfP : Int) - 1)

end Sys2Proof.Machine
end

