-- ==== Sys2Proof/Machine/Operands.lean ====
section
/-! DEFINITION. Vector operands: elements of a lane word (R190), inline constants (R207), source lanes
(R206), the write of a vector result with its last-result shift (R178, R258), and the draws of SEED (R199). -/

namespace Sys2Proof.Machine

/-- Element e of a lane word under a width (R190). -/
def elemOf (b : Nat) (x : Word) (e : Nat) : Nat := x.toNat / 2 ^ (b * e) % 2 ^ b
/-- A lane word from its elements, n of width b (R190). -/
def packElems (b : Nat) : Nat → (Nat → Nat) → Nat
  | 0, _ => 0
  | n + 1, f => packElems b n f + f n % 2 ^ b * 2 ^ (b * n)
/-- A lane word from the elements of a width. -/
def wordOfElems (b : Nat) (f : Nat → Nat) : Word := BitVec.ofNat 32 (packElems b (32 / b) f)

/-- The value of an integer selector (R206). -/
def constInt (n : Nat) : Int := if n < 0xF0 then (n : Int) - 0xD0 else -(2 ^ (n - 0xF0) : Nat)
/-- The FP32 encoding of a float selector, in selector order (R207). -/
def constF32 (n : Nat) : Nat :=
  [0x3F000000, 0x3F800000, 0x40000000, 0x40800000, 0xBF000000, 0xBF800000, 0xC0000000, 0xC0800000, 0x7F800000,
    0x7FC00000].getD (n - 0xF5) 0
/-- One element of a typed constant (R207). -/
def constElem (t : EType) (n : Nat) : Nat :=
  let c : Rnd := ⟨0, true, false, 0⟩
  if n < 0xF5 then (if isIntType t then wrapN (widthOf t) (constInt n) else
    (roundF t c (constInt n < 0) (constInt n).natAbs 0).1)
  else if n = 0xFD ∧ t = .e5m2 then infBits t false
  else (convFF .fp32 t c (constF32 n)).1
/-- The lane word of an inline constant (R207). -/
def constWord (k : SelKind) (t : EType) (n : Nat) : Word :=
  match k with
  | .raw => if n < 0xF5 then BitVec.ofInt 32 (constInt n) else BitVec.ofNat 32 (constF32 n)
  | .typed => wordOfElems (widthOf t) fun _ => constElem t n
  | .src u => wordOfElems (widthOf u) fun _ => constElem u n
/-- The word of a source operand in a lane (R206, R207). -/
def srcWord (a : WaveArch) (k : SelKind) (t : EType) (v : VSel) (i : Nat) : Word :=
  if v.toNat < 0xCA then laneOf (regLanes a v.toNat) i else constWord k t v.toNat

/-- A v or w register written with its new lanes, and the last-result file shifted (R178). -/
def shiftLast (a : WaveArch) (d : Nat) (x : Lanes) : WaveArch :=
  { setLanes a d x with l1 := a.l0, l0 := x, shifts := a.shifts + 1 }
/-- New words in the active lanes of a destination (R258). -/
def activeLanes (a : WaveArch) (d : Nat) (f : Nat → Word) : Lanes :=
  mkLanes fun i => if a.em.getLsbD i then f i else laneOf (regLanes a d) i
/-- A short vector instruction's effect: in each active lane a new word and the conditions it raises (R258). -/
def vecWrite (a : WaveArch) (d : VSel) (f : Nat → Word × Nat) : WaveArch :=
  orStat (shiftLast a d.toNat (activeLanes a d.toNat fun i => (f i).1)) (flagsOver a.em fun i => (f i).2)

/-- SEED advances at the issue of an instruction that rounds under MODE.RM, when RM = SR and some lane is
active (R199). -/
def advanceSeed (a : WaveArch) : WaveArch :=
  if modeRm a.mode = 5 ∧ a.em ≠ 0 then { a with seed := a.seed + 1 } else a
/-- The rounding parameters of element e of lane i (R181, R199). -/
def rndOf (a : WaveArch) (i e : Nat) : Rnd :=
  { rm := modeRm a.mode, sat := modeSat a.mode, ftz := modeFtz a.mode
    rnd := if modeRm a.mode = 5 then srDraw a.seed.toNat i e else 0 }
/-- The element type of the wave, where decode has accepted it. -/
def curType (a : WaveArch) : EType := (modeEtype a.mode).getD .fp32

/-- The conditions of the n elements of a word. -/
def elemFlags (n : Nat) (f : Nat → Nat) : Nat := (List.range n).foldl (fun x e => x ||| f e) 0
/-- A word computed element by element, with the conditions of all. -/
def elemwise (b : Nat) (f : Nat → Nat × Nat) : Word × Nat :=
  (wordOfElems b fun e => (f e).1, elemFlags (32 / b) fun e => (f e).2)
/-- An element-wise operation of two typed operands (R260, R263): `f` of lane, element and the elements. -/
def vecTyped (a : WaveArch) (d x y : VSel) (f : Nat → Nat → Nat → Nat → Nat × Nat) : WaveArch :=
  let t := curType a
  let b := widthOf t
  vecWrite a d fun i =>
    let u := srcWord a .typed t x i
    let v := srcWord a .typed t y i
    elemwise b fun e => f i e (elemOf b u e) (elemOf b v e)
/-- An element-wise operation of one typed operand (R271). -/
def vecTyped1 (a : WaveArch) (d x : VSel) (f : Nat → Nat → Nat → Nat × Nat) : WaveArch :=
  let t := curType a
  let b := widthOf t
  vecWrite a d fun i =>
    let u := srcWord a .typed t x i
    elemwise b fun e => f i e (elemOf b u e)
/-- An operation on whole raw lane words (class A of R259). -/
def vecRaw (a : WaveArch) (d x y : VSel) (f : Word → Word → Word) : WaveArch :=
  vecWrite a d fun i => (f (srcWord a .raw .fp32 x i) (srcWord a .raw .fp32 y i), 0)

end Sys2Proof.Machine
end

