-- ==== Sys2Proof/Machine/LongLatency.lean ====
section
/-! DEFINITION. The long-latency vector instructions (R276 to R280) and their completion. -/

namespace Sys2Proof.Machine

/-- The unit that a long-latency vector instruction takes (R281). -/
def vlUnit (i : Instr) : Nat :=
  match i with
  | .idiv .. | .irem .. | .fdiv .. | .fsqrt .. | .frcp .. => 0
  | .frsq .. | .fexp2 .. | .flog2 .. | .fsinpi .. | .fcospi .. | .ftanh .. => 1
  | _ => 2
/-- A long-latency vector instruction: accepted at issue with its sources read, the last-result file shifted,
its result held until the completion (R178, R210, R276). `f` gives the lanes' results and the conditions. -/
def vlOp (i : Instr) (d : VSel) (fl : FlagN) (la : LaN) (s : State) (rounds : WaveArch → Bool)
    (f : WaveArch → (Nat → Word) × Nat) : Res :=
  checked i s fun s =>
    let a := s.cur.a
    let r := f a
    let s := issue s
    let o := { newOp s .vl fl la with dst := d, nreg := 1, res := mkLanes r.1, stat := BitVec.ofNat 32 r.2, shift := a.shifts + 1, unit := vlUnit i }
    let s := accept s o
    let s := mapA s fun a => { a with l1 := a.l0, l0 := regLanes a d.toNat, shifts := a.shifts + 1 }
    .next (advance (if rounds a then mapA s advanceSeed else s))
/-- A result lane by lane and element by element, with the conditions of the active lanes. -/
def laneResults (a : WaveArch) (f : Nat → Word × Nat) : (Nat → Word) × Nat :=
  (fun i => if a.em.getLsbD i then (f i).1 else 0, flagsOver a.em fun i => (f i).2)
/-- A w register's word of a lane. -/
def wWord (a : WaveArch) (w : WReg) (i : Nat) : Word := laneOf (regLanes a (192 + w.toNat)) i

/-- Quotient and remainder of R277 on patterns of width b. -/
def divRem (sg : Bool) (b x y : Nat) : Nat × Nat :=
  let u := intOf sg b x
  let v := intOf sg b y
  if v = 0 then (2 ^ b - 1, x)
  else if sg && u == intMin true b && v == -1 then (x, 0)
  else (wrapN b (u.tdiv v), wrapN b (u.tmod v))
/-- An integer division (R277). -/
def divOp (i : Instr) (d : VSel) (x y : WReg) (fl : FlagN) (la : LaN) (s : State) (pick : Nat × Nat → Nat) : Res :=
  vlOp i d fl la s (fun _ => false) fun a =>
    let t := curType a
    let b := widthOf t
    laneResults a fun l => elemwise b fun e =>
      (pick (divRem (isSigned t) b (elemOf b (wWord a x l) e) (elemOf b (wWord a y l) e)), 0)
/-- The quotient (R277). -/
def execIdiv (d : VSel) (a b : WReg) (fl : FlagN) (la : LaN) (s : State) : Res := divOp (.idiv d a b fl la) d a b fl la s (·.1)
/-- The remainder (R277). -/
def execIrem (d : VSel) (a b : WReg) (fl : FlagN) (la : LaN) (s : State) : Res := divOp (.irem d a b fl la) d a b fl la s (·.2)
/-- A float operation of the divider, rounded under MODE.RM (R278). -/
def fdivOp (i : Instr) (d : VSel) (x y : WReg) (fl : FlagN) (la : LaN) (s : State)
    (f : EType → Rnd → FVal → FVal → Nat × Nat) : Res :=
  vlOp i d fl la s (fun _ => true) fun a =>
    let t := curType a
    let b := widthOf t
    let dec := fdec t (modeFtz a.mode)
    laneResults a fun l => elemwise b fun e =>
      f t (rndOf a l e) (dec (elemOf b (wWord a x l) e)) (dec (elemOf b (wWord a y l) e))
/-- x / y (R278). -/
def execFdiv (d : VSel) (a b : WReg) (fl : FlagN) (la : LaN) (s : State) : Res :=
  fdivOp (.fdiv d a b fl la) d a b fl la s divF
/-- √x (R278). -/
def execFsqrt (d : VSel) (a : WReg) (fl : FlagN) (la : LaN) (s : State) : Res :=
  fdivOp (.fsqrt d a fl la) d a a fl la s fun t c x _ => sqrtF t c x
/-- 1/x (R278). -/
def execFrcp (d : VSel) (a : WReg) (fl : FlagN) (la : LaN) (s : State) : Res :=
  fdivOp (.frcp d a fl la) d a a fl la s fun t c x _ => divF t c (.fin false 1 0) x

/-- A special function: `f` of type, FTZ, choice of neighbour and value; the choice depends on the function, the
type and the input bits alone (R279). -/
def sfuOp (i : Instr) (n : Nat) (d : VSel) (x : WReg) (fl : FlagN) (la : LaN) (s : State)
    (f : EType → Bool → Bool → FVal → Nat × Nat) : Res :=
  vlOp i d fl la s (fun _ => false) fun a =>
    let t := curType a
    let b := widthOf t
    let ftz := modeFtz a.mode
    laneResults a fun l => elemwise b fun e =>
      let u := elemOf b (wWord a x l) e
      f t ftz (Config.sfuUpper n (bits a.mode.toNat 4 0) (BitVec.ofNat 32 u)) (fdec t ftz u)
/-- 1/√x (R279). -/
def execFrsq (d : VSel) (a : WReg) (fl : FlagN) (la : LaN) (s : State) : Res :=
  sfuOp (.frsq d a fl la) 0 d a fl la s frsqF
/-- 2^x (R279). -/
def execFexp2 (d : VSel) (a : WReg) (fl : FlagN) (la : LaN) (s : State) : Res :=
  sfuOp (.fexp2 d a fl la) 1 d a fl la s fexp2F
/-- log2 x (R279). -/
def execFlog2 (d : VSel) (a : WReg) (fl : FlagN) (la : LaN) (s : State) : Res :=
  sfuOp (.flog2 d a fl la) 2 d a fl la s flog2F
/-- sin πx (R279). -/
def execFsinpi (d : VSel) (a : WReg) (fl : FlagN) (la : LaN) (s : State) : Res :=
  sfuOp (.fsinpi d a fl la) 3 d a fl la s fsinpiF
/-- cos πx (R279). -/
def execFcospi (d : VSel) (a : WReg) (fl : FlagN) (la : LaN) (s : State) : Res :=
  sfuOp (.fcospi d a fl la) 4 d a fl la s fcospiF
/-- tanh x (R279). -/
def execFtanh (d : VSel) (a : WReg) (fl : FlagN) (la : LaN) (s : State) : Res :=
  sfuOp (.ftanh d a fl la) 5 d a fl la s ftanhF

/-- The active lanes of sub-group g of width w (R280). -/
def groupLanes (em : Mask) (w g : Nat) : List Nat := (span (g * w) w).filter fun i => em.getLsbD i
/-- A reduction: `f` of the lanes of a sub-group gives its word and conditions (R280). -/
def redOp (i : Instr) (d : VSel) (fl : FlagN) (la : LaN) (s : State) (rounds : WaveArch → Bool)
    (f : WaveArch → List Nat → Word × Nat) : Res :=
  vlOp i d fl la s rounds fun a =>
    let w := modeSgw a.mode
    let rs := (List.range (96 / w)).map fun g =>
      match groupLanes a.em w g with
      | [] => (0, 0)
      | l :: ls => f a (l :: ls)
    (fun i => if a.em.getLsbD i then (rs.getD (i / w) (0, 0)).1 else 0, rs.foldl (fun n r => n ||| r.2) 0)
/-- A reduction element by element: `f` of the first lane, the element index and the lanes' elements. -/
def redElems (a : WaveArch) (x : WReg) (ls : List Nat) (f : Nat → Nat → List Nat → Nat × Nat) : Word × Nat :=
  let b := widthOf (curType a)
  elemwise b fun e => f (ls.headD 0) e (ls.map fun i => elemOf b (wWord a x i) e)
/-- The float sum of a reduction: rounded once (R280). -/
def fsumF (t : EType) (c : Rnd) (xs : List FVal) : Nat × Nat :=
  let r := sumVal (allZero true xs || c.rm == 2) xs
  finish t c (r.1, r.2 ||| (if xs.any isNan then fNV else 0))
/-- The sum of a sub-group (R280). -/
def execRsum (d : VSel) (a : WReg) (fl : FlagN) (la : LaN) (s : State) : Res :=
  redOp (.rsum d a fl la) d fl la s (fun w => !isIntType (curType w)) fun w ls =>
    let t := curType w
    redElems w a ls fun l e xs =>
      if isIntType t then
        satInt (modeSat w.mode) (isSigned t) (widthOf t) (sumInt (xs.map fun x => intOf (isSigned t) (widthOf t) x))
      else fsumF t (rndOf w l e) (xs.map fun x => fdec t (modeFtz w.mode) x)
/-- The least or greatest element of a sub-group (R280). -/
def redMinMax (w : WaveArch) (mx : Bool) (xs : List Nat) : Nat × Nat :=
  let t := curType w
  let b := widthOf t
  let v := fun x => intOf (isSigned t) b x
  match xs with
  | [] => (0, 0)
  | x :: _ =>
    if isIntType t then
      (xs.foldl (fun m y => if (if mx then v m < v y else v y < v m) then y else m) x, 0)
    else xs.foldl (fun (m, fl) y => let r := minMax t (modeFtz w.mode) mx false m y; (r.1, fl ||| r.2)) (x, 0)
/-- The least of a sub-group (R280). -/
def execRmin (d : VSel) (a : WReg) (fl : FlagN) (la : LaN) (s : State) : Res :=
  redOp (.rmin d a fl la) d fl la s (fun _ => false) fun w ls => redElems w a ls fun _ _ xs => redMinMax w false xs
/-- The greatest of a sub-group (R280). -/
def execRmax (d : VSel) (a : WReg) (fl : FlagN) (la : LaN) (s : State) : Res :=
  redOp (.rmax d a fl la) d fl la s (fun _ => false) fun w ls => redElems w a ls fun _ _ xs => redMinMax w true xs
/-- The bitwise combination of the lane words of a sub-group (R280). -/
def bitRed (a : WaveArch) (x : WReg) (f : Word → Word → Word) (ls : List Nat) : Word × Nat :=
  match ls with
  | [] => (0, 0)
  | l :: ls => (ls.foldl (fun m i => f m (wWord a x i)) (wWord a x l), 0)
/-- The AND of a sub-group (R280). -/
def execRand (d : VSel) (a : WReg) (fl : FlagN) (la : LaN) (s : State) : Res :=
  redOp (.rand d a fl la) d fl la s (fun _ => false) fun w => bitRed w a fun x y => x &&& y
/-- The OR of a sub-group (R280). -/
def execRor (d : VSel) (a : WReg) (fl : FlagN) (la : LaN) (s : State) : Res :=
  redOp (.ror d a fl la) d fl la s (fun _ => false) fun w => bitRed w a fun x y => x ||| y
/-- The XOR of a sub-group (R280). -/
def execRxor (d : VSel) (a : WReg) (fl : FlagN) (la : LaN) (s : State) : Res :=
  redOp (.rxor d a fl la) d fl la s (fun _ => false) fun w => bitRed w a fun x y => x ^^^ y

/-- The lanes of a register in which an operation's result lands: where a later instruction has written the register
meanwhile, each lane keeps the one value or takes the other, as the free mask has it (R212). -/
def landMask (o : Op) (free : Mask) (r : Nat) : Mask :=
  o.clash.foldl (fun m c => if c.1 = r then m &&& (~~~c.2 ||| free) else m) o.mask
/-- What the completion of a long-latency vector instruction does to the registers: the destination's lanes, the
last-result copy of it that is still held, STAT and the flag (R178, R276). -/
def vlComplete (o : Op) (free : Mask) (a : WaveArch) : WaveArch :=
  let d := o.dst.toNat
  let a := orStat (setLanes a d (mergeLanes (landMask o free d) o.res (regLanes a d))) o.stat.toNat
  let a := if a.shifts = o.shift then { a with l0 := mergeLanes o.mask o.res a.l0 }
    else if a.shifts = o.shift + 1 then { a with l1 := mergeLanes o.mask o.res a.l1 } else a
  match o.flag with
  | some n => flagDown a n
  | none => a
/-- Before the completion a lane may already hold its new value (R178, R212): the lanes of a mask take it, in the destination
where no later instruction has written, and in the last-result copy. -/
def landLanes (o : Op) (m : Mask) (a : WaveArch) : WaveArch :=
  let d := o.dst.toNat
  let a := setLanes a d (mergeLanes (landMask o 0 d &&& m) o.res (regLanes a d))
  if a.shifts = o.shift then { a with l0 := mergeLanes (o.mask &&& m) o.res a.l0 }
  else if a.shifts = o.shift + 1 then { a with l1 := mergeLanes (o.mask &&& m) o.res a.l1 } else a
/-- The completion of an operation of a wave: it is no longer outstanding, its registers are noted in the older ones
that are, and `f` changes the registers unless the wave has ended (R212, R250, R367). -/
def completeOp (s : State) (w : WaveId) (o : Op) (f : WaveArch → WaveArch) : State :=
  onWave s w fun x =>
    let x := { x with ops := (x.ops.filter fun p => p.id != o.id).map fun p =>
      if p.id < o.id then noteClash (span o.dst.toNat o.nreg) o.mask p else p }
    if x.hold == .ended then x else completeIn x o.seq f
/-- The outstanding operation of a wave with a number. -/
def findOp (s : State) (w : WaveId) (n : Nat) : Option Op := (getWave s w).bind fun x => x.ops.find? (·.id == n)
/-- An operation is the oldest of its unit in its partition, which takes one at a time in issue order (R281). -/
def unitTurn (s : State) (w : WaveId) (o : Op) : Bool :=
  (allWaves s).all fun x => !samePart x.id w || x.ops.all fun p => !(p.kind == .vl && p.unit == o.unit && p.id < o.id)
/-- Some lanes and STAT bits of an outstanding long-latency vector instruction, which ones is free, take their new values (R178,
R183, R212); it is no event of its own in the table. -/
def landSome (w : WaveId) (n : Nat) (s : State) : Res :=
  match findOp s w n with
  | some o =>
    if o.kind == .vl && unitTurn s w o then
      let (m, s) := freshMask s
      let (b, s) := freshWord s
      .next (onWave s w fun x => if x.hold == .ended then x
        else completeIn x o.seq fun a => orStat (landLanes o m a) (o.stat &&& b.extractLsb' 0 32).toNat)
    else .next s
  | none => .next s
/-- The completion of a long-latency vector instruction (R276, R281). -/
def execVlCompletion (w : WaveId) (n : Nat) (s : State) : Res :=
  match findOp s w n with
  | some o =>
    if o.kind == .vl && unitTurn s w o then
      let (m, s) := freshMask s
      .next (completeOp s w o (vlComplete o m))
    else .next s
  | none => .next s

end Sys2Proof.Machine
end

