-- ==== Sys2Proof/Machine/Access.lean ====
section
/-! DEFINITION. What the memory instructions share: the joint translation of the lanes (R45), the write-combining
buffer (R69, R70), reads as a wave makes them (R114, R285), and writes where they are performed (R287). -/

namespace Sys2Proof.Machine

/-- A lane of an access with its object address and its outcome. -/
structure LaneTr where
  lane : Nat
  addr : BitVec 64
  out : LaneOut
  deriving DecidableEq, Repr
/-- The active lanes of an MV access, ascending, each translated (R40 to R44). -/
def laneTrs (s : State) (w : Wave) (need : BitVec 3) (tx : TxSel) (x : WReg) (sz : Nat) : List LaneTr :=
  (lanesOf w.a.em).map fun l =>
    let off := wWord w.a x l
    ⟨l, laneAddr w tx off, translateLane s w need tx off sz⟩
/-- A lane's access goes through the TLBs: by neither scratchpad, cluster window nor window (R41). -/
def usesTlb (w : Wave) (tx : TxSel) (off : Word) (sz : Nat) : Bool :=
  let t := w.a.tx.toArray.getD tx.toNat {}
  let e := laneOffset w tx off
  tx != 7 && !t.cl && !(t.lo.toNat ≤ e && e + sz ≤ t.hi.toNat)
/-- The die TLB's entries that the active lanes use are copied into the L1 TLB (R41). -/
def copyLanes (s : State) (w : Wave) (tx : TxSel) (x : WReg) (sz : Nat) : State :=
  (lanesOf w.a.em).foldl (fun s l =>
    if usesTlb w tx (wWord w.a x l) sz then copyTlbAt s w (laneAddr w tx (wWord w.a x l)) else s) s
/-- What the lanes come to together (R45): places for all, pages to walk, a park, or a migration wait. -/
inductive Joint
  | go (ls : List (Nat × BitVec 64 × Target))
  | walks (ps : List (BitVec 24 × Nat))
  | fault (c : Cause) (ad : BitVec 64) (plm : Mask)
  | wait (id : BitVec 24)
  deriving DecidableEq, Repr
/-- The pages that lanes wait for. -/
def walkPages (ls : List LaneTr) : List (BitVec 24 × Nat) :=
  dedup (ls.filterMap fun l => match l.out with | .walk id p => some (id, p) | _ => none)
/-- The lanes that faulted: number, address, order of the check, cause. -/
def laneFaults (ls : List LaneTr) : List (Nat × BitVec 64 × Nat × Cause) :=
  ls.filterMap fun l => match l.out with | .fault k c => some (l.lane, l.addr, k, c) | _ => none
/-- The lanes together: a park takes the lowest-order check, and of its lanes the lowest (R45). -/
def joint (ls : List LaneTr) : Joint :=
  if walkPages ls != [] then .walks (walkPages ls) else
  match laneFaults ls with
  | f :: fs =>
    let b := fs.foldl (fun a x => if x.2.2.1 < a.2.2.1 then x else a) f
    .fault b.2.2.2 b.2.1 (maskOf fun i => (f :: fs).any (·.1 == i))
  | [] =>
    match ls.findSome? fun l => match l.out with | .wait id => some id | _ => none with
    | some id => .wait id
    | none => .go (ls.filterMap fun l => match l.out with | .ok t => some (l.lane, l.addr, t) | _ => none)

/-- The access goes to COH = NONE memory or the host, not to a scratchpad (R56). -/
def isNone (t : Target) : Bool := match t.space with
  | .scr _ => false
  | _ => t.coh == .none
/-- The access goes through the token rules (R79). -/
def isCoherent (t : Target) : Bool := t.space == .dev && t.coh != .none
/-- Two accesses touch a common byte. -/
def overlaps (a b : LaneAcc) : Bool :=
  a.tgt.space == b.tgt.space && a.tgt.addr < b.tgt.addr + b.sz && b.tgt.addr < a.tgt.addr + a.sz
/-- An operation still has to access a byte of some accesses. -/
def clashesWith (xs : List LaneAcc) (o : Op) : Bool := o.acc.any fun a => xs.any (overlaps a)
/-- The sectors of token-coherent accesses. -/
def cohSectors (xs : List LaneAcc) : List Nat :=
  dedup ((xs.filter fun a => isCoherent a.tgt).flatMap fun a => sectorsOf a.tgt.addr a.sz)
/-- The sectors that the lanes touch, for a sample (R407). -/
def touched (xs : List LaneAcc) : Nat := (dedup (xs.map fun a => (a.tgt.space, a.tgt.addr / 64))).length

/-- A descriptor bit of a wave's context (R341). -/
def ctxFlag (s : State) (w : Wave) (k : Nat) : Bool := (getCtx s (pkgOf w.id.cd) w.ctx).cflags.getLsbD k
/-- The host link of a context is up (R377). -/
def hostLinkUp (s : State) (pkg ctx : Nat) : Bool :=
  let p := getPkg s pkg
  if (getCtx s pkg ctx).cflags.getLsbD 3 then p.linkUp1 else p.linkUp0
/-- The home of a place has been removed or declared unreachable, or its host link is down (R102, R285, R377, R386). -/
def lostHome (s : State) (pkg ctx : Nat) (t : Target) : Bool := match t.space with
  | .dev =>
    let u := homeUnit (sectorOf t.addr)
    !pkgReachable s pkg (pkgOf u) || (getMd s u).unreachable
  | .host _ => !hostLinkUp s pkg ctx
  | .scr _ => false

/-! ## The write-combining buffer (R69, R70) -/

/-- The bytes of a line that a byte mask names. -/
def lineMask (m : BitVec 128) : BitVec 1024 :=
  BitVec.ofNat 1024 (leNat ((List.range 128).map fun i => if m.getLsbD i then 0xFF else 0))
/-- The bytes that accesses write of the n from a place on; the last access wins (R286). -/
def bytesAt (xs : List LaneAcc) (sp : Space) (a n : Nat) : List (Option Byte) :=
  (List.range n).map fun i => lastByte xs sp (a + i)
/-- What a store writes of a line (R69, R286). -/
def lineWrite (xs : List LaneAcc) (n : Nat) (due : Bool) (sp : Space) (line : Nat) : WcWait :=
  let bs := bytesAt xs sp (128 * line) 128
  { space := sp, line := line, n := n, due := due
    data := BitVec.ofNat 1024 (leNat (bs.map fun b => b.getD 0))
    mask := BitVec.ofNat 128 ((List.range 128).foldl (fun m i => if (bs.getD i none).isSome then m + 2 ^ i else m) 0) }
/-- An entry with the bytes of a store's line merged (R69); a full entry drains at once, and one that has been asked for too
(R70). A write of a whole sector clears its mark (R61). -/
def wcPut (b : WcWait) (e : WcEntry) : WcEntry :=
  let dm := lineMask b.mask
  let mask := e.mask ||| b.mask
  { e with data := (e.data &&& ~~~dm) ||| (b.data &&& dm), mask := mask, draining := mask == BitVec.allOnes 128 || b.due
           n := Nat.min e.n b.n
           pois := e.pois &&& ~~~((if b.mask.extractLsb' 0 64 == BitVec.allOnes 64 then 1 else 0) |||
             (if b.mask.extractLsb' 64 64 == BitVec.allOnes 64 then 2 else 0)) }
/-- An entry collects a line. -/
def wcHolds (sp : Space) (line : Nat) (e : WcEntry) : Bool := e.space == sp && e.line == line && !e.draining
/-- The bytes of a line merge into the buffer, or wait behind those that wait (R69). -/
def wcMerge (c : Core) (b : WcWait) : Core :=
  if c.wcWait.any fun y => y.space == b.space && y.line == b.line then { c with wcWait := c.wcWait ++ [b] }
  else if c.wc.any (wcHolds b.space b.line) then { c with wc := updWhere (wcHolds b.space b.line) (wcPut b) c.wc }
  else if c.wc.length < 64 then { c with wc := c.wc ++ [wcPut b { space := b.space, line := b.line, data := 0, mask := 0, draining := false, n := b.n }] }
  else { c with wcWait := c.wcWait ++ [b] }
/-- The waiting bytes tried again, in their order, as entries are freed (R69). -/
def wcRefill (c : Core) : Core := c.wcWait.foldl wcMerge { c with wcWait := [] }
/-- A drain that a release, a fence or an exit has asked for covers a store of a core: one issued before it (R70, R123). -/
def drainAsked (s : State) (c : CoreId) (n : Nat) : Bool :=
  (allWaves s).any fun w => coreId w.id == c && (w.mark.any (n < ·) ||
    w.ops.any fun o => n < o.id && (o.order == .rel || o.order == .acqrel))
/-- The bytes of a committed store for COH = NONE objects, into the buffer line by line (R69). -/
def bufferStore (s : State) (c : CoreId) (xs : List LaneAcc) (n : Nat) : State :=
  let due := drainAsked s c n
  onCore s c fun k => (dedup (xs.map fun x => (x.tgt.space, x.tgt.addr / 128))).foldl (fun k l => wcMerge k (lineWrite xs n due l.1 l.2)) k
/-- A store would need a new entry while all 64 are allocated (R69). -/
def wcFull (c : Core) (xs : List LaneAcc) : Bool :=
  c.wc.length ≥ 64 && xs.any fun x => isNone x.tgt && !c.wc.any (wcHolds x.tgt.space (x.tgt.addr / 128))
/-- The buffer holds bytes of a line of an access (R70). -/
def wcLine (c : Core) (x : LaneAcc) : Bool :=
  (c.wc.any fun e => e.space == x.tgt.space && e.line == x.tgt.addr / 128) ||
  c.wcWait.any fun y => y.space == x.tgt.space && y.line == x.tgt.addr / 128
/-- The entries that overlap some accesses start to drain, and the bytes that wait for one will (R69, R70). -/
def drainLines (s : State) (c : CoreId) (xs : List LaneAcc) : State :=
  let hit := fun (sp : Space) (l : Nat) => xs.any fun x => sp == x.tgt.space && l == x.tgt.addr / 128
  onCore s c fun k => { k with
    wc := updWhere (fun e => hit e.space e.line) (fun e => { e with draining := true }) k.wc
    wcWait := updWhere (fun b => hit b.space b.line) (fun b => { b with due := true }) k.wcWait }

/-! ## Bytes of a write, and writes where they are performed -/

/-- The bytes of an operation's accesses still to perform, of the n from a place on (R286). -/
def opBytesAt (o : Op) (sp : Space) (a n : Nat) : List (Option Byte) := (List.range n).map fun i => opByte o sp (a + i)
/-- A sector with some of its bytes written. -/
def putMasked (d : BitVec 512) (bs : List (Option Byte)) : BitVec 512 :=
  BitVec.ofNat 512 (leNat ((List.range 64).map fun i => (bs.getD i none).getD (d.extractLsb' (8 * i) 8)))
/-- All bytes of a sector are written (R61). -/
def fullSector (bs : List (Option Byte)) : Bool := bs.length == 64 && bs.all (·.isSome)
/-- Some bytes of a memory written from an address on. -/
def memPutMasked (m : Memory) (a : Nat) (bs : List (Option Byte)) : Memory :=
  bs.zipIdx.foldl (fun m p => match p.1 with
    | some v => memSet m (a + p.2) v
    | none => m) m
/-- A write of some bytes of a sector at the home: a full one clears poison (R61). -/
def homePutMasked (s : State) (x : Nat) (bs : List (Option Byte)) : State :=
  let h := getHome s x
  let p := h.poison && !fullSector bs
  let s := sliceTouch { s with mem := memPutMasked s.mem (x * 64) bs } x true
  if h.poison then onHome s x fun h => { h with poison := p } else s
/-- A write of some bytes of a sector at a die that holds all 64 tokens (R57, R61, R80, R104). -/
def diePutMasked (s : State) (cd x : Nat) (bs : List (Option Byte)) (core : Option Nat) : State :=
  let s := wakeMonitor s cd x
  onSec s cd x fun e =>
    let p := e.poison && !fullSector bs
    let l1 := e.l1.filter fun c => some c == core
    { e with data := if p then ones512 else putMasked e.data bs, poison := p, modified := true, l1 := l1 }
/-- A write of some bytes of a scratchpad; a word whose 8 bytes are all written loses its mark (R58). -/
def scrPutMasked (c : Core) (a : Nat) (bs : List (Option Byte)) : Core :=
  let pois := c.scrPoison.filter fun k => !(List.range 8).all fun j => a ≤ 8 * k + j && (bs.getD (8 * k + j - a) none).isSome
  { c with scr := memPutMasked c.scr a bs, scrPoison := pois }
/-- A write of some bytes of host memory. -/
def hostPutMasked (s : State) (pkg a : Nat) (bs : List (Option Byte)) : State :=
  { s with hostMem := memPutMasked s.hostMem (hostKey pkg a) bs }

/-! ## Reads of a wave -/

/-- A byte as the place where it is read gives it: the home for NONE memory (R56), else as `placeByte`. -/
def readByte (s : State) (t : Target) (a : Nat) : Byte :=
  if t.space == .dev && t.coh == .none then (homeData s (sectorOf a)).extractLsb' (a % 64 * 8) 8 else placeByte s t.space a
/-- Its poison mark. -/
def readPoison (s : State) (t : Target) (a : Nat) : Bool :=
  if t.space == .dev && t.coh == .none then (getHome s (sectorOf a)).poison else placePoison s t.space a
/-- The stores of a wave before number n that have not been performed. -/
def ownStores (w : Wave) (n : Nat) : List Op := w.ops.filter fun o => o.id < n && isStoreOp o
/-- The value that a lane reads: its own wave's earlier stores over memory (R114). -/
def accValue (s : State) (own : List Op) (x : LaneAcc) : Nat :=
  leNat ((List.range x.sz).map fun i => (opsByte own x.tgt.space (x.tgt.addr + i)).getD (readByte s x.tgt (x.tgt.addr + i)))
/-- The single-copy piece that a place lies in (R66). -/
def pieceOf (t : Target) : Space × Nat := (t.space, t.addr / pieceLimit t)
/-- Two places lie in one 64-byte line of the host. -/
def sameLine (a b : Target) : Bool := a.space == b.space && a.addr / 64 == b.addr / 64
/-- The line of a place is locked in the I/O die by an atomic between its read and its write: device agents wait (R65). -/
def hostLocked (s : State) (t : Target) : Bool :=
  (allWaves s).any fun w => w.ops.any fun o => o.lock.isSome && o.acc.head?.any fun x => sameLine x.tgt t
/-- The NONE accesses of a wave's die are requests that their homes count (R73): one for each (log entry 82). -/
def countDirect (s : State) (cd : Nat) (xs : List LaneAcc) : State :=
  xs.foldl (fun s x => if x.tgt.space == .dev then countHot s (sectorOf x.tgt.addr) (some cd) else s) s
/-- A lane reads a poisoned byte (R61). -/
def accPoison (s : State) (own : List Op) (x : LaneAcc) : Bool :=
  (List.range x.sz).any fun i => readPoison s x.tgt (x.tgt.addr + i) && !unitStored own x.tgt.space (x.tgt.addr + i)

/-- Accesses of a wave that have been read: its core's L1 holds the token-coherent sectors, requests made for them are released, and
reads at homes are counted (R57, R73, R91). -/
def readDone (s : State) (w : Wave) (xs : List LaneAcc) : State :=
  let s := (cohSectors xs).foldl (fun s k =>
    opDone (onSec s w.id.cd k fun e => { e with l1 := if e.l1.contains w.id.core then e.l1 else w.id.core :: e.l1 }) w.id.cd k) s
  countDirect s w.id.cd (xs.filter fun x => isNone x.tgt)
/-- A read that is tried: not yet possible; a poisoned byte with the lane's address; the lanes' values, and the
address of the lowest lane that received the lost value (R436). -/
inductive ReadTry
  | notYet (s : State)
  | poison (addr : BitVec 64) (s : State)
  | got (vals : List (Nat × Nat)) (lost : Option (BitVec 64)) (s : State)
/-- The accesses of a read, tried (R57, R70, R80, R102, R114, R285): earlier overlapping operations of the wave that
are no plain stores to forward from come first, a line that the I/O die has locked is waited for (R65), overlapping lines of the write-combining buffer drain, and every
token-coherent sector must be readable at the die; else what is missing is asked for. -/
def tryRead (s : State) (w : Wave) (n : Nat) (xs : List LaneAcc) : ReadTry :=
  let pkg := pkgOf w.id.cd
  let live := xs.filter fun x => !lostHome s pkg w.ctx x.tgt
  let older := w.ops.filter fun o => o.id < n && clashesWith live o
  let forward := fun o : Op => isStoreOp o && o.acc.all fun x => !isNone x.tgt
  let direct := live.filter fun x => isNone x.tgt
  let sticky := direct.any (wcLine (getCore s (coreId w.id)))
  let missing := (cohSectors live).filter fun k => !canRead (getSec s w.id.cd k)
  if !older.all forward || direct.any (fun x => hostLocked s x.tgt) then .notYet s
  else if sticky then .notYet (drainLines s (coreId w.id) direct)
  else if !missing.isEmpty then .notYet (missing.foldl (fun s k => postReq s w.id.cd k false) s)
  else
    let own := ownStores w n
    match live.find? (accPoison s own) with
    | some x => .poison x.oaddr (readDone s w live)
    | none =>
      let vals := xs.map fun x =>
        (x.lane, 256 ^ x.cmp * if lostHome s pkg w.ctx x.tgt then 2 ^ (8 * x.sz) - 1 else accValue s own x)
      let lost := (xs.find? fun x => lostHome s pkg w.ctx x.tgt).map fun x => x.oaddr - BitVec.ofNat 64 x.cmp
      .got vals lost (readDone s w live)

/-- Scratchpad bytes as an instruction of a wave reads them while it issues: an earlier operation of the wave that is no
store and still has to access one of them comes first (R114). -/
def scrBusy (w : Wave) (c : CoreId) (a n : Nat) : Bool :=
  w.ops.any fun o => !isStoreOp o && clashesWith [⟨0, ⟨.scr c, a, .dev, .none⟩, 0, n, 0, 0⟩] o
/-- n scratchpad bytes of a wave's view, as a number (R114). -/
def scrView (s : State) (w : Wave) (c : CoreId) (a n : Nat) : Nat := viewNat s w ⟨.scr c, a, .dev, .none⟩ n
/-- One of them is poisoned and no store of the wave covers it (R58). -/
def scrViewPois (s : State) (w : Wave) (c : CoreId) (a n : Nat) : Bool := viewPoison s w ⟨.scr c, a, .dev, .none⟩ n

/-- RLOST in STAT, by instruction `seq`, and with MODE.RLT the trap at the next boundary (R102, R213, R285). -/
def noteLost (s : State) (w : WaveId) (seq : Nat) (pc : Word) (rlt : Bool) (lost : Option (BitVec 64)) : State :=
  match lost with
  | none => s
  | some ad =>
    onWave s w fun x =>
      if x.hold == .ended then x else
      { completeIn x seq fun a => orStat a fRLOST with rlost := if rlt then x.rlost ++ [(pc, ad)] else x.rlost }

/-! ## Fetches (R80, R102, R203) -/

/-- The access of a wave that fetches the word at a PC from its place. -/
def fetchAcc (w : Wave) (pc : Word) (t : Target) : LaneAcc := ⟨0, t, codeAddr w pc, 4, 0, 0⟩
/-- The fetched word lies in a home that is lost (R102). -/
def fetchLost (s : State) (w : Wave) (t : Target) : Bool := lostHome s (pkgOf w.id.cd) w.ctx t
/-- The sector that the die must obtain before it can read a word to be fetched, as for any read (R80, R203). -/
def fetchNeeds (s : State) (w : Wave) (t : Target) : Option Nat :=
  if isCoherent t && !fetchLost s w t && !canRead (getSec s w.id.cd (sectorOf t.addr)) then some (sectorOf t.addr) else none
/-- The fetched word: all ones from a lost home (R102, R203). -/
def fetchWord (s : State) (w : Wave) (t : Target) : Word :=
  if fetchLost s w t then 0xFFFFFFFF else BitVec.ofNat 32 (readPlace s t 4)
/-- A fetch has been made: the L1 TLB and the L1 hold what it used, and a lost home is noted (R41, R57, R91, R102). -/
def fetched (s : State) (w : Wave) (pc : Word) (t : Target) : State :=
  let s := copyTlbAt s w (codeAddr w pc)
  if fetchLost s w t then noteLost s w.id w.seq pc (modeRlt w.a.mode) (some (codeAddr w pc)) else readDone s w [fetchAcc w pc t]
/-- The issuing wave waits for the sector of a word that it fetches; its die asks for it (R80, R87, R107). -/
def awaitSector (s : State) (x : Nat) : State := stall (postReq s s.cur.id.cd x false)

/-- The sector of a package's memory that holds an address at which a walk reads has no home any more, or is held by the
walking die (R34, R80, R102). -/
def walkLost (s : State) (cd x : Nat) : Bool := (getMd s (homeUnit x)).unreachable && !canRead (getSec s cd x)
/-- The sectors of an object's table entry and extent list, as far as a die that may read the first can tell (R34). -/
def tableSectors (s : State) (cd ctx id : Nat) : List Nat :=
  let c := getCtx s (pkgOf cd) ctx
  let x := sectorOf (entryAddr c id)
  if !hasEntry c id then [] else
  x :: (match if canRead (getSec s cd x) then validEntry s c id else none with
    | some e => sectorsOf (extentAddr (pkgOf cd) e 0) (8 * bits e 127 112)
    | none => [])
/-- Those of them that it must still obtain (R80). -/
def tableNeeds (s : State) (cd ctx id : Nat) : List Nat :=
  (tableSectors s cd ctx id).filter fun x => !canRead (getSec s cd x) && !walkLost s cd x
/-- The entry of an object as a die reads it: none too where its home is lost (R35, R102). -/
def entryAt (s : State) (cd ctx id : Nat) : Option Nat :=
  let c := getCtx s (pkgOf cd) ctx
  if walkLost s cd (sectorOf (entryAddr c id)) then none else validEntry s c id

/-! ## Samples (R407) -/

/-- Whether the MV instruction that issues now is sampled: one in 2^PERIOD, counted per partition at issue. -/
def sampleCount (s : State) : Bool × State :=
  let w := s.cur.id
  let c := getCore s (coreId w)
  let k := c.mv.toArray.getD w.part 0 + 1
  let sc := (getCd s w.cd).trace.sampctl
  let p := Nat.min 20 (Nat.max 4 (bits sc.toNat 4 0))
  let s := onCore s (coreId w) fun c => if h : w.part < 4 then { c with mv := c.mv.set w.part k h } else c
  let s := { s with cur := { s.cur with counted := (s.cur.seq + 1) :: s.cur.counted } }
  (sc.getLsbD 31 && k % 2 ^ p == 0, s)
/-- The sample record of an operation, which none of a killed wave has left; the queue times and the lane that returned last are free (R407; log entry 3). -/
def sampleWrite (s : State) (w : Wave) (o : Op) : State :=
  match o.sampled with
  | none => s
  | some sectors =>
    let (q, s) := freshWord s
    let (l, s) := freshWord s
    let n := countMask o.mask
    let last := if n = 0 || o.kind == .store then 0xFF else (lanesOf o.mask).getD (l.toNat % n) 0
    let body := bytesOf 4 o.pc.toNat ++ bytesOf 2 w.ctx ++ bytesOf 1 n ++ bytesOf 1 (Nat.min 255 sectors) ++
      bytesOf 1 (Nat.min 255 o.replays) ++ bytesOf 1 last ++ bytesOf 8 q.toNat ++ bytesOf 2 (l.toNat / 2 ^ 48)
    traceRec s w.id.cd w.ctx 6 0 ((List.range 7).map fun k => leNat ((body.drop (8 * k)).take 8))
/-- The sample record of an operation that is complete: a rollback leaves no record, so that of an uncommitted instruction is written
as it commits (R371, R407). -/
def sampleRec (s : State) (w : Wave) (o : Op) : State :=
  if o.sampled.isSome && (getWave s w.id).any (fun v => v.window.any (·.seq == o.seq)) then
    onWave s w.id fun v => { v with samples := v.samples ++ [o] }
  else sampleWrite s w o

end Sys2Proof.Machine
end

