-- ==== Sys2Proof/Machine/Branch.lean ====
section
/-! DEFINITION. Mask triples (R230), uniform branches, calls and returns (R231 to R233). -/

namespace Sys2Proof.Machine

/-- A mask operation: triples are read whole and written whole (R230). -/
def maskOp (i : Instr) (d : SReg) (s : State) (f : WaveArch → Mask) : Res :=
  simple i s fun a => writeTriple (isHandler s.cur) a d.toNat (f a)
/-- The lowest lane of a mask, or 96 (R230). -/
def firstLane (m : Mask) : Nat := (lanesOf m).headD 96
/-- The mask of one lane; empty for 96 or more (R230). -/
def laneBit (n : Nat) : Mask := if n < 96 then (1 : Mask) <<< n else 0
/-- A branch target: PC + 4 · sext(OFF16) (R203). -/
def target (pc : Word) (o : BitVec 16) : Word := pc + (o.signExtend 32 <<< 2)
/-- A uniform branch: the whole wave moves, em and the path stack stay (R231, R232). -/
def branchIf (i : Instr) (o : BitVec 16) (s : State) (c : WaveArch → Bool) : Res :=
  checked i s fun s =>
    let a := s.cur.a
    let s := issue s
    .next (if c a then jump s (target a.pc o) else advance s)

/-- The AND of two triples (R230). -/
def execMand (d a b : SReg) (s : State) : Res :=
  maskOp (.mand d a b) d s fun w => readTriple w a.toNat &&& readTriple w b.toNat
/-- The OR of two triples (R230). -/
def execMor (d a b : SReg) (s : State) : Res :=
  maskOp (.mor d a b) d s fun w => readTriple w a.toNat ||| readTriple w b.toNat
/-- The XOR of two triples (R230). -/
def execMxor (d a b : SReg) (s : State) : Res :=
  maskOp (.mxor d a b) d s fun w => readTriple w a.toNat ^^^ readTriple w b.toNat
/-- A and not B (R230). -/
def execMandn (d a b : SReg) (s : State) : Res :=
  maskOp (.mandn d a b) d s fun w => readTriple w a.toNat &&& ~~~(readTriple w b.toNat)
/-- Not A (R230). -/
def execMnot (d a : SReg) (s : State) : Res :=
  maskOp (.mnot d a) d s fun w => ~~~(readTriple w a.toNat)
/-- All 96 bits set (R230). -/
def execMset (d : SReg) (s : State) : Res := maskOp (.mset d) d s fun _ => BitVec.allOnes 96
/-- All 96 bits clear (R230). -/
def execMclr (d : SReg) (s : State) : Res := maskOp (.mclr d) d s fun _ => 0
/-- The number of set bits, into a scalar (R230). -/
def execMcnt (d a : SReg) (s : State) : Res :=
  simple (.mcnt d a) s fun w => writeS (isHandler s.cur) w d (BitVec.ofNat 32 (countMask (readTriple w a.toNat)))
/-- The lowest set lane or 96, into a scalar (R230). -/
def execMfirst (d a : SReg) (s : State) : Res :=
  simple (.mfirst d a) s fun w => writeS (isHandler s.cur) w d (BitVec.ofNat 32 (firstLane (readTriple w a.toNat)))
/-- The single bit of a lane (R230). -/
def execMlane (d a : SReg) (s : State) : Res :=
  maskOp (.mlane d a) d s fun w => laneBit (readS w a).toNat
/-- Taken when s[C] is zero (R231). -/
def execBz (c : SReg) (o : BitVec 16) (s : State) : Res :=
  branchIf (.bz c o) o s fun w => let x := readS w c; x == 0
/-- Taken when s[C] is not zero (R231). -/
def execBnz (c : SReg) (o : BitVec 16) (s : State) : Res :=
  branchIf (.bnz c o) o s fun w => let x := readS w c; x != 0
/-- Taken when s[C] is negative (R231). -/
def execBltz (c : SReg) (o : BitVec 16) (s : State) : Res :=
  branchIf (.bltz c o) o s fun w => let x := readS w c; x.msb
/-- Taken when s[C] is not negative (R231). -/
def execBgez (c : SReg) (o : BitVec 16) (s : State) : Res :=
  branchIf (.bgez c o) o s fun w => let x := readS w c; !x.msb
/-- Taken when s[C] is positive (R231). -/
def execBgtz (c : SReg) (o : BitVec 16) (s : State) : Res :=
  branchIf (.bgtz c o) o s fun w => let x := readS w c; !x.msb && x != 0
/-- Taken when s[C] is zero or negative (R231). -/
def execBlez (c : SReg) (o : BitVec 16) (s : State) : Res :=
  branchIf (.blez c o) o s fun w => let x := readS w c; x.msb || x == 0
/-- Taken when some active lane is in the triple (R232). -/
def execBany (c : SReg) (o : BitVec 16) (s : State) : Res :=
  branchIf (.bany c o) o s fun w => readTriple w c.toNat &&& w.em != 0
/-- Taken when every active lane is in the triple (R232). -/
def execBall (c : SReg) (o : BitVec 16) (s : State) : Res :=
  branchIf (.ball c o) o s fun w => readTriple w c.toNat &&& w.em == w.em
/-- Taken when no active lane is in the triple (R232). -/
def execBnone (c : SReg) (o : BitVec 16) (s : State) : Res :=
  branchIf (.bnone c o) o s fun w => readTriple w c.toNat &&& w.em == 0
/-- The unconditional branch (R233). -/
def execBranch (o : BitVec 16) (s : State) : Res := branchIf (.branch o) o s fun _ => true
/-- The call: the link is written, then the PC moves (R233). -/
def execCall (c : SReg) (o : BitVec 16) (s : State) : Res :=
  checked (.call c o) s fun s =>
    let p := s.cur.a.pc
    .next (jump (setS (issue s) c (p + 4)) (target p o))
/-- The indirect jump; a target that is not a multiple of 4 faults ALIGN at the instruction (R233, R357). -/
def execRet (a : SReg) (s : State) : Res :=
  checked (.ret a) s fun s =>
    let t := readS s.cur.a a
    .next (if t.toNat % 4 = 0 then jump (issue s) t else parkActive s .align 0)

end Sys2Proof.Machine
end

