-- ==== Sys2Proof/Machine/Divergence.lean ====
section
/-! DEFINITION. The path stack (R187) and the divergence instructions (R234 to R244). -/

namespace Sys2Proof.Machine

/-- What a divergence instruction comes to while it reads the stack: a value; PSTACK; a spill transfer that
faults; one that waits under migration, for walks, or for earlier accesses and tokens; a poisoned byte read; an entry that is lost. -/
inductive Got (α : Type)
  | ok (x : α) | pstack | park | wait (id : BitVec 24) | walks (ps : List (BitVec 24 × Nat)) | notYet (t : State) | poison
  | lost (ad : BitVec 64)
/-- Goes on with a value. -/
def Got.andThen {α β : Type} (g : Got α) (f : α → Got β) : Got β :=
  match g with
  | .ok x => f x
  | .pstack => .pstack
  | .park => .park
  | .wait id => .wait id
  | .walks ps => .walks ps
  | .notYet t => .notYet t
  | .poison => .poison
  | .lost ad => .lost ad

/-- The object and offset of the entry at a depth of a wave's spill area; none where the launch has no spill object (R187). -/
def spillAddr (s : State) (w : Wave) (d : Nat) : Option (BitVec 24 × Nat) :=
  match getLaunch s w.blk.launch with
  | some l =>
    if l.spill = 0 ∨ isHandler w then none
    else some (l.spill.extractLsb' 40 24, (w.blk.idx * l.nwaves + w.k) * 6144 + 24 * d)
  | none => none
/-- The places of the three 8-byte pieces of a spilled entry, checked for an access; an offset of 2^40 or more fails (R42, R187). -/
def spillPieces (s : State) (w : Wave) (need : BitVec 3) (ad : BitVec 24 × Nat) : Got (List Target) :=
  let one := fun k : Nat => match translate s w need ad.1 (ad.2 + 8 * k) 8 with
    | .ok p => Got.ok p
    | .fault _ _ => .park
    | .wait id => .wait id
    | .walk id page => .walks [(id, page)]
  (one 0).andThen fun a => (one 1).andThen fun b => (one 2).andThen fun c => .ok [a, b, c]
/-- The accesses of the pieces of an entry, with the values of a write. -/
def spillAccs (ad : BitVec 24 × Nat) (ts : List Target) (bs : List Byte) : List LaneAcc :=
  ts.zipIdx.map fun (t, k) => ⟨k, t, objAddr ad.1.toNat (ad.2 + 8 * k), 8, leNat ((bs.drop (8 * k)).take 8), 0⟩
/-- The spilled entry at a depth, read back by plain loads of the wave, with their accesses: earlier accesses of the wave to the same
bytes come first, and the tokens they need (R80, R114, R187, R244). What a lost home holds reads as all ones (R102). A KIND that is
never written faults PSTACK. -/
def readSpill (s : State) (w : Wave) (d : Nat) : Got (PathEntry × List LaneAcc) :=
  match spillAddr s w d with
  | none => .pstack
  | some ad =>
    (spillPieces s w 0b001 ad).andThen fun ts =>
      match tryRead s w s.nextId (spillAccs ad ts []) with
      | .notYet t => .notYet t
      | .poison _ _ => .poison
      | .got vals lost _ => match entryOfNat (vals.foldl (fun n v => n + v.2 * 2 ^ (64 * v.1)) 0), lost with
        | some e, _ => .ok (e, spillAccs ad ts [])
        | none, some ad => .lost ad
        | none, none => .pstack

/-- The path stack while an instruction works on it: entries from the top, as far as they have been read, the
number of old entries they replace, the old depth, and the accesses that have read spilled entries. -/
structure SView where
  pre : List PathEntry
  used : Nat
  depth : Nat
  reads : List LaneAcc := []
  deriving DecidableEq, Repr
/-- The stack as the wave holds it in hardware. -/
def viewOf (a : WaveArch) : SView := { pre := a.stack, used := a.stack.length, depth := a.depth }
/-- Entries below those that have been read. -/
def SView.rest (v : SView) : Nat := v.depth - v.used
/-- The depth that the stack has now. -/
def SView.total (v : SView) : Nat := v.pre.length + v.rest
/-- At least n entries from the top have been read, or all; `fuel` bounds the reads. -/
def fill (s : State) (w : Wave) (n : Nat) : Nat → SView → Got SView
  | 0, v => .ok v
  | fuel + 1, v =>
    if v.pre.length ≥ n ∨ v.rest = 0 then .ok v
    else (readSpill s w (v.depth - 1 - v.used)).andThen fun (e, xs) =>
      fill s w n fuel { v with pre := v.pre ++ [e], used := v.used + 1, reads := v.reads ++ xs }
/-- A push; beyond 256 entries, or beyond 16 without a spill area, it faults PSTACK (R187, R243). -/
def pushEntry (s : State) (w : Wave) (e : PathEntry) (v : SView) : Got SView :=
  if v.total ≥ 256 ∨ (v.total ≥ 16 ∧ (spillAddr s w 0).isNone) then .pstack
  else .ok { v with pre := e :: v.pre }
/-- The new stack settled: the top 16 entries in hardware, refilled from the spill area, and the accesses that
write every other entry that was in hardware or has changed (R187, R244). -/
def settle (s : State) (w : Wave) (v : SView) : Got (List PathEntry × List LaneAcc × List LaneAcc) :=
  (fill s w 16 17 v).andThen fun v =>
    let out := (v.pre.drop 16).zipIdx
    out.foldl (fun g (e, j) => g.andThen fun (hw, acc, rd) =>
      let d := v.total - 17 - j
      let same : Bool := d + 16 < w.a.depth && (match readSpill s w d with | .ok x => x.1 == e | _ => false)
      if same then .ok (hw, acc, rd)
      else match spillAddr s w d with
        | none => .pstack
        | some ad => (spillPieces s w 0b010 ad).andThen fun ts =>
            .ok (hw, acc ++ (spillAccs ad ts (entryBytes e)).map fun x => { x with lane := 0 }, rd))
      (.ok (v.pre.take 16, [], v.reads))

/-- The outcome of a divergence instruction: the stack, em, XL and the next PC, or none where the wave ends. -/
structure Diverge where
  v : SView
  em : Mask
  xl : Mask
  next : Option Word
  deriving DecidableEq, Repr
/-- `resume()`: the next path when the running lanes have all gone (R242). -/
def resumePath (s : State) (w : Wave) (xl : Mask) : Nat → SView → Got Diverge
  | 0, v => .ok ⟨v, 0, xl, none⟩
  | fuel + 1, v =>
    (fill s w 1 1 v).andThen fun v =>
      match v.pre with
      | [] => .ok ⟨v, 0, xl, none⟩
      | e :: es =>
        let m := e.mask &&& ~~~xl
        if m = 0 then resumePath s w xl fuel { v with pre := es }
        else match e.kind with
          | .cont => .ok ⟨{ v with pre := { e with mask := 0 } :: es }, m, xl, some e.pc⟩
          | .merge => if e.pc = 0 then .pstack else .ok ⟨{ v with pre := es }, m, xl, some e.pc⟩
          | _ => .ok ⟨{ v with pre := es }, m, xl, some e.pc⟩
/-- Runs on with the lanes that are left, or resumes another path where none is (R239 to R241). -/
def goOn (s : State) (w : Wave) (v : SView) (em xl : Mask) : Got Diverge :=
  if em = 0 then resumePath s w xl 257 v else .ok ⟨v, em, xl, some (w.a.pc + 4)⟩

/-- Spilled entries that a wave has read: what a lost home gave sets RLOST, by instruction `seq` (R102, R187). -/
def spillsRead (s : State) (w : Wave) (seq : Nat) (rd : List LaneAcc) : State :=
  let gone := fun x : LaneAcc => lostHome s (pkgOf w.id.cd) w.ctx x.tgt
  noteLost (readDone s w (rd.filter fun x => !gone x)) w.id seq w.a.pc (modeRlt w.a.mode) ((rd.find? gone).map (·.oaddr))
/-- The pages of spill transfers used by the core of a wave: the L1 TLB takes those that only the die TLB holds (R41, R187). -/
def spillPages (s : State) (w : Wave) (xs : List LaneAcc) : State := xs.foldl (fun s x => copyTlbAt s w x.oaddr) s
/-- A divergence instruction as one step: nothing is written until every transfer has succeeded; one that faults parks it with
PSTACK (R244, R357). Spill
stores are stores of the wave at wave scope, performed after its commit window has closed; no transfer is made past an acquire that
is outstanding (R123, R288). -/
def diverge (s : State) (g : Got Diverge) : Res :=
  let w := s.cur
  let out := g.andThen fun d => match d.next with
    | none => .ok (d, [], [], d.v.reads)
    | some _ => (settle s w d.v).andThen fun (hw, acc, rd) => .ok (d, hw, acc, rd)
  match out with
  | .pstack => .next (trapAt s .pstack)
  | .park => .next (parkActive s .pstack 0)
  | .wait id => .next (holdCur s (.migration id))
  | .walks ps => .next (waitWalks s ps)
  | .notYet t => .next (stall t)
  | .poison => .next (killWave s w .poison w.a.pc 0 w.a.trap)
  | .lost ad => .next (trapAt (noteLost s w.id w.seq w.a.pc (modeRlt w.a.mode) (some ad)) .pstack)
  | .ok (d, hw, acc, rd) =>
    if acquirePending w && !(acc ++ rd).isEmpty then .next (stall s) else
    let s := spillsRead (issue (spillPages s w (acc ++ rd))) w (w.seq + 1) rd
    match d.next with
    | none =>
      .next (endWave (mapA s fun a => { a with em := 0, xl := d.xl, stack := [], depth := 0, pc := a.pc + 4 }))
    | some pc =>
      let o := { newOp s .frame 0 15 with flag := none, acc := acc }
      let s := if acc.isEmpty then s else accept s o
      .next (mapA s fun a => { a with em := d.em, xl := d.xl, stack := hw, depth := d.v.total, pc := pc })

/-- A word is an `else`: major 0x0A with CND 0b0001 (R235, R236). -/
def isElse (x : Nat) : Bool := bits x 31 22 == 0b0010100001
/-- `split`: the then-path starts under a merge and an else entry (R236). -/
def execSplit (c : SReg) (o : BitVec 16) (s : State) : Res :=
  checked (.split c o) s fun s =>
    let w := s.cur
    let L := target w.a.pc o
    match fetchOut s w L with
    | .fault _ ca => .next (parkActive s ca (codeAddr w L))
    | .wait id => .next (holdCur s (.migration id))
    | .walk id page => .next (waitWalks s [(id, page)])
    | .ok p =>
      match fetchNeeds s w p with
      | some x => .next (awaitSector s x)
      | none =>
        let e := isElse (fetchWord s w p).toNat
        let s := fetched s w L p
        if !e then .next (trapAt s .pstack) else
        let t := w.a.em &&& readTriple w.a c.toNat
        let f := w.a.em &&& ~~~(readTriple w.a c.toNat)
        diverge s ((pushEntry s w ⟨.merge, w.a.em, 0, 0⟩ (viewOf w.a)).andThen fun v =>
          (pushEntry s w ⟨.els, f, L, L + 4⟩ v).andThen fun v =>
            .ok (if t ≠ 0 then ⟨v, t, w.a.xl, some (w.a.pc + 4)⟩ else ⟨v, 0, w.a.xl, some L⟩))
/-- `else`: the else-path starts, the then-lanes wait in the merge entry (R237). -/
def execElseW (o : BitVec 16) (s : State) : Res :=
  checked (.elseW o) s fun s =>
    let w := s.cur
    let L := target w.a.pc o
    diverge s ((fill s w 2 2 (viewOf w.a)).andThen fun v =>
      match v.pre with
      | e :: m :: rest =>
        if e.kind = .els ∧ e.rpc = w.a.pc ∧ m.kind = .merge then
          let em := e.mask &&& ~~~w.a.xl
          .ok ⟨{ v with pre := { m with pc := L + 4, rpc := L } :: rest }, em, w.a.xl,
            some (if em = 0 then L else w.a.pc + 4)⟩
        else .pstack
      | _ => .pstack)
/-- `merge`: ends a conditional, or collects the continued lanes at a latch (R238). -/
def execMerge (s : State) : Res :=
  checked .merge s fun s =>
    let w := s.cur
    diverge s ((fill s w 1 1 (viewOf w.a)).andThen fun v =>
      match v.pre with
      | e :: rest =>
        match e.kind with
        | .merge => .ok ⟨{ v with pre := rest }, e.mask &&& ~~~w.a.xl, w.a.xl, some (w.a.pc + 4)⟩
        | .cont => .ok ⟨{ v with pre := { e with mask := 0 } :: rest }, (w.a.em ||| e.mask) &&& ~~~w.a.xl, w.a.xl, some (w.a.pc + 4)⟩
        | _ => .pstack
      | [] => .pstack)
/-- The first entry from the top, at index j or below, that satisfies p; spilled entries are read as needed. -/
def findEntry (s : State) (w : Wave) (p : PathEntry → Bool) : Nat → Nat → SView → Got (Nat × SView)
  | 0, _, _ => .pstack
  | fuel + 1, j, v =>
    (fill s w (j + 1) (j + 1) v).andThen fun v =>
      match v.pre[j]? with
      | none => .pstack
      | some e => if p e then .ok (j, v) else findEntry s w p fuel (j + 1) v
/-- Lanes taken out of every entry above index k. -/
def clearAbove (b : Mask) (k : Nat) (es : List PathEntry) : List PathEntry :=
  (es.take k).map (fun e => { e with mask := e.mask &&& ~~~b }) ++ es.drop k
/-- `breakv`: lanes leave one or more loops (R239). -/
def execBreakv (c : SReg) (o : BitVec 16) (s : State) : Res :=
  checked (.breakv c o) s fun s =>
    let w := s.cur
    let L := target w.a.pc o
    let b := w.a.em &&& readTriple w.a c.toNat
    diverge s ((findEntry s w (fun e => e.kind == .brk && e.pc == L) 257 0 (viewOf w.a)).andThen fun (k, v) =>
      let es := clearAbove b k (v.pre.modify k fun e => { e with mask := e.mask ||| b })
      goOn s w { v with pre := es } (w.a.em &&& ~~~b) w.a.xl)
/-- `breakv.open`: opens a loop with a break and a continue entry (R239). -/
def execBreakvOpen (o : BitVec 16) (s : State) : Res :=
  checked (.breakvOpen o) s fun s =>
    let w := s.cur
    let L := target w.a.pc o
    diverge s ((pushEntry s w ⟨.brk, 0, w.a.pc, L⟩ (viewOf w.a)).andThen fun v =>
      (pushEntry s w ⟨.cont, 0, w.a.pc, 0⟩ v).andThen fun v => .ok ⟨v, w.a.em, w.a.xl, some (w.a.pc + 4)⟩)
/-- `contv`: lanes wait in the loop's continue entry (R240). -/
def execContv (c : SReg) (o : BitVec 16) (s : State) : Res :=
  checked (.contv c o) s fun s =>
    let w := s.cur
    let L := target w.a.pc o
    let b := w.a.em &&& readTriple w.a c.toNat
    diverge s ((findEntry s w (fun e => e.kind == .brk) 257 0 (viewOf w.a)).andThen fun (k, v) =>
      match (if k = 0 then none else v.pre[k - 1]?) with
      | some e =>
        if e.kind ≠ .cont then .pstack
        else
          let es := clearAbove b (k - 1) (v.pre.modify (k - 1) fun e => { e with mask := e.mask ||| b, pc := L })
          goOn s w { v with pre := es } (w.a.em &&& ~~~b) w.a.xl
      | none => .pstack)
/-- `exitv`: the lanes end; they join the exited set and leave every entry (R241). -/
def execExitv (a : SReg) (s : State) : Res :=
  checked (.exitv a) s fun s =>
    let w := s.cur
    let x := w.a.em &&& readTriple w.a a.toNat
    diverge s ((fill s w 256 256 (viewOf w.a)).andThen fun v =>
      goOn s w { v with pre := clearAbove x v.pre.length v.pre } (w.a.em &&& ~~~x) (w.a.xl ||| x))

end Sys2Proof.Machine
end

