-- ==== Sys2Proof/Decode.lean ====
section
/-! DEFINITION. The decoder (R203 to R208, R214): total on every word, rejecting by name; and the
encoder, written from the same layouts. -/

namespace Sys2Proof

/-- Why a word is rejected: checks 1, 2 and 6 of R214. A must-be-zero field names the instruction, since
checks 3 to 5 come before it. -/
inductive Reject
  | major | function | field (i : Instr)
  deriving DecidableEq, Repr

/-- The major opcode (R203). -/
def majorOf (w : Word) : BitVec 6 := w.extractLsb' 26 6
/-- The instruction, if its must-be-zero bits are zero (check 6 of R214). -/
def zeroIn (w mask : Word) (i : Instr) : Except Reject Instr := if w &&& mask = 0#32 then .ok i else .error (.field i)
/-- A field whose value may be unallocated (check 2 of R214). -/
def allocated (x : Option α) (k : α → Except Reject Instr) : Except Reject Instr :=
  match x with
  | some v => k v
  | none => .error .function

/-- The code of a ModeSel (R183). -/
def modeSelCode : ModeSel → BitVec 4
  | .mode => 0#4
  | .mmode => 1#4
  | .stat => 2#4
  | .seed => 3#4
/-- The ModeSel of a code, if it is allocated. -/
def modeSelOf (c : BitVec 4) : Option ModeSel :=
  if c = 0#4 then some .mode else
  if c = 1#4 then some .mmode else
  if c = 2#4 then some .stat else
  if c = 3#4 then some .seed else
  none
/-- The code of a Scope (R303). -/
def scopeCode : Scope → BitVec 4
  | .wave => 0#4
  | .group => 1#4
  | .cluster => 2#4
  | .pkg => 3#4
  | .pod => 4#4
  | .sys => 5#4
/-- The Scope of a code, if it is allocated. -/
def scopeOf (c : BitVec 4) : Option Scope :=
  if c = 0#4 then some .wave else
  if c = 1#4 then some .group else
  if c = 2#4 then some .cluster else
  if c = 3#4 then some .pkg else
  if c = 4#4 then some .pod else
  if c = 5#4 then some .sys else
  none
/-- The code of a CmpComb (R267). -/
def cmpCombCode : CmpComb → BitVec 2
  | .set => 0#2
  | .and => 1#2
  | .or => 2#2
/-- The CmpComb of a code, if it is allocated. -/
def cmpCombOf (c : BitVec 2) : Option CmpComb :=
  if c = 0#2 then some .set else
  if c = 1#2 then some .and else
  if c = 2#2 then some .or else
  none
/-- The code of a IcmpCc (R268). -/
def icmpCcCode : IcmpCc → BitVec 3
  | .eq => 0#3
  | .ne => 1#3
  | .lt => 2#3
  | .le => 3#3
  | .gt => 4#3
  | .ge => 5#3
/-- The IcmpCc of a code, if it is allocated. -/
def icmpCcOf (c : BitVec 3) : Option IcmpCc :=
  if c = 0#3 then some .eq else
  if c = 1#3 then some .ne else
  if c = 2#3 then some .lt else
  if c = 3#3 then some .le else
  if c = 4#3 then some .gt else
  if c = 5#3 then some .ge else
  none
/-- The code of a FcmpCc (R268). -/
def fcmpCcCode : FcmpCc → BitVec 3
  | .eq => 0#3
  | .ne => 1#3
  | .lt => 2#3
  | .le => 3#3
  | .gt => 4#3
  | .ge => 5#3
  | .un => 6#3
  | .or => 7#3
/-- The FcmpCc of a code, if it is allocated. -/
def fcmpCcOf (c : BitVec 3) : Option FcmpCc :=
  if c = 0#3 then some .eq else
  if c = 1#3 then some .ne else
  if c = 2#3 then some .lt else
  if c = 3#3 then some .le else
  if c = 4#3 then some .gt else
  if c = 5#3 then some .ge else
  if c = 6#3 then some .un else
  if c = 7#3 then some .or else
  none
/-- The code of a AtomOrd (R290). -/
def atomOrdCode : AtomOrd → BitVec 2
  | .acq => 0#2
  | .rel => 1#2
  | .acqrel => 2#2
/-- The AtomOrd of a code, if it is allocated. -/
def atomOrdOf (c : BitVec 2) : Option AtomOrd :=
  if c = 0#2 then some .acq else
  if c = 1#2 then some .rel else
  if c = 2#2 then some .acqrel else
  none
/-- The code of a RedOp (R296). -/
def redOpCode : RedOp → BitVec 2
  | .i32 => 0#2
  | .f32 => 1#2
  | .bf16 => 2#2
  | .maxf32 => 3#2
/-- The RedOp of a code, if it is allocated. -/
def redOpOf (c : BitVec 2) : Option RedOp :=
  if c = 0#2 then some .i32 else
  if c = 1#2 then some .f32 else
  if c = 2#2 then some .bf16 else
  if c = 3#2 then some .maxf32 else
  none
/-- The code of a WaitCond (R309). -/
def waitCondCode : WaitCond → BitVec 4
  | .eq => 0#4
  | .ne => 1#4
  | .geu => 2#4
  | .ges => 3#4
  | .anyBit => 4#4
/-- The WaitCond of a code, if it is allocated. -/
def waitCondOf (c : BitVec 4) : Option WaitCond :=
  if c = 0#4 then some .eq else
  if c = 1#4 then some .ne else
  if c = 2#4 then some .geu else
  if c = 3#4 then some .ges else
  if c = 4#4 then some .anyBit else
  none
/-- The code of a EType (R182). -/
def eTypeCode : EType → BitVec 5
  | .fp32 => 0#5
  | .fp16 => 1#5
  | .bf16 => 2#5
  | .e4m3 => 3#5
  | .e5m2 => 4#5
  | .e2m1 => 5#5
  | .i32 => 8#5
  | .u32 => 9#5
  | .i16 => 10#5
  | .u16 => 11#5
  | .i8 => 12#5
  | .u8 => 13#5
  | .i4 => 14#5
  | .u4 => 15#5
/-- The EType of a code, if it is allocated. -/
def eTypeOf (c : BitVec 5) : Option EType :=
  if c = 0#5 then some .fp32 else
  if c = 1#5 then some .fp16 else
  if c = 2#5 then some .bf16 else
  if c = 3#5 then some .e4m3 else
  if c = 4#5 then some .e5m2 else
  if c = 5#5 then some .e2m1 else
  if c = 8#5 then some .i32 else
  if c = 9#5 then some .u32 else
  if c = 10#5 then some .i16 else
  if c = 11#5 then some .u16 else
  if c = 12#5 then some .i8 else
  if c = 13#5 then some .u8 else
  if c = 14#5 then some .i4 else
  if c = 15#5 then some .u4 else
  none
/-- The code of a GScope (R303). -/
def gScopeCode : GScope → BitVec 4
  | .core => 0#4
  | .cluster => 1#4
/-- The GScope of a code, if it is allocated. -/
def gScopeOf (c : BitVec 4) : Option GScope :=
  if c = 0#4 then some .core else
  if c = 1#4 then some .cluster else
  none
/-- The code of a GinfoSel (R308). -/
def ginfoSelCode : GinfoSel → BitVec 4
  | .count => 0#4
  | .key => 1#4
  | .info => 2#4
/-- The GinfoSel of a code, if it is allocated. -/
def ginfoSelOf (c : BitVec 4) : Option GinfoSel :=
  if c = 0#4 then some .count else
  if c = 1#4 then some .key else
  if c = 2#4 then some .info else
  none
/-- The code of a Bar4 (R303). -/
def bar4Code : Bar4 → BitVec 4
  | .b0 => 0#4
  | .b1 => 1#4
  | .b2 => 2#4
  | .b3 => 3#4
/-- The Bar4 of a code, if it is allocated. -/
def bar4Of (c : BitVec 4) : Option Bar4 :=
  if c = 0#4 then some .b0 else
  if c = 1#4 then some .b1 else
  if c = 2#4 then some .b2 else
  if c = 3#4 then some .b3 else
  none
/-- The code of a TxN (R292). -/
def txNCode : TxN → BitVec 4
  | .t0 => 0#4
  | .t1 => 1#4
  | .t2 => 2#4
  | .t3 => 3#4
  | .t4 => 4#4
  | .t5 => 5#4
  | .t6 => 6#4
/-- The TxN of a code, if it is allocated. -/
def txNOf (c : BitVec 4) : Option TxN :=
  if c = 0#4 then some .t0 else
  if c = 1#4 then some .t1 else
  if c = 2#4 then some .t2 else
  if c = 3#4 then some .t3 else
  if c = 4#4 then some .t4 else
  if c = 5#4 then some .t5 else
  if c = 6#4 then some .t6 else
  none
/-- Major 0x01 (R226). -/
def parse01 (w : Word) : Except Reject Instr :=
  let fn := w.extractLsb' 0 8
  if fn = 0#8 then .ok (.sadd (w.extractLsb' 20 6) (w.extractLsb' 14 6) (w.extractLsb' 8 6)) else
  if fn = 1#8 then .ok (.ssub (w.extractLsb' 20 6) (w.extractLsb' 14 6) (w.extractLsb' 8 6)) else
  if fn = 2#8 then .ok (.sand (w.extractLsb' 20 6) (w.extractLsb' 14 6) (w.extractLsb' 8 6)) else
  if fn = 3#8 then .ok (.sor (w.extractLsb' 20 6) (w.extractLsb' 14 6) (w.extractLsb' 8 6)) else
  if fn = 4#8 then .ok (.sxor (w.extractLsb' 20 6) (w.extractLsb' 14 6) (w.extractLsb' 8 6)) else
  if fn = 5#8 then .ok (.sandn (w.extractLsb' 20 6) (w.extractLsb' 14 6) (w.extractLsb' 8 6)) else
  if fn = 6#8 then .ok (.sshl (w.extractLsb' 20 6) (w.extractLsb' 14 6) (w.extractLsb' 8 6)) else
  if fn = 7#8 then .ok (.sshr (w.extractLsb' 20 6) (w.extractLsb' 14 6) (w.extractLsb' 8 6)) else
  if fn = 8#8 then .ok (.ssar (w.extractLsb' 20 6) (w.extractLsb' 14 6) (w.extractLsb' 8 6)) else
  if fn = 9#8 then .ok (.smul (w.extractLsb' 20 6) (w.extractLsb' 14 6) (w.extractLsb' 8 6)) else
  if fn = 10#8 then .ok (.smulhs (w.extractLsb' 20 6) (w.extractLsb' 14 6) (w.extractLsb' 8 6)) else
  if fn = 11#8 then .ok (.smulhu (w.extractLsb' 20 6) (w.extractLsb' 14 6) (w.extractLsb' 8 6)) else
  if fn = 12#8 then .ok (.smin (w.extractLsb' 20 6) (w.extractLsb' 14 6) (w.extractLsb' 8 6)) else
  if fn = 13#8 then .ok (.smax (w.extractLsb' 20 6) (w.extractLsb' 14 6) (w.extractLsb' 8 6)) else
  if fn = 14#8 then .ok (.sminu (w.extractLsb' 20 6) (w.extractLsb' 14 6) (w.extractLsb' 8 6)) else
  if fn = 15#8 then .ok (.smaxu (w.extractLsb' 20 6) (w.extractLsb' 14 6) (w.extractLsb' 8 6)) else
  if fn = 16#8 then .ok (.sslt (w.extractLsb' 20 6) (w.extractLsb' 14 6) (w.extractLsb' 8 6)) else
  if fn = 17#8 then .ok (.ssltu (w.extractLsb' 20 6) (w.extractLsb' 14 6) (w.extractLsb' 8 6)) else
  if fn = 18#8 then .ok (.sseq (w.extractLsb' 20 6) (w.extractLsb' 14 6) (w.extractLsb' 8 6)) else
  if fn = 19#8 then zeroIn w 0x00003f00#32 (.sclz (w.extractLsb' 20 6) (w.extractLsb' 14 6)) else
  if fn = 20#8 then zeroIn w 0x00003f00#32 (.spopc (w.extractLsb' 20 6) (w.extractLsb' 14 6)) else
  if fn = 21#8 then zeroIn w 0x00003f00#32 (.ssext8 (w.extractLsb' 20 6) (w.extractLsb' 14 6)) else
  if fn = 22#8 then zeroIn w 0x00003f00#32 (.ssext16 (w.extractLsb' 20 6) (w.extractLsb' 14 6)) else
  if fn = 32#8 then .ok (.sadd64 (w.extractLsb' 20 6) (w.extractLsb' 14 6) (w.extractLsb' 8 6)) else
  if fn = 33#8 then .ok (.ssub64 (w.extractLsb' 20 6) (w.extractLsb' 14 6) (w.extractLsb' 8 6)) else
  .error .function
/-- Major 0x02 (R227). -/
def parse02 (w : Word) : Except Reject Instr :=
  .ok (.saddi (w.extractLsb' 20 6) (w.extractLsb' 14 6) (w.extractLsb' 0 14))
/-- Major 0x03 (R227). -/
def parse03 (w : Word) : Except Reject Instr :=
  .ok (.sandi (w.extractLsb' 20 6) (w.extractLsb' 14 6) (w.extractLsb' 0 14))
/-- Major 0x04 (R227). -/
def parse04 (w : Word) : Except Reject Instr :=
  .ok (.sori (w.extractLsb' 20 6) (w.extractLsb' 14 6) (w.extractLsb' 0 14))
/-- Major 0x05 (R227). -/
def parse05 (w : Word) : Except Reject Instr :=
  .ok (.sxori (w.extractLsb' 20 6) (w.extractLsb' 14 6) (w.extractLsb' 0 14))
/-- Major 0x06 (R228). -/
def parse06 (w : Word) : Except Reject Instr :=
  .ok (.sld (w.extractLsb' 20 6) (w.extractLsb' 14 6) (w.extractLsb' 0 14))
/-- Major 0x07 (R227). -/
def parse07 (w : Word) : Except Reject Instr :=
  .ok (.slui (w.extractLsb' 20 6) (w.extractLsb' 0 20))
/-- Major 0x0E (R228). -/
def parse0E (w : Word) : Except Reject Instr :=
  .ok (.sst (w.extractLsb' 20 6) (w.extractLsb' 14 6) (w.extractLsb' 0 14))
/-- Major 0x08 (R231). -/
def parse08 (w : Word) : Except Reject Instr :=
  let fn := w.extractLsb' 22 4
  if fn = 0#4 then .ok (.bz (w.extractLsb' 16 6) (w.extractLsb' 0 16)) else
  if fn = 1#4 then .ok (.bnz (w.extractLsb' 16 6) (w.extractLsb' 0 16)) else
  if fn = 2#4 then .ok (.bltz (w.extractLsb' 16 6) (w.extractLsb' 0 16)) else
  if fn = 3#4 then .ok (.bgez (w.extractLsb' 16 6) (w.extractLsb' 0 16)) else
  if fn = 4#4 then .ok (.bgtz (w.extractLsb' 16 6) (w.extractLsb' 0 16)) else
  if fn = 5#4 then .ok (.blez (w.extractLsb' 16 6) (w.extractLsb' 0 16)) else
  .error .function
/-- Major 0x09 (R232). -/
def parse09 (w : Word) : Except Reject Instr :=
  let fn := w.extractLsb' 22 4
  if fn = 0#4 then .ok (.bany (w.extractLsb' 16 6) (w.extractLsb' 0 16)) else
  if fn = 1#4 then .ok (.ball (w.extractLsb' 16 6) (w.extractLsb' 0 16)) else
  if fn = 2#4 then .ok (.bnone (w.extractLsb' 16 6) (w.extractLsb' 0 16)) else
  .error .function
/-- Major 0x0A (R236, R237, R238, R239, R240). -/
def parse0A (w : Word) : Except Reject Instr :=
  let cnd := w.extractLsb' 22 4
  let sc := w.extractLsb' 16 6
  if cnd = 0#4 then .ok (.split (w.extractLsb' 16 6) (w.extractLsb' 0 16)) else
  if cnd = 1#4 then zeroIn w 0x003f0000#32 (.elseW (w.extractLsb' 0 16)) else
  if cnd = 2#4 then zeroIn w 0x003fffff#32 .merge else
  if cnd = 3#4 ∧ sc = 0x3f#6 then .ok (.breakvOpen (w.extractLsb' 0 16)) else
  if cnd = 3#4 then .ok (.breakv (w.extractLsb' 16 6) (w.extractLsb' 0 16)) else
  if cnd = 4#4 then .ok (.contv (w.extractLsb' 16 6) (w.extractLsb' 0 16)) else
  .error .function
/-- Major 0x0B (R233). -/
def parse0B (w : Word) : Except Reject Instr :=
  let fn := w.extractLsb' 22 4
  if fn = 0#4 then zeroIn w 0x003f0000#32 (.branch (w.extractLsb' 0 16)) else
  if fn = 1#4 then .ok (.call (w.extractLsb' 16 6) (w.extractLsb' 0 16)) else
  .error .function
/-- Major 0x0C (R233, R241, R246, R247, R248, R249, R250). -/
def parse0C (w : Word) : Except Reject Instr :=
  let fn := w.extractLsb' 16 10
  if fn = 0#10 then zeroIn w 0x0000ffff#32 .nop else
  if fn = 1#10 then zeroIn w 0x000003ff#32 (.ret (w.extractLsb' 10 6)) else
  if fn = 2#10 then zeroIn w 0x0000ffff#32 .exitW else
  if fn = 3#10 then zeroIn w 0x000003ff#32 (.exitv (w.extractLsb' 10 6)) else
  if fn = 4#10 then zeroIn w 0x0000000f#32 (.waitW (w.extractLsb' 4 12)) else
  if fn = 5#10 then allocated (modeSelOf (w.extractLsb' 0 4)) fun sel => zeroIn w 0x000003f0#32 (.setmode (w.extractLsb' 10 6) sel) else
  if fn = 6#10 then allocated (modeSelOf (w.extractLsb' 0 4)) fun sel => .ok (.setmodeM (w.extractLsb' 10 6) (w.extractLsb' 4 6) sel) else
  if fn = 7#10 then allocated (modeSelOf (w.extractLsb' 0 4)) fun sel => zeroIn w 0x000003f0#32 (.getmode (w.extractLsb' 10 6) sel) else
  if fn = 8#10 then zeroIn w 0x0000fff0#32 (.trapW (w.extractLsb' 0 4)) else
  if fn = 9#10 then zeroIn w 0x000003ff#32 (.sleep (w.extractLsb' 10 6)) else
  .error .function
/-- Major 0x0D (R230). -/
def parse0D (w : Word) : Except Reject Instr :=
  let fn := w.extractLsb' 0 8
  if fn = 0#8 then .ok (.mand (w.extractLsb' 20 6) (w.extractLsb' 14 6) (w.extractLsb' 8 6)) else
  if fn = 1#8 then .ok (.mor (w.extractLsb' 20 6) (w.extractLsb' 14 6) (w.extractLsb' 8 6)) else
  if fn = 2#8 then .ok (.mxor (w.extractLsb' 20 6) (w.extractLsb' 14 6) (w.extractLsb' 8 6)) else
  if fn = 3#8 then .ok (.mandn (w.extractLsb' 20 6) (w.extractLsb' 14 6) (w.extractLsb' 8 6)) else
  if fn = 4#8 then zeroIn w 0x00003f00#32 (.mnot (w.extractLsb' 20 6) (w.extractLsb' 14 6)) else
  if fn = 5#8 then zeroIn w 0x000fff00#32 (.mset (w.extractLsb' 20 6)) else
  if fn = 6#8 then zeroIn w 0x000fff00#32 (.mclr (w.extractLsb' 20 6)) else
  if fn = 7#8 then zeroIn w 0x00003f00#32 (.mcnt (w.extractLsb' 20 6) (w.extractLsb' 14 6)) else
  if fn = 8#8 then zeroIn w 0x00003f00#32 (.mfirst (w.extractLsb' 20 6) (w.extractLsb' 14 6)) else
  if fn = 9#8 then zeroIn w 0x00003f00#32 (.mlane (w.extractLsb' 20 6) (w.extractLsb' 14 6)) else
  .error .function
/-- Major 0x3F (R253, R254, R255, R256, R257). -/
def parse3F (w : Word) : Except Reject Instr :=
  let fn := w.extractLsb' 16 10
  if fn = 0#10 then .ok (.sysr (w.extractLsb' 10 6) (w.extractLsb' 0 10)) else
  if fn = 1#10 then .ok (.sysw (w.extractLsb' 10 6) (w.extractLsb' 0 10)) else
  if fn = 2#10 then zeroIn w 0x0000ffff#32 .eret else
  if fn = 3#10 ∧ w.extractLsb' 0 4 = 0#4 then zeroIn w 0x000003f0#32 (.cacheopInvx (w.extractLsb' 10 6)) else
  if fn = 3#10 ∧ w.extractLsb' 0 4 = 1#4 then zeroIn w 0x000003f0#32 (.cacheopWb (w.extractLsb' 10 6)) else
  if fn = 3#10 ∧ w.extractLsb' 0 4 = 2#4 then zeroIn w 0x000003f0#32 (.cacheopWbinv (w.extractLsb' 10 6)) else
  if fn = 4#10 then zeroIn w 0x0000fff0#32 (.dbgbrk (w.extractLsb' 0 4)) else
  if fn = 5#10 ∧ w.extractLsb' 0 4 = 0#4 then zeroIn w 0x0000fff0#32 .keywipeAll else
  if fn = 5#10 ∧ w.extractLsb' 0 4 = 1#4 then zeroIn w 0x0000fff0#32 .keywipeContext else
  if fn = 6#10 then zeroIn w 0x0000ffff#32 .halt else
  .error .function
/-- Major 0x10 (R260). -/
def parse10 (w : Word) : Except Reject Instr :=
  let fn := w.extractLsb' 24 2
  if fn = 0#2 then .ok (.iadd (w.extractLsb' 16 8) (w.extractLsb' 8 8) (w.extractLsb' 0 8)) else
  if fn = 1#2 then .ok (.isub (w.extractLsb' 16 8) (w.extractLsb' 8 8) (w.extractLsb' 0 8)) else
  if fn = 2#2 then .ok (.imul (w.extractLsb' 16 8) (w.extractLsb' 8 8) (w.extractLsb' 0 8)) else
  if fn = 3#2 then .ok (.imulh (w.extractLsb' 16 8) (w.extractLsb' 8 8) (w.extractLsb' 0 8)) else
  .error .function
/-- Major 0x11 (R260). -/
def parse11 (w : Word) : Except Reject Instr :=
  let fn := w.extractLsb' 24 2
  if fn = 0#2 then .ok (.imad (w.extractLsb' 16 8) (w.extractLsb' 8 8) (w.extractLsb' 0 8)) else
  if fn = 1#2 then .ok (.imin (w.extractLsb' 16 8) (w.extractLsb' 8 8) (w.extractLsb' 0 8)) else
  if fn = 2#2 then .ok (.imax (w.extractLsb' 16 8) (w.extractLsb' 8 8) (w.extractLsb' 0 8)) else
  if fn = 3#2 then .ok (.iabsd (w.extractLsb' 16 8) (w.extractLsb' 8 8) (w.extractLsb' 0 8)) else
  .error .function
/-- Major 0x12 (R260). -/
def parse12 (w : Word) : Except Reject Instr :=
  let fn := w.extractLsb' 24 2
  if fn = 0#2 then .ok (.vand (w.extractLsb' 16 8) (w.extractLsb' 8 8) (w.extractLsb' 0 8)) else
  if fn = 1#2 then .ok (.vor (w.extractLsb' 16 8) (w.extractLsb' 8 8) (w.extractLsb' 0 8)) else
  if fn = 2#2 then .ok (.vxor (w.extractLsb' 16 8) (w.extractLsb' 8 8) (w.extractLsb' 0 8)) else
  if fn = 3#2 then .ok (.vandn (w.extractLsb' 16 8) (w.extractLsb' 8 8) (w.extractLsb' 0 8)) else
  .error .function
/-- Major 0x13 (R260). -/
def parse13 (w : Word) : Except Reject Instr :=
  let fn := w.extractLsb' 24 2
  if fn = 0#2 then .ok (.shl (w.extractLsb' 16 8) (w.extractLsb' 8 8) (w.extractLsb' 0 8)) else
  if fn = 1#2 then .ok (.shr (w.extractLsb' 16 8) (w.extractLsb' 8 8) (w.extractLsb' 0 8)) else
  if fn = 2#2 then .ok (.sar (w.extractLsb' 16 8) (w.extractLsb' 8 8) (w.extractLsb' 0 8)) else
  if fn = 3#2 then .ok (.irot (w.extractLsb' 16 8) (w.extractLsb' 8 8) (w.extractLsb' 0 8)) else
  .error .function
/-- Major 0x14 (R262). -/
def parse14 (w : Word) : Except Reject Instr :=
  let fn := w.extractLsb' 24 2
  if fn = 0#2 then .ok (.idp (w.extractLsb' 16 8) (w.extractLsb' 8 8) (w.extractLsb' 0 8)) else
  .error .function
/-- Major 0x1C (R268). -/
def parse1C (w : Word) : Except Reject Instr :=
  allocated (cmpCombOf (w.extractLsb' 24 2)) fun o => allocated (icmpCcOf (w.extractLsb' 21 3)) fun c => .ok (.icmp o c (w.extractLsb' 16 5) (w.extractLsb' 8 8) (w.extractLsb' 0 8))
/-- Major 0x1D (R268). -/
def parse1D (w : Word) : Except Reject Instr :=
  allocated (cmpCombOf (w.extractLsb' 24 2)) fun o => allocated (fcmpCcOf (w.extractLsb' 21 3)) fun c => .ok (.fcmp o c (w.extractLsb' 16 5) (w.extractLsb' 8 8) (w.extractLsb' 0 8))
/-- Major 0x1E (R264, R265). -/
def parse1E (w : Word) : Except Reject Instr :=
  let fn := w.extractLsb' 24 2
  if fn = 0#2 then .ok (.fadd (w.extractLsb' 16 8) (w.extractLsb' 8 8) (w.extractLsb' 0 8)) else
  if fn = 1#2 then .ok (.fsub (w.extractLsb' 16 8) (w.extractLsb' 8 8) (w.extractLsb' 0 8)) else
  if fn = 2#2 then .ok (.fmul (w.extractLsb' 16 8) (w.extractLsb' 8 8) (w.extractLsb' 0 8)) else
  if fn = 3#2 then .ok (.fmin (w.extractLsb' 16 8) (w.extractLsb' 8 8) (w.extractLsb' 0 8)) else
  .error .function
/-- Major 0x1F (R265). -/
def parse1F (w : Word) : Except Reject Instr :=
  let fn := w.extractLsb' 24 2
  if fn = 0#2 then .ok (.fmax (w.extractLsb' 16 8) (w.extractLsb' 8 8) (w.extractLsb' 0 8)) else
  if fn = 1#2 then .ok (.fminp (w.extractLsb' 16 8) (w.extractLsb' 8 8) (w.extractLsb' 0 8)) else
  if fn = 2#2 then .ok (.fmaxp (w.extractLsb' 16 8) (w.extractLsb' 8 8) (w.extractLsb' 0 8)) else
  .error .function
/-- Major 0x20 (R264). -/
def parse20 (w : Word) : Except Reject Instr :=
  let fn := w.extractLsb' 24 2
  if fn = 0#2 then .ok (.ffma (w.extractLsb' 16 8) (w.extractLsb' 8 8) (w.extractLsb' 0 8)) else
  if fn = 1#2 then .ok (.ffms (w.extractLsb' 16 8) (w.extractLsb' 8 8) (w.extractLsb' 0 8)) else
  if fn = 2#2 then .ok (.ffnma (w.extractLsb' 16 8) (w.extractLsb' 8 8) (w.extractLsb' 0 8)) else
  if fn = 3#2 then .ok (.ffnms (w.extractLsb' 16 8) (w.extractLsb' 8 8) (w.extractLsb' 0 8)) else
  .error .function
/-- Major 0x21 (R266). -/
def parse21 (w : Word) : Except Reject Instr :=
  let fn := w.extractLsb' 24 2
  if fn = 0#2 then .ok (.fdp2 (w.extractLsb' 16 8) (w.extractLsb' 8 8) (w.extractLsb' 0 8)) else
  .error .function
/-- Major 0x28 (R271, R272). -/
def parse28 (w : Word) : Except Reject Instr :=
  let sub := w.extractLsb' 24 2
  let fn := w.extractLsb' 8 8
  if sub = 0#2 ∧ fn = 0#8 then .ok (.ineg (w.extractLsb' 16 8) (w.extractLsb' 0 8)) else
  if sub = 0#2 ∧ fn = 1#8 then .ok (.iabs (w.extractLsb' 16 8) (w.extractLsb' 0 8)) else
  if sub = 0#2 ∧ fn = 2#8 then .ok (.vnot (w.extractLsb' 16 8) (w.extractLsb' 0 8)) else
  if sub = 0#2 ∧ fn = 3#8 then .ok (.popc (w.extractLsb' 16 8) (w.extractLsb' 0 8)) else
  if sub = 0#2 ∧ fn = 4#8 then .ok (.clz (w.extractLsb' 16 8) (w.extractLsb' 0 8)) else
  if sub = 0#2 ∧ fn = 5#8 then .ok (.brev (w.extractLsb' 16 8) (w.extractLsb' 0 8)) else
  if sub = 1#2 ∧ fn = 0#8 then .ok (.fneg (w.extractLsb' 16 8) (w.extractLsb' 0 8)) else
  if sub = 1#2 ∧ fn = 1#8 then .ok (.fabs (w.extractLsb' 16 8) (w.extractLsb' 0 8)) else
  if sub = 1#2 ∧ fn = 2#8 then .ok (.ffloor (w.extractLsb' 16 8) (w.extractLsb' 0 8)) else
  if sub = 1#2 ∧ fn = 3#8 then .ok (.fceil (w.extractLsb' 16 8) (w.extractLsb' 0 8)) else
  if sub = 1#2 ∧ fn = 4#8 then .ok (.ftrunc (w.extractLsb' 16 8) (w.extractLsb' 0 8)) else
  if sub = 1#2 ∧ fn = 5#8 then .ok (.frnd (w.extractLsb' 16 8) (w.extractLsb' 0 8)) else
  if sub = 2#2 then allocated (eTypeOf (w.extractLsb' 8 5)) fun t => .ok (.cvt (w.extractLsb' 16 8) (w.extractLsb' 13 3) t (w.extractLsb' 0 8)) else
  .error .function
/-- Major 0x29 (R273). -/
def parse29 (w : Word) : Except Reject Instr :=
  let sub := w.extractLsb' 24 2
  let fn := w.extractLsb' 8 8
  if sub = 0#2 ∧ fn = 0#8 then zeroIn w 0x000000c0#32 (.vsplat (w.extractLsb' 16 8) (w.extractLsb' 0 6)) else
  if sub = 0#2 ∧ fn = 1#8 then zeroIn w 0x000000ff#32 (.vlaneid (w.extractLsb' 16 8)) else
  if sub = 0#2 ∧ fn = 2#8 then .ok (.vmask (w.extractLsb' 16 8) (w.extractLsb' 0 8)) else
  .error .function
/-- Major 0x2A (R275). -/
def parse2A (w : Word) : Except Reject Instr :=
  let fn := w.extractLsb' 24 2
  if fn = 0#2 then .ok (.vperm (w.extractLsb' 16 8) (w.extractLsb' 8 8) (w.extractLsb' 0 8)) else
  if fn = 1#2 then .ok (.vbcst (w.extractLsb' 16 8) (w.extractLsb' 8 8) (w.extractLsb' 0 8)) else
  if fn = 2#2 then .ok (.vshf (w.extractLsb' 16 8) (w.extractLsb' 8 8) (w.extractLsb' 0 8)) else
  if fn = 3#2 then .ok (.vbfly (w.extractLsb' 16 8) (w.extractLsb' 8 8) (w.extractLsb' 0 8)) else
  .error .function
/-- Major 0x2B (R270). -/
def parse2B (w : Word) : Except Reject Instr :=
  let fn := w.extractLsb' 24 2
  if fn = 0#2 then zeroIn w 0x000000ff#32 (.mov (w.extractLsb' 16 8) (w.extractLsb' 8 8)) else
  if fn = 1#2 then .ok (.sel (w.extractLsb' 16 8) (w.extractLsb' 8 8) (w.extractLsb' 0 8)) else
  if fn = 2#2 then zeroIn w 0x00c000c0#32 (.vrdl (w.extractLsb' 16 6) (w.extractLsb' 8 8) (w.extractLsb' 0 6)) else
  if fn = 3#2 then zeroIn w 0x0000c0c0#32 (.vwrl (w.extractLsb' 16 8) (w.extractLsb' 8 6) (w.extractLsb' 0 6)) else
  .error .function
/-- Major 0x2C (R277, R278, R279). -/
def parse2C (w : Word) : Except Reject Instr :=
  let fn := w.extractLsb' 22 4
  if fn = 0#4 then .ok (.idiv (w.extractLsb' 14 8) (w.extractLsb' 11 3) (w.extractLsb' 8 3) (w.extractLsb' 4 4) (w.extractLsb' 0 4)) else
  if fn = 1#4 then .ok (.irem (w.extractLsb' 14 8) (w.extractLsb' 11 3) (w.extractLsb' 8 3) (w.extractLsb' 4 4) (w.extractLsb' 0 4)) else
  if fn = 2#4 then .ok (.fdiv (w.extractLsb' 14 8) (w.extractLsb' 11 3) (w.extractLsb' 8 3) (w.extractLsb' 4 4) (w.extractLsb' 0 4)) else
  if fn = 3#4 then zeroIn w 0x00000700#32 (.fsqrt (w.extractLsb' 14 8) (w.extractLsb' 11 3) (w.extractLsb' 4 4) (w.extractLsb' 0 4)) else
  if fn = 4#4 then zeroIn w 0x00000700#32 (.frcp (w.extractLsb' 14 8) (w.extractLsb' 11 3) (w.extractLsb' 4 4) (w.extractLsb' 0 4)) else
  if fn = 5#4 then zeroIn w 0x00000700#32 (.frsq (w.extractLsb' 14 8) (w.extractLsb' 11 3) (w.extractLsb' 4 4) (w.extractLsb' 0 4)) else
  .error .function
/-- Major 0x2D (R279, R280). -/
def parse2D (w : Word) : Except Reject Instr :=
  let fn := w.extractLsb' 22 4
  if fn = 0#4 then zeroIn w 0x00000700#32 (.fexp2 (w.extractLsb' 14 8) (w.extractLsb' 11 3) (w.extractLsb' 4 4) (w.extractLsb' 0 4)) else
  if fn = 1#4 then zeroIn w 0x00000700#32 (.flog2 (w.extractLsb' 14 8) (w.extractLsb' 11 3) (w.extractLsb' 4 4) (w.extractLsb' 0 4)) else
  if fn = 2#4 then zeroIn w 0x00000700#32 (.fsinpi (w.extractLsb' 14 8) (w.extractLsb' 11 3) (w.extractLsb' 4 4) (w.extractLsb' 0 4)) else
  if fn = 3#4 then zeroIn w 0x00000700#32 (.fcospi (w.extractLsb' 14 8) (w.extractLsb' 11 3) (w.extractLsb' 4 4) (w.extractLsb' 0 4)) else
  if fn = 4#4 then zeroIn w 0x00000700#32 (.ftanh (w.extractLsb' 14 8) (w.extractLsb' 11 3) (w.extractLsb' 4 4) (w.extractLsb' 0 4)) else
  if fn = 8#4 then zeroIn w 0x00000700#32 (.rsum (w.extractLsb' 14 8) (w.extractLsb' 11 3) (w.extractLsb' 4 4) (w.extractLsb' 0 4)) else
  if fn = 9#4 then zeroIn w 0x00000700#32 (.rmin (w.extractLsb' 14 8) (w.extractLsb' 11 3) (w.extractLsb' 4 4) (w.extractLsb' 0 4)) else
  if fn = 10#4 then zeroIn w 0x00000700#32 (.rmax (w.extractLsb' 14 8) (w.extractLsb' 11 3) (w.extractLsb' 4 4) (w.extractLsb' 0 4)) else
  if fn = 11#4 then zeroIn w 0x00000700#32 (.rand (w.extractLsb' 14 8) (w.extractLsb' 11 3) (w.extractLsb' 4 4) (w.extractLsb' 0 4)) else
  if fn = 12#4 then zeroIn w 0x00000700#32 (.ror (w.extractLsb' 14 8) (w.extractLsb' 11 3) (w.extractLsb' 4 4) (w.extractLsb' 0 4)) else
  if fn = 13#4 then zeroIn w 0x00000700#32 (.rxor (w.extractLsb' 14 8) (w.extractLsb' 11 3) (w.extractLsb' 4 4) (w.extractLsb' 0 4)) else
  .error .function
/-- Major 0x30 (R284). -/
def parse30 (w : Word) : Except Reject Instr :=
  let fn := w.extractLsb' 22 4
  if fn = 0#4 then .ok (.ld8u (w.extractLsb' 14 8) (w.extractLsb' 11 3) (w.extractLsb' 8 3) (w.extractLsb' 4 4) (w.extractLsb' 0 4)) else
  if fn = 1#4 then .ok (.ld8s (w.extractLsb' 14 8) (w.extractLsb' 11 3) (w.extractLsb' 8 3) (w.extractLsb' 4 4) (w.extractLsb' 0 4)) else
  if fn = 2#4 then .ok (.ld16u (w.extractLsb' 14 8) (w.extractLsb' 11 3) (w.extractLsb' 8 3) (w.extractLsb' 4 4) (w.extractLsb' 0 4)) else
  if fn = 3#4 then .ok (.ld16s (w.extractLsb' 14 8) (w.extractLsb' 11 3) (w.extractLsb' 8 3) (w.extractLsb' 4 4) (w.extractLsb' 0 4)) else
  if fn = 4#4 then .ok (.ld32 (w.extractLsb' 14 8) (w.extractLsb' 11 3) (w.extractLsb' 8 3) (w.extractLsb' 4 4) (w.extractLsb' 0 4)) else
  if fn = 5#4 then .ok (.ld64 (w.extractLsb' 14 8) (w.extractLsb' 11 3) (w.extractLsb' 8 3) (w.extractLsb' 4 4) (w.extractLsb' 0 4)) else
  if fn = 6#4 then .ok (.ld128 (w.extractLsb' 14 8) (w.extractLsb' 11 3) (w.extractLsb' 8 3) (w.extractLsb' 4 4) (w.extractLsb' 0 4)) else
  .error .function
/-- Major 0x31 (R288). -/
def parse31 (w : Word) : Except Reject Instr :=
  let fn := w.extractLsb' 22 4
  if fn = 0#4 then .ok (.ld8uAcq (w.extractLsb' 14 8) (w.extractLsb' 11 3) (w.extractLsb' 8 3) (w.extractLsb' 4 4) (w.extractLsb' 0 4)) else
  if fn = 1#4 then .ok (.ld8sAcq (w.extractLsb' 14 8) (w.extractLsb' 11 3) (w.extractLsb' 8 3) (w.extractLsb' 4 4) (w.extractLsb' 0 4)) else
  if fn = 2#4 then .ok (.ld16uAcq (w.extractLsb' 14 8) (w.extractLsb' 11 3) (w.extractLsb' 8 3) (w.extractLsb' 4 4) (w.extractLsb' 0 4)) else
  if fn = 3#4 then .ok (.ld16sAcq (w.extractLsb' 14 8) (w.extractLsb' 11 3) (w.extractLsb' 8 3) (w.extractLsb' 4 4) (w.extractLsb' 0 4)) else
  if fn = 4#4 then .ok (.ld32Acq (w.extractLsb' 14 8) (w.extractLsb' 11 3) (w.extractLsb' 8 3) (w.extractLsb' 4 4) (w.extractLsb' 0 4)) else
  if fn = 5#4 then .ok (.ld64Acq (w.extractLsb' 14 8) (w.extractLsb' 11 3) (w.extractLsb' 8 3) (w.extractLsb' 4 4) (w.extractLsb' 0 4)) else
  if fn = 6#4 then .ok (.ld128Acq (w.extractLsb' 14 8) (w.extractLsb' 11 3) (w.extractLsb' 8 3) (w.extractLsb' 4 4) (w.extractLsb' 0 4)) else
  .error .function
/-- Major 0x32 (R286). -/
def parse32 (w : Word) : Except Reject Instr :=
  let fn := w.extractLsb' 22 4
  if fn = 0#4 then .ok (.st8 (w.extractLsb' 14 8) (w.extractLsb' 11 3) (w.extractLsb' 8 3) (w.extractLsb' 4 4) (w.extractLsb' 0 4)) else
  if fn = 2#4 then .ok (.st16 (w.extractLsb' 14 8) (w.extractLsb' 11 3) (w.extractLsb' 8 3) (w.extractLsb' 4 4) (w.extractLsb' 0 4)) else
  if fn = 4#4 then .ok (.st32 (w.extractLsb' 14 8) (w.extractLsb' 11 3) (w.extractLsb' 8 3) (w.extractLsb' 4 4) (w.extractLsb' 0 4)) else
  if fn = 5#4 then .ok (.st64 (w.extractLsb' 14 8) (w.extractLsb' 11 3) (w.extractLsb' 8 3) (w.extractLsb' 4 4) (w.extractLsb' 0 4)) else
  if fn = 6#4 then .ok (.st128 (w.extractLsb' 14 8) (w.extractLsb' 11 3) (w.extractLsb' 8 3) (w.extractLsb' 4 4) (w.extractLsb' 0 4)) else
  .error .function
/-- Major 0x33 (R288). -/
def parse33 (w : Word) : Except Reject Instr :=
  let fn := w.extractLsb' 22 4
  if fn = 0#4 then .ok (.st8Rel (w.extractLsb' 14 8) (w.extractLsb' 11 3) (w.extractLsb' 8 3) (w.extractLsb' 4 4) (w.extractLsb' 0 4)) else
  if fn = 2#4 then .ok (.st16Rel (w.extractLsb' 14 8) (w.extractLsb' 11 3) (w.extractLsb' 8 3) (w.extractLsb' 4 4) (w.extractLsb' 0 4)) else
  if fn = 4#4 then .ok (.st32Rel (w.extractLsb' 14 8) (w.extractLsb' 11 3) (w.extractLsb' 8 3) (w.extractLsb' 4 4) (w.extractLsb' 0 4)) else
  if fn = 5#4 then .ok (.st64Rel (w.extractLsb' 14 8) (w.extractLsb' 11 3) (w.extractLsb' 8 3) (w.extractLsb' 4 4) (w.extractLsb' 0 4)) else
  if fn = 6#4 then .ok (.st128Rel (w.extractLsb' 14 8) (w.extractLsb' 11 3) (w.extractLsb' 8 3) (w.extractLsb' 4 4) (w.extractLsb' 0 4)) else
  .error .function
/-- Major 0x34 (R291). -/
def parse34 (w : Word) : Except Reject Instr :=
  let fn := w.extractLsb' 22 4
  if fn = 0#4 then .ok (.atomAdd (w.extractLsb' 14 8) (w.extractLsb' 11 3) (w.extractLsb' 8 3) (w.extractLsb' 4 4) (w.extractLsb' 0 4)) else
  if fn = 1#4 then .ok (.atomAnd (w.extractLsb' 14 8) (w.extractLsb' 11 3) (w.extractLsb' 8 3) (w.extractLsb' 4 4) (w.extractLsb' 0 4)) else
  if fn = 2#4 then .ok (.atomOr (w.extractLsb' 14 8) (w.extractLsb' 11 3) (w.extractLsb' 8 3) (w.extractLsb' 4 4) (w.extractLsb' 0 4)) else
  if fn = 3#4 then .ok (.atomXor (w.extractLsb' 14 8) (w.extractLsb' 11 3) (w.extractLsb' 8 3) (w.extractLsb' 4 4) (w.extractLsb' 0 4)) else
  if fn = 4#4 then .ok (.atomMin (w.extractLsb' 14 8) (w.extractLsb' 11 3) (w.extractLsb' 8 3) (w.extractLsb' 4 4) (w.extractLsb' 0 4)) else
  if fn = 5#4 then .ok (.atomMax (w.extractLsb' 14 8) (w.extractLsb' 11 3) (w.extractLsb' 8 3) (w.extractLsb' 4 4) (w.extractLsb' 0 4)) else
  if fn = 6#4 then .ok (.atomMinu (w.extractLsb' 14 8) (w.extractLsb' 11 3) (w.extractLsb' 8 3) (w.extractLsb' 4 4) (w.extractLsb' 0 4)) else
  if fn = 7#4 then .ok (.atomMaxu (w.extractLsb' 14 8) (w.extractLsb' 11 3) (w.extractLsb' 8 3) (w.extractLsb' 4 4) (w.extractLsb' 0 4)) else
  if fn = 8#4 then .ok (.atomSwap (w.extractLsb' 14 8) (w.extractLsb' 11 3) (w.extractLsb' 8 3) (w.extractLsb' 4 4) (w.extractLsb' 0 4)) else
  if fn = 9#4 then .ok (.atomCas (w.extractLsb' 14 8) (w.extractLsb' 11 3) (w.extractLsb' 8 3) (w.extractLsb' 4 4) (w.extractLsb' 0 4)) else
  if fn = 10#4 then .ok (.atomFadd (w.extractLsb' 14 8) (w.extractLsb' 11 3) (w.extractLsb' 8 3) (w.extractLsb' 4 4) (w.extractLsb' 0 4)) else
  if fn = 11#4 then .ok (.atomAdd64 (w.extractLsb' 14 8) (w.extractLsb' 11 3) (w.extractLsb' 8 3) (w.extractLsb' 4 4) (w.extractLsb' 0 4)) else
  if fn = 12#4 then .ok (.atomSwap64 (w.extractLsb' 14 8) (w.extractLsb' 11 3) (w.extractLsb' 8 3) (w.extractLsb' 4 4) (w.extractLsb' 0 4)) else
  if fn = 13#4 then .ok (.atomCas64 (w.extractLsb' 14 8) (w.extractLsb' 11 3) (w.extractLsb' 8 3) (w.extractLsb' 4 4) (w.extractLsb' 0 4)) else
  if fn = 14#4 then .ok (.atomInc (w.extractLsb' 14 8) (w.extractLsb' 11 3) (w.extractLsb' 8 3) (w.extractLsb' 4 4) (w.extractLsb' 0 4)) else
  .error .function
/-- Major 0x35 (R291). -/
def parse35 (w : Word) : Except Reject Instr :=
  let fn := w.extractLsb' 22 2
  if fn = 0#2 then allocated (atomOrdOf (w.extractLsb' 24 2)) fun o => .ok (.atomArAdd o (w.extractLsb' 14 8) (w.extractLsb' 11 3) (w.extractLsb' 8 3) (w.extractLsb' 4 4) (w.extractLsb' 0 4)) else
  if fn = 1#2 then allocated (atomOrdOf (w.extractLsb' 24 2)) fun o => .ok (.atomArSwap o (w.extractLsb' 14 8) (w.extractLsb' 11 3) (w.extractLsb' 8 3) (w.extractLsb' 4 4) (w.extractLsb' 0 4)) else
  if fn = 2#2 then allocated (atomOrdOf (w.extractLsb' 24 2)) fun o => .ok (.atomArCas o (w.extractLsb' 14 8) (w.extractLsb' 11 3) (w.extractLsb' 8 3) (w.extractLsb' 4 4) (w.extractLsb' 0 4)) else
  if fn = 3#2 then allocated (atomOrdOf (w.extractLsb' 24 2)) fun o => .ok (.atomArCas64 o (w.extractLsb' 14 8) (w.extractLsb' 11 3) (w.extractLsb' 8 3) (w.extractLsb' 4 4) (w.extractLsb' 0 4)) else
  .error .function
/-- Major 0x36 (R299). -/
def parse36 (w : Word) : Except Reject Instr :=
  let fn := w.extractLsb' 22 4
  if fn = 0#4 then zeroIn w 0x0000ff00#32 (.mcst (w.extractLsb' 16 6) (w.extractLsb' 4 4) (w.extractLsb' 0 4)) else
  if fn = 1#4 then allocated (redOpOf (w.extractLsb' 8 2)) fun o => zeroIn w 0x0000fc00#32 (.redst (w.extractLsb' 16 6) o (w.extractLsb' 4 4) (w.extractLsb' 0 4)) else
  .error .function
/-- Major 0x38 (R297). -/
def parse38 (w : Word) : Except Reject Instr :=
  let fn := w.extractLsb' 22 4
  if fn = 0#4 then zeroIn w 0x00000300#32 (.bulkrd (w.extractLsb' 16 6) (w.extractLsb' 10 6) (w.extractLsb' 4 4) (w.extractLsb' 0 4)) else
  .error .function
/-- Major 0x39 (R151, R152). -/
def parse39 (w : Word) : Except Reject Instr :=
  let fn := w.extractLsb' 22 4
  if fn = 0#4 then zeroIn w 0x00000300#32 (.copy (w.extractLsb' 16 6) (w.extractLsb' 10 6) (w.extractLsb' 4 4) (w.extractLsb' 0 4)) else
  if fn = 1#4 then zeroIn w 0x00000300#32 (.copymc (w.extractLsb' 16 6) (w.extractLsb' 10 6) (w.extractLsb' 4 4) (w.extractLsb' 0 4)) else
  .error .function
/-- Major 0x3A (R301). -/
def parse3A (w : Word) : Except Reject Instr :=
  let fn := w.extractLsb' 22 4
  if fn = 0#4 then zeroIn w 0x0000ff00#32 (.nmopFill (w.extractLsb' 16 6) (w.extractLsb' 4 4) (w.extractLsb' 0 4)) else
  if fn = 1#4 then zeroIn w 0x0000ff00#32 (.nmopCopy (w.extractLsb' 16 6) (w.extractLsb' 4 4) (w.extractLsb' 0 4)) else
  if fn = 2#4 then zeroIn w 0x0000ff00#32 (.nmopCmp (w.extractLsb' 16 6) (w.extractLsb' 4 4) (w.extractLsb' 0 4)) else
  if fn = 3#4 then allocated (redOpOf (w.extractLsb' 8 2)) fun o => zeroIn w 0x0000fc00#32 (.nmopRed (w.extractLsb' 16 6) o (w.extractLsb' 4 4) (w.extractLsb' 0 4)) else
  .error .function
/-- Major 0x3B (R39, R293, R294, R295). -/
def parse3B (w : Word) : Except Reject Instr :=
  let fn := w.extractLsb' 16 10
  if fn = 0#10 then allocated (txNOf (w.extractLsb' 0 4)) fun n => zeroIn w 0x000003f0#32 (.xlat (w.extractLsb' 10 6) n) else
  if fn = 1#10 then zeroIn w 0x0000000f#32 (.layreg (w.extractLsb' 10 6) (w.extractLsb' 4 6)) else
  if fn = 2#10 then zeroIn w 0x000003ff#32 (.layrel (w.extractLsb' 10 6)) else
  if fn = 3#10 then zeroIn w 0x0000000f#32 (.publ (w.extractLsb' 10 6) (w.extractLsb' 4 6)) else
  .error .function
/-- Major 0x3C (R304, R305, R306, R308, R309, R310, R311, R312). -/
def parse3C (w : Word) : Except Reject Instr :=
  let fn := w.extractLsb' 16 10
  if fn = 0#10 then allocated (scopeOf (w.extractLsb' 0 4)) fun sc => zeroIn w 0x0000fff0#32 (.fenceAcq sc) else
  if fn = 1#10 then allocated (scopeOf (w.extractLsb' 0 4)) fun sc => zeroIn w 0x0000fff0#32 (.fenceRel sc) else
  if fn = 2#10 then allocated (scopeOf (w.extractLsb' 0 4)) fun sc => zeroIn w 0x0000fff0#32 (.fenceAr sc) else
  if fn = 3#10 then allocated (scopeOf (w.extractLsb' 0 4)) fun sc => zeroIn w 0x0000fff0#32 (.fenceSc sc) else
  if fn = 16#10 then allocated (bar4Of (w.extractLsb' 0 4)) fun n => .ok (.bar (w.extractLsb' 10 6) (w.extractLsb' 4 6) n) else
  if fn = 17#10 then allocated (bar4Of (w.extractLsb' 0 4)) fun n => zeroIn w 0x000003f0#32 (.barr (w.extractLsb' 10 6) n) else
  if fn = 32#10 then allocated (gScopeOf (w.extractLsb' 0 4)) fun g => .ok (.gjoin (w.extractLsb' 10 6) (w.extractLsb' 4 6) g) else
  if fn = 33#10 then zeroIn w 0x0000ffff#32 .gleave else
  if fn = 34#10 then allocated (ginfoSelOf (w.extractLsb' 0 4)) fun s => zeroIn w 0x0000fc00#32 (.ginfo (w.extractLsb' 4 6) s) else
  if fn = 48#10 then allocated (waitCondOf (w.extractLsb' 0 4)) fun c => .ok (.waita (w.extractLsb' 10 6) (w.extractLsb' 4 6) c) else
  if fn = 49#10 then zeroIn w 0x0000000f#32 (.mwait (w.extractLsb' 10 6) (w.extractLsb' 4 6)) else
  if fn = 64#10 then zeroIn w 0x0000000f#32 (.dist (w.extractLsb' 10 6) (w.extractLsb' 4 6)) else
  if fn = 80#10 then zeroIn w 0x0000000f#32 (.lnch (w.extractLsb' 10 6) (w.extractLsb' 4 6)) else
  .error .function
/-- Major 0x3D (R321, R322, R323, R324, R325, R327, R329, R331, R332, R333). -/
def parse3D (w : Word) : Except Reject Instr :=
  let fn := w.extractLsb' 21 5
  if fn = 0#5 then zeroIn w 0x001e0700#32 (.msetm (w.extractLsb' 11 6) (w.extractLsb' 4 4) (w.extractLsb' 0 4)) else
  if fn = 1#5 ∧ w.extractLsb' 20 1 = 0#1 then zeroIn w 0x00000700#32 (.mcb (w.extractLsb' 17 3) (w.extractLsb' 11 6) (w.extractLsb' 4 4) (w.extractLsb' 0 4)) else
  if fn = 2#5 then zeroIn w 0x001e0100#32 (.mld (w.extractLsb' 11 6) (w.extractLsb' 9 2) (w.extractLsb' 4 4) (w.extractLsb' 0 4)) else
  if fn = 3#5 then zeroIn w 0x001e0100#32 (.mldsw (w.extractLsb' 11 6) (w.extractLsb' 9 2) (w.extractLsb' 4 4) (w.extractLsb' 0 4)) else
  if fn = 4#5 then zeroIn w 0x001e0100#32 (.mldsa (w.extractLsb' 11 6) (w.extractLsb' 9 2) (w.extractLsb' 4 4) (w.extractLsb' 0 4)) else
  if fn = 5#5 then zeroIn w 0x00000100#32 (.mldc (w.extractLsb' 17 4) (w.extractLsb' 11 6) (w.extractLsb' 9 2) (w.extractLsb' 4 4) (w.extractLsb' 0 4)) else
  if fn = 6#5 then zeroIn w 0x00000100#32 (.mstc (w.extractLsb' 17 4) (w.extractLsb' 11 6) (w.extractLsb' 9 2) (w.extractLsb' 4 4) (w.extractLsb' 0 4)) else
  if fn = 7#5 then zeroIn w 0x0001ff00#32 (.mzero (w.extractLsb' 17 4) (w.extractLsb' 4 4) (w.extractLsb' 0 4)) else
  if fn = 8#5 then zeroIn w 0x00000700#32 (.mstr (w.extractLsb' 17 4) (w.extractLsb' 11 6) (w.extractLsb' 4 4) (w.extractLsb' 0 4)) else
  if fn = 9#5 then zeroIn w 0x00000700#32 (.mstrs (w.extractLsb' 17 4) (w.extractLsb' 11 6) (w.extractLsb' 4 4) (w.extractLsb' 0 4)) else
  if fn = 10#5 then zeroIn w 0x00000700#32 (.mstrx (w.extractLsb' 17 4) (w.extractLsb' 11 6) (w.extractLsb' 4 4) (w.extractLsb' 0 4)) else
  if fn = 11#5 then zeroIn w 0x00000700#32 (.mrdc (w.extractLsb' 17 4) (w.extractLsb' 11 6) (w.extractLsb' 4 4) (w.extractLsb' 0 4)) else
  if fn = 12#5 then zeroIn w 0x00000700#32 (.mwrc (w.extractLsb' 17 4) (w.extractLsb' 11 6) (w.extractLsb' 4 4) (w.extractLsb' 0 4)) else
  if fn = 13#5 then zeroIn w 0x001fff00#32 (.msync (w.extractLsb' 4 4) (w.extractLsb' 0 4)) else
  .error .function

/-- The instruction of a word, or why it is rejected: checks 1, 2 and 6 of R214. -/
def decode (w : Word) : Except Reject Instr :=
  if majorOf w = 0x01#6 then parse01 w else
  if majorOf w = 0x02#6 then parse02 w else
  if majorOf w = 0x03#6 then parse03 w else
  if majorOf w = 0x04#6 then parse04 w else
  if majorOf w = 0x05#6 then parse05 w else
  if majorOf w = 0x06#6 then parse06 w else
  if majorOf w = 0x07#6 then parse07 w else
  if majorOf w = 0x0e#6 then parse0E w else
  if majorOf w = 0x08#6 then parse08 w else
  if majorOf w = 0x09#6 then parse09 w else
  if majorOf w = 0x0a#6 then parse0A w else
  if majorOf w = 0x0b#6 then parse0B w else
  if majorOf w = 0x0c#6 then parse0C w else
  if majorOf w = 0x0d#6 then parse0D w else
  if majorOf w = 0x3f#6 then parse3F w else
  if majorOf w = 0x10#6 then parse10 w else
  if majorOf w = 0x11#6 then parse11 w else
  if majorOf w = 0x12#6 then parse12 w else
  if majorOf w = 0x13#6 then parse13 w else
  if majorOf w = 0x14#6 then parse14 w else
  if majorOf w = 0x1c#6 then parse1C w else
  if majorOf w = 0x1d#6 then parse1D w else
  if majorOf w = 0x1e#6 then parse1E w else
  if majorOf w = 0x1f#6 then parse1F w else
  if majorOf w = 0x20#6 then parse20 w else
  if majorOf w = 0x21#6 then parse21 w else
  if majorOf w = 0x28#6 then parse28 w else
  if majorOf w = 0x29#6 then parse29 w else
  if majorOf w = 0x2a#6 then parse2A w else
  if majorOf w = 0x2b#6 then parse2B w else
  if majorOf w = 0x2c#6 then parse2C w else
  if majorOf w = 0x2d#6 then parse2D w else
  if majorOf w = 0x30#6 then parse30 w else
  if majorOf w = 0x31#6 then parse31 w else
  if majorOf w = 0x32#6 then parse32 w else
  if majorOf w = 0x33#6 then parse33 w else
  if majorOf w = 0x34#6 then parse34 w else
  if majorOf w = 0x35#6 then parse35 w else
  if majorOf w = 0x36#6 then parse36 w else
  if majorOf w = 0x38#6 then parse38 w else
  if majorOf w = 0x39#6 then parse39 w else
  if majorOf w = 0x3a#6 then parse3A w else
  if majorOf w = 0x3b#6 then parse3B w else
  if majorOf w = 0x3c#6 then parse3C w else
  if majorOf w = 0x3d#6 then parse3D w else
  .error .major

/-- The word of an instruction (R204, R226 to R337); none for an event. -/
def encode : Instr → Option Word
  | .sadd d a b => some (1#6 ++ d ++ a ++ b ++ 0#8)
  | .ssub d a b => some (1#6 ++ d ++ a ++ b ++ 1#8)
  | .sand d a b => some (1#6 ++ d ++ a ++ b ++ 2#8)
  | .sor d a b => some (1#6 ++ d ++ a ++ b ++ 3#8)
  | .sxor d a b => some (1#6 ++ d ++ a ++ b ++ 4#8)
  | .sandn d a b => some (1#6 ++ d ++ a ++ b ++ 5#8)
  | .sshl d a b => some (1#6 ++ d ++ a ++ b ++ 6#8)
  | .sshr d a b => some (1#6 ++ d ++ a ++ b ++ 7#8)
  | .ssar d a b => some (1#6 ++ d ++ a ++ b ++ 8#8)
  | .smul d a b => some (1#6 ++ d ++ a ++ b ++ 9#8)
  | .smulhs d a b => some (1#6 ++ d ++ a ++ b ++ 10#8)
  | .smulhu d a b => some (1#6 ++ d ++ a ++ b ++ 11#8)
  | .smin d a b => some (1#6 ++ d ++ a ++ b ++ 12#8)
  | .smax d a b => some (1#6 ++ d ++ a ++ b ++ 13#8)
  | .sminu d a b => some (1#6 ++ d ++ a ++ b ++ 14#8)
  | .smaxu d a b => some (1#6 ++ d ++ a ++ b ++ 15#8)
  | .sslt d a b => some (1#6 ++ d ++ a ++ b ++ 16#8)
  | .ssltu d a b => some (1#6 ++ d ++ a ++ b ++ 17#8)
  | .sseq d a b => some (1#6 ++ d ++ a ++ b ++ 18#8)
  | .sclz d a => some (1#6 ++ d ++ a ++ 19#14)
  | .spopc d a => some (1#6 ++ d ++ a ++ 20#14)
  | .ssext8 d a => some (1#6 ++ d ++ a ++ 21#14)
  | .ssext16 d a => some (1#6 ++ d ++ a ++ 22#14)
  | .sadd64 d a b => some (1#6 ++ d ++ a ++ b ++ 32#8)
  | .ssub64 d a b => some (1#6 ++ d ++ a ++ b ++ 33#8)
  | .saddi d a i => some (2#6 ++ d ++ a ++ i)
  | .sandi d a i => some (3#6 ++ d ++ a ++ i)
  | .sori d a i => some (4#6 ++ d ++ a ++ i)
  | .sxori d a i => some (5#6 ++ d ++ a ++ i)
  | .sld d a i => some (6#6 ++ d ++ a ++ i)
  | .slui d i => some (7#6 ++ d ++ i)
  | .sst d a i => some (14#6 ++ d ++ a ++ i)
  | .bz c o => some (8#6 ++ 0#4 ++ c ++ o)
  | .bnz c o => some (8#6 ++ 1#4 ++ c ++ o)
  | .bltz c o => some (8#6 ++ 2#4 ++ c ++ o)
  | .bgez c o => some (8#6 ++ 3#4 ++ c ++ o)
  | .bgtz c o => some (8#6 ++ 4#4 ++ c ++ o)
  | .blez c o => some (8#6 ++ 5#4 ++ c ++ o)
  | .bany c o => some (9#6 ++ 0#4 ++ c ++ o)
  | .ball c o => some (9#6 ++ 1#4 ++ c ++ o)
  | .bnone c o => some (9#6 ++ 2#4 ++ c ++ o)
  | .split c o => some (10#6 ++ 0#4 ++ c ++ o)
  | .elseW o => some (10#6 ++ 64#10 ++ o)
  | .merge => some (10#6 ++ 8388608#26)
  | .breakv c o => some (10#6 ++ 3#4 ++ c ++ o)
  | .breakvOpen o => some (10#6 ++ 255#10 ++ o)
  | .contv c o => some (10#6 ++ 4#4 ++ c ++ o)
  | .branch o => some (11#6 ++ 0#10 ++ o)
  | .call c o => some (11#6 ++ 1#4 ++ c ++ o)
  | .nop => some (12#6 ++ 0#26)
  | .ret a => some (12#6 ++ 1#10 ++ a ++ 0#10)
  | .exitW => some (12#6 ++ 131072#26)
  | .exitv a => some (12#6 ++ 3#10 ++ a ++ 0#10)
  | .waitW mask => some (12#6 ++ 4#10 ++ mask ++ 0#4)
  | .setmode a sel => some (12#6 ++ 5#10 ++ a ++ 0#6 ++ modeSelCode sel)
  | .setmodeM a b sel => some (12#6 ++ 6#10 ++ a ++ b ++ modeSelCode sel)
  | .getmode a sel => some (12#6 ++ 7#10 ++ a ++ 0#6 ++ modeSelCode sel)
  | .trapW n => some (12#6 ++ 32768#22 ++ n)
  | .sleep a => some (12#6 ++ 9#10 ++ a ++ 0#10)
  | .mand d a b => some (13#6 ++ d ++ a ++ b ++ 0#8)
  | .mor d a b => some (13#6 ++ d ++ a ++ b ++ 1#8)
  | .mxor d a b => some (13#6 ++ d ++ a ++ b ++ 2#8)
  | .mandn d a b => some (13#6 ++ d ++ a ++ b ++ 3#8)
  | .mnot d a => some (13#6 ++ d ++ a ++ 4#14)
  | .mset d => some (13#6 ++ d ++ 5#20)
  | .mclr d => some (13#6 ++ d ++ 6#20)
  | .mcnt d a => some (13#6 ++ d ++ a ++ 7#14)
  | .mfirst d a => some (13#6 ++ d ++ a ++ 8#14)
  | .mlane d a => some (13#6 ++ d ++ a ++ 9#14)
  | .sysr a num => some (63#6 ++ 0#10 ++ a ++ num)
  | .sysw a num => some (63#6 ++ 1#10 ++ a ++ num)
  | .eret => some (63#6 ++ 131072#26)
  | .cacheopInvx a => some (63#6 ++ 3#10 ++ a ++ 0#10)
  | .cacheopWb a => some (63#6 ++ 3#10 ++ a ++ 1#10)
  | .cacheopWbinv a => some (63#6 ++ 3#10 ++ a ++ 2#10)
  | .dbgbrk n => some (63#6 ++ 16384#22 ++ n)
  | .keywipeAll => some (63#6 ++ 327680#26)
  | .keywipeContext => some (63#6 ++ 327681#26)
  | .halt => some (63#6 ++ 393216#26)
  | .iadd d a b => some (16#6 ++ 0#2 ++ d ++ a ++ b)
  | .isub d a b => some (16#6 ++ 1#2 ++ d ++ a ++ b)
  | .imul d a b => some (16#6 ++ 2#2 ++ d ++ a ++ b)
  | .imulh d a b => some (16#6 ++ 3#2 ++ d ++ a ++ b)
  | .imad d a b => some (17#6 ++ 0#2 ++ d ++ a ++ b)
  | .imin d a b => some (17#6 ++ 1#2 ++ d ++ a ++ b)
  | .imax d a b => some (17#6 ++ 2#2 ++ d ++ a ++ b)
  | .iabsd d a b => some (17#6 ++ 3#2 ++ d ++ a ++ b)
  | .vand d a b => some (18#6 ++ 0#2 ++ d ++ a ++ b)
  | .vor d a b => some (18#6 ++ 1#2 ++ d ++ a ++ b)
  | .vxor d a b => some (18#6 ++ 2#2 ++ d ++ a ++ b)
  | .vandn d a b => some (18#6 ++ 3#2 ++ d ++ a ++ b)
  | .shl d a b => some (19#6 ++ 0#2 ++ d ++ a ++ b)
  | .shr d a b => some (19#6 ++ 1#2 ++ d ++ a ++ b)
  | .sar d a b => some (19#6 ++ 2#2 ++ d ++ a ++ b)
  | .irot d a b => some (19#6 ++ 3#2 ++ d ++ a ++ b)
  | .idp d a b => some (20#6 ++ 0#2 ++ d ++ a ++ b)
  | .icmp o c k a b => some (28#6 ++ cmpCombCode o ++ icmpCcCode c ++ k ++ a ++ b)
  | .fcmp o c k a b => some (29#6 ++ cmpCombCode o ++ fcmpCcCode c ++ k ++ a ++ b)
  | .fadd d a b => some (30#6 ++ 0#2 ++ d ++ a ++ b)
  | .fsub d a b => some (30#6 ++ 1#2 ++ d ++ a ++ b)
  | .fmul d a b => some (30#6 ++ 2#2 ++ d ++ a ++ b)
  | .fmin d a b => some (30#6 ++ 3#2 ++ d ++ a ++ b)
  | .fmax d a b => some (31#6 ++ 0#2 ++ d ++ a ++ b)
  | .fminp d a b => some (31#6 ++ 1#2 ++ d ++ a ++ b)
  | .fmaxp d a b => some (31#6 ++ 2#2 ++ d ++ a ++ b)
  | .ffma d a b => some (32#6 ++ 0#2 ++ d ++ a ++ b)
  | .ffms d a b => some (32#6 ++ 1#2 ++ d ++ a ++ b)
  | .ffnma d a b => some (32#6 ++ 2#2 ++ d ++ a ++ b)
  | .ffnms d a b => some (32#6 ++ 3#2 ++ d ++ a ++ b)
  | .fdp2 d a b => some (33#6 ++ 0#2 ++ d ++ a ++ b)
  | .ineg d a => some (40#6 ++ 0#2 ++ d ++ 0#8 ++ a)
  | .iabs d a => some (40#6 ++ 0#2 ++ d ++ 1#8 ++ a)
  | .vnot d a => some (40#6 ++ 0#2 ++ d ++ 2#8 ++ a)
  | .popc d a => some (40#6 ++ 0#2 ++ d ++ 3#8 ++ a)
  | .clz d a => some (40#6 ++ 0#2 ++ d ++ 4#8 ++ a)
  | .brev d a => some (40#6 ++ 0#2 ++ d ++ 5#8 ++ a)
  | .fneg d a => some (40#6 ++ 1#2 ++ d ++ 0#8 ++ a)
  | .fabs d a => some (40#6 ++ 1#2 ++ d ++ 1#8 ++ a)
  | .ffloor d a => some (40#6 ++ 1#2 ++ d ++ 2#8 ++ a)
  | .fceil d a => some (40#6 ++ 1#2 ++ d ++ 3#8 ++ a)
  | .ftrunc d a => some (40#6 ++ 1#2 ++ d ++ 4#8 ++ a)
  | .frnd d a => some (40#6 ++ 1#2 ++ d ++ 5#8 ++ a)
  | .cvt d p t a => some (40#6 ++ 2#2 ++ d ++ p ++ eTypeCode t ++ a)
  | .vsplat d a => some (41#6 ++ 0#2 ++ d ++ 0#10 ++ a)
  | .vlaneid d => some (41#6 ++ 0#2 ++ d ++ 256#16)
  | .vmask d a => some (41#6 ++ 0#2 ++ d ++ 2#8 ++ a)
  | .vperm d a i => some (42#6 ++ 0#2 ++ d ++ a ++ i)
  | .vbcst d a i => some (42#6 ++ 1#2 ++ d ++ a ++ i)
  | .vshf d a i => some (42#6 ++ 2#2 ++ d ++ a ++ i)
  | .vbfly d a i => some (42#6 ++ 3#2 ++ d ++ a ++ i)
  | .mov d a => some (43#6 ++ 0#2 ++ d ++ a ++ 0#8)
  | .sel d a b => some (43#6 ++ 1#2 ++ d ++ a ++ b)
  | .vrdl d a b => some (43#6 ++ 8#4 ++ d ++ a ++ 0#2 ++ b)
  | .vwrl d a b => some (43#6 ++ 3#2 ++ d ++ 0#2 ++ a ++ 0#2 ++ b)
  | .idiv d a b fl la => some (44#6 ++ 0#4 ++ d ++ a ++ b ++ fl ++ la)
  | .irem d a b fl la => some (44#6 ++ 1#4 ++ d ++ a ++ b ++ fl ++ la)
  | .fdiv d a b fl la => some (44#6 ++ 2#4 ++ d ++ a ++ b ++ fl ++ la)
  | .fsqrt d a fl la => some (44#6 ++ 3#4 ++ d ++ a ++ 0#3 ++ fl ++ la)
  | .frcp d a fl la => some (44#6 ++ 4#4 ++ d ++ a ++ 0#3 ++ fl ++ la)
  | .frsq d a fl la => some (44#6 ++ 5#4 ++ d ++ a ++ 0#3 ++ fl ++ la)
  | .fexp2 d a fl la => some (45#6 ++ 0#4 ++ d ++ a ++ 0#3 ++ fl ++ la)
  | .flog2 d a fl la => some (45#6 ++ 1#4 ++ d ++ a ++ 0#3 ++ fl ++ la)
  | .fsinpi d a fl la => some (45#6 ++ 2#4 ++ d ++ a ++ 0#3 ++ fl ++ la)
  | .fcospi d a fl la => some (45#6 ++ 3#4 ++ d ++ a ++ 0#3 ++ fl ++ la)
  | .ftanh d a fl la => some (45#6 ++ 4#4 ++ d ++ a ++ 0#3 ++ fl ++ la)
  | .rsum d a fl la => some (45#6 ++ 8#4 ++ d ++ a ++ 0#3 ++ fl ++ la)
  | .rmin d a fl la => some (45#6 ++ 9#4 ++ d ++ a ++ 0#3 ++ fl ++ la)
  | .rmax d a fl la => some (45#6 ++ 10#4 ++ d ++ a ++ 0#3 ++ fl ++ la)
  | .rand d a fl la => some (45#6 ++ 11#4 ++ d ++ a ++ 0#3 ++ fl ++ la)
  | .ror d a fl la => some (45#6 ++ 12#4 ++ d ++ a ++ 0#3 ++ fl ++ la)
  | .rxor d a fl la => some (45#6 ++ 13#4 ++ d ++ a ++ 0#3 ++ fl ++ la)
  | .ld8u d w tx fl la => some (48#6 ++ 0#4 ++ d ++ w ++ tx ++ fl ++ la)
  | .ld8s d w tx fl la => some (48#6 ++ 1#4 ++ d ++ w ++ tx ++ fl ++ la)
  | .ld16u d w tx fl la => some (48#6 ++ 2#4 ++ d ++ w ++ tx ++ fl ++ la)
  | .ld16s d w tx fl la => some (48#6 ++ 3#4 ++ d ++ w ++ tx ++ fl ++ la)
  | .ld32 d w tx fl la => some (48#6 ++ 4#4 ++ d ++ w ++ tx ++ fl ++ la)
  | .ld64 d w tx fl la => some (48#6 ++ 5#4 ++ d ++ w ++ tx ++ fl ++ la)
  | .ld128 d w tx fl la => some (48#6 ++ 6#4 ++ d ++ w ++ tx ++ fl ++ la)
  | .ld8uAcq d w tx fl la => some (49#6 ++ 0#4 ++ d ++ w ++ tx ++ fl ++ la)
  | .ld8sAcq d w tx fl la => some (49#6 ++ 1#4 ++ d ++ w ++ tx ++ fl ++ la)
  | .ld16uAcq d w tx fl la => some (49#6 ++ 2#4 ++ d ++ w ++ tx ++ fl ++ la)
  | .ld16sAcq d w tx fl la => some (49#6 ++ 3#4 ++ d ++ w ++ tx ++ fl ++ la)
  | .ld32Acq d w tx fl la => some (49#6 ++ 4#4 ++ d ++ w ++ tx ++ fl ++ la)
  | .ld64Acq d w tx fl la => some (49#6 ++ 5#4 ++ d ++ w ++ tx ++ fl ++ la)
  | .ld128Acq d w tx fl la => some (49#6 ++ 6#4 ++ d ++ w ++ tx ++ fl ++ la)
  | .st8 d w tx fl la => some (50#6 ++ 0#4 ++ d ++ w ++ tx ++ fl ++ la)
  | .st16 d w tx fl la => some (50#6 ++ 2#4 ++ d ++ w ++ tx ++ fl ++ la)
  | .st32 d w tx fl la => some (50#6 ++ 4#4 ++ d ++ w ++ tx ++ fl ++ la)
  | .st64 d w tx fl la => some (50#6 ++ 5#4 ++ d ++ w ++ tx ++ fl ++ la)
  | .st128 d w tx fl la => some (50#6 ++ 6#4 ++ d ++ w ++ tx ++ fl ++ la)
  | .st8Rel d w tx fl la => some (51#6 ++ 0#4 ++ d ++ w ++ tx ++ fl ++ la)
  | .st16Rel d w tx fl la => some (51#6 ++ 2#4 ++ d ++ w ++ tx ++ fl ++ la)
  | .st32Rel d w tx fl la => some (51#6 ++ 4#4 ++ d ++ w ++ tx ++ fl ++ la)
  | .st64Rel d w tx fl la => some (51#6 ++ 5#4 ++ d ++ w ++ tx ++ fl ++ la)
  | .st128Rel d w tx fl la => some (51#6 ++ 6#4 ++ d ++ w ++ tx ++ fl ++ la)
  | .atomAdd d w tx fl la => some (52#6 ++ 0#4 ++ d ++ w ++ tx ++ fl ++ la)
  | .atomAnd d w tx fl la => some (52#6 ++ 1#4 ++ d ++ w ++ tx ++ fl ++ la)
  | .atomOr d w tx fl la => some (52#6 ++ 2#4 ++ d ++ w ++ tx ++ fl ++ la)
  | .atomXor d w tx fl la => some (52#6 ++ 3#4 ++ d ++ w ++ tx ++ fl ++ la)
  | .atomMin d w tx fl la => some (52#6 ++ 4#4 ++ d ++ w ++ tx ++ fl ++ la)
  | .atomMax d w tx fl la => some (52#6 ++ 5#4 ++ d ++ w ++ tx ++ fl ++ la)
  | .atomMinu d w tx fl la => some (52#6 ++ 6#4 ++ d ++ w ++ tx ++ fl ++ la)
  | .atomMaxu d w tx fl la => some (52#6 ++ 7#4 ++ d ++ w ++ tx ++ fl ++ la)
  | .atomSwap d w tx fl la => some (52#6 ++ 8#4 ++ d ++ w ++ tx ++ fl ++ la)
  | .atomCas d w tx fl la => some (52#6 ++ 9#4 ++ d ++ w ++ tx ++ fl ++ la)
  | .atomFadd d w tx fl la => some (52#6 ++ 10#4 ++ d ++ w ++ tx ++ fl ++ la)
  | .atomAdd64 d w tx fl la => some (52#6 ++ 11#4 ++ d ++ w ++ tx ++ fl ++ la)
  | .atomSwap64 d w tx fl la => some (52#6 ++ 12#4 ++ d ++ w ++ tx ++ fl ++ la)
  | .atomCas64 d w tx fl la => some (52#6 ++ 13#4 ++ d ++ w ++ tx ++ fl ++ la)
  | .atomInc d w tx fl la => some (52#6 ++ 14#4 ++ d ++ w ++ tx ++ fl ++ la)
  | .atomArAdd o d w tx fl la => some (53#6 ++ atomOrdCode o ++ 0#2 ++ d ++ w ++ tx ++ fl ++ la)
  | .atomArSwap o d w tx fl la => some (53#6 ++ atomOrdCode o ++ 1#2 ++ d ++ w ++ tx ++ fl ++ la)
  | .atomArCas o d w tx fl la => some (53#6 ++ atomOrdCode o ++ 2#2 ++ d ++ w ++ tx ++ fl ++ la)
  | .atomArCas64 o d w tx fl la => some (53#6 ++ atomOrdCode o ++ 3#2 ++ d ++ w ++ tx ++ fl ++ la)
  | .mcst a fl la => some (54#6 ++ 0#4 ++ a ++ 0#8 ++ fl ++ la)
  | .redst a o fl la => some (54#6 ++ 1#4 ++ a ++ 0#6 ++ redOpCode o ++ fl ++ la)
  | .bulkrd a b fl la => some (56#6 ++ 0#4 ++ a ++ b ++ 0#2 ++ fl ++ la)
  | .copy a b fl la => some (57#6 ++ 0#4 ++ a ++ b ++ 0#2 ++ fl ++ la)
  | .copymc a b fl la => some (57#6 ++ 1#4 ++ a ++ b ++ 0#2 ++ fl ++ la)
  | .nmopFill a fl la => some (58#6 ++ 0#4 ++ a ++ 0#8 ++ fl ++ la)
  | .nmopCopy a fl la => some (58#6 ++ 1#4 ++ a ++ 0#8 ++ fl ++ la)
  | .nmopCmp a fl la => some (58#6 ++ 2#4 ++ a ++ 0#8 ++ fl ++ la)
  | .nmopRed a o fl la => some (58#6 ++ 3#4 ++ a ++ 0#6 ++ redOpCode o ++ fl ++ la)
  | .xlat a n => some (59#6 ++ 0#10 ++ a ++ 0#6 ++ txNCode n)
  | .layreg a d => some (59#6 ++ 1#10 ++ a ++ d ++ 0#4)
  | .layrel a => some (59#6 ++ 2#10 ++ a ++ 0#10)
  | .publ a b => some (59#6 ++ 3#10 ++ a ++ b ++ 0#4)
  | .fenceAcq sc => some (60#6 ++ 0#22 ++ scopeCode sc)
  | .fenceRel sc => some (60#6 ++ 4096#22 ++ scopeCode sc)
  | .fenceAr sc => some (60#6 ++ 8192#22 ++ scopeCode sc)
  | .fenceSc sc => some (60#6 ++ 12288#22 ++ scopeCode sc)
  | .bar a d n => some (60#6 ++ 16#10 ++ a ++ d ++ bar4Code n)
  | .barr a n => some (60#6 ++ 17#10 ++ a ++ 0#6 ++ bar4Code n)
  | .gjoin a d g => some (60#6 ++ 32#10 ++ a ++ d ++ gScopeCode g)
  | .gleave => some (60#6 ++ 2162688#26)
  | .ginfo d s => some (60#6 ++ 2176#16 ++ d ++ ginfoSelCode s)
  | .waita a d c => some (60#6 ++ 48#10 ++ a ++ d ++ waitCondCode c)
  | .mwait a d => some (60#6 ++ 49#10 ++ a ++ d ++ 0#4)
  | .dist a d => some (60#6 ++ 64#10 ++ a ++ d ++ 0#4)
  | .lnch a d => some (60#6 ++ 80#10 ++ a ++ d ++ 0#4)
  | .msetm a fl la => some (61#6 ++ 0#9 ++ a ++ 0#3 ++ fl ++ la)
  | .mcb k a fl la => some (61#6 ++ 2#6 ++ k ++ a ++ 0#3 ++ fl ++ la)
  | .mld a p fl la => some (61#6 ++ 32#9 ++ a ++ p ++ 0#1 ++ fl ++ la)
  | .mldsw a p fl la => some (61#6 ++ 48#9 ++ a ++ p ++ 0#1 ++ fl ++ la)
  | .mldsa a p fl la => some (61#6 ++ 64#9 ++ a ++ p ++ 0#1 ++ fl ++ la)
  | .mldc c a p fl la => some (61#6 ++ 5#5 ++ c ++ a ++ p ++ 0#1 ++ fl ++ la)
  | .mstc c a p fl la => some (61#6 ++ 6#5 ++ c ++ a ++ p ++ 0#1 ++ fl ++ la)
  | .mzero c fl la => some (61#6 ++ 7#5 ++ c ++ 0#9 ++ fl ++ la)
  | .mstr c a fl la => some (61#6 ++ 8#5 ++ c ++ a ++ 0#3 ++ fl ++ la)
  | .mstrs c a fl la => some (61#6 ++ 9#5 ++ c ++ a ++ 0#3 ++ fl ++ la)
  | .mstrx c a fl la => some (61#6 ++ 10#5 ++ c ++ a ++ 0#3 ++ fl ++ la)
  | .mrdc c a fl la => some (61#6 ++ 11#5 ++ c ++ a ++ 0#3 ++ fl ++ la)
  | .mwrc c a fl la => some (61#6 ++ 12#5 ++ c ++ a ++ 0#3 ++ fl ++ la)
  | .msync fl la => some (61#6 ++ 106496#18 ++ fl ++ la)
  | .vlCompletion _ _ => none
  | .migrationWaitRetry _ => none
  | .loadCompletion _ _ => none
  | .atomicCompletion _ _ _ => none
  | .collectiveCompletion _ _ => none
  | .engineBurstIssue _ _ => none
  | .burstReturn _ _ _ => none
  | .lastBurstEvent _ _ => none
  | .handlerDrainLimit _ => none
  | .nmopPiece _ => none
  | .nmopCompletion _ _ => none
  | .groupEventArrival _ => none
  | .waitaReread _ => none
  | .waitaTimeout _ => none
  | .monitorWake _ _ => none
  | .mwaitTimeout _ => none
  | .sleepExpiry _ => none
  | .tileTaskStart _ _ => none
  | .tileTaskCompletion _ _ => none
  | .rdreq _ => none
  | .wrreq _ => none
  | .tok _ => none
  | .trumpreq _ => none
  | .act _ => none
  | .deact _ => none
  | .gathered _ => none
  | .release _ => none
  | .coherenceAck _ => none
  | .census _ => none
  | .report _ => none
  | .late _ => none
  | .rebuild _ => none
  | .wakepend _ => none
  | .holdreply _ => none
  | .reissueTimerExpiry _ _ => none
  | .censusTimeExpiry _ => none
  | .settleTimeExpiry _ => none
  | .wakeBudgetExpiry _ _ => none
  | .linkResponseTimeout _ _ => none
  | .dieAdmission _ => none
  | .messageBufferTimeout _ => none
  | .flitCrcFailure _ => none
  | .laneSparing _ _ => none
  | .linkTeardown _ _ => none
  | .translationInvalidation _ _ => none
  | .invalidationAck _ _ => none
  | .driverInvalidation _ _ _ => none
  | .wcAgeDrain _ _ => none
  | .wcDrainAck _ _ => none
  | .commitWindowClose _ => none
  | .strikeReport _ _ => none
  | .waveSwap _ => none
  | .trapEntry _ => none
  | .faultLogAppend _ => none
  | .waveKill _ _ => none
  | .preemptionRaise _ _ _ => none
  | .preemptTrap _ => none
  | .blockFree _ => none
  | .blockResumption _ _ _ _ => none
  | .blockRetirement _ => none
  | .retirementMessage _ => none
  | .launchEnd _ => none
  | .qptrDoorbell _ _ _ => none
  | .recordTake _ _ => none
  | .dependenceReread _ _ => none
  | .priorityAging _ _ => none
  | .blockPlacement _ _ _ _ => none
  | .ctxActivate _ _ => none
  | .ctxUpdate _ _ => none
  | .ctxRetire _ _ => none
  | .ldrLoad _ => none
  | .ldrUnload _ _ => none
  | .migcmdMove _ _ => none
  | .migrationSectorMoved _ => none
  | .hotctlEnable _ _ => none
  | .hotnessIntervalEnd _ => none
  | .cohctlPclr _ => none
  | .biasFlipToHost _ _ => none
  | .biasFlipToDevice _ _ => none
  | .cxlMemrd _ _ _ _ => none
  | .cxlMemwr _ _ _ _ => none
  | .birsp _ _ => none
  | .hostLinkDown _ _ => none
  | .removalNotice _ _ => none
  | .multicastFlit _ _ => none
  | .multicastCreditReturn _ _ => none
  | .syncExchange _ _ _ => none
  | .podExchange _ _ _ => none
  | .holdoverTimeout _ => none
  | .grandmasterFailover _ => none
  | .podJoin _ _ => none
  | .coreFrequencyChange _ _ => none
  | .coreClockStop _ => none
  | .uncoreGate _ => none
  | .uncoreWake _ => none
  | .dieOff _ => none
  | .dieReturn _ => none
  | .packageD3cold _ => none
  | .thermalThrottle _ _ => none
  | .thermalStop _ => none
  | .thermalRestart _ => none
  | .packageReset _ => none
  | .patrolScrub _ => none
  | .alarm _ _ => none
  | .firmwareVerify _ _ _ _ => none
  | .firmwareUpdate _ _ _ => none
  | .getMeasurements _ _ => none
  | .lifecycleTransition _ _ _ _ => none
  | .debugUnlock _ _ => none
  | .tenantKeySetup _ _ _ => none
  | .debugStopRequest _ _ => none
  | .debugResume _ _ => none
  | .debugRegisterAccess _ _ _ => none
  | .debugHoldRelease _ => none
  | .laneFocusEnter _ _ => none
  | .laneFocusStep _ => none
  | .laneFocusLeave _ => none
  | .tracePageSeal _ _ => none
  | .registerWrite _ _ => none
  | .tableWalkCompletion _ _ => none
  | .scalarLoadReturn _ => none
  | .storeAcknowledgement _ _ => none
  | .transferUnitReturn _ _ _ => none
  | .writebackRequest _ => none
  | .reshuffleDataRequest _ => none
  | .linkRetrainDone _ _ => none
  | .coreClockRestart _ => none
  | .hostLinkUp _ _ => none

/-- The instruction that the decoder reads from a word given as the opcode table numbers its bits; the
bits above nbits are zero. -/
def decodeTableWord (nbits w : Nat) : Option Instr :=
  match decode (BitVec.ofNat 32 (w % 2 ^ nbits)) with
  | .ok i => some i
  | .error _ => none

/-- The word of four little-endian bytes (R203). -/
def wordOfBytes (b0 b1 b2 b3 : Byte) : Word := b3 ++ b2 ++ b1 ++ b0

/-- The instruction at the head of a byte string and the bytes after it; a string shorter than a word
has none. -/
def decodeBytes : List Byte → Option (Except Reject Instr × List Byte)
  | b0 :: b1 :: b2 :: b3 :: bs => some (decode (wordOfBytes b0 b1 b2 b3), bs)
  | _ => none

end Sys2Proof
end

