-- ==== Sys2Proof/Machine/Matrix.lean ====
section
/-! DEFINITION. The arithmetic of the matrix engines: formats, exact passes, conversions and MX blocks (R190 to R192,
R202, R315, R324, R327, R331, R332). -/

namespace Sys2Proof.Machine

/-- Fields of MMODE (R184). -/
def mmKslot (m : Word) : Nat := bits m.toNat 11 9
def mmAscl (m : Word) : Nat := bits m.toNat 7 6
def mmWscl (m : Word) : Nat := bits m.toNat 5 4
def mmSparse (m : Word) : Bool := m.getLsbD 1

/-- The float type of a format code; none for CB4 and the integer formats (R184). -/
def mmFloat (f : Nat) : Option EType :=
  match f with
  | 0 => some .bf16 | 1 => some .fp16 | 2 => some .e4m3 | 3 => some .e5m2 | 4 => some .e2m1 | _ => none
/-- Element width of a format code (R315). -/
def mmWidth (f : Nat) : Nat := if f ≤ 1 then 16 else if f = 4 ∨ f = 5 then 4 else 8
/-- The value of an element; a CB4 index is looked up in a codebook slot (R191 to R193). -/
def mmElem (f : Nat) (cb : BitVec 256) (x : Nat) : FVal :=
  match mmFloat f with
  | some t => fdec t false x
  | none =>
    if f = 5 then fdec .bf16 false (cb.extractLsb' (16 * x) 16).toNat
    else
      let v := intOf (f == 6) 8 x
      .fin (v < 0) v.natAbs 0
/-- The value of an E8M0 scale (R192). -/
def mmScale (x : Nat) : FVal := if x = 255 then .nan false else .fin false 1 ((x : Int) - 127)
/-- Element j of a row of width w. -/
def rowElem (w : Nat) (r : Nat) (j : Nat) : Nat := r / 2 ^ (w * j) % 2 ^ w
/-- Byte j of a scale row. -/
def scaleAt (on : Bool) (r : BitVec 512) (j : Nat) : FVal :=
  if on then mmScale (r.extractLsb' (8 * j) 8).toNat else .fin false 1 0
/-- An exact sum rounded to FP32 (R202). -/
def exactSum (xs : List FVal) : Nat := (finish .fp32 ⟨0, false, false, 0⟩ (sumVal (allZero true xs) xs)).1
/-- An exact product. -/
def prodVal (x y : FVal) : FVal := (mulVal x y).1

/-- What one pass works with: MMODE, the plane, the codebook slot, and for a row its activations and skipped K-slices. -/
structure PassArgs where
  mm : Word
  plane : Plane
  cb : BitVec 256
  deriving DecidableEq, Repr
/-- Weight (k, n) of the plane. -/
def PassArgs.weight (p : PassArgs) (k n : Nat) : FVal :=
  let f := mmWfmt p.mm
  mmElem f p.cb (rowElem (mmWidth f) (p.plane.rows.toArray.getD k 0).toNat n)
/-- New element n of a row with accumulator `acc`, activations `row` and unskipped K-slices (R202, R327). -/
def PassArgs.element (p : PassArgs) (m : Nat) (row : Nat) (live : Nat → Bool) (acc n : Nat) : Nat :=
  let f := mmAfmt p.mm
  let a := fun j => mmElem f 0 (rowElem (mmWidth f) row j)
  let js := (List.range 32).filter fun j => live (j / 8)
  let old := fdec .fp32 false acc
  if mmCplx p.mm then
    let q := n / 2
    let terms := ((List.range 16).filter fun k => live (2 * k / 8)).flatMap fun k =>
      let ar := a (2 * k)
      let ai := a (2 * k + 1)
      let br := p.weight k (2 * q)
      let bi := p.weight k (2 * q + 1)
      if n % 2 = 0 then [prodVal ar br, negVal (prodVal ai bi)] else [prodVal ar bi, prodVal ai br]
    exactSum (old :: terms)
  else
    let sa := scaleAt (mmAscl p.mm == 1) p.plane.as m
    let sw := scaleAt (mmWscl p.mm == 1) p.plane.ws n
    exactSum (old :: js.map fun j => prodVal (prodVal (a j) sa) (prodVal (p.weight j n) sw))

/-- A tile element converted into a float format under RNE: an infinity stays one in FP32, FP16 and BF16 and takes the
largest finite value elsewhere (R324, R331). -/
def tileCvt (t : EType) (v : FVal) : Nat :=
  match v with
  | .nan _ => nanBits t
  | .inf n => if t = .fp32 ∨ t = .fp16 ∨ t = .bf16 then infBits t n else maxBits t n
  | .fin n m e => (roundF t ⟨0, true, false, 0⟩ n m e).1
/-- The same into INT8 (R331). -/
def tileInt8 (v : FVal) : Nat :=
  match v with
  | .nan _ => 0
  | .inf n => if n then 128 else 127
  | .fin n m e =>
    let r := (roundAt 0 0 n m e 0).1
    let x : Int := if n then -(r : Int) else r
    wrapN 8 (if x < -128 then -128 else if 127 < x then 127 else x)
/-- A value times a power of two. -/
def scaleVal (v : FVal) (k : Int) : FVal :=
  match v with
  | .fin n m e => .fin n m (e + k)
  | v => v
/-- The float type of an output format; none for INT8 (R330). -/
def outFloat (o : Nat) : Option EType :=
  match o with
  | 0 => some .fp32 | 1 => some .fp16 | 2 => some .bf16 | 3 => some .e4m3 | 4 => some .e5m2 | 5 => some .e2m1 | _ => none
/-- Element width of an output format (R330). -/
def outWidth (o : Nat) : Nat := if o = 0 then 32 else if o ≤ 2 then 16 else if o = 5 then 4 else 8
/-- A converted element (R331). -/
def outElem (o : Nat) (v : FVal) : Nat :=
  match outFloat o with
  | some t => tileCvt t v
  | none => tileInt8 v
/-- A row of elements of width w as a number. -/
def packRow (w : Nat) (xs : List Nat) : Nat := xs.foldr (fun x acc => x + 2 ^ w * acc) 0
/-- emax of an MX format (R332). -/
def mxEmax (o : Nat) : Int := if o = 3 then 8 else if o = 4 then 15 else 2
/-- floor(log2 |v|) of a nonzero finite value. -/
def mxTop (v : FVal) : Int :=
  match v with
  | .fin _ m e => e + Nat.log2 m
  | _ => 0
/-- A value is zero. -/
def isZeroVal (v : FVal) : Bool := (zeroSign v).isSome
/-- A value is finite. -/
def isFin : FVal → Bool
  | .fin _ _ _ => true
  | _ => false
/-- The scale and the elements of an MX block (R332). -/
def mxBlock (o : Nat) (b : List FVal) : Nat × List Nat :=
  if !b.all isFin then (255, b.map fun _ => 0)
  else match (b.filter fun v => !isZeroVal v).map mxTop with
    | [] => (0, b.map fun _ => 0)
    | t :: ts =>
      let x := ts.foldl max t - mxEmax o + 127
      let x : Nat := if x < 0 then 0 else Nat.min 254 x.toNat
      (x, b.map fun v => outElem o (scaleVal v (127 - x)))

end Sys2Proof.Machine
end

