-- ==== Sys2Proof/Machine/Memory.lean ====
section
/-! DEFINITION. The vector and scalar memory instructions (R228, R229, R282 to R291), and the events that perform
them: loads returning, commit windows closing, stores acknowledged, atomics completing, drains. -/

namespace Sys2Proof.Machine

/-- The value of a lane's data registers, low word first (R283). -/
def laneData (a : WaveArch) (d n l : Nat) : Nat :=
  (List.range n).foldl (fun x k => x + (laneOf (regLanes a (d + k)) l).toNat * 2 ^ (32 * k)) 0
/-- What an MV instruction does and needs: its access size, data registers read from `src` on, whether it writes,
its order, and for an atomic where the compare value stands. -/
structure MvSpec where
  sz : Nat
  /-- Registers read as data, and as the compare value behind them. -/
  nsrc : Nat
  ncmp : Nat
  /-- Registers written at completion. -/
  ndst : Nat
  need : BitVec 3
  kind : OpKind
  order : Order
  deriving DecidableEq, Repr
/-- The operation of an MV instruction, accepted with its sources read for every lane (R209, R210, R284, R286, R291). -/
def mvOpOf (s : State) (m : MvSpec) (d : VSel) (fl : FlagN) (la : LaN) (ls : List (Nat × BitVec 64 × Target))
    (sampled : Bool) (replays : Nat) : Op :=
  let a := s.cur.a
  let acc := ls.flatMap fun (l, ad, t) => splitAcc
    { lane := l, tgt := t, oaddr := ad, sz := m.sz, val := laneData a d.toNat m.nsrc l
      cmp := laneData a (d.toNat + m.nsrc) m.ncmp l : LaneAcc }
  { newOp s m.kind fl la with
    acc := acc, dst := d, nreg := m.ndst, order := m.order, sampled := if sampled then some (touched acc) else none
    replays := replays }
/-- A release form (R288, R291). -/
def isRelease (o : Order) : Bool := o == .rel || o == .acqrel
/-- The sectors of POD-coherent accesses are known as such to their homes (R101). -/
def markPods (s : State) (w : Wave) (xs : List LaneAcc) : State :=
  xs.foldl (fun s x => if isCoherent x.tgt then markPod s (pkgOf w.id.cd) w.ctx (sectorOf x.tgt.addr) x.tgt.coh else s) s
/-- An MV instruction: nothing is performed until every active lane is translated; then it is accepted (R45, R210). An
empty mask raises and drops the flag at once, but for a release form (R289). -/
def mvIssue (i : Instr) (m : MvSpec) (d : VSel) (x : WReg) (tx : TxSel) (fl : FlagN) (la : LaN) (s : State) : Res :=
  checked i s fun s =>
    let w := s.cur
    match joint (laneTrs s w m.need tx x m.sz) with
    | .walks ps => .next (waitWalks s ps)
    | .fault c ad plm => .next (parkAt s c (if w.a.trap || isHandler w then 0 else ad) plm)
    | .wait id => .next (holdMigration s id)
    | .go ls =>
      let core := getCore s (coreId w.id)
      let (smp, s') := sampleCount (copyLanes s w tx x m.sz)
      let s' := issue s'
      let o := mvOpOf s' m d fl la ls smp w.replays
      if m.kind == .store && m.order == .plain && wcFull core o.acc then .next (stallBy .leave s)
      else if ls.isEmpty && !isRelease m.order then .next (advance (sampleRec s' s'.cur o))
      else
        let s' := markPods s' w o.acc
        let s' := if isRelease m.order then drainAll s' (coreId w.id)
          else if m.kind == .store then s' else drainLines s' (coreId w.id) o.acc
        .next (advance (accept s' o))

/-! ## Loads (R282 to R288) -/

/-- A load of a size into n registers (R284). -/
def ldSpec (sz n : Nat) (signed : Bool) (order : Order) : MvSpec :=
  { sz := sz, nsrc := 0, ncmp := 0, ndst := n, need := 0b001, kind := .load signed, order := order }

/-- `ld8u` (R284). -/
def execLd8u (d : VSel) (w : WReg) (tx : TxSel) (fl : FlagN) (la : LaN) (s : State) : Res :=
  mvIssue (.ld8u d w tx fl la) (ldSpec 1 1 false .plain) d w tx fl la s
/-- `ld8s` (R284). -/
def execLd8s (d : VSel) (w : WReg) (tx : TxSel) (fl : FlagN) (la : LaN) (s : State) : Res :=
  mvIssue (.ld8s d w tx fl la) (ldSpec 1 1 true .plain) d w tx fl la s
/-- `ld16u` (R284). -/
def execLd16u (d : VSel) (w : WReg) (tx : TxSel) (fl : FlagN) (la : LaN) (s : State) : Res :=
  mvIssue (.ld16u d w tx fl la) (ldSpec 2 1 false .plain) d w tx fl la s
/-- `ld16s` (R284). -/
def execLd16s (d : VSel) (w : WReg) (tx : TxSel) (fl : FlagN) (la : LaN) (s : State) : Res :=
  mvIssue (.ld16s d w tx fl la) (ldSpec 2 1 true .plain) d w tx fl la s
/-- `ld32` (R284). -/
def execLd32 (d : VSel) (w : WReg) (tx : TxSel) (fl : FlagN) (la : LaN) (s : State) : Res :=
  mvIssue (.ld32 d w tx fl la) (ldSpec 4 1 false .plain) d w tx fl la s
/-- `ld64` (R284). -/
def execLd64 (d : VSel) (w : WReg) (tx : TxSel) (fl : FlagN) (la : LaN) (s : State) : Res :=
  mvIssue (.ld64 d w tx fl la) (ldSpec 8 2 false .plain) d w tx fl la s
/-- `ld128` (R284). -/
def execLd128 (d : VSel) (w : WReg) (tx : TxSel) (fl : FlagN) (la : LaN) (s : State) : Res :=
  mvIssue (.ld128 d w tx fl la) (ldSpec 16 4 false .plain) d w tx fl la s
/-- `ld8u.acq` (R284, R288). -/
def execLd8uAcq (d : VSel) (w : WReg) (tx : TxSel) (fl : FlagN) (la : LaN) (s : State) : Res :=
  mvIssue (.ld8uAcq d w tx fl la) (ldSpec 1 1 false .acq) d w tx fl la s
/-- `ld8s.acq` (R284, R288). -/
def execLd8sAcq (d : VSel) (w : WReg) (tx : TxSel) (fl : FlagN) (la : LaN) (s : State) : Res :=
  mvIssue (.ld8sAcq d w tx fl la) (ldSpec 1 1 true .acq) d w tx fl la s
/-- `ld16u.acq` (R284, R288). -/
def execLd16uAcq (d : VSel) (w : WReg) (tx : TxSel) (fl : FlagN) (la : LaN) (s : State) : Res :=
  mvIssue (.ld16uAcq d w tx fl la) (ldSpec 2 1 false .acq) d w tx fl la s
/-- `ld16s.acq` (R284, R288). -/
def execLd16sAcq (d : VSel) (w : WReg) (tx : TxSel) (fl : FlagN) (la : LaN) (s : State) : Res :=
  mvIssue (.ld16sAcq d w tx fl la) (ldSpec 2 1 true .acq) d w tx fl la s
/-- `ld32.acq` (R284, R288). -/
def execLd32Acq (d : VSel) (w : WReg) (tx : TxSel) (fl : FlagN) (la : LaN) (s : State) : Res :=
  mvIssue (.ld32Acq d w tx fl la) (ldSpec 4 1 false .acq) d w tx fl la s
/-- `ld64.acq` (R284, R288). -/
def execLd64Acq (d : VSel) (w : WReg) (tx : TxSel) (fl : FlagN) (la : LaN) (s : State) : Res :=
  mvIssue (.ld64Acq d w tx fl la) (ldSpec 8 2 false .acq) d w tx fl la s
/-- `ld128.acq` (R284, R288). -/
def execLd128Acq (d : VSel) (w : WReg) (tx : TxSel) (fl : FlagN) (la : LaN) (s : State) : Res :=
  mvIssue (.ld128Acq d w tx fl la) (ldSpec 16 4 false .acq) d w tx fl la s

/-! ## Stores (R286 to R288) -/

/-- A store of a size from n registers (R286). -/
def stSpec (sz n : Nat) (order : Order) : MvSpec :=
  { sz := sz, nsrc := n, ncmp := 0, ndst := 0, need := 0b010, kind := .store, order := order }

/-- `st8` (R286). -/
def execSt8 (d : VSel) (w : WReg) (tx : TxSel) (fl : FlagN) (la : LaN) (s : State) : Res :=
  mvIssue (.st8 d w tx fl la) (stSpec 1 1 .plain) d w tx fl la s
/-- `st16` (R286). -/
def execSt16 (d : VSel) (w : WReg) (tx : TxSel) (fl : FlagN) (la : LaN) (s : State) : Res :=
  mvIssue (.st16 d w tx fl la) (stSpec 2 1 .plain) d w tx fl la s
/-- `st32` (R286). -/
def execSt32 (d : VSel) (w : WReg) (tx : TxSel) (fl : FlagN) (la : LaN) (s : State) : Res :=
  mvIssue (.st32 d w tx fl la) (stSpec 4 1 .plain) d w tx fl la s
/-- `st64` (R286). -/
def execSt64 (d : VSel) (w : WReg) (tx : TxSel) (fl : FlagN) (la : LaN) (s : State) : Res :=
  mvIssue (.st64 d w tx fl la) (stSpec 8 2 .plain) d w tx fl la s
/-- `st128` (R286). -/
def execSt128 (d : VSel) (w : WReg) (tx : TxSel) (fl : FlagN) (la : LaN) (s : State) : Res :=
  mvIssue (.st128 d w tx fl la) (stSpec 16 4 .plain) d w tx fl la s
/-- `st8.rel` (R286, R288). -/
def execSt8Rel (d : VSel) (w : WReg) (tx : TxSel) (fl : FlagN) (la : LaN) (s : State) : Res :=
  mvIssue (.st8Rel d w tx fl la) (stSpec 1 1 .rel) d w tx fl la s
/-- `st16.rel` (R286, R288). -/
def execSt16Rel (d : VSel) (w : WReg) (tx : TxSel) (fl : FlagN) (la : LaN) (s : State) : Res :=
  mvIssue (.st16Rel d w tx fl la) (stSpec 2 1 .rel) d w tx fl la s
/-- `st32.rel` (R286, R288). -/
def execSt32Rel (d : VSel) (w : WReg) (tx : TxSel) (fl : FlagN) (la : LaN) (s : State) : Res :=
  mvIssue (.st32Rel d w tx fl la) (stSpec 4 1 .rel) d w tx fl la s
/-- `st64.rel` (R286, R288). -/
def execSt64Rel (d : VSel) (w : WReg) (tx : TxSel) (fl : FlagN) (la : LaN) (s : State) : Res :=
  mvIssue (.st64Rel d w tx fl la) (stSpec 8 2 .rel) d w tx fl la s
/-- `st128.rel` (R286, R288). -/
def execSt128Rel (d : VSel) (w : WReg) (tx : TxSel) (fl : FlagN) (la : LaN) (s : State) : Res :=
  mvIssue (.st128Rel d w tx fl la) (stSpec 16 4 .rel) d w tx fl la s

/-! ## Atomics (R290, R291) -/

/-- An atomic of a function (R290). -/
def atomSpec (f : AtomFn) (order : Order) : MvSpec :=
  let (sz, n, c) : Nat × Nat × Nat := match f with
    | .cas => (4, 1, 1) | .add64 | .swap64 => (8, 2, 0) | .cas64 => (8, 2, 2) | _ => (4, 1, 0)
  { sz := sz, nsrc := n, ncmp := c, ndst := n, need := 0b011, kind := .atom f, order := order }
/-- The order of an `atom.ar` (R290). -/
def arOrder : AtomOrd → Order | .acq => .acq | .rel => .rel | .acqrel => .acqrel

/-- `atom.add` (R290). -/
def execAtomAdd (d : VSel) (w : WReg) (tx : TxSel) (fl : FlagN) (la : LaN) (s : State) : Res :=
  mvIssue (.atomAdd d w tx fl la) (atomSpec .add .relaxed) d w tx fl la s
/-- `atom.and` (R290). -/
def execAtomAnd (d : VSel) (w : WReg) (tx : TxSel) (fl : FlagN) (la : LaN) (s : State) : Res :=
  mvIssue (.atomAnd d w tx fl la) (atomSpec .and .relaxed) d w tx fl la s
/-- `atom.or` (R290). -/
def execAtomOr (d : VSel) (w : WReg) (tx : TxSel) (fl : FlagN) (la : LaN) (s : State) : Res :=
  mvIssue (.atomOr d w tx fl la) (atomSpec .or .relaxed) d w tx fl la s
/-- `atom.xor` (R290). -/
def execAtomXor (d : VSel) (w : WReg) (tx : TxSel) (fl : FlagN) (la : LaN) (s : State) : Res :=
  mvIssue (.atomXor d w tx fl la) (atomSpec .xor .relaxed) d w tx fl la s
/-- `atom.min` (R290). -/
def execAtomMin (d : VSel) (w : WReg) (tx : TxSel) (fl : FlagN) (la : LaN) (s : State) : Res :=
  mvIssue (.atomMin d w tx fl la) (atomSpec .min .relaxed) d w tx fl la s
/-- `atom.max` (R290). -/
def execAtomMax (d : VSel) (w : WReg) (tx : TxSel) (fl : FlagN) (la : LaN) (s : State) : Res :=
  mvIssue (.atomMax d w tx fl la) (atomSpec .max .relaxed) d w tx fl la s
/-- `atom.minu` (R290). -/
def execAtomMinu (d : VSel) (w : WReg) (tx : TxSel) (fl : FlagN) (la : LaN) (s : State) : Res :=
  mvIssue (.atomMinu d w tx fl la) (atomSpec .minu .relaxed) d w tx fl la s
/-- `atom.maxu` (R290). -/
def execAtomMaxu (d : VSel) (w : WReg) (tx : TxSel) (fl : FlagN) (la : LaN) (s : State) : Res :=
  mvIssue (.atomMaxu d w tx fl la) (atomSpec .maxu .relaxed) d w tx fl la s
/-- `atom.swap` (R290). -/
def execAtomSwap (d : VSel) (w : WReg) (tx : TxSel) (fl : FlagN) (la : LaN) (s : State) : Res :=
  mvIssue (.atomSwap d w tx fl la) (atomSpec .swap .relaxed) d w tx fl la s
/-- `atom.cas` (R290). -/
def execAtomCas (d : VSel) (w : WReg) (tx : TxSel) (fl : FlagN) (la : LaN) (s : State) : Res :=
  mvIssue (.atomCas d w tx fl la) (atomSpec .cas .relaxed) d w tx fl la s
/-- `atom.fadd` (R290). -/
def execAtomFadd (d : VSel) (w : WReg) (tx : TxSel) (fl : FlagN) (la : LaN) (s : State) : Res :=
  mvIssue (.atomFadd d w tx fl la) (atomSpec .fadd .relaxed) d w tx fl la s
/-- `atom.add64` (R290). -/
def execAtomAdd64 (d : VSel) (w : WReg) (tx : TxSel) (fl : FlagN) (la : LaN) (s : State) : Res :=
  mvIssue (.atomAdd64 d w tx fl la) (atomSpec .add64 .relaxed) d w tx fl la s
/-- `atom.swap64` (R290). -/
def execAtomSwap64 (d : VSel) (w : WReg) (tx : TxSel) (fl : FlagN) (la : LaN) (s : State) : Res :=
  mvIssue (.atomSwap64 d w tx fl la) (atomSpec .swap64 .relaxed) d w tx fl la s
/-- `atom.cas64` (R290). -/
def execAtomCas64 (d : VSel) (w : WReg) (tx : TxSel) (fl : FlagN) (la : LaN) (s : State) : Res :=
  mvIssue (.atomCas64 d w tx fl la) (atomSpec .cas64 .relaxed) d w tx fl la s
/-- `atom.inc` (R290). -/
def execAtomInc (d : VSel) (w : WReg) (tx : TxSel) (fl : FlagN) (la : LaN) (s : State) : Res :=
  mvIssue (.atomInc d w tx fl la) (atomSpec .inc .relaxed) d w tx fl la s
/-- `atom.ar.add` (R290). -/
def execAtomArAdd (o : AtomOrd) (d : VSel) (w : WReg) (tx : TxSel) (fl : FlagN) (la : LaN) (s : State) : Res :=
  mvIssue (.atomArAdd o d w tx fl la) (atomSpec .add (arOrder o)) d w tx fl la s
/-- `atom.ar.swap` (R290). -/
def execAtomArSwap (o : AtomOrd) (d : VSel) (w : WReg) (tx : TxSel) (fl : FlagN) (la : LaN) (s : State) : Res :=
  mvIssue (.atomArSwap o d w tx fl la) (atomSpec .swap (arOrder o)) d w tx fl la s
/-- `atom.ar.cas` (R290). -/
def execAtomArCas (o : AtomOrd) (d : VSel) (w : WReg) (tx : TxSel) (fl : FlagN) (la : LaN) (s : State) : Res :=
  mvIssue (.atomArCas o d w tx fl la) (atomSpec .cas (arOrder o)) d w tx fl la s
/-- `atom.ar.cas64` (R290). -/
def execAtomArCas64 (o : AtomOrd) (d : VSel) (w : WReg) (tx : TxSel) (fl : FlagN) (la : LaN) (s : State) : Res :=
  mvIssue (.atomArCas64 o d w tx fl la) (atomSpec .cas64 (arOrder o)) d w tx fl la s

/-! ## Scalar loads and stores (R228, R229) -/

/-- The address of a scalar access (R228). -/
def scalarAddr (a : WaveArch) (r : SReg) (i : BitVec 14) : BitVec 64 := readPair a r + i.signExtend 64
/-- The access of a scalar instruction, translated and checked first; a failing check parks with all lanes in the PLM
(R229). -/
def scalarAccess (s : State) (need : BitVec 3) (ad : BitVec 64) (k : State → Target → Res) : Res :=
  match translateAddr s s.cur need ad 4 with
  | .walk id p => .next (waitWalks s [(id, p)])
  | .fault _ c => .next (parkAt s c ad (BitVec.allOnes 96))
  | .wait id => .next (holdMigration s id)
  | .ok t => k (if ad.extractLsb' 40 24 = clusterId then s else copyTlbAt s s.cur ad) t
/-- `sld`: the wave is held until the word returns (R228, R229). -/
def execSld (d a : SReg) (i : BitVec 14) (s : State) : Res :=
  checked (.sld d a i) s fun s =>
    let ad := scalarAddr s.cur.a a i
    scalarAccess s 0b001 ad fun s t =>
      let x : LaneAcc := ⟨0, t, ad, 4, 0, 0⟩
      let s := drainLines (markPods s s.cur [x]) (coreId s.cur.id) [x]
      .next (holdCur (advance (issue s)) (.sld d x))
/-- `sst`: accepted at once; the store leaves after the commit window (R228, R229). -/
def execSst (d a : SReg) (i : BitVec 14) (s : State) : Res :=
  checked (.sst d a i) s fun s =>
    let ad := scalarAddr s.cur.a a i
    scalarAccess s 0b010 ad fun s t =>
      let x : LaneAcc := ⟨0, t, ad, 4, (readS s.cur.a d).toNat, 0⟩
      if wcFull (getCore s (coreId s.cur.id)) [x] then .next (stallBy .leave s)
      else
        let s := issue (markPods s s.cur [x])
        .next (advance (accept s { newOp s .store 0 15 with flag := none, acc := [x] }))
/-- The word of an `sld` returns: it is written and the wave is ready again (R229). A poisoned byte kills the wave. -/
def execScalarLoadReturn (w : WaveId) (s : State) : Res :=
  match getWave s w with
  | none => .next s
  | some x => match x.hold with
    | .sld d acc =>
      match tryRead s x s.nextId [acc] with
      | .notYet s => .next s
      | .poison ad s => .next (killWave s x .poison (x.a.pc - 4) ad x.a.trap)
      | .got vals lost s =>
        let v := (vals.map (·.2)).headD 0
        let s := onWave s w fun x => { x with hold := .ready, a := writeS (isHandler x) x.a d (BitVec.ofNat 32 v) }
        .next (noteLost s w x.seq (x.a.pc - 4) (modeRlt x.a.mode) lost)
    | _ => .next s

/-! ## Loads return (R284, R285) -/

/-- Word k of a loaded value of sz bytes (R284). -/
def loadWord (signed : Bool) (sz k x : Nat) : Word :=
  if sz < 4 then (if signed then BitVec.ofInt 32 (sgn (8 * sz) x) else BitVec.ofNat 32 (x % 2 ^ (8 * sz)))
  else BitVec.ofNat 32 (x / 2 ^ (32 * k))
/-- The value that a lane received: that of all its pieces. -/
def laneVal (vals : List (Nat × Nat)) (l : Nat) : Nat := (vals.filter (·.1 == l)).foldl (fun n v => n + v.2) 0
/-- The values of the accesses that have been made. -/
def doneVals (o : Op) : List (Nat × Nat) := o.done.map fun y => (y.lane, y.val)
/-- The destination registers and the flag at a completion: each lane's value, low word first; where a later
instruction has written a register meanwhile, each lane takes one or the other (R186, R212, R284, R291). -/
def writeBack (o : Op) (free : Mask) (word : Nat → Nat → Word) (a : WaveArch) : WaveArch :=
  let a := (List.range o.nreg).foldl (fun a k =>
    let d := o.dst.toNat + k
    setLanes a d (mergeLanes (landMask o free d) (mkLanes (word k)) (regLanes a d))) a
  match o.flag with
  | some n => flagDown a n
  | none => a
/-- A load completes: every destination lane at once, and the flag (R284, R285). -/
def execLoadCompletion (w : WaveId) (n : Nat) (s : State) : Res :=
  match getWave s w, findOp s w n with
  | some x, some o => match o.kind with
    | .load signed =>
      match tryRead s x o.id o.acc with
      | .notYet s => .next s
      | .poison _ s =>
        if x.hold == .ended then .next (completeOp s w o id) else
        .next (completeOp (killWave s x .poison o.pc 0 x.a.trap) w o id)
      | .got vals lost s =>
        let (m, s) := freshMask s
        let sz := ((o.acc ++ o.done).map (·.sz)).headD 4
        let s := completeOp s w o (writeBack o m fun k l => loadWord signed sz k (laneVal (doneVals o ++ vals) l))
        .next (sampleRec (noteLost s w o.seq o.pc o.rlt lost) x o)
    | _ => .next s
  | _, _ => .next s
/-- An access of an operation has been made, with its value. -/
def madeAcc (s : State) (w : WaveId) (n : Nat) (y : LaneAcc) (v : Nat) : State :=
  onWave s w fun x => { x with
    ops := updWhere (·.id == n) (fun p => { p with acc := p.acc.erase y, done := p.done ++ [{ y with val := v }], lock := none }) x.ops }
/-- An access of an operation still to be made; which is free (R66, log entry 1). -/
def someAcc (s : State) (o : Op) : Option LaneAcc × State :=
  let (q, s) := freshWord s
  (o.acc[q.toNat % o.acc.length]?, s)
/-- One piece of a load is read, before the rest: the pieces of a load read at any points between issue and completion, each
on its own (R66, R110, R124). -/
def loadPiece (w : WaveId) (n : Nat) (s : State) : Res :=
  match getWave s w, findOp s w n with
  | some x, some o => match o.kind, someAcc s o with
    | .load _, (some y, s) => match tryRead s x o.id [y] with
      | .notYet s => .next s
      | .poison _ _ => .next s
      | .got vals lost t => .next (if lost.isSome then s else madeAcc t w n y (laneVal vals y.lane))
    | _, _ => .next s
  | _, _ => .next s

/-! ## Commit (R286, R370) -/

/-- A store of a maintenance context that covers one aligned 128-byte DEV line exactly once (R68). -/
def maintLine (s : State) (w : Wave) (xs : List LaneAcc) : Bool :=
  ctxFlag s w 2 && (match xs with
    | [] => false
    | x :: _ =>
      (xs.map (·.sz)).foldl (· + ·) 0 == 128 &&
      xs.all (fun y => y.tgt.space == .dev && y.tgt.kind == .dev && y.tgt.addr / 128 == x.tgt.addr / 128) &&
      (bytesAt xs .dev (x.tgt.addr / 128 * 128) 128).all (·.isSome))
/-- A store that its home performs as one event (R68). -/
def isLine (s : State) (w : Wave) (o : Op) : Bool := o.kind == .store && o.done.isEmpty && maintLine s w o.acc
/-- A store whose bytes for COH = NONE objects enter the write-combining buffer, those of a trap frame or a path-stack spill
too (R69, R287). -/
def buffered (s : State) (w : Wave) (o : Op) : Bool :=
  isStoreOp o && !isRelease o.order && !isLine s w o && o.acc.any fun x => isNone x.tgt
/-- An operation of a wave loses its flag as its data leaves the commit window (R286). -/
def dropFlag (s : State) (w : WaveId) (o : Op) : State :=
  match o.flag with
  | none => s
  | some n =>
    onWave s w fun x =>
      let x := { x with ops := updWhere (·.id == o.id) (fun p => { p with flag := none, la := none }) x.ops }
      if x.hold == .ended then x else completeIn x o.seq fun a => flagDown a n
/-- A committed store: its data leaves the window, its flag falls, and bytes for a COH = NONE object enter the
write-combining buffer (R69, R286, R370). A release form without lanes keeps its flag until its waits are over (R289). -/
def commitStore (s : State) (w : Wave) (o : Op) : State :=
  if !isStoreOp o || (o.acc.isEmpty && isRelease o.order) then s else
  let s := if o.kind == .store then sampleRec (dropFlag s w.id o) w o else s
  if buffered s w o then
    let keep := o.acc.filter fun x => !isNone x.tgt
    let s := bufferStore s (coreId w.id) (o.acc.filter fun x => isNone x.tgt) o.id
    onWave s w.id fun x => { x with
      ops := if keep.isEmpty then x.ops.filter (·.id != o.id) else updWhere (·.id == o.id) (fun p => { p with acc := keep }) x.ops }
  else s
/-- A committed `eret` of the resume code: its block waits for one less (R338, R368). -/
def commitEret (s : State) (w : Wave) (h : Snapshot) : State :=
  if inResume h.a && !((windowAfter w).headD w.a).trap then onBlock s w.blk fun b => { b with erets := b.erets - 1 } else s
/-- The oldest instruction of a wave's commit window commits: its stores, atomics and requests may leave the core
(R370). A buffered store waits for earlier accesses of the wave to the same bytes (R114). -/
def execCommitWindowClose (w : WaveId) (s : State) : Res :=
  match getWave s w with
  | none => .next s
  | some x => match x.window with
    | [] => .next s
    | h :: rest =>
      let mine := x.ops.filter (·.seq == h.seq)
      if mine.any fun o => buffered s x o && x.ops.any (fun p => p.id < o.id && clashesWith o.acc p) then .next s
      else
        let s := onWave s w fun x =>
          { x with window := rest, undo := x.undo.filter (·.seq != h.seq)
                   counted := x.counted.filter (· != h.seq), samples := x.samples.filter (·.seq != h.seq)
                   ops := updWhere (·.seq == h.seq) (fun o => { o with left := true }) x.ops }
        let s := commitEret s x h
        let s := (x.samples.filter (·.seq == h.seq)).foldl (fun s o => sampleWrite s x o) s
        .next (mine.foldl (fun s o => commitStore s x o) s)

/-! ## Stores and drains performed (R57, R66, R70, R71, R123, R287) -/

/-- The sector-sized pieces of space that accesses fall into. -/
def pieceKeys (xs : List LaneAcc) : List (Space × Nat) := dedup (xs.map fun x => (x.tgt.space, x.tgt.addr / 64))
/-- Some bytes of a sector, written by a store of a wave at the place where it is performed: true where they were, else what is
missing has been asked for (R57, R65, R80, R287). A write toward a lost home is discarded (R71, R102, R377). -/
def storeSector (s : State) (w : Wave) (t : Target) (k : Nat) (bs : List (Option Byte)) : Bool × State :=
  if lostHome s (pkgOf w.id.cd) w.ctx t then (true, s) else
  match t.space with
  | .scr c => (true, onCore s c fun q => scrPutMasked q (64 * k) bs)
  | .host p => if hostLocked s t then (false, s) else (true, hostPutMasked s p (64 * k) bs)
  | .dev =>
    if isNone t then (true, homePutMasked (countHot s k (some w.id.cd)) k bs)
    else if canWrite (getSec s w.id.cd k) then
      (true, opDone (diePutMasked s w.id.cd k bs (some w.id.core)) w.id.cd k)
    else (false, postReq s w.id.cd k true)
/-- A whole line of a maintenance store at its home, as one event, or the tokens requested (R68). -/
def storeLine (s : State) (o : Op) (k : Nat) : Bool × State :=
  let (ok, s) := homeGather s [k, k + 1]
  if !ok then (false, s)
  else (true, [k, k + 1].foldl (fun s k => homeDone (homePutMasked s k (opBytesAt o .dev (64 * k) 64)) k) s)
/-- A store that has left the core may be performed: for a release form, after its waits (R123, R287). -/
def mayStore (s : State) (w : Wave) (o : Op) : Bool :=
  isStoreOp o && o.left && !(isRelease o.order && !releasedBefore s w o.scope o.id)
/-- Accesses of a store have been performed; with the last the store is acknowledged (R287). -/
def storeMade (s : State) (w : WaveId) (o : Op) (mine : List LaneAcc) : State :=
  let left := o.acc.filter fun y => !mine.contains y
  let s := if left.isEmpty then dropFlag s w o else s
  onWave s w fun x =>
    { x with ops := if left.isEmpty then x.ops.filter (·.id != o.id)
                    else updWhere (·.id == o.id) (fun p => { p with acc := left, done := p.done ++ mine }) x.ops }
/-- Accesses whose data failed its check as they left on a host link have left poisoned (R61, R62). -/
def egress (s : State) (w : Wave) (o : Op) (mine : List LaneAcc) : State :=
  { s with hostOut := s.hostOut ++ (mine.filter fun y => o.bad.contains y && !lostHome s (pkgOf w.id.cd) w.ctx y.tgt).filterMap fun y =>
      match y.tgt.space with
      | .host p => some (.poisonedTlp p y.tgt.addr)
      | _ => none }
/-- A store that has left the core is performed and acknowledged, one sector at a time in an order that is free, after
earlier accesses of the wave to the same bytes, a line store after the buffered bytes of its line (R70, R114, R123, R287). A sampled
release form without lanes writes its record (R407). -/
def execStoreAcknowledgement (w : WaveId) (n : Nat) (s : State) : Res :=
  match getWave s w, findOp s w n with
  | some x, some o =>
    if !mayStore s x o then .next s
    else
      let keys := pieceKeys o.acc
      let line := isLine s x o
      let (q, s) := freshWord s
      let key := keys.getD (if line || keys.length ≤ 1 then 0 else q.toNat % keys.length) (.dev, 0)
      let mine := o.acc.filter fun y => line || (y.tgt.space, y.tgt.addr / 64) == key
      if x.ops.any fun p => p.id < o.id && clashesWith mine p then .next s
      else if line && mine.any (wcLine (getCore s (coreId w))) then .next (drainLines s (coreId w) mine)
      else
        let (ok, s) := match mine with
          | [] => (true, s)
          | y :: _ => if line then storeLine s o (key.2 / 2 * 2) else storeSector s x y.tgt key.2 (opBytesAt o key.1 (64 * key.2) 64)
        if !ok then .next s
        else
          let s := storeMade (egress s x o mine) w o mine
          .next (if o.acc.isEmpty then sampleRec s x o else s)
  | _, _ => .next s
/-- The bytes of a sector that one access of a store writes: those that no higher lane writes (R286). -/
def pieceBytes (o : Op) (y : LaneAcc) : List (Option Byte) :=
  let k := y.tgt.addr / 64
  (List.range 64).map fun i =>
    if (o.acc ++ o.done).any fun z => y.lane < z.lane && (accByte z y.tgt.space (64 * k + i)).isSome then none
    else accByte y y.tgt.space (64 * k + i)
/-- One access of a store, or a piece of it, is performed before the rest: the lanes of an instruction are separate accesses, and
no order holds among pieces (R66, R110). A poisoned place is left to the sector's write, which may clear the mark (R61). -/
def storePiece (w : WaveId) (n : Nat) (s : State) : Res :=
  match getWave s w, findOp s w n with
  | some x, some o => match someAcc s o with
    | (some y, s) =>
      if !mayStore s x o || isLine s x o || readPoison s y.tgt y.tgt.addr || x.ops.any (fun p => p.id < o.id && clashesWith [y] p) then .next s
      else
        let (ok, s) := storeSector s x y.tgt (y.tgt.addr / 64) (pieceBytes o y)
        .next (if ok then storeMade (egress s x o [y]) w o [y] else s)
    | (none, s) => .next s
  | _, _ => .next s
/-- A write-combining entry reaches its age and drains (R70). -/
def execWcAgeDrain (c : CoreId) (n : Nat) (s : State) : Res :=
  .next (onCore s c fun k => { k with wc := k.wc.mapIdx fun i e => if i = n then { e with draining := true } else e })
/-- The context whose link carries a drain: HOST entries belong to the context that the core runs. -/
def drainLost (s : State) (c : CoreId) (e : WcEntry) : Bool :=
  lostHome s (pkgOf c.cd) (getCore s c).lastCtx ⟨e.space, e.line * 128, .dev, .none⟩
/-- The bytes of an entry in one 64-byte half. -/
def entryHalf (e : WcEntry) (h : Nat) : List (Option Byte) :=
  (List.range 64).map fun i =>
    if e.mask.getLsbD (64 * h + i) then some (e.data.extractLsb' (8 * (64 * h + i)) 8) else none
/-- The marks of an entry where its bytes have gone: the sector becomes poisoned, or the write leaves with poison (R61, R62). -/
def drainMarks (s : State) (e : WcEntry) : State :=
  ((List.range 2).filter fun h => e.pois.getLsbD h && e.mask.extractLsb' (64 * h) 64 != 0).foldl (fun s h =>
    match e.space with
    | .dev => onHome s (2 * e.line + h) fun x => { x with poison := true }
    | .host p => { s with hostOut := s.hostOut ++ [.poisonedTlp p (128 * e.line + 64 * h)] }
    | .scr _ => s) s
/-- An entry's masked write performed where it goes; discarded where the destination is lost (R70, R71). -/
def drainEntry (s : State) (c : CoreId) (e : WcEntry) : State :=
  if drainLost s c e then s else
  match e.space with
  | .dev => drainMarks (homePutMasked (homePutMasked s (2 * e.line) (entryHalf e 0)) (2 * e.line + 1) (entryHalf e 1)) e
  | .host p => drainMarks (hostPutMasked (hostPutMasked s p (128 * e.line) (entryHalf e 0)) p (128 * e.line + 64) (entryHalf e 1)) e
  | .scr _ => s
/-- An entry may be written now: it drains, no entry of the same line drains before it (R70), no line of it is locked in the
I/O die (R65), and no atomic under way would meet a mark that it leaves (R291). -/
def mayDrain (s : State) (k : Core) (n : Nat) (e : WcEntry) : Bool :=
  e.draining && !(k.wc.take n).any (fun f => f.space == e.space && f.line == e.line) &&
  ([128 * e.line, 128 * e.line + 64].all fun a => !hostLocked s ⟨e.space, a, .host, .none⟩) &&
  !(e.pois != 0 && (atomOpen s e.space (2 * e.line) || atomOpen s e.space (2 * e.line + 1)))
/-- A drain is one request that its home counts (R73; log entry 82). -/
def countDrain (s : State) (c : CoreId) (e : WcEntry) : State :=
  if e.space == .dev && !drainLost s c e then countHot s (2 * e.line) (some c.cd) else s
/-- A drain is acknowledged: the rest of the write has been performed, the entry is free, and waiting bytes merge (R69, R70). -/
def execWcDrainAck (c : CoreId) (n : Nat) (s : State) : Res :=
  let k := getCore s c
  match k.wc[n]? with
  | none => .next s
  | some e =>
    if !mayDrain s k n e then .next s
    else .next (onCore (drainEntry (countDrain s c e) c e) c fun k => wcRefill { k with wc := dropAt n k.wc })
/-- The byte offsets of an entry's pieces that are still to be written, and their size: a poisoned sector is written whole, as the
write may clear its mark (R61, R66). -/
def entryPieces (s : State) (e : WcEntry) : List (Nat × Nat) :=
  let z := pieceLimit ⟨e.space, 0, .dev, .none⟩
  let ps := (List.range (128 / z)).map fun i =>
    let a := z * i
    if e.space == .dev && (getHome s (2 * e.line + a / 64)).poison then (a / 64 * 64, 64) else (a, z)
  (dedup ps).filter fun p => e.mask.extractLsb' p.1 p.2 != 0
/-- One piece of a drain's masked write is performed before the rest; which is free (R66, R70). -/
def drainPiece (c : CoreId) (n : Nat) (s : State) : Res :=
  let k := getCore s c
  match k.wc[n]? with
  | none => .next s
  | some e =>
    let ps := entryPieces s e
    let (q, s) := freshWord s
    match ps[q.toNat % ps.length]? with
    | some (a, z) =>
      if !mayDrain s k n e || ps.length ≤ 1 then .next s
      else
        let m : BitVec 128 := (BitVec.ofNat 128 (2 ^ z - 1)) <<< a
        let s := drainEntry s c { e with mask := e.mask &&& m }
        .next (onCore s c fun k => { k with wc := k.wc.mapIdx fun i e => if i = n then { e with mask := e.mask &&& ~~~m } else e })
    | none => .next s

/-! ## Atomics performed (R63 to R65, R291) -/

/-- The new value of a location (R290). -/
def atomNew (f : AtomFn) (m v c : Nat) : Nat :=
  let w := 2 ^ 32
  match f with
  | .add => (m + v) % w
  | .and => m &&& v
  | .or => m ||| v
  | .xor => m ^^^ v
  | .min => if sgn 32 v < sgn 32 m then v else m
  | .max => if sgn 32 m < sgn 32 v then v else m
  | .minu => Nat.min m v
  | .maxu => Nat.max m v
  | .swap | .swap64 => v
  | .cas | .cas64 => if m = c then v else m
  | .fadd => (addF .fp32 ⟨0, false, false, 0⟩ (fdec .fp32 false m) (fdec .fp32 false v)).1
  | .add64 => (m + v) % 2 ^ 64
  | .inc => if m ≥ v then 0 else m + 1
/-- Where an atomic executes (R63). -/
inductive Level | scr | host | home | die
  deriving DecidableEq, Repr
/-- The level of an access under a scope (R63). -/
def levelOf (sc : Scope) (t : Target) : Level :=
  match t.space with
  | .scr _ => .scr
  | .host _ => .host
  | .dev => if t.coh = .none then .home else match sc with
    | .wave | .group | .cluster => .die
    | .pkg | .pod | .sys => .home
/-- The sectors that accesses need at a level: token-coherent ones. -/
def levelSectors (sc : Scope) (xs : List LaneAcc) (l : Level) : List Nat :=
  cohSectors (xs.filter fun x => levelOf sc x.tgt == l)
/-- All tokens are where the accesses execute, or have been asked for (R64). -/
def levelReady (s : State) (w : Wave) (sc : Scope) (xs : List LaneAcc) : Bool × State :=
  let miss := (levelSectors sc xs .die).filter fun k => !canWrite (getSec s w.id.cd k)
  if !miss.isEmpty then (false, miss.foldl (fun s k => postReq s w.id.cd k true) s)
  else homeGather s (levelSectors sc xs .home)
/-- The write of an access at its level. -/
def levelWrite (s : State) (w : Wave) (sc : Scope) (x : LaneAcc) (v : Nat) : State :=
  let bs := bytesOf x.sz v
  match x.tgt.space with
  | .scr c => onCore s c fun q => scrWrite q x.tgt.addr bs
  | .host p => { s with hostMem := memPut s.hostMem (hostKey p x.tgt.addr) bs }
  | .dev =>
    let k := sectorOf x.tgt.addr
    if levelOf sc x.tgt = .die then writeSec s w.id.cd k (x.tgt.addr % 64) bs (some w.id.core)
    else writeHome s k (x.tgt.addr % 64) bs
/-- The tokens of finished accesses are released from the requests that gathered them (R91). -/
def levelDone (s : State) (w : Wave) (sc : Scope) (xs : List LaneAcc) : State :=
  let s := (levelSectors sc xs .die).foldl (fun s k => opDone s w.id.cd k) s
  (levelSectors sc xs .home).foldl homeDone s
/-- The lanes in the order that the device chooses: those it names first, then the rest (R291). -/
def atomOrder (order : List Nat) (xs : List LaneAcc) : List LaneAcc :=
  let named := (dedup order).filterMap fun l => xs.find? (·.lane == l)
  named ++ xs.filter fun x => !named.contains x
/-- The RMWs of the lanes one after the other: each lane's old value (R117, R291). -/
def runAtoms (f : AtomFn) (w : Wave) (sc : Scope) (s : State) (xs : List LaneAcc) : List (Nat × Nat) × State :=
  xs.foldl (fun (olds, s) x =>
    let m := accValue s [] x
    (olds ++ [(x.lane, m)], levelWrite s w sc x (atomNew f m (x.val % 2 ^ (8 * x.sz)) (x.cmp % 2 ^ (8 * x.sz))))) ([], s)
/-- An atomic on HOST memory that the I/O die carries out as a read and then a write, with the line locked between them: any
but a fetch-add, swap or compare-and-swap of a context with HAT (R65). -/
def lockedAtom (s : State) (w : Wave) (f : AtomFn) (x : LaneAcc) : Bool :=
  (match x.tgt.space with | .host _ => true | _ => false) &&
  !(ctxFlag s w 1 && (f == .add || f == .add64 || f == .swap || f == .swap64 || f == .cas || f == .cas64))
/-- An atomic may be performed: it has left the core, a release form has waited, and earlier accesses of the wave to the same
bytes have been made (R114, R123, R370). -/
def mayAtom (s : State) (w : Wave) (o : Op) (xs : List LaneAcc) : Bool :=
  o.left && !(isRelease o.order && !releasedBefore s w o.scope o.id) && !w.ops.any fun p => p.id < o.id && clashesWith xs p
/-- The line of one of some accesses is locked by another operation (R65). -/
def linesLocked (s : State) (o : Op) (xs : List LaneAcc) : Bool :=
  xs.any fun x => (allWaves s).any fun v => v.ops.any fun p => p.id != o.id && p.lock.isSome && p.acc.head?.any fun y => sameLine y.tgt x.tgt
/-- The write that follows the locked read of an atomic's first access; discarded where the link is down (R65, R377). -/
def unlockAtom (s : State) (f : AtomFn) (w : Wave) (o : Op) : State :=
  match o.lock, o.acc with
  | some v, y :: _ =>
    let s := if lostHome s (pkgOf w.id.cd) w.ctx y.tgt then s
      else levelWrite (egress s w o [y]) w o.scope y (atomNew f v (y.val % 2 ^ (8 * y.sz)) (y.cmp % 2 ^ (8 * y.sz)))
    madeAcc s w.id o.id y v
  | _, _ => s
/-- The accesses of an atomic that are left once a locked one has been written. -/
def unlocked (o : Op) : Op :=
  match o.lock, o.acc with
  | some v, y :: ys => { o with lock := none, acc := ys, done := o.done ++ [{ y with val := v }] }
  | _, _ => o
/-- An atomic completes: the RMWs of the remaining lanes have been performed, in an order that the device chooses, and the old
values are written (R291). A poisoned byte kills the wave and no further one is performed (R61). -/
def execAtomicCompletion (w : WaveId) (n : Nat) (order : List Nat) (s : State) : Res :=
  match getWave s w, findOp s w n with
  | some x, some o => match o.kind with
    | .atom f =>
      if !mayAtom s x o o.acc || linesLocked s o o.acc then .next s else
      let s := unlockAtom s f x o
      let o := unlocked o
      let live := o.acc.filter fun y => !lostHome s (pkgOf w.cd) x.ctx y.tgt
      let direct := live.filter fun y => isNone y.tgt
      if direct.any (wcLine (getCore s (coreId w))) then .next (drainLines s (coreId w) direct)
      else
        let (ok, s) := levelReady s x o.scope live
        if !ok then .next s
        else
          let s := countDirect s w.cd direct
          match live.find? (accPoison s []) with
          | some _ =>
            if x.hold == .ended then .next (completeOp s w o id) else
            .next (completeOp (levelDone (killWave s x .poison o.pc 0 x.a.trap) x o.scope live) w o id)
          | none =>
            let (olds, s) := runAtoms f x o.scope (egress s x o live) (atomOrder order live)
            let s := levelDone s x o.scope live
            let lost := (o.acc.find? fun y => !live.contains y)
            let got := doneVals o ++ olds
            let val := fun l => if got.any (·.1 == l) then laneVal got l else 2 ^ 64 - 1
            let (m, s) := freshMask s
            let s := completeOp s w o (writeBack o m fun k l => BitVec.ofNat 32 (val l / 2 ^ (32 * k)))
            .next (sampleRec (noteLost s w o.seq o.pc o.rlt (lost.map (·.oaddr))) x o)
    | _ => .next s
  | _, _ => .next s
/-- One lane's RMW of an atomic is performed before the rest (R66, R117), or one half of one that the I/O die carries out as a
locked read and a write (R65). Nothing is performed while a remaining lane is poisoned; the first comes once the sectors of all lanes
are there and none is, and from then on none becomes so (R61, R291; log entry 109). -/
def atomPiece (w : WaveId) (n : Nat) (s : State) : Res :=
  match getWave s w, findOp s w n with
  | some x, some o => match o.kind with
    | .atom f =>
      if o.lock.isSome then .next (unlockAtom s f x o) else
      match someAcc s o with
      | (some y, s) =>
        let live := o.acc.filter fun y => !lostHome s (pkgOf w.cd) x.ctx y.tgt
        let direct := [y].filter fun y => isNone y.tgt
        if !mayAtom s x o [y] || linesLocked s o [y] || !live.contains y || live.any (accPoison s []) ||
          direct.any (wcLine (getCore s (coreId w))) then .next s
        else
          let (ok, s) := levelReady s x o.scope (if o.done.isEmpty then live else [y])
          if !ok then .next s
          else if lockedAtom s x f y then
            .next (onWave s w fun x => { x with
              ops := updWhere (·.id == n) (fun p => { p with acc := y :: p.acc.erase y, lock := some (accValue s [] y) }) x.ops })
          else
            let s := countDirect s w.cd direct
            let (olds, s) := runAtoms f x o.scope (egress s x o [y]) [y]
            .next (madeAcc (levelDone s x o.scope [y]) w n y (laneVal olds y.lane))
      | (none, s) => .next s
    | _ => .next s
  | _, _ => .next s

/-- Word k that a lane of a load or atomic gets, once all its accesses have been made. -/
def gotWord (o : Op) (signed : Option Bool) (k l : Nat) : Word :=
  match signed with
  | some g => loadWord g ((o.done.map (·.sz)).headD 4) k (laneVal (doneVals o) l)
  | none => BitVec.ofNat 32 (laneVal (doneVals o) l / 2 ^ (32 * k))
/-- Before its completion some lanes of a load or atomic all of whose accesses have been made take their values: for a load, which
writes all lanes at once, those of the later beats, once, which the one instruction spread over three beats that issues meanwhile
reads last; for an atomic any (R124, R212). It is no event of its own in the table. -/
def landAccess (w : WaveId) (n : Nat) (s : State) : Res :=
  match findOp s w n with
  | some o =>
    if !o.acc.isEmpty then .next s else
    let (b, s) := freshBool s
    let (f, s) := freshMask s
    let land := fun (m : Mask) signed => onWave s w fun x => if x.hold == .ended then x else completeIn x o.seq fun a =>
      (List.range o.nreg).foldl (fun a k =>
        let d := o.dst.toNat + k
        setLanes a d (mergeLanes (landMask o 0 d &&& m) (mkLanes (gotWord o signed k)) (regLanes a d))) a
    match o.kind with
    | .load g =>
      if o.landed.isSome then .next s else
      .next (onWave (land (BitVec.allOnes 96 <<< (if b then 64 else 32)) (some g)) w fun x =>
        { x with ops := updWhere (·.id == n) (fun p => { p with landed := some x.seq }) x.ops })
    | .atom _ => .next (land f none)
    | _ => .next s
  | none => .next s

end Sys2Proof.Machine
end

