-- ==== Sys2Proof/Machine/Translate.lean ====
section
/-! DEFINITION. Translation registers, layout records and `publ` (R39, R133 to R135, R292 to R295). -/

namespace Sys2Proof.Machine

/-- The number of a translation register. -/
def txNum : TxN → Fin 7 | .t0 => 0 | .t1 => 1 | .t2 => 2 | .t3 => 3 | .t4 => 4 | .t5 => 5 | .t6 => 6
/-- `xlat`: the register is set from the address and the walk of its page; it raises no fault (R39, R293). -/
def execXlat (a : SReg) (n : TxN) (s : State) : Res :=
  checked (.xlat a n) s fun s =>
    let w := s.cur
    let ad := readPair w.a a
    let id := ad.extractLsb' 40 24
    let page := (ad.extractLsb' 16 24).toNat
    let set := fun o => advance (mapA (issue s) fun x => { x with tx := x.tx.set (txNum n) (txOf x.tx[txNum n] ad o) })
    if id = 0 ∨ id = clusterId then .next (set .absent)
    else match w.xres.find? fun r => r.id == id && r.page == page with
      | some r => .next (set r.out)
      | none => .next (waitWalks s [(id, page)])

/-! ## Layout records (R133 to R135) -/

/-- Bytes of a row (R133). -/
def LayRec.rowBytes (l : LayRec) : Nat := l.dimx * 2 ^ l.esz
/-- Offset of row y in the object (R133). -/
def LayRec.rowOff (l : LayRec) (y : Nat) : Nat := (l.addr.extractLsb' 0 40).toNat + y * l.pitch
/-- The record of a 256-bit image (R133). -/
def recOf (img : BitVec 256) : LayRec :=
  let x := img.toNat
  { image := img, addr := BitVec.ofNat 64 x, dimx := bits x 87 64, dimy := bits x 119 96, pitch := bits x 167 128
    esz := bits x 177 176, rd := false, wr := false, sh := false, kind := .dev, coh := .pkg, frames := [] }
/-- Check 3 of R134. -/
def recFieldsOk (l : LayRec) : Bool :=
  let x := l.image.toNat
  bits x 255 178 == 0 && bits x 175 168 == 0 && bits x 127 120 == 0 && bits x 95 88 == 0 && l.dimx != 0 && l.dimy != 0 &&
  l.pitch % 2 ^ l.esz == 0 && (l.dimy ≤ 1 || l.rowBytes ≤ l.pitch) && (l.addr.extractLsb' 0 40).toNat % 2 ^ l.esz == 0
/-- One past the last byte that a record reaches (R134). -/
def recEnd (l : LayRec) : Nat := l.rowOff (l.dimy - 1) + l.rowBytes
/-- Pages of row y, first and number. -/
def rowPages (l : LayRec) (y : Nat) : Nat × Nat :=
  let p := l.rowOff y / 65536
  (p, (l.rowOff y + l.rowBytes - 1) / 65536 - p + 1)
/-- The pages that a record reaches, ascending; none if there are more than 4,096 (R134). -/
def recPages (l : LayRec) : Option (List Nat) :=
  if l.pitch ≤ 65536 || l.dimy ≤ 1 then
    let p := l.rowOff 0 / 65536
    let n := (recEnd l - 1) / 65536 - p + 1
    if n ≤ 4096 then some (span p n) else none
  else if l.dimy > 4096 then none
  else
    let rows := (List.range l.dimy).map (rowPages l)
    if (rows.map (·.2)).foldl (· + ·) 0 > 8192 then none
    else
      let ps := (rows.foldl (fun acc r => match acc with
        | x :: _ => ((span r.1 r.2).filter (x < ·)).reverse ++ acc
        | [] => (span r.1 r.2).reverse) []).reverse
      if ps.length ≤ 4096 then some ps else none
/-- The lowest byte that a record reaches in a page (R134, R436). -/
def pageLow (l : LayRec) (p : Nat) : Nat :=
  let a := p * 65536
  let y := (a - l.rowOff 0) / l.pitch
  if a ≤ l.rowOff 0 then l.rowOff 0
  else if a < l.rowOff y + l.rowBytes then a else l.rowOff (y + 1)
/-- One past the highest byte that a record reaches in a page. -/
def pageHigh (l : LayRec) (p : Nat) : Nat :=
  let e := p * 65536 + 65536
  let y := Nat.min (l.dimy - 1) ((e - 1 - l.rowOff 0) / l.pitch)
  Nat.min e (l.rowOff y + l.rowBytes)
/-- What the registration of a record comes to: a cause with its address, a migration wait, or the record with its
frames and permissions. -/
inductive LayOut
  | fault (c : Cause) (ad : BitVec 64)
  | wait (id : BitVec 24)
  | walks (ps : List (BitVec 24 × Nat))
  | ok (l : LayRec)
  deriving DecidableEq, Repr
/-- What is known of the pages of objects: of each, a translation or a walk to make. -/
abbrev PageView := BitVec 24 → Nat → Option WalkOut
/-- The pages of a context with every walk made at once (log entry 9). -/
def nowView (s : State) (pkg ctx : Nat) : PageView := fun id p => some (walkPage s pkg ctx id.toNat p)
/-- Those of a list of pages that are still to be walked. -/
def unknown (view : PageView) (id : BitVec 24) (ps : List Nat) : List (BitVec 24 × Nat) :=
  (ps.filter fun p => (view id p).isNone).map fun p => (id, p)
/-- A page as it is known; absent where it is not. -/
def seen (view : PageView) (id : BitVec 24) (p : Nat) : WalkOut := (view id p).getD .absent
/-- Pages of the issuing wave used by its core: the L1 TLB takes those that only the die TLB holds (R41). -/
def usePages (s : State) (id : BitVec 24) (ps : List Nat) : State := ps.foldl (fun s p => copyTlb s s.cur id p) s
/-- Checks 3 to 5 of R134 and the frames recorded (R51). -/
def register (view : PageView) (pkg : Nat) (img : BitVec 256) : LayOut :=
  let l := recOf img
  let id := l.addr.extractLsb' 40 24
  if !recFieldsOk l then .fault .rsvf 0
  else if recEnd l > 2 ^ 40 then .fault .bounds 0
  else match recPages l with
    | none => .fault .bounds 0
    | some ps =>
      if id != 0 && !(unknown view id ps).isEmpty then .walks (unknown view id ps) else
      let out := fun p => checkWalk pkg id (pageLow l p) (pageHigh l p - pageLow l p) 0 false false (seen view id p)
      let bad : Option (Cause × Nat) := ps.findSome? fun p => match out p with
        | .fault _ c => some (c, p)
        | _ => none
      let waits : Bool := ps.any fun p => match out p with
        | .wait _ => true
        | _ => false
      match bad with
      | some (c, p) => .fault c (objAddr id.toNat (pageLow l p))
      | none =>
        if waits then .wait id else
        match seen view id (ps.headD 0) with
        | .found _ perm sh k c _ _ _ =>
          let fr : List (Nat × BitVec 40) := ps.filterMap fun p => match seen view id p with
            | .found _ _ _ _ _ (.frame f) _ _ => some (p, f)
            | _ => none
          .ok { l with rd := perm.getLsbD 0, wr := perm.getLsbD 1, sh := sh, kind := k, coh := c, frames := fr }
        | .absent => .fault .noxl 0
/-- The place of a byte of a record's object at its recorded frame (R52). -/
def recTarget (pkg : Nat) (l : LayRec) (off : Nat) : Target :=
  let f : BitVec 40 := ((l.frames.find? fun e => e.1 == off / 65536).map fun e => e.2).getD 0
  frameTarget pkg l.kind l.coh f.toNat (off % 65536)
/-- PINCNT of an object changed by an atomic add at the home of its entry, with all tokens there (R34, R64). -/
def addPin (s : State) (c : Ctx) (id : Nat) (d : Nat) : State :=
  let a := entryAddr c id + 16
  let n := memNat s.mem a 2
  homeDone (writeHome s (sectorOf a) (a % 64) (bytesOf 2 ((n + d) % 65536))) (sectorOf a)
/-- The records on a core, registered or to be registered again (R135). -/
def coreRecords (s : State) (c : CoreId) : Nat :=
  ((s.blocks.filter fun b => b.core == c && (b.state == .resident || b.state == .stopping)).map fun b => b.recs.length + b.unreg.length).foldl (· + ·) 0
/-- The lowest handle not in use (R293). -/
def freeHandle (b : Block) : Nat := ((List.range 8).find? fun h => !b.recs.any (·.1 == h) && !b.unreg.any (·.1 == h)).getD 8
/-- The block of a wave, or an empty one. -/
def blockOf (s : State) (w : Wave) : Block :=
  (getBlock s w.blk).getD { id := w.blk, pkg := pkgOf w.id.cd, ctx := w.ctx, core := coreId w.id, base := 0, size := 0, vregs := 0
                            nwaves := 0, csize := 1, state := .retired, recs := [], matrix := false, written := false, liveW := []
                            area := 0, oldArea := none, erets := 0, placed := 0 }
/-- The wave is killed for a poisoned word it has read from its scratchpad (R58). -/
def killPoison (s : State) (w : Wave) (ad : BitVec 64) : State := killWave s w .poison w.a.pc ad w.a.trap
/-- `layreg` (R51, R134, R135, R293). -/
def execLayreg (a d : SReg) (s : State) : Res :=
  checked (.layreg a d) s fun s =>
    let w := s.cur
    let b := blockOf s w
    let off := (readS w.a a).toNat
    let pkg := pkgOf w.id.cd
    if off % 32 != 0 then .next (parkActive s .align 0)
    else if off + 32 > b.size then .next (parkActive s .bounds 0)
    else if scrBusy w b.core (b.base + off) 32 then .next (stallBy .leave s)
    else if scrViewPois s w b.core (b.base + off) 32 then .next (killPoison s w 0)
    else match register (pageView s w) pkg (BitVec.ofNat 256 (scrView s w b.core (b.base + off) 32)) with
      | .fault c ad => .next (parkActive s c ad)
      | .wait id => .next (holdMigration s id)
      | .walks ps => .next (waitWalks s ps)
      | .ok l =>
        let s := usePages s (l.addr.extractLsb' 40 24) (l.frames.map (·.1))
        let full := b.recs.length ≥ 8 || coreRecords s b.core ≥ 32
        let c := getCtx s pkg w.ctx
        let id := (l.addr.extractLsb' 40 24).toNat
        let (ok, s') := homeGather s [sectorOf (entryAddr c id)]
        if full then .next (setS (advance (issue s)) d 0xFFFFFFFF)
        else if !w.window.isEmpty then .next (stallBy .leave s)
        else if !ok then .next (stallBy .leave s')
        else
          let h := freeHandle b
          let s := onBlock (addPin s' c id 1) b.id fun b => { b with recs := b.recs ++ [(h, l)] }
          .next (setS (advance (issueNow s)) d (BitVec.ofNat 32 h))
/-- The entry sectors whose PINCNT the release of records changes. -/
def pinSectors (s : State) (pkg ctx : Nat) (ls : List LayRec) : List Nat :=
  dedup (ls.map fun l => sectorOf (entryAddr (getCtx s pkg ctx) (l.addr.extractLsb' 40 24).toNat))
/-- Records released: one subtracted from each object's PINCNT (R51, R294). -/
def unpin (s : State) (pkg ctx : Nat) (ls : List LayRec) : State :=
  ls.foldl (fun s l => addPin s (getCtx s pkg ctx) (l.addr.extractLsb' 40 24).toNat 65535) s
/-- `layrel` (R135, R294). -/
def execLayrel (a : SReg) (s : State) : Res :=
  checked (.layrel a) s fun s =>
    let w := s.cur
    let b := blockOf s w
    let h := (readS w.a a).toNat
    match b.recs.find? (·.1 == h) with
    | none => .next (advance (issue s))
    | some (_, l) =>
      let busy := (getCore s b.core).reqs.any fun q => q.blk == b.id && q.handle == h
      let pkg := pkgOf w.id.cd
      let (ok, s') := homeGather s (pinSectors s pkg w.ctx [l])
      if busy then .next (stallBy .leave s)
      else if !w.window.isEmpty then .next (stallBy .leave s)
      else if !ok then .next (stallBy .leave s')
      else
        let s := onBlock (unpin s' pkg w.ctx [l]) b.id fun b => { b with recs := b.recs.filter (·.1 != h) }
        .next (advance (issueNow s))

/-! ## `publ` (R130, R295) -/

/-- Why a `publ` does not go on: a fault that names the target or the shadow, or a migration wait (R295, R436). -/
inductive PublOut
  | fault (c : Cause) (shadow : Bool) | wait (id : BitVec 24) | ok (eo es : Nat)
  deriving DecidableEq, Repr
/-- The checks of R295, in order, on the entries as they stand. -/
def publCheck (s : State) (pkg ctx : Nat) (o h : BitVec 24) : PublOut :=
  let c := getCtx s pkg ctx
  if o = 0 ∨ o = clusterId then .fault .bounds false
  else if h = 0 ∨ h = clusterId then .fault .bounds true
  else match validEntry s c o.toNat, validEntry s c h.toNat with
    | none, _ => .fault .noxl false
    | _, none => .fault .noxl true
    | some eo, some es =>
      if bitOf eo 43 || !bitOf eo 41 then .fault .perm false
      else if !bitOf es 43 then .fault .perm true
      else if bits eo 39 0 != bits es 39 0 then .fault .bounds false
      else if bits eo 143 128 != 0 then .fault .perm false
      else if bits es 143 128 != 0 then .fault .perm true
      else if bits eo 49 48 = 1 then .wait o
      else if bits es 49 48 = 1 then .wait h
      else .ok eo es
/-- An entry with the extent list of another (R295). -/
def withExtents (e f : Nat) : Nat := setBits (setBits e 104 70 (bits f 104 70)) 127 112 (bits f 127 112)
/-- `publ`: checks, a sys-scope release, the swap under all tokens of both entries at their home, and the invalidation of
both objects, which the wave waits for (R295). -/
def execPubl (a b : SReg) (s : State) : Res :=
  checked (.publ a b) s fun s =>
    let w := s.cur
    let pkg := pkgOf w.id.cd
    let c := getCtx s pkg w.ctx
    let ao := readPair w.a a
    let ah := readPair w.a b
    let o := ao.extractLsb' 40 24
    let h := ah.extractLsb' 40 24
    match publCheck s pkg w.ctx o h with
    | .fault cause shadow => .next (parkActive s cause (if shadow then ah else ao))
    | .wait id => .next (holdMigration s id)
    | .ok eo es =>
      if !released s w .sys then .next (waitRelease s)
      else if !w.window.isEmpty then .next (stallBy .leave s)
      else
        let po := entryAddr c o.toNat
        let ph := entryAddr c h.toNat
        let (ok, s) := homeGather s (dedup [sectorOf po, sectorOf ph])
        if !ok then .next (stallBy .leave s)
        else
          let s := writeHome s (sectorOf po) (po % 64) (bytesOf 32 (withExtents eo es))
          let s := writeHome s (sectorOf ph) (ph % 64) (bytesOf 32 (withExtents es eo))
          let s := homeDone (homeDone s (sectorOf po)) (sectorOf ph)
          let s := advance (issueNow s)
          let (k1, s) := startInval s pkg w.ctx o 0 0 none
          let (k2, s) := startInval s pkg w.ctx h 0 0 none
          .next (holdCur s (.inval [k1, k2]))

end Sys2Proof.Machine
end

