-- ==== Sys2Proof/Machine/Groups.lean ====
section
/-! DEFINITION. Groups and barriers at their homes (R163 to R167), and the barrier and group instructions
(R305 to R308). -/

namespace Sys2Proof.Machine

/-- A group at its home, if it exists. -/
def getGroup (s : State) (g : GroupRef) : Option Group := s.groups.find? (·.ref == g)
/-- f applied to a group. -/
def onGroup (s : State) (g : GroupRef) (f : Group → Group) : State := { s with groups := updWhere (·.ref == g) f s.groups }
/-- The barrier number. -/
def barNum : Bar4 → Fin 4 | .b0 => 0 | .b1 => 1 | .b2 => 2 | .b3 => 3
/-- A wave that waits at a barrier goes on, with the status in its register (R305). -/
def finishBar (s : State) (w : WaveId) (x : Word) : State :=
  onWave s w fun v => match v.hold with
    | .bar _ _ d _ => { v with hold := .ready, a := writeS (isHandler v) v.a d x }
    | _ => v
/-- A phase completes where M ≥ 1, A ≥ M and R ≥ Q: every waiting arrival completes normally, surplus remote arrivals
carry over (R166). -/
def finishPhase (s : State) (g : GroupRef) (n : Fin 4) : State :=
  match getGroup s g with
  | none => s
  | some x =>
    let b := x.bars[n]
    if x.members.length ≥ 1 && b.arrived.length ≥ x.members.length && b.r ≥ b.q then
      let s := onGroup s g fun x => { x with bars := x.bars.set n { arrived := [], q := 0, r := b.r - b.q } }
      b.arrived.foldl (fun s w => finishBar s w 0) s
    else s
/-- Every barrier of a group after an event at its home (R166). -/
def checkPhases (s : State) (g : GroupRef) : State := ([0, 1, 2, 3] : List (Fin 4)).foldl (fun s n => finishPhase s g n) s
/-- A group becomes abandoned: its waiting arrivals complete with BAR_ABANDONED (R167). -/
def abandon (s : State) (g : GroupRef) : State :=
  match getGroup s g with
  | none => s
  | some x =>
    let ws := x.bars.toList.flatMap (·.arrived)
    let s := onGroup s g fun x => { x with abandoned := true, bars := x.bars.map fun b => { b with arrived := [], q := 0 } }
    ws.foldl (fun s w => finishBar s w 1) s
/-- A member leaves; a joined group without members dissolves (R163, R165). -/
def leaveGroup (s : State) (g : GroupRef) (m : Member) : State :=
  let s := onGroup s g fun x => { x with members := x.members.filter (· != m) }
  let s := match g with
    | .block _ => s
    | _ => { s with groups := s.groups.filter fun x => !(x.ref == g && x.members.isEmpty) }
  checkPhases s g
/-- The core of the block of rank 0 of a cluster. -/
def clusterHome (s : State) (launch cl : Nat) : Option CoreId :=
  (s.blocks.find? fun b => b.id.launch == launch && b.id.idx == cl * b.csize).map (·.core)
/-- The cores on which a joined group takes an entry (R164). -/
def groupCores (s : State) (x : Group) : List CoreId :=
  match x.ref with
  | .block _ => []
  | .core _ c _ => [c]
  | .cluster _ l cl _ => dedup ((clusterHome s l cl).toList ++ x.members.filterMap fun m => (getBlock s m.blk).map (·.core))
/-- Joined-group entries in use on a core (R164). -/
def groupEntries (s : State) (c : CoreId) : Nat := (s.groups.filter fun x => (groupCores s x).contains c).length
/-- The cores on which a join would need a new entry (R164). -/
def newEntries (s : State) (g : GroupRef) (c : CoreId) : List CoreId :=
  let have_ := match getGroup s g with
    | some x => groupCores s x
    | none => []
  let need := match g with
    | .cluster _ l cl _ => dedup (c :: (clusterHome s l cl).toList)
    | _ => [c]
  need.filter fun k => !have_.contains k
/-- A join at the group's home (R163, R164): the membership count after it, or failure, where a wave that is a member already fails
too. -/
def joinGroup (s : State) (w : Wave) (g : GroupRef) (d : SReg) : State :=
  let done := fun s x => onWave s w.id fun v => { v with hold := .ready, a := writeS (isHandler v) v.a d x }
  let isMember := (getGroup s g).any fun x => x.members.contains (memberOf w)
  if isMember || (newEntries s g (coreId w.id)).any fun c => groupEntries s c ≥ 16 then done s 0xFFFFFFFF
  else
    let s := if (getGroup s g).isSome then s else { s with nextId := s.nextId + 1, groups := s.groups ++ [{ ref := g, born := s.nextId }] }
    let s := onGroup s g fun x => { x with members := x.members ++ [memberOf w] }
    let m := ((getGroup s g).map (·.members.length)).getD 0
    let s := onWave s w.id fun v => { v with groups := v.groups ++ [g] }
    checkPhases (done s (BitVec.ofNat 32 m)) g
/-- The instruction that sent a group event has committed (R370). -/
def groupMsgReady (s : State) (m : GroupMsg) : Bool :=
  let by_ := fun w : WaveId => match getWave s w with
    | some x => x.window.all fun p => p.seq != m.seq
    | none => true
  match m.ev with
  | .join w _ _ => by_ w
  | .leave w _ _ _ => by_ w
  | .arrive w _ _ _ => by_ w
  | .remote w _ _ => by_ w
  | .kill _ _ => true
/-- The effect of a group event at the group's home (R165 to R167). A kill abandons before it counts as a leave: no wave that
waits then completes normally (R167). -/
def groupEffect (s : State) (e : GroupEv) : State :=
  match e with
  | .join w g d => match getWave s w with
    | some x => if x.hold == .join d then joinGroup s x g d else s
    | none => s
  | .leave w g resume m =>
    let s := leaveGroup s g m
    if resume then onWave s w fun v => if v.hold == .leave then { v with hold := .ready, groups := v.groups.filter (· != g) } else v
    else s
  | .arrive w g n q => match getGroup s g with
    | none => finishBar s w 1
    | some x =>
      if x.abandoned then finishBar s w 1
      else
        let s := onWave s w fun v => match v.hold with
          | .bar g n d _ => { v with hold := .bar g n d true }
          | _ => v
        let k := barNum n
        let s := onGroup s g fun x =>
          { x with bars := x.bars.set k { x.bars[k] with arrived := x.bars[k].arrived ++ [w], q := Nat.max x.bars[k].q q } }
        checkPhases s g
  | .remote w g n =>
    let k := barNum n
    let s := onGroup s g fun x => { x with bars := x.bars.set k { x.bars[k] with r := x.bars[k].r + 1 } }
    checkPhases (onWave s w fun v => if v.hold == .barr then { v with hold := .ready } else v) g
  | .kill m gs => gs.foldl (fun s g => leaveGroup (abandon s g) g m) s
/-- A remote arrival waits while R is 255 (R166). -/
def remoteWaits (s : State) (e : GroupEv) : Bool :=
  match e with
  | .remote _ g n => ((getGroup s g).map fun x => x.bars[barNum n].r == 255).getD false
  | _ => false
/-- A group event reaches the group's home (R165). -/
def execGroupEventArrival (n : Nat) (s : State) : Res :=
  match s.groupMsgs[n]? with
  | none => .next s
  | some m =>
    if !groupMsgReady s m || remoteWaits s m.ev then .next s
    else .next (groupEffect { s with groupMsgs := dropAt n s.groupMsgs } m.ev)

/-- The scope at which a barrier of a group releases and acquires (R307). -/
def groupScope : GroupRef → Scope | .cluster .. => .cluster | _ => .group
/-- `bar`: a release at the group's scope, then the arrival (R305, R307). -/
def execBar (a d : SReg) (n : Bar4) (s : State) : Res :=
  checked (.bar a d n) s fun s =>
    let w := s.cur
    let g := currentGroup w
    if !released s w (groupScope g) then .next (waitRelease s)
    else
      let q := (readS w.a a).toNat % 256
      let s := advance (issue s)
      .next (holdCur (sendGroup s s.cur.seq (.arrive w.id g n q)) (.bar g n d false))
/-- `barr`: a remote arrival at a barrier of the block group of a cluster rank (R306). -/
def execBarr (a : SReg) (n : Bar4) (s : State) : Res :=
  checked (.barr a n) s fun s =>
    let w := s.cur
    let b := blockOf s w
    let rank := (readS w.a a).toNat
    if rank ≥ b.csize then .next (parkActive s .mcrange 0)
    else if !released s w .cluster then .next (waitRelease s)
    else
      let s := advance (issue s)
      match clusterMember s w.blk rank with
      | none => .next s
      | some m =>
        if m.state = .retired then .next s
        else .next (holdCur (sendGroup s s.cur.seq (.remote w.id (.block m.id) n)) .barr)
/-- The group that `gjoin` names (R163, R308). -/
def joinRef (s : State) (w : Wave) (k : Word) (g : GScope) : GroupRef :=
  match g with
  | .core => .core w.ctx (coreId w.id) k
  | .cluster => .cluster w.ctx w.blk.launch (w.blk.idx / (blockOf s w).csize) k
/-- The membership count of a group. -/
def memberCount (s : State) (g : GroupRef) : Nat := ((getGroup s g).map (·.members.length)).getD 0
/-- The blocks of a group: its members', and those of the waves whose join is on its way (R171). -/
def groupBlocks (s : State) (g : GroupRef) : List BlockId :=
  ((getGroup s g).map fun x => x.members.map (·.blk)).getD [] ++ s.groupMsgs.filterMap fun m => match m.ev with
    | .join w h _ => if h = g then (getWave s w).map (·.blk) else none
    | _ => none
/-- A block has been chosen as a victim and not yet been freed (R172). -/
def blockStops (s : State) (b : BlockId) : Bool := (getBlock s b).any fun x => x.state == .stopping
/-- A join that would tie a block to a victim set after its choice waits: another block's until the set is freed, the victim's own
for its PREEMPT trap. One in trap state of a victim does not wait: it widens the set instead; after the records of the set are written it is made and
widens nothing (R171; log entry 84). -/
def joinWaits (s : State) (w : Wave) (g : GroupRef) : Bool :=
  if blockStops s w.blk then !w.a.trap else (groupBlocks s g).any (blockStops s)
/-- The joined groups of a wave: those it knows, and those that its home has it in (R163, R173). -/
def joinedGroups (s : State) (w : Wave) : List GroupRef := (groupsOf s w).filter (· != .block w.blk)
/-- `gjoin` (R164, R308). One of the current group succeeds even where the wave has three joined groups (log entry 103). -/
def execGjoin (a d : SReg) (g : GScope) (s : State) : Res :=
  checked (.gjoin a d g) s fun s =>
    let w := s.cur
    let r := joinRef s w (readS w.a a) g
    if joinWaits s w r then .next (stallBy .leave s) else
    let s := advance (issue s)
    if currentGroup w = r then .next (setS s d (BitVec.ofNat 32 (memberCount s r)))
    else if (joinedGroups s w).contains r || (joinedGroups s w).length ≥ 3 then .next (setS s d 0xFFFFFFFF)
    else .next (holdCur (sendGroup s s.cur.seq (.join w.id r d)) (.join d))
/-- `gleave`: it changes nothing where the block group is current (R164, R308). -/
def execGleave (s : State) : Res :=
  checked .gleave s fun s =>
    let w := s.cur
    let s := advance (issue s)
    match w.groups.getLast? with
    | none => .next s
    | some g => .next (holdCur (sendGroup s s.cur.seq (.leave w.id g true (memberOf w))) .leave)
/-- The current group of a wave as it stands at its home; none once a handler's has dissolved, even where another has been
created under its key since (R163, R308). -/
def standingGroup (s : State) (w : Wave) : Option Group :=
  (getGroup s (currentGroup w)).filter fun x => w.handler.all fun h => h.born == x.born
/-- The word of a `ginfo` selector (R308). -/
def ginfoWord (s : State) (w : Wave) (sel : GinfoSel) : Word :=
  let g := currentGroup w
  let joined := match w.handler with
    | some h => h.joined
    | none => w.groups.length
  let isBlock := match g with
    | .block b => b == w.blk
    | _ => false
  match sel with
  | .count => BitVec.ofNat 32 (((standingGroup s w).map (·.members.length)).getD 0)
  | .key => groupKey g
  | .info => BitVec.ofNat 32 (b2n (((standingGroup s w).map (·.abandoned)).getD false) + 2 * b2n (groupIsCluster g) + 4 * b2n isBlock +
      8 * joined)
/-- `ginfo` (R308). -/
def execGinfo (d : SReg) (s : GinfoSel) (st : State) : Res :=
  checked (.ginfo d s) st fun st => .next (setS (advance (issue st)) d (ginfoWord st st.cur s))

end Sys2Proof.Machine
end

