-- ==== Sys2Proof/Machine/Sync.lean ====
section
/-! DEFINITION. Fences, waits on a word, and the other synchronisation instructions (R303, R304, R309 to R312). -/

namespace Sys2Proof.Machine

/-- A fence: it completes when its conditions hold; the write-combining buffer drains whatever the scope
(R70, R123, R304). -/
def fenceOp (i : Instr) (sc : Scope) (s : State) : Res :=
  checked i s fun s => .next (if released s s.cur sc then advance (issue s) else waitRelease s)
/-- An acquire fence waits for the wave's earlier accesses and the drained buffer (R70, R123, R304). -/
def execFenceAcq (sc : Scope) (s : State) : Res := fenceOp (.fenceAcq sc) .wave s
/-- A release fence (R304). -/
def execFenceRel (sc : Scope) (s : State) : Res := fenceOp (.fenceRel sc) sc s
/-- An acq_rel fence (R304). -/
def execFenceAr (sc : Scope) (s : State) : Res := fenceOp (.fenceAr sc) sc s
/-- A sequentially consistent fence (R120, R304). -/
def execFenceSc (sc : Scope) (s : State) : Res := fenceOp (.fenceSc sc) sc s

/-! ## `waita` (R309) -/

/-- The condition of a `waita` on a word (R309). -/
def condMet (c : WaitCond) (y x : Word) : Bool :=
  match c with
  | .eq => y == x
  | .ne => y != x
  | .geu => x.toNat ≤ y.toNat
  | .ges => x.toInt ≤ y.toInt
  | .anyBit => y &&& x != 0
/-- The end of a timeout in ns from now; none for 0 (R23, R309, R310). -/
def timeoutAt (s : State) (cd : Nat) (ns : Word) : Option Nat × State :=
  if ns = 0 then (none, s) else
    let (t, s) := sampleTime s cd
    (some (t.toNat + 16 * ns.toNat), s)
/-- The word of a scratchpad access as the wave reads it (R114). -/
def viewWord (s : State) (w : Wave) (x : LaneAcc) : Word := BitVec.ofNat 32 (viewNat s w x.tgt 4)
/-- `waita`: the word is read at issue, behind what the wave still has to do to it (R114); met, it is an acquire read, else the
wave sleeps (R309). A poisoned word kills the wave (R58). -/
def execWaita (a d : SReg) (c : WaitCond) (s : State) : Res :=
  checked (.waita a d c) s fun s =>
    let w := s.cur
    let off := (readS w.a a).toNat
    let x := readBlk w.a a 1
    let b := blockOf s w
    if off % 4 != 0 then .next (parkActive s .align 0)
    else if off + 4 > b.size then .next (parkActive s .bounds 0)
    else
      let acc : LaneAcc := ⟨0, ⟨.scr b.core, b.base + off, .dev, .none⟩, BitVec.ofNat 64 off, 4, 0, 0⟩
      if scrBusy w b.core (b.base + off) 4 then .next (stallBy .leave s)
      else if viewPoison s w acc.tgt 4 then .next (killPoison s w 0)
      else
        let y := viewWord s w acc
        if condMet c y x then .next (setS (advance (issue s)) d y)
        else
          let (till, s) := timeoutAt s w.id.cd (readBlk w.a a 2)
          .next (holdCur (advance (issue s)) (.waita d acc x c till))
/-- A sleeping `waita` wave reads its word; `done` says whether the read ends the sleep. -/
def waitaRead (s : State) (w : WaveId) (done : Wave → Word → State → Option State) : Res :=
  match getWave s w with
  | none => .next s
  | some v => match v.hold with
    | .waita d acc _ _ _ =>
      if viewPoison s v acc.tgt 4 then .next (killWave s v .poison (v.a.pc - 4) 0 v.a.trap)
      else
        let y := viewWord s v acc
        match done v y s with
        | none => .next s
        | some s => .next (onWave s w fun v => { v with hold := .ready, a := writeS (isHandler v) v.a d y })
    | _ => .next s
/-- The word of a sleeping `waita` is read again after a write to it (R309). -/
def execWaitaReread (w : WaveId) (s : State) : Res :=
  waitaRead s w fun v y s => match v.hold with
    | .waita _ _ x c _ => if condMet c y x then some s else none
    | _ => none
/-- A TIME that has come to a mark. -/
def atLeast (till : Nat) (t : TimeSt) : TimeSt := if t.time.toNat < till then { t with time := BitVec.ofNat 64 till } else t
/-- A die's TIME has reached a mark: a sample at or after it, and so has its reference (R23, R26; log entry 3). -/
def timeReached (s : State) (die till : Nat) : State :=
  onTime (sampleTime (onTime s (timeRef s die) (atLeast till)) die).2 die (atLeast till)
/-- The timeout of a `waita` expires: the word is read, and the instruction completes (R309). -/
def execWaitaTimeout (w : WaveId) (s : State) : Res :=
  waitaRead s w fun v _ s => match v.hold with
    | .waita _ _ _ _ (some t) => some (timeReached s w.cd t)
    | _ => none

/-! ## `mwait` (R103, R104, R310) -/

/-- The monitors in use at a die (R103). -/
def monitorsUsed (s : State) (cd : Nat) : Nat := (s.sectors.filter fun e => e.cd == cd && e.monitor).length
/-- A wave sleeps on the monitor of a sector, to the end of its timeout (R103, R310). -/
def mwaitSleep (s : State) (d a : SReg) (x : Nat) : State :=
  let (till, s) := timeoutAt s s.cur.id.cd (readBlk s.cur.a a 3)
  let s := onSec s s.cur.id.cd x fun k => { k with monitor := true }
  holdCur (advance (issue s)) (.mwait d x till)
/-- `mwait` on a sector whose home is lost: the data is all ones, STAT.RLOST is set, and with MODE.RLT the trap comes at the next
boundary (R102, R213, R310). It waits for the commit of what is before it (log entry 14). Where the word is the expected one it
sleeps, and only the timeout ends that (log entry 102). -/
def mwaitLost (s : State) (d a : SReg) (ad : BitVec 64) (x : Nat) : State :=
  let w := s.cur
  if !w.window.isEmpty then stallBy .leave s
  else
    let lost := fun (t : State) => noteLost { t with cur := { t.cur with window := [] } } w.id t.cur.seq w.a.pc (modeRlt w.a.mode) (some ad)
    if readBlk w.a a 2 != 0xFFFFFFFF then lost (setS (advance (issue s)) d 0)
    else if monitorsUsed s w.id.cd ≥ 512 then lost (setS (advance (issue s)) d 2)
    else lost (mwaitSleep s d a x)
/-- `mwait` (R310). -/
def execMwait (a d : SReg) (s : State) : Res :=
  checked (.mwait a d) s fun s =>
    let w := s.cur
    let ad := readPair w.a a
    let id := ad.extractLsb' 40 24
    let e := (ad.extractLsb' 0 40).toNat
    let ends := fun s x => Host.Outcome.next (setS (advance (issue s)) d x)
    if e % 4 != 0 then .next (parkActive s .align ad)
    else if id = clusterId then ends s 2
    else match translate s w 0b001 id e 4 with
      | .walk id p => .next (waitWalks s [(id, p)])
      | .fault _ c => .next (parkActive s c ad)
      | .wait id => .next (holdMigration s id)
      | .ok t =>
        let s := copyTlbAt s w ad
        if !isCoherent t then ends s 2
        else
          let x := sectorOf t.addr
          let s := markPod s (pkgOf w.id.cd) w.ctx x t.coh
          let k := getSec s w.id.cd x
          if lostHome s (pkgOf w.id.cd) w.ctx t then .next (mwaitLost s d a ad x)
          else if !canRead k then .next (stallBy .leave (postReq s w.id.cd x false))
          else if k.wakeDue then .next (stallBy .leave s)
          else
            let s := opDone s w.id.cd x
            if k.poison then ends s 0
            else if devNat s t.addr 4 != (readBlk w.a a 2).toNat then ends s 0
            else if monitorsUsed s w.id.cd ≥ 512 then ends s 2
            else .next (mwaitSleep s d a x)
/-- Every sleeper on a monitor wakes with 0, and the entry is freed (R104, R310). -/
def execMonitorWake (cd sector : Nat) (s : State) : Res :=
  if !(getSec s cd sector).wakeDue then .next s
  else
    let s := onSec s cd sector fun d => { d with monitor := false, wakeDue := false }
    .next (mapWaves s fun w => match w.hold with
      | .mwait d y _ => if w.live && w.id.cd == cd && y == sector then
          { w with hold := .ready, a := writeS (isHandler w) w.a d 0 } else w
      | _ => w)
/-- A monitor without sleepers is freed (R103). -/
def freeMonitor (s : State) (cd x : Nat) : State :=
  let used := (allWaves s).any fun w => w.live && w.id.cd == cd && (match w.hold with
    | .mwait _ y _ => y == x
    | _ => false)
  if used then s else onSec s cd x fun k => { k with monitor := false, wakeDue := false }
/-- The timeout of a `mwait` expires: it completes with 1 (R310). -/
def execMwaitTimeout (w : WaveId) (s : State) : Res :=
  match getWave s w with
  | none => .next s
  | some v => match v.hold with
    | .mwait d x (some t) =>
      let s := onWave (timeReached s w.cd t) w fun v => { v with hold := .ready, a := writeS (isHandler v) v.a d 1 }
      .next (freeMonitor s w.cd x)
    | _ => .next s
/-- The duration of a `sleep` passes (R248). -/
def execSleepExpiry (w : WaveId) (s : State) : Res :=
  match getWave s w with
  | none => .next s
  | some v => match v.hold with
    | .sleep t => .next (onWave (timeReached s w.cd t) w fun v => { v with hold := .ready })
    | _ => .next s

/-! ## `dist` and `lnch` (R311, R312) -/

/-- The physical unit 0 to 15 of a virtual die, if it is bound (R17). -/
def physDie (c : Ctx) (v : Nat) : Option Nat :=
  if v < 8 then (if bits c.vdt.toNat (4 * v + 3) (4 * v) < 8 then some (bits c.vdt.toNat (4 * v + 3) (4 * v)) else none)
  else if v < 16 then some v else none
/-- |a − b|. -/
def absDiff (a b : Nat) : Nat := (a - b) + (b - a)
/-- The hop distance between two units of a package: a memory-side die stands at its column on its edge (R12, R16). -/
def hops (a b : Nat) : Nat := absDiff (a % 8 / 4) (b % 8 / 4) + absDiff (a % 4) (b % 4)
/-- `dist` (R311). -/
def execDist (a d : SReg) (s : State) : Res :=
  checked (.dist a d) s fun s =>
    let c := getCtx s (pkgOf s.cur.id.cd) s.cur.ctx
    let x := (readS s.cur.a a).toNat
    let r : Word := match physDie c (bits x 7 0), physDie c (bits x 15 8) with
      | some p, some q => BitVec.ofNat 32 (hops p q)
      | _, _ => 0xFFFFFFFF
    .next (setS (advance (issue s)) d r)

/-- A launch queue of a package; one that is not listed is as after reset. -/
def getQueue (s : State) (pkg q : Nat) : Queue := (s.queues.find? fun x => x.pkg == pkg && x.q == q).getD { pkg := pkg, q := q }
/-- f applied to a launch queue. -/
def onQueue (s : State) (pkg q : Nat) (f : Queue → Queue) : State :=
  { s with queues := upsert (fun x => x.pkg == pkg && x.q == q) f { pkg := pkg, q := q } s.queues }
/-- Slots of a queue's ring (R345). -/
def ringSize (q : Queue) : Nat := 2 ^ Nat.max 1 (bits q.qctl.toNat 3 0)
/-- The address of a queue's slot (R345). -/
def slotAddr (q : Queue) (k : Nat) : Nat := q.pkg * 2 ^ 44 + bits q.qbase.toNat 40 7 * 128 + 128 * (k % ringSize q)
/-- `lnch`: a sys-scope release, then the record goes to the queue's tail slot as one acknowledged step (R312, R346). -/
def execLnch (a d : SReg) (s : State) : Res :=
  checked (.lnch a d) s fun s =>
    let w := s.cur
    let b := blockOf s w
    let n := (readS w.a a).toNat
    let off := (readBlk w.a a 1).toNat
    let pkg := pkgOf w.id.cd
    let core := getCore s b.core
    let q := getQueue s pkg n
    let tail := q.tail.toNat % ringSize q
    if off % 64 != 0 then .next (parkActive s .align 0)
    else if off + 128 > b.size then .next (parkActive s .bounds 0)
    else if !released s w .sys then .next (waitRelease s)
    else if scrPois core (b.base + off) 128 then .next (killPoison s w 0)
    else if n > 255 || bits q.qbase.toNat 63 48 != w.ctx then .next (setS (advance (issue s)) d 2)
    else if (tail + 1) % ringSize q = q.head.toNat % ringSize q then .next (setS (advance (issue s)) d 1)
    else if !w.window.isEmpty then .next (stallBy .leave s)
    else
      let k := sectorOf (slotAddr q tail)
      let (ok, s) := homeGather s [k, k + 1]
      if !ok then .next (stallBy .leave s)
      else
        let bs := scrBytes core (b.base + off) 128
        let s := writeHome (writeHome s k 0 (bs.take 64)) (k + 1) 0 (bs.drop 64)
        let s := homeDone (homeDone s k) (k + 1)
        let s := onQueue s pkg n fun q => { q with tail := BitVec.ofNat 16 ((tail + 1) % ringSize q) }
        .next (setS (advance (issueNow s)) d 0)

end Sys2Proof.Machine
end

