-- ==== Sys2Proof/Machine/Engines.lean ====
section
/-! DEFINITION. The collective engine (R296, R298, R299) and the copy and bulk engine (R136 to R154, R297,
R401, R402). -/

namespace Sys2Proof.Machine

/-! ## Ranges of object space for engines -/

/-- A page's part of a range of an object: offset, length. -/
def rangePages (off n : Nat) : List (Nat × Nat) :=
  if n = 0 then [] else
  (span (off / 65536) ((off + n - 1) / 65536 - off / 65536 + 1)).map fun p =>
    let a := Nat.max off (p * 65536)
    (a, Nat.min (off + n) (p * 65536 + 65536) - a)
/-- What a range of an object comes to: the first failing page's cause with its lowest failing byte, a migration wait, walks to make,
or the place of each page's part. -/
inductive RangeOut
  | fault (c : Cause) (ad : BitVec 64)
  | wait (id : BitVec 24)
  | walks (ps : List (BitVec 24 × Nat))
  | ok (ps : List (Nat × Nat × Target)) (sh : Bool)
  deriving DecidableEq, Repr
/-- The range leaves its object (order 4 of R42). -/
def rangeBounds (o : WalkOut) (off n : Nat) : Bool := match o with
  | .found len _ _ _ _ _ _ _ => off + n > len || off + n > 2 ^ 40
  | .absent => false
/-- Orders 2 to 7 of R42 over a range: the length is that of the whole range, the rest is checked page by page. -/
def rangeOut (view : PageView) (pkg : Nat) (conf : Bool) (need : BitVec 3) (wave : Bool) (addr : BitVec 64) (n : Nat) : RangeOut :=
  let id := addr.extractLsb' 40 24
  let off := (addr.extractLsb' 0 40).toNat
  if id = 0 then .fault .bounds addr else
  match view id (off / 65536) with
  | none => .walks [(id, off / 65536)]
  | some o =>
    if rangeBounds o off n then
      match o with
      | .found len _ _ _ _ _ _ _ => .fault .bounds (objAddr id.toNat (Nat.max off (Nat.min len (2 ^ 40))))
      | .absent => .fault .noxl addr
    else
      let left := unknown view id ((rangePages off n).map (·.1 / 65536))
      let outs := (rangePages off n).map fun (a, k) => (a, k, checkWalk pkg id a k need wave conf (seen view id (a / 65536)))
      if !left.isEmpty && o != .absent then .walks left else
      match outs.findSome? (fun (a, _, o) => match o with
        | .fault _ c => some (c, a)
        | _ => none) with
      | some (c, a) => .fault c (objAddr id.toNat a)
      | none =>
        if outs.any (fun (_, _, o) => match o with | .wait _ => true | _ => false) then .wait id
        else
          .ok (outs.filterMap fun (a, k, o) => match o with
            | .ok t => some (a, k, t)
            | _ => none) (match o with
              | .found _ _ sh _ _ _ _ _ => sh
              | .absent => false)

/-! ## Multicast and reducing stores (R298, R299) -/

/-- The destinations of an `mcst` or `redst` in list order, each with its pages; or the first failing one, a migration wait, or
walks to make (R298). -/
inductive DestOut
  | fault (c : Cause) (ad : BitVec 64)
  | wait (id : BitVec 24)
  | walks (ps : List (BitVec 24 × Nat))
  | ok (ds : List (BitVec 64 × List (Nat × Nat × Target)))
  deriving DecidableEq, Repr
/-- Check 4 of R298; a fault names the first failing destination by its address. -/
def destOut (s : State) (w : Wave) (need : BitVec 3) (ads : List (BitVec 64)) (n : Nat) : DestOut :=
  let outs := ads.map fun ad =>
    (ad, if ad.extractLsb' 40 24 = clusterId then .fault .noxl ad
      else rangeOut (pageView s w) (pkgOf w.id.cd) (confidential s (pkgOf w.id.cd) w.ctx) need true ad n)
  let walks := outs.flatMap fun (_, o) => match o with
    | .walks ps => ps
    | _ => []
  if !walks.isEmpty then .walks (dedup walks) else
  match outs.findSome? (fun (ad, o) => match o with | .fault c _ => some (c, ad) | _ => none) with
  | some (c, a) => .fault c a
  | none => match outs.findSome? (fun (_, o) => match o with | .wait id => some id | _ => none) with
    | some id => .wait id
    | none => .ok (outs.map fun (ad, o) => match o with | .ok ps _ => (ad, ps) | _ => (ad, []))
/-- The accesses of a collective instruction: word k of the source at every destination; a poisoned source word is
noted (R299, R58). -/
def collAccs (s : State) (w : Wave) (core : CoreId) (src n : Nat) (ds : List (BitVec 64 × List (Nat × Nat × Target))) : List LaneAcc :=
  ds.zipIdx.flatMap fun (d, j) =>
    let off := (d.1.extractLsb' 0 40).toNat
    (List.range (n / 4)).filterMap fun k =>
      let a := off + 4 * k
      (d.2.find? fun p => p.1 ≤ a && a < p.1 + p.2.1).map fun p =>
        { lane := j, tgt := { p.2.2 with addr := p.2.2.addr + (a - p.1) }, oaddr := d.1 + BitVec.ofNat 64 (4 * k), sz := 4
          val := scrView s w core (src + 4 * k) 4, cmp := b2n (scrViewPois s w core (src + 4 * k) 4) : LaneAcc }
/-- A destination that is no multiple of 4 (R298). -/
def misaligned (ad : BitVec 64) : Bool := ad.extractLsb' 0 2 != 0
/-- `mcst` and `redst`: the checks of R298 in order, then acceptance with the source and the list copied. -/
def collIssue (i : Instr) (a : SReg) (red : Option RedOp) (fl : FlagN) (la : LaN) (s : State) : Res :=
  checked i s fun s =>
    let w := s.cur
    let b := blockOf s w
    let src := (readS w.a a).toNat
    let n := (readBlk w.a a 1).toNat
    let list := (readBlk w.a a 2).toNat
    let k := (readBlk w.a a 3).toNat
    let ads := fun m => (List.range m).map fun j => BitVec.ofNat 64 (scrView s w b.core (b.base + list + 8 * j) 8)
    -- the entries of the list that lie in the allocation (log entry 95)
    let near := Nat.min k ((b.size - list) / 8)
    if scrBusy w b.core (b.base + src) n || scrBusy w b.core (b.base + list) (8 * near) then .next (stallBy .other s)
    else if src % 4 != 0 || list % 8 != 0 then .next (parkActive s .align 0)
    else if (ads near).any misaligned then .next (parkActive s .align (((ads near).find? misaligned).getD 0))
    else if n < 4 || n > 4096 || n % 4 != 0 || k < 1 || k > 16 then .next (parkActive s .rsvf 0)
    else if src + n > b.size || list + 8 * k > b.size then .next (parkActive s .bounds 0)
    else match destOut s w (if red.isSome then 0b011 else 0b010) (ads k) n with
      | .fault c ad => .next (parkActive s c ad)
      | .wait id => .next (holdMigration s id)
      | .walks ps => .next (waitWalks s ps)
      | .ok ds =>
        let s := ds.foldl (fun s d => usePages s (d.1.extractLsb' 40 24) (d.2.map (·.1 / 65536))) s
        let acc := collAccs s w b.core (b.base + src) n ds
        let s := issue (markPods s w acc)
        .next (advance (accept s { newOp s (.coll red) fl la with acc := acc, order := .relaxed }))
/-- `mcst` (R298, R299). -/
def execMcst (a : SReg) (fl : FlagN) (la : LaN) (s : State) : Res := collIssue (.mcst a fl la) a none fl la s
/-- `redst` (R298, R299). -/
def execRedst (a : SReg) (o : RedOp) (fl : FlagN) (la : LaN) (s : State) : Res := collIssue (.redst a o fl la) a (some o) fl la s

/-- A reduction of two 4-byte words (R296). -/
def redWord (o : RedOp) (m v : Nat) : Nat :=
  let c : Rnd := ⟨0, false, false, 0⟩
  let add := fun t x y => (addF t c (fdec t false x) (fdec t false y)).1
  match o with
  | .i32 => (m + v) % 2 ^ 32
  | .f32 => add .fp32 m v
  | .bf16 => add .bf16 (m % 65536) (v % 65536) + 65536 * add .bf16 (m / 65536) (v / 65536)
  | .maxf32 => (minMax .fp32 false true false m v).1
/-- A sector of object space is marked poisoned for the bytes an engine has written there from poisoned ones; poisoned data that
leaves on a host link carries the mark (R61). -/
def markPoison (s : State) (cd : Nat) (t : Target) : State :=
  match t.space with
  | .dev =>
    let x := sectorOf t.addr
    if isCoherent t then onSec s cd x fun e => { e with poison := true, data := ones512 } else onHome s x fun h => { h with poison := true }
  | .scr c => onCore s c fun k => scrMark k (t.addr / 8)
  | .host p => { s with hostOut := s.hostOut ++ [.poisonedTlp p t.addr] }
/-- Bytes of one sector that an engine of a die writes, where it may (R57, R61, R73, R80). -/
def putSector (s : State) (cd : Nat) (t : Target) (bs : List (Option Byte)) (pois : Bool) : State :=
  let k := t.addr / 64
  let s := match t.space with
    | .scr c => onCore s c fun q => scrPutMasked q (64 * k) bs
    | .host p => hostPutMasked s p (64 * k) bs
    | .dev => if isCoherent t then opDone (diePutMasked s cd k bs none) cd k else homePutMasked (countHot s k (some cd)) k bs
  if pois then markPoison s cd { t with addr := 64 * k } else s
/-- Bytes that an engine writes into object space, with their poison: sector by sector under the rules of each place
(R61, R65, R80, R287); false where tokens are still missing, or a line is locked. Of two that go to one place the later wins. -/
def engWrite (s : State) (cd : Nat) (xs : List (Target × Byte × Bool)) : Bool × State :=
  let keys := dedup (xs.map fun (t, _, _) => (t.space, t.addr / 64))
  let coh := dedup ((xs.filter fun (t, _, _) => isCoherent t).map fun (t, _, _) => sectorOf t.addr)
  if keys.any fun k => hostLocked s ⟨k.1, 64 * k.2, .host, .none⟩ then (false, s) else
  if xs.any fun (t, _, p) => p && atomOpen s t.space (t.addr / 64) then (false, s) else
  let (ok, s) := dieGather s cd coh
  if !ok then (false, s)
  else (true, keys.foldl (fun s k =>
    let mine := xs.filter fun (t, _, _) => (t.space, t.addr / 64) == k
    let bs := (List.range 64).map fun i => (mine.reverse.find? fun (t, _, _) => t.addr == 64 * k.2 + i).map fun (_, v, _) => v
    match mine with
    | [] => s
    | (t, _, _) :: _ => putSector s cd t bs (mine.any fun (_, _, p) => p)) s)
/-- The place that an RMW has written from a poisoned word becomes poisoned, at the level where it ran (R61, R63, R299). -/
def markLevel (s : State) (w : Wave) (sc : Scope) (t : Target) : State :=
  match levelOf sc t with
  | .home => onHome s (sectorOf t.addr) fun h => { h with poison := true }
  | _ => markPoison s w.id.cd t
/-- The bytes of an access of an `mcst`, each with its source's mark. -/
def accBytes (x : LaneAcc) : List (Target × Byte × Bool) :=
  (bytesOf x.sz x.val).zipIdx.map fun (b, i) => ({ x.tgt with addr := x.tgt.addr + i }, b, x.cmp == 1)
/-- One RMW of a `redst`; one that meets a poisoned word writes nothing there (R299). -/
def redAccess (s : State) (w : Wave) (sc : Scope) (o : RedOp) (x : LaneAcc) : State :=
  if accPoison s [] x then s
  else
    let s := levelWrite s w sc x (redWord o (accValue s [] x) x.val)
    if x.cmp = 1 then markLevel s w sc x.tgt else s
/-- Accesses of a collective operation in one sector, performed where they may be: a whole sector's bytes of an `mcst` at once, each
word of a `redst` by itself (R61, R63, R64, R299). Two destinations that overlap end with the value of either (log entry 3). -/
def collSector (s : State) (w : Wave) (sc : Scope) (red : Option RedOp) (xs : List LaneAcc) : Bool × State :=
  match red with
  | none =>
    let (b, s) := freshBool s
    engWrite s w.id.cd ((if b then xs else xs.reverse).flatMap accBytes)
  | some o =>
    if xs.any (fun x => hostLocked s x.tgt || (x.cmp == 1 && atomOpen s x.tgt.space (x.tgt.addr / 64))) then (false, s) else
    let (ok, s) := levelReady s w sc xs
    if ok then
      let s := countDirect s w.id.cd (xs.filter fun x => isNone x.tgt)
      (true, levelDone (xs.foldl (fun s x => redAccess s w sc o x) s) w sc xs)
    else (false, s)
/-- A collective operation may go on: it has left the core, and earlier accesses of the wave to the same bytes have been made
(R114, R370). -/
def mayColl (w : Wave) (o : Op) : Bool := o.left && !w.ops.any fun p => p.id < o.id && clashesWith o.acc p
/-- The coherence group of a wave's context (R100, R341). -/
def pcgOf (s : State) (w : Wave) : Nat := (getCtx s (pkgOf w.id.cd) w.ctx).pcg.toNat
/-- The other package to which the multicast tree of the context's group carries an access: the home's, for an object of POD kind
(R299, R388). An access to a package outside the group goes there by itself (log entry 96). -/
def carriedBy (s : State) (w : Wave) (x : LaneAcc) : Option Nat :=
  let q := pkgOf (homeUnit (sectorOf x.tgt.addr))
  if x.tgt.space == .dev && x.tgt.kind == .pod && q != pkgOf w.id.cd && ctxFlag s w 5 && (groupPkgs s (pcgOf s w)).contains q then some q else none
/-- An access may be performed where its home lies: the multicast flit has reached its package (R388). -/
def reached (s : State) (w : Wave) (o : Op) (x : LaneAcc) : Bool :=
  match carriedBy s w x with
  | none => true
  | some q => (o.carried.getD []).contains q
/-- The multicast flit of a collective operation enters the router of its package (R299, R388). -/
def sendColl (s : State) (w : Wave) (o : Op) : State :=
  let s := multicast s (pkgOf w.id.cd) (pcgOf s w) w.id.cd (.coll o.id)
  onWave s w.id fun x => { x with ops := updWhere (·.id == o.id) (fun p => { p with carried := some [] }) x.ops }
/-- A collective operation has accesses for a tree, and its flit is still to be sent. -/
def collUnsent (s : State) (w : Wave) (o : Op) : Bool := o.carried.isNone && o.acc.any fun x => (carriedBy s w x).isSome
/-- A collective operation goes on: its flit is sent, every sector that can be written now is written, and when none is left the flag
falls (R299, R388). Writes toward a lost home are discarded (R71). -/
def execCollectiveCompletion (w : WaveId) (n : Nat) (s : State) : Res :=
  match getWave s w, findOp s w n with
  | some x, some o => match o.kind with
    | .coll red =>
      let live := o.acc.filter fun y => !lostHome s (pkgOf w.cd) x.ctx y.tgt
      let direct := live.filter fun y => isNone y.tgt
      if !mayColl x o then .next s
      else if collUnsent s x o then .next (sendColl s x o)
      else if direct.any (wcLine (getCore s (coreId w))) then .next (drainLines s (coreId w) direct)
      else
        let (s, left) := (pieceKeys live).foldl (fun (s, left) k =>
          let mine := live.filter fun y => (y.tgt.space, y.tgt.addr / 64) == k
          let (ok, t) := if mine.all (reached s x o) then collSector s x o.scope red mine else (false, s)
          (t, if ok then left else left ++ mine)) (s, [])
        if left.isEmpty then .next (completeOp s w o fun a => match o.flag with
          | some f => flagDown a f
          | none => a)
        else .next (onWave s w fun x => { x with ops := updWhere (·.id == o.id) (fun p => { p with acc := left }) x.ops })
    | _ => .next s
  | _, _ => .next s
/-- One piece of an `mcst` or one word of a `redst` is performed before the rest: no order holds among destinations or pieces
(R66, R299). A poisoned sector is left to the sector's write, which may clear the mark (R61). -/
def collPiece (w : WaveId) (n : Nat) (s : State) : Res :=
  match getWave s w, findOp s w n with
  | some x, some o => match o.kind, someAcc s o with
    | .coll red, (some y, s) =>
      let mine := match red with
        | none => o.acc.filter fun z => pieceOf z.tgt == pieceOf y.tgt
        | some _ => [y]
      if !mayColl x o || collUnsent s x o || !mine.all (reached s x o) || (red.isNone && readPoison s y.tgt y.tgt.addr) || mine.any (fun z => lostHome s (pkgOf w.cd) x.ctx z.tgt || (isNone z.tgt && wcLine (getCore s (coreId w)) z)) then .next s
      else
        let (ok, s) := collSector s x o.scope red mine
        if ok then .next (onWave s w fun x => { x with
          ops := updWhere (·.id == o.id) (fun p => { p with acc := p.acc.filter fun z => !mine.contains z }) x.ops })
        else .next s
    | _, _ => .next s
  | _, _ => .next s

/-! ## Requests of the copy and bulk engine (R136 to R140) -/

/-- The stream that binds an object in a direction as a request issues: its number, and the set of keys it belongs to; where no keys are
held, one whose key has been erased (R257, R401, R402; log entry 97). -/
def boundTo (c : Ctx) (id : BitVec 24) (out : Bool) : Option (Nat × Nat) :=
  let binds := fun t : Stream => t.obj == id && t.outbound == out
  match c.keys with
  | some k => (k.streams.find? binds).map fun t => (t.sid, c.keySets)
  | none => (c.erased.find? fun e => binds e.2).map fun e => (e.2.sid, e.1)
/-- The stream that a request is bound to, while its key is held (R257). -/
def liveStream (c : Ctx) (b : Nat × Nat) : Option Stream :=
  if b.2 = c.keySets then c.keys.bind fun k => k.streams.find? fun t => t.sid == b.1 else none
/-- The live stream of a request. -/
def reqStream (s : State) (pkg : Nat) (q : EngReq) : Option Stream := q.bound.bind (liveStream (getCtx s pkg q.ctx))
/-- Pitch of a request's rows in the scratchpad (R138). -/
def EngReq.pitch (q : EngReq) : Nat := if q.spitch = 0 then q.width * 2 ^ q.lay.esz else 16 * q.spitch
/-- Bursts or transfer units of a region row (R136). -/
def EngReq.perRow (q : EngReq) : Nat := ceilDiv (q.width * 2 ^ q.lay.esz) 128
/-- All bursts or transfer units (R136). -/
def EngReq.total (q : EngReq) : Nat := q.height * q.perRow
/-- A request's members: every block of the cluster that the mask names, with its rank (R152). -/
def maskMembers (s : State) (b : Block) (mask : Nat) : List Block :=
  (List.range 16).filterMap fun r => if bitOf mask r then clusterMember s b.id r else none
/-- The lowest request tag that no request of a core uses: R142 says only that it is unique (log entry 6). -/
def freeTag (c : Core) : Nat := ((List.range 512).find? fun t => !c.reqs.any (·.tag == t)).getD 512
/-- The handler entries of a wave's kernel (R141). -/
def handlersOf (s : State) (w : Wave) : List Word := ((getLaunch s w.blk.launch).map (·.kernel.handlers)).getD []
/-- The number of a group as it stands (R308). -/
def groupBorn (s : State) (g : GroupRef) : Nat := ((s.groups.find? (·.ref == g)).map (·.born)).getD 0
/-- A request's operands, read at issue (R138). -/
def engArgs (s : State) (w : Wave) (kind : EngKind) (a b : SReg) : EngReq :=
  let c := (readS w.a a).toNat
  let blk := blockOf s w
  let handle := bits c 2 0
  let lay := ((blk.recs.find? fun r => r.1 == handle).map fun r => r.2).getD (recOf 0)
  { tag := freeTag (getCore s (coreId w.id)), kind := kind, issuer := w.id, op := s.nextId, blk := w.blk, ctx := w.ctx
    lay := lay, handle := handle, bound := boundTo (getCtx s (pkgOf w.id.cd) w.ctx) (lay.addr.extractLsb' 40 24) (bitOf c 9)
    dir := bitOf c 9, gather := bitOf c 8, entry := (handlersOf s w).getD (bits c 7 4) 0, arg := readBlk w.a a 5
    x0 := (readBlk w.a a 1).toInt, y0 := (readBlk w.a a 2).toInt, width := (readBlk w.a a 3).toNat
    height := (readBlk w.a a 4).toNat, spitch := bits c 31 16, data := (readBlk w.a a 5).toNat
    recOff := (readBlk w.a a 6).toNat, value := readBlk w.a a 7, list := (readS w.a b).toNat
    dests := if kind = .copymc then (maskMembers s blk (readS w.a b).toNat).map fun m => (m.core, m.base)
             else [(blk.core, blk.base)]
    mode := w.a.mode, group := currentGroup w, joined := w.groups.length, born := groupBorn s (currentGroup w), nextB := 0, row := 0, flying := [], staged := []
    npois := 0, nlost := 0, nkill := 0 }
/-- The areas of a request in a destination's or source's allocation of some size (R138, R139). -/
def EngReq.fits (q : EngReq) (size : Nat) : Bool :=
  q.recOff + 8 ≤ size && (q.kind == .bulkrd || q.data + (q.height - 1) * q.pitch + q.width * 2 ^ q.lay.esz ≤ size) &&
  (!q.gather || q.kind == .copymc || q.list + 4 * q.height ≤ size)
/-- The block that check 6 of R139 fails in: the issuing one, or for `copymc` the lowest-ranked named member. -/
def boundsBlock (s : State) (blk : Block) (q : EngReq) : Option Block :=
  if q.kind == .copymc then (maskMembers s blk q.list).find? fun m => !q.fits m.size
  else if q.fits blk.size then none else some blk
/-- The checks of R139, in order, with the address that a fault names (R436), and the block that it names. A copy into an outbound
stream that is closed, or whose key is erased, faults PERM (R401; log entry 97). -/
def engCheck (s : State) (w : Wave) (a : SReg) (q : EngReq) : Option (Cause × BitVec 64 × Nat) :=
  let c := (readS w.a a).toNat
  let blk := blockOf s w
  let own := blk.id.idx
  if q.recOff % 8 != 0 || (q.gather && q.kind != .copymc && q.list % 4 != 0) then some (.align, 0, own)
  else if bits c 15 10 != 0 || bitOf c 3 || q.width < 1 || q.width > 65536 || q.height < 1 || q.height > 65536 ||
    (match q.kind with
      | .bulkrd => q.spitch != 0 || q.dir || bits c 7 4 ≥ (handlersOf s w).length
      | .copy => bits c 7 4 != 0
      | .copymc => q.dir || q.gather || bits c 7 4 != 0 || q.list ≥ 65536) then some (.rsvf, 0, own)
  else if q.kind == .copymc && q.list ≥ 2 ^ blk.csize then some (.mcrange, 0, own)
  else if !blk.recs.any (·.1 == q.handle) then some (.noxl, 0, own)
  else if (if q.dir then !q.lay.wr || !q.lay.sh else !q.lay.rd) || (q.dir && q.bound.isSome && (reqStream s (pkgOf w.id.cd) q).all (·.written ≥ 2 ^ 32)) then some (.perm, q.lay.addr, own)
  else (boundsBlock s blk q).map fun b => (.bounds, 0, b.id.idx)
/-- A request is accepted: it is in flight, and its flag is up (R139, R140, R297). A victim of a pre-emption issues no
new one (R172), nor does a core with 512 in flight. -/
def engIssue (i : Instr) (kind : EngKind) (a b : SReg) (fl : FlagN) (la : LaN) (s : State) : Res :=
  checked i s fun s =>
    let w := s.cur
    let q := engArgs s w kind a b
    match engCheck s w a q with
    | some (c, ad, blk) => .next (raiseTrapFor (countReplay s) blk c 0 w.a.pc w.a.pc ad w.a.em true)
    | none =>
      if w.preempt || (getCore s (coreId w.id)).reqs.length ≥ 512 then .next (stallBy .leave s)
      else
        let s := issue s
        let s := accept s (newOp s (.engine q.tag) fl la)
        .next (advance (onCore s (coreId w.id) fun c => { c with reqs := c.reqs ++ [q] }))
/-- `bulkrd` (R297). -/
def execBulkrd (a b : SReg) (fl : FlagN) (la : LaN) (s : State) : Res := engIssue (.bulkrd a b fl la) .bulkrd a b fl la s
/-- `copy` (R297). -/
def execCopy (a b : SReg) (fl : FlagN) (la : LaN) (s : State) : Res := engIssue (.copy a b fl la) .copy a b fl la s
/-- `copymc` (R152, R297). -/
def execCopymc (a b : SReg) (fl : FlagN) (la : LaN) (s : State) : Res := engIssue (.copymc a b fl la) .copymc a b fl la s

/-- A request of a core. -/
def findReq (s : State) (c : CoreId) (tag : Nat) : Option EngReq := (getCore s c).reqs.find? (·.tag == tag)
/-- f applied to a request. -/
def onReq (s : State) (c : CoreId) (tag : Nat) (f : EngReq → EngReq) : State :=
  onCore s c fun k => { k with reqs := updWhere (·.tag == tag) f k.reqs }
/-- An engine may make its first access: its instruction has committed, and a cluster-scope release of its wave would
complete, at sys scope where it reads host memory (R127, R370). -/
def engineMayStart (s : State) (w : WaveId) (op : Nat) : Bool :=
  match getWave s w with
  | none => true
  | some x => match x.ops.find? (·.id == op) with
    | none => true
    | some o => o.left && releasedBefore s x .cluster o.id
/-- Bursts of a core fetched or being fetched for which no handler has been born (R145). -/
def burstsOut (s : State) (c : CoreId) : Nat :=
  (((getCore s c).reqs.filter (·.kind == .bulkrd)).map (·.flying.length)).foldl (· + ·) 0 + (getCore s c).bursts.length
/-- A request may issue its next burst or transfer unit (R127, R140, R145). -/
def mayServe (s : State) (c : CoreId) (q : EngReq) : Bool :=
  q.nextB < q.total && !(q.kind == .bulkrd && burstsOut s c ≥ 64) && (q.nextB != 0 || engineMayStart s q.issuer q.op)
/-- The requests are served round-robin: of those that can go on, the one whose tag comes first behind the last served (R140). That the
circle runs by tags is log entry 6's choice. -/
def servedNext (s : State) (c : CoreId) (tag : Nat) : Bool :=
  let k := getCore s c
  let far := fun t : Nat => (t + 511 - k.lastReq) % 512
  k.reqs.all fun q => q.tag == tag || !mayServe s c q || far tag < far q.tag
/-- The tensor row of region row j: from the index list in gather mode, read once per entry (R136). -/
def regionRow (s : State) (q : EngReq) (j : Nat) : Int :=
  if q.gather then
    match q.dests with
    | (c, base) :: _ => (BitVec.ofNat 32 (scrNat (getCore s c) (base + q.list + 4 * j) 4)).toInt
    | [] => 0
  else q.y0 + j
/-- The engine issues a request's next burst or transfer unit, in ascending index (R140, R145). An entry of an index list is read as
the first burst of its row issues; R136 allows any time before the request completes (DESIGN CHOICE, log entry 111). -/
def execEngineBurstIssue (c : CoreId) (tag : Nat) (s : State) : Res :=
  match findReq s c tag with
  | none => .next s
  | some q =>
    if !mayServe s c q || !servedNext s c tag then .next s
    else
      let row := if q.nextB % q.perRow = 0 then regionRow s q (q.nextB / q.perRow) else q.row
      let s := onCore s c fun k => { k with lastReq := tag }
      .next (onReq s c tag fun q => { q with row := row, nextB := q.nextB + 1, flying := q.flying ++ [(q.nextB, row)] })

/-! ## What a burst or unit reads (R136, R137, R401, R402) -/

/-- A number clamped into 0 to n − 1. -/
def clampTo (n : Nat) (x : Int) : Nat := if x < 0 then 0 else Nat.min x.toNat (n - 1)
/-- First element and valid bytes of burst c of a row (R136). -/
def burstSpan (q : EngReq) (b : Nat) : Int × Nat :=
  let c := b % q.perRow
  (q.x0 + (c * 128 / 2 ^ q.lay.esz : Nat), Nat.min 128 (q.width * 2 ^ q.lay.esz - 128 * c))
/-- The object offset of each byte of a burst, clamped (R137). -/
def burstOffsets (q : EngReq) (b : Nat) (row : Int) : List Nat :=
  let (xs, n) := burstSpan q b
  let e := 2 ^ q.lay.esz
  (List.range n).map fun i => q.lay.rowOff (clampTo q.lay.dimy row) + clampTo q.lay.dimx (xs + (i / e : Nat)) * e + i % e
/-- The bytes of a burst or unit (R136). -/
def unitSize (q : EngReq) (u : Nat) : Nat := (burstSpan q u).2
/-- A unit's place in a scratchpad, from its allocation (R138). -/
def unitOff (q : EngReq) (u : Nat) : Nat := q.data + u / q.perRow * q.pitch + 128 * (u % q.perRow)
/-- A place in a scratchpad. -/
def scrTarget (c : CoreId) (a : Nat) : Target := ⟨.scr c, a, .dev, .none⟩
/-- Where a burst or unit reads each of its bytes: in the tensor, clamped, or for a `copy` to the tensor in the scratchpad (R137,
R151). -/
def srcPlaces (pkg : Nat) (q : EngReq) (u : Nat) (row : Int) : List Target :=
  if q.dir then (q.dests.take 1).flatMap fun d => (List.range (unitSize q u)).map fun i => scrTarget d.1 (d.2 + unitOff q u + i)
  else (burstOffsets q u row).map (recTarget pkg q.lay)
/-- Where a unit writes: destination, index in the unit, place. A `copy` to the tensor writes in-tensor elements alone (R137, R151,
R152). -/
def destPlaces (pkg : Nat) (q : EngReq) (u : Nat) (row : Int) : List (Nat × Nat × Target) :=
  let (xs, n) := burstSpan q u
  let e := 2 ^ q.lay.esz
  if q.kind == .bulkrd then []
  else if q.dir then (List.range n).filterMap fun i =>
    let x := xs + (i / e : Nat)
    if 0 ≤ x && x < q.lay.dimx && 0 ≤ row && row < q.lay.dimy then
      some (0, i, recTarget pkg q.lay (q.lay.rowOff row.toNat + x.toNat * e + i % e))
    else none
  else q.dests.zipIdx.flatMap fun (d, j) => (List.range n).map fun i => (j, i, scrTarget d.1 (d.2 + unitOff q u + i))
/-- A page of an inbound stream, decrypted; none where its tag fails (R401, R402). It is read in one step (log entry 97). -/
def inboundPage (s : State) (pkg : Nat) (q : EngReq) (t : Stream) (p : Nat) : Option (List Byte) :=
  let cipher := (List.range 65536).map fun i => readByte s (recTarget pkg q.lay (p * 65536)) ((recTarget pkg q.lay (p * 65536)).addr + i)
  let iv : BitVec 96 := t.salt ++ (t.cbase + BitVec.ofNat 64 p)
  match translateNow s pkg q.ctx 0b001 false (objAddr t.tagObj.toNat (16 * p)) 16 with
  | .ok g => Config.gcmOpen t.key iv [] cipher ((List.range 16).map fun i => readByte s g (g.addr + i))
  | _ => none
/-- A byte of a place as an engine reads it (R61, R102, R137). -/
def plainByte (s : State) (pkg : Nat) (q : EngReq) (t : Target) : EByte :=
  if lostHome s pkg q.ctx t then ⟨0xFF, false, true⟩
  else if readPoison s t t.addr then ⟨0xFF, true, false⟩ else ⟨readByte s t t.addr, false, false⟩
/-- The bytes that a burst or unit reads at some of its indices. One of an inbound stream reads whole pages, whose plaintext it gets
only if the key is held and the tag is right, and nothing over a link that is down (R137, R257, R377, R401, R402). -/
def engBytes (s : State) (pkg : Nat) (q : EngReq) (u : Nat) (row : Int) (is : List Nat) : List (Nat × EByte) :=
  let ps := srcPlaces pkg q u row
  let plain := is.filterMap fun i => (ps[i]?).map fun t => (i, plainByte s pkg q t)
  if q.dir || q.bound.isNone then plain else
  let offs := burstOffsets q u row
  let pages := (dedup (is.map fun i => offs.getD i 0 / 65536)).map fun p => (p, (reqStream s pkg q).bind fun t => inboundPage s pkg q t p)
  plain.map fun (i, b) =>
    if b.lost then (i, b) else
    let o := offs.getD i 0
    match (pages.find? fun e => e.1 == o / 65536).bind fun e => e.2 with
    | some bs => (i, ⟨bs.getD (o % 65536) 0, false, false⟩)
    | none => (i, ⟨0xFF, true, false⟩)
/-- A failed tag sets the stream's TAGF, that of a stream whose key has been erased too (R257, R402). -/
def noteTag (s : State) (pkg : Nat) (q : EngReq) (bs : List (Nat × EByte)) : State :=
  match q.bound with
  | none => s
  | some (sid, gen) =>
    if q.dir || !bs.any (·.2.pois) then s else
    let hit := fun t : Stream => t.sid == sid && !t.outbound
    onCtx s pkg q.ctx fun c =>
      if gen = c.keySets && c.keys.isSome then
        { c with keys := c.keys.map fun k => { k with streams := updWhere hit (fun t => { t with tagf := true }) k.streams } }
      else { c with erased := updWhere (fun e => e.1 == gen && hit e.2) (fun e => (e.1, { e.2 with tagf := true })) c.erased }
/-- The lines and sectors that are read for some places, but for those that are lost; of an inbound stream the whole pages. -/
def engPlaces (s : State) (pkg : Nat) (q : EngReq) (ts : List Target) : List Target :=
  let ls := dedup (ts.filterMap fun t => if lostHome s pkg q.ctx t then none else some { t with addr := t.addr / 64 * 64 })
  if q.dir || q.bound.isNone then ls
  else dedup (ls.flatMap fun t => (List.range 1024).map fun i => { t with addr := t.addr / 65536 * 65536 + 64 * i })
/-- A burst or unit may read its sectors at the die, or what is missing has been asked for (R65, R80). -/
def engReady (s : State) (cd : Nat) (ts : List Target) : Bool × State :=
  if ts.any (hostLocked s) then (false, s) else dieRead s cd ((ts.filter isCoherent).map fun t => sectorOf t.addr)
/-- Its reads have been made: requests that waited for them are released, and those to homes counted (R73, R91; log entry 82). -/
def engRead (s : State) (cd : Nat) (ts : List Target) : State :=
  ts.foldl (fun s t =>
    if isCoherent t then opDone s cd (sectorOf t.addr)
    else if t.space == .dev then countHot s (sectorOf t.addr) (some cd) else s) s
/-- The bytes of a unit that have been read, by index. -/
def gotOf (q : EngReq) (u : Nat) : List (Nat × EByte) := q.got.filterMap fun x => if x.1 == u then some x.2 else none
/-- The indices of a unit still to be read. -/
def unread (q : EngReq) (u : Nat) : List Nat := (List.range (unitSize q u)).filter fun i => !(gotOf q u).any (·.1 == i)
/-- Some bytes of a burst or unit are read, or what they need has been asked for (R66, R80). A unit of which a byte is lost is written
again as a whole (R151). -/
def readUnit (s : State) (c : CoreId) (q : EngReq) (u : Nat) (row : Int) (is : List Nat) : Bool × State :=
  let pkg := pkgOf c.cd
  let ps := srcPlaces pkg q u row
  let ts := engPlaces s pkg q (is.filterMap fun i => ps[i]?)
  let (ok, s) := engReady s c.cd ts
  if !ok then (false, s)
  else
    let bs := engBytes s pkg q u row is
    let lost := bs.any (·.2.lost)
    (true, onReq (engRead (noteTag s pkg q bs) c.cd ts) c q.tag fun q =>
      { q with got := q.got ++ bs.map fun b => (u, b), put := if lost then q.put.filter (·.1 != u) else q.put })

/-! ## Handler waves (R142, R145) -/

/-- The handler slot that a returning burst takes: in the issuing wave's partition, else the lowest one free (R145). Of several free
slots of a partition it takes the lowest; R145 names none (DESIGN CHOICE, log entry 111). -/
def handlerSlot (s : State) (c : CoreId) (part : Nat) : Option WaveId :=
  let taken := fun id : WaveId => (allWaves s).any fun w => w.id == id && !slotFreed s w
  let ids := (part :: (List.range 4).filter (· != part)).flatMap fun p => (span 16 4).map fun k => (⟨c.cd, c.core, p, k⟩ : WaveId)
  ids.find? fun id => !taken id
/-- The registers of a handler wave at birth (R142). -/
def handlerArch (q : EngReq) (b : Nat) (row : Int) (data : List Byte) (status : Nat) (time : BitVec 64) : WaveArch :=
  let (xs, n) := burstSpan q b
  let lanes := mkLanes fun i =>
    if i ≥ 32 then 0 else if status != 0 then 0xFFFFFFFF else BitVec.ofNat 32 (leNat ((data.drop (4 * i)).take 4))
  let em := maskOf fun i => i < 32 && 4 * i < n
  let z := WaveArch.zero
  let sc : List Word := [BitVec.ofNat 32 b, BitVec.ofInt 32 xs, BitVec.ofInt 32 row, BitVec.ofNat 32 n, BitVec.ofNat 32 q.tag,
    BitVec.ofNat 32 status, q.arg, time.extractLsb' 0 32]
  { z with v := z.v.set 0 lanes, s := Vector.ofFn fun (i : Fin 57) => sc.getD i.val 0, em := em, mode := q.mode, pc := q.entry }
/-- The bytes of a unit in order; of a lost one every byte is all ones (R142, R151). -/
def unitBytes (q : EngReq) (u : Nat) : List EByte :=
  let bs := gotOf q u
  let lost := bs.any (·.2.lost)
  (List.range (unitSize q u)).map fun i =>
    let b := ((bs.find? (·.1 == i)).map (·.2)).getD ⟨0, false, false⟩
    if lost then { b with val := 0xFF } else b
/-- A unit is over: it flies no longer, and what it read and wrote is no longer kept; poison and loss are counted (R147). -/
def unitDone (q : EngReq) (u : Nat) (pois lost : Bool) : EngReq :=
  { q with
    flying := q.flying.filter (·.1 != u), got := q.got.filter (·.1 != u), put := q.put.filter (·.1 != u)
    npois := q.npois + b2n pois, nlost := q.nlost + b2n lost }
/-- A burst that has returned: its data is in the core's burst buffer, with the TIME of its arrival, and its outcome is counted; false
where the die may not read what is left of it yet (R137, R142, R145, R147). -/
def fetchBurst (s : State) (c : CoreId) (q : EngReq) (b : Nat) (row : Int) : Bool × State :=
  let (ok, s) := readUnit s c q b row (unread q b)
  if !ok then (false, s)
  else
    let bs := unitBytes ((findReq s c q.tag).getD q) b
    let lost := bs.any (·.lost)
    let pois := bs.any (·.pois)
    let (time, s) := sampleTime s c.cd
    let x : Burst := { tag := q.tag, b := b, row := row, data := bs.map (·.val), status := if lost then 2 else if pois then 1 else 0, time := time }
    let s := onCore s c fun k => { k with bursts := k.bursts ++ [x] }
    (true, onReq s c q.tag fun q => unitDone q b pois lost)
/-- The burst that has waited longest takes a free handler slot and is born as a narrow handler wave (R129, R142, R145, R146). -/
def birthBurst (s : State) (c : CoreId) : State :=
  match (getCore s c).bursts with
  | [] => s
  | x :: rest => match findReq s c x.tag with
    | none => s
    | some q => match handlerSlot s c q.issuer.part, getWave s q.issuer with
      | some id, some iss =>
        let a := handlerArch q x.b x.row x.data x.status x.time
        let w := { Wave.empty id with
          live := true, a := a, handler := some ⟨x.tag, x.b, a, q.group, q.joined, q.born⟩, blk := q.blk, k := iss.k, ctx := q.ctx
          vlimit := 32, code := iss.code, priv := iss.priv, active := true, since := s.tick }
        let s := if (getWave s id).any fun w => !w.ops.isEmpty then moveEnded s id else s
        onCore (addWave s w) c fun k => { k with bursts := rest }
      | _, _ => s
/-- A burst returns to the core, and the one that has waited longest is born where a handler slot is free (R142, R145). -/
def execBurstReturn (c : CoreId) (tag b : Nat) (s : State) : Res :=
  match findReq s c tag with
  | none => .next s
  | some q =>
    if q.kind != .bulkrd then .next s else
    match q.flying.find? (·.1 == b) with
    | some (_, row) =>
      let (ok, s) := fetchBurst s c q b row
      .next (if ok then birthBurst s c else s)
    | none => .next (if (getCore s c).bursts.head?.any (fun x => x.tag == tag && x.b == b) then birthBurst s c else s)

/-! ## Transfer units of `copy` and `copymc` (R151, R152) -/

/-- Bytes written into a scratchpad by an engine: words that receive a poisoned byte are marked (R58, R151). -/
def scrPut (k : Core) (xs : List (Nat × EByte)) : Core :=
  let k := (dedup (xs.map (·.1 / 64))).foldl (fun k p =>
    scrPutMasked k (64 * p) ((List.range 64).map fun i => (xs.find? (·.1 == 64 * p + i)).map (·.2.val))) k
  (dedup (xs.filterMap fun x => if x.2.pois then some (x.1 / 8) else none)).foldl scrMark k
/-- Some bytes of a unit written at their places; false where tokens are missing or a line is locked. Bytes toward a lost home are
dropped, and their unit counts as lost (R71; log entry 85). -/
def putUnit (s : State) (c : CoreId) (q : EngReq) (u : Nat) (xs : List (Nat × Nat × Target)) : Bool × State :=
  let pkg := pkgOf c.cd
  let bs := unitBytes q u
  let ys := xs.map fun (_, i, t) => (t, bs.getD i ⟨0, false, false⟩)
  let wrote := fun s : State => onReq s c q.tag fun q => { q with put := q.put ++ xs.map fun (j, i, _) => (u, j, i) }
  if q.dir then
    let live := ys.filter fun y => !lostHome s pkg q.ctx y.1
    let (ok, s) := engWrite s c.cd (live.map fun (t, b) => (t, b.val, b.pois))
    if !ok then (false, s)
    else
      let s := wrote s
      (true, if live.length < ys.length then onReq s c q.tag fun q =>
          { q with got := q.got.map fun g => if g.1 == u then (u, g.2.1, { g.2.2 with lost := true }) else g }
        else s)
  else
    (true, wrote ((dedup (ys.filterMap fun (t, _) => match t.space with
        | .scr d => some d
        | _ => none)).foldl (fun s d =>
      onCore s d fun k => scrPut k (ys.filterMap fun (t, b) => if t.space == .scr d then some (t.addr, b) else none)) s))
/-- The places of a unit still to be written. -/
def unput (pkg : Nat) (q : EngReq) (u : Nat) (row : Int) : List (Nat × Nat × Target) :=
  (destPlaces pkg q u row).filter fun (j, i, _) => !q.put.contains (u, j, i)
/-- Its pages are encrypted before they are written: the object is bound by an outbound stream (R401). -/
def sealed (q : EngReq) : Bool := q.dir && q.bound.isSome
/-- A transfer unit of a `copy` or `copymc` returns: what is left of it is read and written (R66, R151, R152). One for an outbound
stream is kept until its pages are sealed, and dropped where the key has been erased meanwhile: no plaintext reaches the host (R257,
R401; log entry 97). -/
def execTransferUnitReturn (c : CoreId) (tag u : Nat) (s : State) : Res :=
  match findReq s c tag with
  | none => .next s
  | some q => match q.flying.find? (·.1 == u) with
    | none => .next s
    | some (_, row) =>
      let pkg := pkgOf c.cd
      if q.kind == .bulkrd then .next s else
      let (ok, s) := readUnit s c q u row (unread q u)
      if !ok then .next s else
      let q := (findReq s c tag).getD q
      let bs := unitBytes q u
      let used := destPlaces pkg q u row
      let pois := if q.dir then used.any fun (_, i, _) => (bs.getD i ⟨0, false, false⟩).pois else bs.any (·.pois)
      if sealed q then
        let e := 2 ^ q.lay.esz
        let off := fun i : Nat => q.lay.rowOff row.toNat + ((burstSpan q u).1 + (i / e : Nat)).toNat * e + i % e
        let keep := if (reqStream s pkg q).isSome then used.map fun (_, i, _) => (off i, bs.getD i ⟨0, false, false⟩) else []
        .next (onReq s c tag fun q => { unitDone q u pois false with staged := q.staged ++ keep })
      else
        let (ok, s) := putUnit s c q u (unput pkg q u row)
        if !ok then .next s
        else .next (onReq s c tag fun q => unitDone q u pois ((gotOf q u).any (·.2.lost)))
/-- One piece of a burst or unit is read, or one piece of a unit written whose bytes have been read, before the rest: no order holds
among the pieces (R66, R127). Which one is free (log entry 3). A poisoned sector is left to the unit's write, which may clear the mark
(R61). -/
def enginePiece (c : CoreId) (tag u : Nat) (s : State) : Res :=
  match findReq s c tag with
  | none => .next s
  | some q => match q.flying.find? (·.1 == u) with
    | none => .next s
    | some (_, row) =>
      let pkg := pkgOf c.cd
      let src := srcPlaces pkg q u row
      let at_ := fun i : Nat => (src[i]?).map pieceOf
      let (x, s) := freshWord s
      let (put, s) := freshBool s
      if put then
        let ready := if sealed q then [] else (unput pkg q u row).filter fun (_, i, t) =>
          (gotOf q u).any (·.1 == i) && !(q.dir && readPoison s t t.addr)
        match ready[x.toNat % ready.length]? with
        | none => .next s
        | some (j, _, t) =>
          -- a piece all of whose bytes in the unit have been read
          let all := (unput pkg q u row).filter fun (k, _, z) => k == j && pieceOf z == pieceOf t
          if all.all fun p => ready.contains p then .next (putUnit s c q u all).2 else .next s
      else
        let left := unread q u
        match left[x.toNat % left.length]? with
        | none => .next s
        | some i => if q.bound.isSome && !q.dir then .next s
          else .next (readUnit s c q u row (left.filter fun k => at_ k == at_ i)).2

/-! ## Pages of outbound streams (R401) -/

/-- A byte of a page of an outbound stream: as the copy wrote it, or free where it wrote none (log entry 3). -/
def stagedByte (q : EngReq) (n o : Nat) : Byte :=
  match q.staged.reverse.find? (·.1 == o) with
  | some (_, b) => b.val
  | none => (Config.freeWord (n + o)).extractLsb' 0 8
/-- Bytes written at a place in host memory; a place elsewhere takes nothing, nor does a link that is down (R71, R377). -/
def putHost (s : State) (pkg ctx : Nat) (g : Target) (bs : List Byte) : State :=
  match g.space with
  | .host h => if lostHome s pkg ctx g then s else { s with hostMem := memPut s.hostMem (hostKey h g.addr) bs }
  | _ => s
/-- The sectors of a page that hold bytes copied from poisoned ones leave as poisoned TLPs (R61). -/
def sealMarks (s : State) (pkg : Nat) (q : EngReq) (p : Nat) : State :=
  let g := recTarget pkg q.lay (p * 65536)
  let marked := dedup ((q.staged.filter fun x => x.1 / 65536 == p && x.2.pois).map fun x => x.1 % 65536 / 64)
  match g.space with
  | .host h => if lostHome s pkg q.ctx g then s
    else { s with hostOut := s.hostOut ++ marked.map fun k => .poisonedTlp h (g.addr + 64 * k) }
  | _ => s
/-- The place of a page's tag, if it can be translated (R401). -/
def tagPlace (s : State) (pkg : Nat) (q : EngReq) (t : Stream) (p : Nat) : Option Target :=
  match translateNow s pkg q.ctx 0b010 false (objAddr t.tagObj.toNat (16 * p)) 16 with
  | .ok g => some g
  | _ => none
/-- Page p of an outbound stream sent: its ciphertext and tag written, its counter moved on (R401). -/
def putSealed (s : State) (pkg : Nat) (q : EngReq) (t : Stream) (p : Nat) (c : List Byte × List Byte) : State :=
  let s := putHost { s with free := s.free + 65536 } pkg q.ctx (recTarget pkg q.lay (p * 65536)) c.1
  let s := match tagPlace s pkg q t p with
    | some g => putHost s pkg q.ctx g c.2
    | none => s
  onCtx (sealMarks s pkg q p) pkg q.ctx fun c => { c with keys := c.keys.map fun k =>
    { k with streams := updWhere (fun x => x.sid == t.sid && x.outbound) (fun x => { x with written := x.written + 1 }) k.streams } }
/-- The pages that a request has staged. -/
def stagedPages (q : EngReq) : List Nat := dedup (q.staged.map (·.1 / 65536))
/-- The pages of an outbound stream written: ciphertext and tag for each, the counter moved on (R401). A page is written in one step
(log entry 97). -/
def sealPages (s : State) (pkg : Nat) (q : EngReq) (t : Stream) : State :=
  (stagedPages q).foldl (fun s p =>
    let n := ((reqStream s pkg q).map (·.written)).getD 0
    let iv : BitVec 96 := t.salt ++ (t.cbase + BitVec.ofNat 64 n)
    putSealed s pkg q t p (Config.gcmSeal t.key iv [] ((List.range 65536).map fun i => stagedByte q s.free (p * 65536 + i)))) s
/-- The pages to be sealed cannot be written yet: the I/O die has a line of one, or of its tag, locked for an atomic (R65). -/
def sealWaits (s : State) (pkg : Nat) (q : EngReq) : Bool :=
  q.dir && q.wrote = 0 && (match reqStream s pkg q with
    | none => false
    | some t => (stagedPages q).any fun p =>
      (List.range 1024).any (fun i => hostLocked s (recTarget pkg q.lay (p * 65536 + 64 * i))) || (tagPlace s pkg q t p).any (hostLocked s))
/-- A request loses what it has not read yet over a host link that goes down (R377). -/
def loseReads (q : EngReq) : EngReq :=
  if q.lay.kind != .host || q.dir then q
  else { q with got := q.got ++ q.flying.flatMap fun f => (unread q f.1).map fun i => (f.1, i, ⟨0xFF, false, true⟩)
                put := [] }

/-! ## Completion (R147) -/

/-- Every handler wave of a request has ended and its accesses have been acknowledged (R147). -/
def handlersDone (s : State) (c : CoreId) (tag : Nat) : Bool :=
  (allWaves s).all fun w => coreId w.id != c || (match w.handler with
    | some h => h.tag != tag || (w.hold == .ended && w.ops.isEmpty && w.window.isEmpty && bufferDrained s c (w.mark.getD 0))
    | none => true)
/-- The status word (R147). -/
def statusWord (q : EngReq) : Word :=
  BitVec.ofNat 32 (Nat.min 255 q.npois * 2 ^ 24 + Nat.min 255 q.nlost * 2 ^ 16 + Nat.min 255 q.nkill * 2 ^ 8)
/-- The flag of an operation falls as its request completes; one of a killed wave is discarded (R147). -/
def finishOp (s : State) (w : WaveId) (op : Nat) : State :=
  match findOp s w op with
  | none => s
  | some o => completeOp s w o fun a => match o.flag with
    | some f => flagDown a f
    | none => a
/-- Every burst of a request has returned and every handler has ended: the last-burst event may come (R147). -/
def burstsDone (s : State) (c : CoreId) (q : EngReq) : Bool :=
  q.total ≤ q.nextB && q.flying.isEmpty && !(getCore s c).bursts.any (·.tag == q.tag) && handlersDone s c q.tag && !sealWaits s (pkgOf c.cd) q
/-- The writes of the completion sequence: status word, then completion word, in each destination (R147, R152). The destinations of a
`copymc` follow each other in ascending rank; R152 gives no order among them (DESIGN CHOICE, log entry 111). -/
def seqWrites (q : EngReq) : List (CoreId × Nat × Word) :=
  q.dests.flatMap fun d => [(d.1, d.2 + q.recOff + 4, statusWord q), (d.1, d.2 + q.recOff, q.value)]
/-- Writes of the completion sequence; before the first, an outbound stream's pages are sealed (R128, R147, R401). -/
def seqWrite (s : State) (pkg : Nat) (q : EngReq) (xs : List (CoreId × Nat × Word)) : State :=
  let s := match reqStream s pkg q with
    | some t => if q.dir && q.wrote = 0 then sealPages s pkg q t else s
    | none => s
  xs.foldl (fun s x => onCore s x.1 fun k => scrWrite k x.2.1 (bytesOf 4 x.2.2.toNat)) s
/-- One write of a completion sequence is made and acknowledged before the next (R147). -/
def completionStep (c : CoreId) (tag : Nat) (s : State) : Res :=
  match findReq s c tag with
  | none => .next s
  | some q =>
    if !burstsDone s c q || (seqWrites q).length ≤ q.wrote then .next s
    else .next (onReq (seqWrite s (pkgOf c.cd) q (((seqWrites q).drop q.wrote).take 1)) c tag fun q => { q with wrote := q.wrote + 1 })
/-- The completion sequence of a request: status word, completion word in each destination, and the flag (R128, R147,
R152). -/
def execLastBurstEvent (c : CoreId) (tag : Nat) (s : State) : Res :=
  match findReq s c tag with
  | none => .next s
  | some q =>
    if !burstsDone s c q then .next s
    else
      let s := seqWrite s (pkgOf c.cd) q ((seqWrites q).drop q.wrote)
      let s := { s with waves := s.waves.filter fun w => !(coreId w.id == c && (match w.handler with
        | some h => h.tag == tag
        | none => false)) }
      .next (finishOp (onCore s c fun k => { k with reqs := k.reqs.filter (·.tag != tag) }) q.issuer q.op)
/-- The drain limit of a pre-emption passes: a handler wave that has not ended is killed and counted in NKILL
(R149, R353). -/
def execHandlerDrainLimit (w : WaveId) (s : State) : Res :=
  match getWave s w with
  | none => .next s
  | some x =>
    if isHandler x && x.hold != .ended && (blockOf s x).state == .stopping then .next (killWave s x .drain x.a.pc 0 false) else .next s

end Sys2Proof.Machine
end

