-- ==== Sys2Proof/Machine/NearMemory.lean ====
section
/-! DEFINITION. Near-memory operations (R72, R300 to R302). -/

namespace Sys2Proof.Machine

/-- The functions of `nmop`. -/
inductive NmFn | fill | copy | cmp | red (o : RedOp)
  deriving DecidableEq, Repr
/-- Number of a function, as a request in flight holds it. -/
def nmCode : NmFn → Nat | .fill => 0 | .copy => 1 | .cmp => 2 | .red _ => 3
/-- Permission bits that D must give (R300). -/
def nmNeed : NmFn → BitVec 3 | .fill => 0b010 | .copy => 0b010 | .cmp => 0b001 | .red _ => 0b011

/-- Check 4 or 5 of R300 on a range: orders 2 to 7 of R42, and PERM unless the object is DEV and, where asked, a shadow. R300 gives the
last two checks no place among those orders: they come right after BOUNDS (DESIGN CHOICE, log entry 29). -/
def nmRange (view : PageView) (pkg : Nat) (conf : Bool) (need : BitVec 3) (shadow : Bool) (addr : BitVec 64) (n : Nat) : RangeOut :=
  let off := (addr.extractLsb' 0 40).toNat
  match view (pageOf addr).1 (pageOf addr).2 with
  | some (.found len perm sh k c p lo hi) =>
    if (pageOf addr).1 != 0 && !rangeBounds (.found len perm sh k c p lo hi) off n && (k != .dev || (shadow && !sh)) then .fault .perm addr
    else rangeOut view pkg conf need false addr n
  | _ => rangeOut view pkg conf need false addr n
/-- The place of the byte at an object offset among the pages of a range. -/
def placeAt (ps : List (Nat × Nat × Target)) (o : Nat) : Nat :=
  match ps.find? fun p => p.1 ≤ o && o < p.1 + p.2.1 with
  | some p => p.2.2.addr + (o - p.1)
  | none => 0
/-- The pieces of a range by relative offset and length: cut where D or S crosses a page (R301). -/
def nmCuts : Nat → Nat → Nat → Nat → Nat → List (Nat × Nat)
  | 0, _, _, _, _ => []
  | fuel + 1, d, sr, r, n =>
    if n = 0 then [] else
    let k := Nat.min n (Nat.min (65536 - d % 65536) (65536 - sr % 65536))
    (r, k) :: nmCuts fuel (d + k) (sr + k) (r + k) (n - k)
/-- The pieces of an operation. -/
def nmPieces (c : CoreId) (op : Nat) (d : Nat) (dp : List (Nat × Nat × Target)) (src : Option (Nat × List (Nat × Nat × Target)))
    (n : Nat) : List NmPiece :=
  let sOff := match src with
    | some (o, _) => o
    | none => d
  (nmCuts (n / 32768 + 4) d sOff 0 n).map fun (r, k) =>
    { core := c, op := op, dst := placeAt dp (d + r), src := src.map fun (o, ps) => placeAt ps (o + r), len := k, rel := r }
/-- A piece is queued at the memory-side die that homes its D page (R55, R301). -/
def queuePiece (s : State) (p : NmPiece) : State :=
  onMd s (homeUnit (sectorOf p.dst)) fun m => { m with pieces := m.pieces ++ [p] }
/-- An `nmop`: the checks of R300 in order, then acceptance with every page translated and each piece sent (R301). -/
def nmIssue (i : Instr) (fn : NmFn) (a : SReg) (fl : FlagN) (la : LaN) (s : State) : Res :=
  checked i s fun s =>
    let w := s.cur
    let b := blockOf s w
    let pkg := pkgOf w.id.cd
    let ad := readBlk w.a a 1 ++ readBlk w.a a 0
    let as := readBlk w.a a 3 ++ readBlk w.a a 2
    let n := (readBlk w.a a 4).toNat
    let rec' := (readBlk w.a a 5).toNat
    let two := fn != .fill
    if ad.extractLsb' 0 6 != 0 || (two && as.extractLsb' 0 6 != 0) || rec' % 8 != 0 then .next (parkActive s .align 0)
    else if n = 0 || n % 64 != 0 || n > 0x80000000 then .next (parkActive s .rsvf 0)
    else if rec' + 8 > b.size then .next (parkActive s .bounds 0)
    else match nmRange (pageView s w) pkg (confidential s pkg w.ctx) (nmNeed fn) (fn == .fill || fn == .copy) ad n with
      | .fault c x => .next (parkActive s c x)
      | .wait id => .next (holdMigration s id)
      | .walks ps => .next (waitWalks s ps)
      | .ok dp _ =>
        let send := fun (s : State) (src : Option (Nat × List (Nat × Nat × Target))) =>
          let op := s.nextId
          let ps := nmPieces (coreId w.id) op (ad.extractLsb' 0 40).toNat dp src n
          let red := match fn with
            | .red o => o
            | _ => .i32
          let objs := if two then [ad.extractLsb' 40 24, as.extractLsb' 40 24] else [ad.extractLsb' 40 24]
          let q : NmReq := { op := op, wave := w.id, blk := w.blk, fn := nmCode fn, red := red, pattern := as, recAddr := b.base + rec'
                             left := ps.length, result := if fn = .cmp then 0xFFFFFFFF else 0, npois := 0, objs := objs }
          let s := issue (usePages s (pageOf ad).1 (dp.map (·.1 / 65536)))
          let s := accept s (newOp s .nmop fl la)
          let s := onCore s (coreId w.id) fun c => { c with nm := c.nm ++ [q] }
          Host.Outcome.next (advance (ps.foldl queuePiece s))
        if !two then send s none
        else match nmRange (pageView s w) pkg (confidential s pkg w.ctx) 0b001 false as n with
          | .fault c x => .next (parkActive s c x)
          | .wait id => .next (holdMigration s id)
          | .walks ps => .next (waitWalks s ps)
          | .ok sp _ => send (usePages s (pageOf as).1 (sp.map (·.1 / 65536))) (some ((as.extractLsb' 0 40).toNat, sp))
/-- `nmop.fill` (R301). -/
def execNmopFill (a : SReg) (fl : FlagN) (la : LaN) (s : State) : Res := nmIssue (.nmopFill a fl la) .fill a fl la s
/-- `nmop.copy` (R301). -/
def execNmopCopy (a : SReg) (fl : FlagN) (la : LaN) (s : State) : Res := nmIssue (.nmopCopy a fl la) .copy a fl la s
/-- `nmop.cmp` (R301). -/
def execNmopCmp (a : SReg) (fl : FlagN) (la : LaN) (s : State) : Res := nmIssue (.nmopCmp a fl la) .cmp a fl la s
/-- `nmop.red` (R301). -/
def execNmopRed (a : SReg) (o : RedOp) (fl : FlagN) (la : LaN) (s : State) : Res := nmIssue (.nmopRed a o fl la) (.red o) a fl la s

/-! ## The near-memory unit (R72, R301) -/

/-- The request of a piece. -/
def findNm (s : State) (c : CoreId) (op : Nat) : Option NmReq := (getCore s c).nm.find? (·.op == op)
/-- A sector as the unit reads it: the home's data, or those of the die that holds the owner token; all ones where its home is lost
(R61, R72, R102). -/
def nmRead (s : State) (x : Nat) : BitVec 512 × Bool :=
  if (getMd s (homeUnit x)).unreachable then (ones512, false)
  else if (getHome s x).own then (homeData s x, (getHome s x).poison)
  else match ownerDie s x with
    | some cd => let e := getSec s cd x; (if e.poison then ones512 else e.data, e.poison)
    | none => (homeData s x, (getHome s x).poison)
/-- The lowest byte offset of a differing 4-byte word of two sectors. -/
def firstDiff (a b : BitVec 512) : Option Nat :=
  (List.range 16).findSome? fun i => if a.extractLsb' (32 * i) 32 = b.extractLsb' (32 * i) 32 then none else some (4 * i)
/-- The words of two sectors reduced (R296). -/
def redSector (o : RedOp) (a b : BitVec 512) : BitVec 512 :=
  BitVec.ofNat 512 (((List.range 16).map fun i =>
    redWord o (a.extractLsb' (32 * i) 32).toNat (b.extractLsb' (32 * i) 32).toNat * 2 ^ (32 * i)).foldl (· + ·) 0)
/-- One half of a sector, or both, with new data (R66). -/
def putHalves (old new : BitVec 512) (lo hi : Bool) : BitVec 512 :=
  (if hi then new.extractLsb' 256 256 else old.extractLsb' 256 256) ++ (if lo then new.extractLsb' 0 256 else old.extractLsb' 0 256)
/-- The halves of one sector of a piece that are processed, with its relative offset: the new state, the request's result and its
count of poisoned sectors read (R61, R301, R302). A mark goes only with a write of the whole sector (R61). -/
def nmSector (fn : Nat) (red : RedOp) (pattern : BitVec 64) (s : State) (d : Nat) (src : Option Nat) (rel : Nat) (lo hi : Bool)
    (res np : Nat) : State × Nat × Nat :=
  let (dd, dp) := nmRead s d
  let (sd, sp) := match src with
    | some x => nmRead s x
    | none => (0, false)
  let part := !(lo && hi)
  let n := fun p : Bool => b2n (p && lo)
  if !lo && !hi then (s, res, np)
  else if fn = 0 then
    (setHomeData s d (putHalves dd (BitVec.ofNat 512 (leNat ((List.range 8).flatMap fun _ => bytesOf 8 pattern.toNat))) lo hi) (dp && part), res, np)
  else if fn = 1 then (setHomeData s d (putHalves dd sd lo hi) (sp || (dp && part)), res, np + n sp)
  else if fn = 2 then
    (s, match firstDiff (putHalves 0 dd lo hi) (putHalves 0 sd lo hi) with
      | some k => Nat.min res (rel + k)
      | none => res, np + n dp + n sp)
  else
    let p := dp || sp
    (setHomeData s d (if p then ones512 else putHalves dd (redSector red dd sd) lo hi) p, res, np + n dp + n sp)
/-- A queued piece may be processed: it belongs to one of the 8 operations that the unit holds, and its operation may start
(R72, R127). -/
def pieceReady (s : State) (md : Nat) (p : NmPiece) : Bool :=
  ((dedup ((getMd s md).pieces.map (·.op))).take 8).contains p.op && (match findNm s p.core p.op with
    | some q => engineMayStart s q.wave p.op
    | none => true)
/-- The sectors of a piece that the unit writes: some of D's, but for a comparison and for lost homes (R72, R92). -/
def pieceWrites (s : State) (p : NmPiece) (fn : Nat) (is : List Nat) : List Nat :=
  if fn = 2 then [] else (is.map fun i => sectorOf p.dst + i).filter fun x => !(getMd s (homeUnit x)).unreachable
/-- Those that it only reads: of S, and of D for a comparison. -/
def pieceReads (s : State) (p : NmPiece) (fn : Nat) (is : List Nat) : List Nat :=
  (is.flatMap fun i => (if fn = 2 then [sectorOf p.dst + i] else []) ++ (p.src.map fun a => sectorOf a + i).toList).filter fun x =>
    !(getMd s (homeUnit x)).unreachable && !(pieceWrites s p fn is).contains x
/-- The host keeps no copy of a sector, nor owes an answer (R381). -/
def hostFree (s : State) (x : Nat) : Bool := !(getHome s x).hostHeld && (getHome s x).biOwed == 0
/-- A sector can be read for the unit now: its home holds the owner token, or a die does that can answer (R72, R86). -/
def nmReadable (s : State) (x : Nat) : Bool :=
  let h := getHome s x
  hostFree s x && (h.own || (!h.frozen && h.trump.isNone && match ownerDie s x with
    | some cd => !(getSec s cd x).frozen && (getSec s cd x).act.isNone
    | none => false))
/-- A read is made: the home takes a token where it has none (R72, R86). -/
def nmTake (s : State) (x : Nat) : State :=
  let h := getHome s x
  if h.own then hostDone s x else if h.tokens = 0 then (homeRead s x).2 else s
/-- What a read that is not possible yet asks for. -/
def nmAsk (s : State) (x : Nat) : State :=
  if !hostFree s x then snoopHeld s x else if (ownerDie s x).isNone then homeRequest s x else s
/-- The unit may write some sectors, under all their tokens, and read others; else what is missing is asked for (R72, R92). -/
def nmGather (s : State) (ws rs : List Nat) : Bool × State :=
  let (ok, s) := homeGather s ws
  if !ok then (false, s)
  else if rs.all (nmReadable s) then (true, s) else (false, (rs.filter fun x => !nmReadable s x).foldl nmAsk s)
/-- Its accesses have been made: tokens gathered for them are free again, and those taken by reads are home (R72, R92). -/
def nmDone (s : State) (ws rs : List Nat) : State := rs.foldl nmTake (ws.foldl homeDone s)
/-- Some 32-byte units of a piece processed (R72, R301). -/
def nmUnits (s : State) (p : NmPiece) (q : NmReq) (us : List Nat) : State × Nat × Nat :=
  (dedup (us.map (· / 2))).foldl (fun (s, res, np) i =>
    nmSector q.fn q.red q.pattern s (sectorOf p.dst + i) (p.src.map fun a => sectorOf a + i) (p.rel + 64 * i) (us.contains (2 * i))
      (us.contains (2 * i + 1)) res np) (s, q.result.toNat, q.npois)
/-- The units of a piece still to be processed. -/
def unitsLeft (p : NmPiece) : List Nat := (List.range (p.len / 32)).filter fun u => !p.done.contains u
/-- The piece is done, with the request's result and count. -/
def finishPiece (s : State) (md : Nat) (p : NmPiece) (res np : Nat) : State :=
  onCore (onMd s md fun m => { m with pieces := m.pieces.filter fun x => !(x == p) }) p.core fun c =>
    { c with nm := updWhere (·.op == p.op) (fun q => { q with left := q.left - 1, result := BitVec.ofNat 32 res, npois := np }) c.nm }
/-- A near-memory unit takes the first queued piece whose operation may start and processes what is left of it: each sector is
written with all 64 tokens at its home, and read with one; what is missing is requested (R72, R92, R127, R301). -/
def execNmopPiece (md : Nat) (s : State) : Res :=
  match (getMd s md).pieces.find? (pieceReady s md) with
  | none => .next s
  | some p =>
    match findNm s p.core p.op with
    | none => .next (onMd s md fun m => { m with pieces := m.pieces.filter fun x => !(x == p) })
    | some q =>
      if (getMd s md).unreachable then .next (finishPiece s md p q.result.toNat q.npois)
      else
        let is := dedup ((unitsLeft p).map (· / 2))
        let ws := pieceWrites s p q.fn is
        let rs := pieceReads s p q.fn is
        let (ok, s) := nmGather s ws rs
        if !ok then .next s
        else
          let (s, res, np) := nmUnits s p q (unitsLeft p)
          .next (finishPiece (nmDone s ws rs) md p res np)
/-- One sector of a queued piece, or one half of it, is processed before the rest: which is free, as no order holds among sectors
(R66, R72; log entry 1). A poisoned sector is processed whole, as its write may clear the mark (R61). -/
def nmopUnit (md : Nat) (s : State) : Res :=
  let ps := (getMd s md).pieces.filter (pieceReady s md)
  let (r, s) := freshWord s
  match ps[r.toNat % ps.length]? with
  | none => .next s
  | some p =>
    let left := unitsLeft p
    let (r, s) := freshWord s
    match findNm s p.core p.op, left[r.toNat % left.length]? with
    | some q, some u =>
      let i := u / 2
      let ws := pieceWrites s p q.fn [i]
      let rs := pieceReads s p q.fn [i]
      if (getMd s md).unreachable then .next s else
      let (ok, s) := nmGather s ws rs
      if !ok then .next s
      else
        let whole := (ws ++ rs).any fun x => (nmRead s x).2
        let us := if whole then left.filter (· / 2 == i) else [u]
        if us.length = left.length then .next s
        else
          let (s, res, np) := nmUnits s p q us
          let s := nmDone s ws rs
          let s := onMd s md fun m => { m with pieces := m.pieces.map fun x => if x == p then { p with done := p.done ++ us } else x }
          .next (onCore s p.core fun c =>
            { c with nm := updWhere (·.op == p.op) (fun q => { q with result := BitVec.ofNat 32 res, npois := np }) c.nm })
    | _, _ => .next s
/-- Every piece has been acknowledged: word 1 of the result record, then word 0, and the flag (R128, R302). -/
def execNmopCompletion (c : CoreId) (n : Nat) (s : State) : Res :=
  match findNm s c n with
  | none => .next s
  | some q =>
    if q.left != 0 then .next s
    else
      let b := (getBlock s q.blk).map (·.core)
      let s := onCore s (b.getD c) fun k =>
        scrWrite (scrWrite k (q.recAddr + 4) (bytesOf 4 (Nat.min 255 q.npois * 2 ^ 24))) q.recAddr (bytesOf 4 q.result.toNat)
      .next (finishOp (onCore s c fun k => { k with nm := k.nm.filter (·.op != n) }) q.wave n)

end Sys2Proof.Machine
end

