-- ==== Sys2Proof/Machine/Tile.lean ====
section
/-! DEFINITION. The tile instructions, the tile queue and its tasks (R313 to R339). -/

namespace Sys2Proof.Machine

/-! ## Acceptance (R316 to R318) -/

/-- What the checks of a tile instruction come to (R317): a fault, a migration wait, walks to make, or the pages of an object
destination where it has one. -/
inductive TileChk
  | fault (c : Cause) (ad : BitVec 64) | wait (id : BitVec 24) | walks (ps : List (BitVec 24 × Nat)) | ok (dest : List (Nat × Target))
  deriving DecidableEq, Repr
/-- Fields of a store's scalar block (R330). -/
def stD (sc : List Nat) : Nat := sc.getD 0 0
def stHigh (sc : List Nat) : Nat := sc.getD 1 0
def stPitch (sc : List Nat) : Nat := sc.getD 2 0
def stCtl (sc : List Nat) : Nat := sc.getD 3 0
def stZ (sc : List Nat) : Nat := sc.getD 4 0
def stObj (sc : List Nat) : Bool := bitOf (stCtl sc) 31
def stFmt (sc : List Nat) : Nat := bits (stCtl sc) 19 16
def stExp (sc : List Nat) : Int := sgn 8 (bits (stCtl sc) 7 0)
/-- Bytes of an output row. -/
def stRow (sc : List Nat) : Nat := outWidth (stFmt sc) * 8
/-- Offset of D: in the allocation, or in the object. -/
def stOff (sc : List Nat) : Nat := if stObj sc then stD sc + stHigh sc % 256 * 2 ^ 32 else stD sc
/-- The object of D. -/
def stId (sc : List Nat) : Nat := stHigh sc / 256
/-- A tile instruction: it waits for a queue entry, its checks run on the scalars as they stand, and its task joins the
queue (R317, R318). A victim of a pre-emption issues none (R336). -/
def tileIssue (i : Instr) (fn : BitVec 5) (ct : BitVec 4) (pl : BitVec 2) (a : SReg) (n : Nat) (fl : FlagN) (la : LaN) (s : State)
    (chk : State → Wave → Block → List Nat → TileChk) : Res :=
  checked i s fun s =>
    let w := s.cur
    let b := blockOf s w
    let sc := (List.range n).map fun k => readBlk w.a a k
    if w.preempt || (getCore s (coreId w.id)).tiles.length ≥ 64 then .next (stall s)
    else match chk s w b (sc.map (·.toNat)) with
      | .fault c ad => .next (parkActive s c ad)
      | .wait id => .next (holdMigration s id)
      | .walks ps => .next (waitWalks s ps)
      | .ok dest =>
        let s := usePages s (BitVec.ofNat 24 (stId (sc.map (·.toNat)))) (dest.map (·.1))
        let t : TileTask := { wave := w.id, blk := w.blk, k := w.k, op := s.nextId, fn := fn, ct := ct, pl := pl, flag := fl.toNat
                              mmode := w.a.mmode, scal := sc, base := b.base, dest := dest, pc := w.a.pc, started := false
                              progress := 0, saved := false }
        let s := issue s
        let s := accept s (newOp s .tile fl la)
        let s := onCore s (coreId w.id) fun c => { c with tiles := c.tiles ++ [t] }
        .next (advance (onBlock s w.blk fun b => { b with matrix := true }))
/-- Check 3 of R317 for a range. -/
def tileBounds (b : Block) (lo n : Nat) (rest : TileChk) : TileChk := if lo + n > b.size then .fault .bounds 0 else rest

/-- `msetm`: MMODE changes at acceptance; its flag rises and falls there (R318, R325). -/
def execMsetm (a : SReg) (fl : FlagN) (la : LaN) (s : State) : Res :=
  checked (.msetm a fl la) s fun s =>
    let w := s.cur
    if w.preempt || (getCore s (coreId w.id)).tiles.length ≥ 64 then .next (stall s)
    else match legalMmode (readS w.a a) with
      | none => .next (trapAt s .rsvf)
      | some m =>
        if !mmodePass m then .next (trapAt s .rsvf)
        else
          let s := onBlock s w.blk fun b => { b with matrix := true }
          .next (advance (mapA (issue s) fun a => { a with mmode := m }))
/-- `mcb` (R321). -/
def execMcb (k : BitVec 3) (a : SReg) (fl : FlagN) (la : LaN) (s : State) : Res :=
  tileIssue (.mcb k a fl la) 1 (k.setWidth 4) 0 a 1 fl la s fun _ _ b sc =>
    let o := sc.getD 0 0
    if o % 32 != 0 then .fault .align 0 else tileBounds b o 32 (.ok [])
/-- Bytes and number of the rows that `mld` reads (R322). -/
def mldRow (mm : Word) : Nat := mmWidth (mmWfmt mm) * 8
def mldRows (mm : Word) : Nat := if mmCplx mm then 16 else 32
/-- `mld` (R322). -/
def execMld (a : SReg) (p : BitVec 2) (fl : FlagN) (la : LaN) (s : State) : Res :=
  tileIssue (.mld a p fl la) 2 0 p a 2 fl la s fun _ w b sc =>
    let o := sc.getD 0 0
    let pitch := sc.getD 1 0
    let mm := w.a.mmode
    if o % 16 != 0 || pitch % 16 != 0 then .fault .align 0
    else if pitch < mldRow mm then .fault .rsvf 0
    else tileBounds b o ((mldRows mm - 1) * pitch + mldRow mm) (.ok [])
/-- The checks of a scale row load (R323). -/
def scaleChk (b : Block) (o : Nat) : TileChk := if o % 4 != 0 then .fault .align 0 else tileBounds b o 64 (.ok [])
/-- `mldsw` (R323). -/
def execMldsw (a : SReg) (p : BitVec 2) (fl : FlagN) (la : LaN) (s : State) : Res :=
  tileIssue (.mldsw a p fl la) 3 0 p a 1 fl la s fun _ _ b sc => scaleChk b (sc.getD 0 0)
/-- `mldsa` (R323). -/
def execMldsa (a : SReg) (p : BitVec 2) (fl : FlagN) (la : LaN) (s : State) : Res :=
  tileIssue (.mldsa a p fl la) 4 0 p a 1 fl la s fun _ _ b sc => scaleChk b (sc.getD 0 0)
/-- `mldc` (R324). -/
def execMldc (c : BitVec 4) (a : SReg) (p : BitVec 2) (fl : FlagN) (la : LaN) (s : State) : Res :=
  tileIssue (.mldc c a p fl la) 5 c p a 1 fl la s fun _ _ _ sc =>
    if sc.getD 0 0 > 1 then .fault .rsvf 0 else .ok []
/-- The record of a plane as the tasks of a core's queue will leave it: V, WFMT and CPLX (R318). A pass that was accepted against the
record of an `mldc` which is killed later runs on the plane as it stands (R334; log entry 98). -/
def projected (c : Core) (p : BitVec 2) : Bool × Nat × Bool :=
  let pl := c.planes.toArray.getD p.toNat {}
  c.tiles.foldl (fun r t =>
    if t.pl = p ∧ (t.fn = 2 ∨ t.fn = 5) then (true, mmWfmt t.mmode, mmCplx t.mmode) else r) (pl.v, pl.wfmt.toNat, pl.cplx)
/-- Bytes of an activation row (R326). -/
def mstcRow (mm : Word) : Nat := mmWidth (mmAfmt mm) * 4
/-- `mstc` (R326). -/
def execMstc (c : BitVec 4) (a : SReg) (p : BitVec 2) (fl : FlagN) (la : LaN) (s : State) : Res :=
  tileIssue (.mstc c a p fl la) 6 c p a 3 fl la s fun s w b sc =>
    let o := sc.getD 0 0
    let pitch := sc.getD 1 0
    let mm := w.a.mmode
    if o % 16 != 0 || pitch % 16 != 0 then .fault .align 0
    else if pitch < mstcRow mm || projected (getCore s (coreId w.id)) p != (true, mmWfmt mm, mmCplx mm) then .fault .rsvf 0
    else tileBounds b o (63 * pitch + mstcRow mm) (.ok [])
/-- `mzero` (R329). -/
def execMzero (c : BitVec 4) (fl : FlagN) (la : LaN) (s : State) : Res :=
  tileIssue (.mzero c fl la) 7 c 0 0 0 fl la s fun _ _ _ _ => .ok []

/-! ## Tile stores (R330) -/

/-- The functions of the three stores. -/
def fnMstr : BitVec 5 := 8
def fnMstrs : BitVec 5 := 9
def fnMstrx : BitVec 5 := 10
/-- Check 2 of R330. -/
def stReserved (fn : BitVec 5) (sc : List Nat) : Bool :=
  let c := stCtl sc
  bits c 30 20 != 0 || bits c 15 8 != 0 || stPitch sc < stRow sc || (!stObj sc && stHigh sc != 0) ||
  (fn == fnMstr && (stFmt sc != 0 || bits c 7 0 != 0)) || (fn == fnMstrs && stFmt sc > 6) ||
  (fn == fnMstrx && (stFmt sc < 3 || stFmt sc > 5 || bits c 7 0 != 0)) || (fn != fnMstrx && stZ sc != 0)
/-- The ranges of object space that a store writes: each row, and the scales. -/
def stRanges (fn : BitVec 5) (sc : List Nat) : List (Nat × Nat) :=
  (List.range 64).map (fun m => (stOff sc + m * stPitch sc, stRow sc)) ++ (if fn = fnMstrx then [(stOff sc + stZ sc, 128)] else [])
/-- Check 4 of R330 on one range. -/
def stRange (view : PageView) (pkg : Nat) (conf : Bool) (id : Nat) (r : Nat × Nat) : RangeOut :=
  if id != 0 && r.1 ≥ 2 ^ 40 then .fault .bounds (objAddr id (2 ^ 40 - 1))
  else nmRange view pkg conf 0b010 true (objAddr id (r.1 % 2 ^ 40)) r.2
/-- Check 4 of R330: the rows and the scales, of which the lowest failing byte is named (R436); the pages of the destination. -/
def stDest (view : PageView) (pkg : Nat) (conf : Bool) (fn : BitVec 5) (sc : List Nat) : TileChk :=
  let outs := (stRanges fn sc).map (stRange view pkg conf (stId sc))
  let walks := outs.flatMap fun o => match o with
    | .walks ps => ps
    | _ => []
  let bads : List (Cause × BitVec 64) := outs.filterMap fun o => match o with
    | .fault c ad => some (c, ad)
    | _ => none
  let bad : Option (Cause × BitVec 64) := match bads with
    | x :: xs => some (xs.foldl (fun a b => if b.2.toNat < a.2.toNat then b else a) x)
    | [] => none
  let moving := outs.findSome? fun o => match o with
    | .wait id => some id
    | _ => none
  if !walks.isEmpty then .walks (dedup walks) else
  match bad, moving with
  | some (c, ad), _ => .fault c ad
  | none, some id => .wait id
  | none, none => .ok (dedup (outs.flatMap fun o => match o with
      | .ok ps _ => ps.map fun (a, _, t) => (a / 65536, { t with addr := t.addr - a % 65536 })
      | _ => []))
/-- The checks of a tile store (R330). -/
def storeChk (fn : BitVec 5) (s : State) (w : Wave) (b : Block) (sc : List Nat) : TileChk :=
  let cw := sc.getD 5 0
  if stOff sc % 4 != 0 || stPitch sc % 4 != 0 || cw % 4 != 0 then .fault .align 0
  else if stReserved fn sc then .fault .rsvf 0
  else tileBounds b cw 4 (
    if stObj sc then stDest (pageView s w) (pkgOf w.id.cd) (confidential s (pkgOf w.id.cd) w.ctx) fn sc
    else tileBounds b (stOff sc) (63 * stPitch sc + stRow sc)
      (if fn = fnMstrx then tileBounds b (stOff sc + stZ sc) 128 (.ok []) else .ok []))
/-- `mstr` (R330, R331). -/
def execMstr (c : BitVec 4) (a : SReg) (fl : FlagN) (la : LaN) (s : State) : Res :=
  tileIssue (.mstr c a fl la) fnMstr c 0 a 7 fl la s (storeChk fnMstr)
/-- `mstrs` (R330, R331). -/
def execMstrs (c : BitVec 4) (a : SReg) (fl : FlagN) (la : LaN) (s : State) : Res :=
  tileIssue (.mstrs c a fl la) fnMstrs c 0 a 7 fl la s (storeChk fnMstrs)
/-- `mstrx` (R330, R332). -/
def execMstrx (c : BitVec 4) (a : SReg) (fl : FlagN) (la : LaN) (s : State) : Res :=
  tileIssue (.mstrx c a fl la) fnMstrx c 0 a 7 fl la s (storeChk fnMstrx)
/-- The checks that `mrdc` and `mwrc` share; `cw` is the completion word of `mrdc` (R329). -/
def copyChk (b : Block) (sc : List Nat) (cw : Option Nat) : TileChk :=
  let t := sc.getD 0 0
  let d := sc.getD 1 0
  let n := sc.getD 2 0
  if t % 4 != 0 || d % 4 != 0 || cw.getD 0 % 4 != 0 then .fault .align 0
  else if n < 4 || n > 16384 || n % 4 != 0 || t + n > 16384 then .fault .rsvf 0
  else tileBounds b d n (match cw with
    | some c => tileBounds b c 4 (.ok [])
    | none => .ok [])
/-- `mrdc` (R329). -/
def execMrdc (c : BitVec 4) (a : SReg) (fl : FlagN) (la : LaN) (s : State) : Res :=
  tileIssue (.mrdc c a fl la) 11 c 0 a 5 fl la s fun _ _ b sc => copyChk b sc (some (sc.getD 3 0))
/-- `mwrc` (R329). -/
def execMwrc (c : BitVec 4) (a : SReg) (fl : FlagN) (la : LaN) (s : State) : Res :=
  tileIssue (.mwrc c a fl la) 12 c 0 a 3 fl la s fun _ _ b sc => copyChk b sc none
/-- `msync` (R333). -/
def execMsync (fl : FlagN) (la : LaN) (s : State) : Res :=
  tileIssue (.msync fl la) 13 0 0 0 0 fl la s fun _ _ _ _ => .ok []

/-! ## Conflicts (R319) -/

/-- A task's scalars. -/
def TileTask.sc (t : TileTask) : List Nat := t.scal.map (·.toNat)
/-- A task's scalar k. -/
def TileTask.x (t : TileTask) (k : Nat) : Nat := t.sc.getD k 0
/-- The tile a task names, and whether it writes it. -/
def taskTile (t : TileTask) : Option (Nat × Bool) :=
  match t.fn.toNat with
  | 5 | 8 | 9 | 10 | 11 => some (t.ct.toNat, false)
  | 6 | 7 | 12 => some (t.ct.toNat, true)
  | _ => none
/-- The plane. -/
def taskPlane (t : TileTask) : Option (Nat × Bool) :=
  match t.fn.toNat with
  | 2 | 3 | 4 | 5 => some (t.pl.toNat, true)
  | 6 => some (t.pl.toNat, false)
  | _ => none
/-- The codebook slot. -/
def taskSlot (t : TileTask) : Option (Nat × Bool) :=
  if t.fn = 1 then some (t.ct.toNat % 8, true)
  else if t.fn = 6 ∧ mmWfmt t.mmode = 5 then some (mmKslot t.mmode, false) else none
/-- A K-slice of a row group that a pass computes (R327). -/
def liveSlice (t : TileTask) (g k : Nat) : Bool := !(mmSparse t.mmode && bitOf (t.x 2) (4 * g + k))
/-- First byte and end of the activation bytes that a pass reads, from the start of its rows (R319). -/
def passSpan (t : TileTask) : Option (Nat × Nat) :=
  let ab := mstcRow t.mmode
  let parts := (List.range 8).flatMap fun g => ((List.range 4).filter (liveSlice t g)).flatMap fun k =>
    [8 * g * t.x 1 + k * (ab / 4), (8 * g + 7) * t.x 1 + (k + 1) * (ab / 4)]
  match parts with
  | [] => none
  | p :: ps => some (ps.foldl Nat.min p, ps.foldl Nat.max p)
/-- The scratchpad ranges of a task: first byte, end, written (R319). -/
def taskRanges (t : TileTask) : List (Nat × Nat × Bool) :=
  let at' := fun (o n : Nat) (w : Bool) => (t.base + o, t.base + o + n, w)
  match t.fn.toNat with
  | 1 => [at' (t.x 0) 32 false]
  | 2 => [at' (t.x 0) ((mldRows t.mmode - 1) * t.x 1 + mldRow t.mmode) false]
  | 3 | 4 => [at' (t.x 0) 64 false]
  | 6 => match passSpan t with
    | some (lo, hi) => [(t.base + t.x 0 + lo, t.base + t.x 0 + hi, false)]
    | none => []
  | 8 | 9 | 10 =>
    at' (t.x 5) 4 true ::
      (if stObj t.sc then [] else
        at' (stOff t.sc) (63 * stPitch t.sc + stRow t.sc) true ::
          (if t.fn = fnMstrx then [at' (stOff t.sc + stZ t.sc) 128 true] else []))
  | 11 => [at' (t.x 1) (t.x 2) true, at' (t.x 3) 4 true]
  | 12 => [at' (t.x 1) (t.x 2) false]
  | _ => []
/-- Two uses of a named resource conflict. -/
def useClash (a b : Option (Nat × Bool)) : Bool :=
  match a, b with
  | some (x, u), some (y, v) => x == y && (u || v)
  | _, _ => false
/-- Two tasks conflict (R319, R333). -/
def tasksConflict (a b : TileTask) : Bool :=
  a.fn == 13 || b.fn == 13 || useClash (taskTile a) (taskTile b) || useClash (taskPlane a) (taskPlane b) ||
  useClash (taskSlot a) (taskSlot b) ||
  (taskRanges a).any fun (lo, hi, w) => (taskRanges b).any fun (lo', hi', w') => lo < hi' && lo' < hi && (w || w')

/-! ## Units and choice (R313, R318) -/

/-- The kind of unit that runs a task: 0 load, 1 array, 2 tile, 3 none. -/
def unitKind (t : TileTask) : Nat :=
  match t.fn.toNat with
  | 1 | 2 | 3 | 4 | 5 => 0
  | 6 => 1
  | 13 => 3
  | _ => 2
/-- The engine of a task that names a plane (R313). -/
def taskEngine (t : TileTask) : Option Nat := (taskPlane t).map fun p => p.1 / 2
/-- A unit has taken a task and has read or written pieces for it. -/
def taskBegun (t : TileTask) : Bool := !t.got.isEmpty || !t.put.isEmpty
/-- A unit of an engine runs no task. -/
def unitFree (c : Core) (kind e : Nat) : Bool :=
  kind == 3 || !c.tiles.any fun u => (u.started || taskBegun u) && unitKind u == kind && u.engine == e
/-- The engine on which a task may start now: the one that has begun it, that of its plane, else the one whose unit is free, engine 0 on a tie (R313). -/
def engineFor (c : Core) (t : TileTask) : Option Nat :=
  if taskBegun t then some t.engine else ((taskEngine t).elim [0, 1] fun e => [e]).find? (unitFree c (unitKind t))
/-- The tasks ahead of a task in the queue. -/
def aheadOf (c : Core) (t : TileTask) : List TileTask := c.tiles.takeWhile fun u => !(u == t)
/-- No conflicting task ahead is open (R318, R319). -/
def noOpenPred (c : Core) (t : TileTask) : Bool := (aheadOf c t).all fun u => !tasksConflict u t
/-- A saved store to an object is checked again before it starts, on what its core knows of the pages (R41, R338). -/
def recheck (s : State) (c : CoreId) (t : TileTask) : TileChk :=
  if t.saved && t.put.isEmpty && t.fn.toNat ≥ 8 && t.fn.toNat ≤ 10 && stObj t.sc then
    match getBlock s t.blk with
    | some b => stDest (knownPage s c b.ctx t.xres) b.pkg (confidential s b.pkg b.ctx) t.fn t.sc
    | none => .ok t.dest
  else .ok t.dest
/-- A saved store waits for a moving page, or for walks (R41, R338). -/
def recheckWaits (s : State) (c : CoreId) (t : TileTask) : Bool := match recheck s c t with
  | .wait _ | .walks _ => true
  | _ => false
/-- A pass of a block that is being stopped stands at a checkpoint, where it stops; one that has begun a row group goes on to the end
of it (R336). -/
def passStops (s : State) (t : TileTask) : Bool := t.fn == 6 && t.got.isEmpty && (getBlock s t.blk).any (·.state == .stopping)
/-- A task that has not started may do so: its instruction has committed with the issue edge of R127, a saved one waits
for every `eret` of its block, and none of its predecessors is open (R318, R338). A stopping block's passes do not start, but for one that has begun to (R336). -/
def taskDue (s : State) (c : Core) (t : TileTask) : Bool :=
  let waits := (getBlock s t.blk).any fun b => t.saved && b.erets != 0
  !t.started && engineMayStart s t.wave t.op && noOpenPred c t && !waits && !passStops s t
/-- It waits for no walk and for no moving page either (R41, R338). -/
def taskReady (s : State) (c : Core) (t : TileTask) : Bool := taskDue s c t && !recheckWaits s c.id t
/-- The oldest ready task of a free unit (R313, R318). -/
def taskChosen (s : State) (c : Core) (t : TileTask) : Bool :=
  taskReady s c t && (engineFor c t).isSome && (taskBegun t ||
  (aheadOf c t).all fun u => !(unitKind u == unitKind t && engineFor c u == engineFor c t && taskReady s c u))
/-- The engine of a task of a core runs: the die's core clock does; on a held die it goes on with a task that it has begun, to the
task's next checkpoint (R339, R391). -/
def enginesRun (s : State) (c : CoreId) (t : TileTask) : Bool :=
  let d := getCd s c.cd
  d.power == .run && !d.thermal && (!d.held || taskBegun t)

/-! ## What a task does (R321 to R334) -/

/-- A task of a core's queue. -/
def findTask (s : State) (c : CoreId) (n : Nat) : Option TileTask := (getCore s c).tiles.find? (·.op == n)
/-- f applied to a task. -/
def onTask (s : State) (c : CoreId) (n : Nat) (f : TileTask → TileTask) : State :=
  onCore s c fun k => { k with tiles := updWhere (·.op == n) f k.tiles }
/-- Row m of a tile, 256 bytes as a number. -/
def tileRow (c : Core) (ct m : Nat) : Nat := memNat c.acc (0x4000 * ct + 256 * m) 256
/-- The elements of row m of a tile. -/
def tileElems (c : Core) (ct m : Nat) : List Nat :=
  let r := tileRow c ct m
  (List.range 64).map fun n => r / 2 ^ (32 * n) % 2 ^ 32
/-- Row m of a tile written. -/
def setTileRow (c : Core) (ct m : Nat) (xs : List Nat) : Core :=
  { c with acc := memPut c.acc (0x4000 * ct + 256 * m) (xs.flatMap (bytesOf 4)) }
/-- A tile's poison mark set or cleared. -/
def setTilePoison (c : Core) (ct : Nat) (p : Bool) : Core :=
  let m : BitVec 16 := 1 <<< ct
  { c with accPoison := if p then c.accPoison ||| m else c.accPoison &&& ~~~m }
/-- A plane of a core replaced. -/
def onPlane (c : Core) (p : Nat) (f : Plane → Plane) : Core :=
  if h : p < 4 then { c with planes := c.planes.set p (f (c.planes.toArray.getD p {})) h } else c
/-- A codebook slot of a core replaced. -/
def setCodebook (c : Core) (k : Nat) (x : BitVec 256) (p : Bool) : Core :=
  let m : BitVec 8 := 1 <<< k
  let cbs := if h : k < 8 then c.cbs.set k x h else c.cbs
  { c with cbs := cbs, cbPoison := if p then c.cbPoison ||| m else c.cbPoison &&& ~~~m }
/-- 64 scale bytes of 1. -/
def scaleOnes : BitVec 512 := BitVec.ofNat 512 (leNat (List.replicate 64 0x7F))
/-- A loaded plane (R322, R324). -/
def loadedPlane (mm : Word) (pois : Bool) (row : Nat → Nat) : Plane :=
  { pois := pois, v := true, cplx := mmCplx mm, wfmt := BitVec.ofNat 4 (mmWfmt mm)
    rows := ⟨((List.range 32).map fun k => BitVec.ofNat 1024 (row k)).toArray, by simp⟩, ws := scaleOnes, as := scaleOnes }
/-- `mld` (R322, R334). -/
def runMld (t : TileTask) (c : Core) : Core :=
  let rb := mldRow t.mmode
  let o := fun k => t.base + t.x 0 + k * t.x 1
  let n := mldRows t.mmode
  let pois := (List.range n).any fun k => scrPois c (o k) rb
  onPlane c t.pl.toNat fun _ => loadedPlane t.mmode pois fun k => if k < n then scrNat c (o k) rb else 0
/-- `mldsw` and `mldsa` (R323, R334). -/
def runScale (t : TileTask) (c : Core) : Core :=
  let x := BitVec.ofNat 512 (scrNat c (t.base + t.x 0) 64)
  let pois := scrPois c (t.base + t.x 0) 64
  onPlane c t.pl.toNat fun p =>
    if t.fn = 3 then { p with ws := x, pois := p.pois || pois } else { p with as := x, pois := p.pois || pois }
/-- `mcb` (R321, R334). -/
def runMcb (t : TileTask) (c : Core) : Core :=
  setCodebook c (t.ct.toNat % 8) (BitVec.ofNat 256 (scrNat c (t.base + t.x 0) 32)) (scrPois c (t.base + t.x 0) 32)
/-- `mldc` (R324, R334). -/
def runMldc (t : TileTask) (c : Core) : Core :=
  let f := mmWfmt t.mmode
  let ty := (mmFloat f).getD .bf16
  onPlane c t.pl.toNat fun _ => loadedPlane t.mmode false fun k =>
    packRow (mmWidth f) ((tileElems c t.ct.toNat (32 * t.x 0 + k)).map fun x => tileCvt ty (fdec .fp32 false x))
/-- Row group g of `mstc`, up to its checkpoint (R327, R334). -/
def runGroup (t : TileTask) (g : Nat) (c : Core) : Core :=
  let ab := mstcRow t.mmode
  let live := liveSlice t g
  let used := (List.range 4).any live
  let plane := c.planes.toArray.getD t.pl.toNat {}
  let slot := mmKslot t.mmode
  let p : PassArgs := ⟨t.mmode, plane, c.cbs.toArray.getD slot 0⟩
  let rows := span (8 * g) 8
  let o := fun m => t.base + t.x 0 + m * t.x 1
  let pois := used && (plane.pois || (mmWfmt t.mmode == 5 && c.cbPoison.getLsbD slot) ||
    rows.any fun m => (List.range 4).any fun k => live k && scrPois c (o m + k * (ab / 4)) (ab / 4))
  let c' := rows.foldl (fun (d : Core) m =>
    let row := scrNat c (o m) ab
    setTileRow d t.ct.toNat m ((tileElems c t.ct.toNat m).zipIdx.map fun (x, n) => p.element m row live x n)) c
  if pois then setTilePoison c' t.ct.toNat true else c'
/-- `mzero` (R329). -/
def runMzero (t : TileTask) (c : Core) : Core :=
  let lo := 0x4000 * t.ct.toNat
  setTilePoison { c with acc := c.acc.filter fun x => x.1 < lo || lo + 0x4000 ≤ x.1 } t.ct.toNat false
/-- `mwrc` (R329, R334). -/
def runMwrc (t : TileTask) (c : Core) : Core :=
  let a := t.base + t.x 1
  let pois := scrPois c a (t.x 2)
  let c' := { c with acc := memPut c.acc (0x4000 * t.ct.toNat + t.x 0) (scrBytes c a (t.x 2)) }
  if pois then setTilePoison c' t.ct.toNat true
  else if t.x 2 = 16384 then setTilePoison c' t.ct.toNat false else c'
/-- The bytes of row m that a store writes, and the scale bytes of its MX blocks (R331, R332). -/
def storeRow (t : TileTask) (xs : List Nat) : List Byte × List Nat :=
  let f := stFmt t.sc
  let w := outWidth f
  let vs := xs.map fun x => fdec .fp32 false x
  if t.fn = fnMstr then (bytesOf 256 (packRow 32 xs), [])
  else if t.fn = fnMstrs then (bytesOf (stRow t.sc) (packRow w (vs.map fun v => outElem f (scaleVal v (stExp t.sc)))), [])
  else
    let b0 := mxBlock f (vs.take 32)
    let b1 := mxBlock f (vs.drop 32)
    (bytesOf (stRow t.sc) (packRow w (b0.2 ++ b1.2)), [b0.1, b1.1])
/-- What a store or `mrdc` writes beside its completion word: runs of bytes by offset from the allocation, or in the
object (R329, R331, R332). -/
def storeBytes (t : TileTask) (c : Core) : List (Nat × List Byte) :=
  if t.fn = 11 then [(t.x 1, memBytes c.acc (0x4000 * t.ct.toNat + t.x 0) (t.x 2))]
  else (List.range 64).flatMap fun m =>
    let (bs, sc) := storeRow t (tileElems c t.ct.toNat m)
    (stOff t.sc + m * stPitch t.sc, bs) ::
      (if sc.isEmpty then [] else [(stOff t.sc + stZ t.sc + 2 * m, sc.map (BitVec.ofNat 8))])
/-- A core as a task sees it that has read units of its scratchpad before (R66, R131). -/
def seenCore (t : TileTask) (c : Core) : Core :=
  t.got.foldl (fun c (k, bs, ps) =>
    { c with scr := memPut c.scr (64 * k) bs, scrPoison := ps ++ c.scrPoison.filter fun p => p / 8 != k }) c
/-- What a task makes of the matrix state, from the scratchpad as it has read it. -/
def runSeen (f : Core → Core) (t : TileTask) (c : Core) : Core := { f (seenCore t c) with scr := c.scr, scrPoison := c.scrPoison }
/-- A task that reads its tile into a place where poison kills (R334). -/
def killsOnPoison (t : TileTask) : Bool := t.fn == 5 || t.fn == 8 || t.fn == 9 || t.fn == 10 || t.fn == 11
/-- The task leaves the queue, and its wave, if it lives, is killed at the task's instruction (R58, R334, R338). -/
def killTask (s : State) (c : CoreId) (t : TileTask) (cause : Cause) (ad : BitVec 64) : State :=
  let s := match getWave s t.wave with
    | some w => if w.blk == t.blk && w.hold != .ended then killWave s w cause t.pc ad w.a.trap else s
    | none => s
  finishOp (onCore s c fun k => { k with tiles := k.tiles.filter (·.op != t.op) }) t.wave t.op
/-- The place of a byte of an object destination. -/
def destPlace (dest : List (Nat × Target)) (o : Nat) : Target :=
  match dest.find? (·.1 == o / 65536) with
  | some (_, t) => { t with addr := t.addr + o % 65536 }
  | none => ⟨.dev, 0, .dev, .none⟩
/-- Runs of bytes of a store task: into the scratchpad, or into the object once all its sectors can be written; false
where tokens are still missing (R80, R331). Bytes toward a lost home are discarded (R71). -/
def putRuns (s : State) (c : CoreId) (t : TileTask) (runs : List (Nat × List Byte)) : Bool × State :=
  if t.fn != 11 && stObj t.sc then
    let xs := runs.flatMap fun (o, bs) => bs.zipIdx.map fun (b, i) => (destPlace t.dest (o + i), b, false)
    let ctx := match getBlock s t.blk with
      | some b => b.ctx
      | none => 0
    engWrite s c.cd (xs.filter fun (p, _, _) => !lostHome s (pkgOf c.cd) ctx p)
  else (true, onCore s c fun k => runs.foldl (fun k (o, bs) => scrWrite k (t.base + o) bs) k)
/-- What a store task writes, in pieces of the size that its place takes at once (R66). -/
def storePieces (t : TileTask) (c : Core) : List (Nat × List Byte) :=
  (storeBytes t c).flatMap fun (o, bs) =>
    let z := if t.fn != 11 && stObj t.sc then Nat.min 32 (pieceLimit (destPlace t.dest o)) else 64
    if bs.isEmpty then [] else (span (o / z) ((o + bs.length - 1) / z - o / z + 1)).map fun k =>
      let lo := Nat.max o (k * z)
      (lo, (bs.drop (lo - o)).take (k * z + z - lo))
/-- The payload of a store task, but for the pieces that it has written already. -/
def runStore (s : State) (c : CoreId) (t : TileTask) : Bool × State :=
  putRuns s c t (if t.put.isEmpty then storeBytes t (getCore s c)
    else (storePieces t (getCore s c)).zipIdx.filterMap fun (r, i) => if t.put.contains i then none else some r)
/-- What a task other than a pass does on the core. -/
def runLocal (t : TileTask) (c : Core) : Core :=
  match t.fn.toNat with
  | 1 => runMcb t c
  | 2 => runMld t c
  | 3 | 4 => runScale t c
  | 5 => runMldc t c
  | 7 => runMzero t c
  | 12 => runMwrc t c
  | _ => c
/-- A saved store's walks of the pages that its core does not know start, as many as the die runs at once; where the pages are in
migration wait, they are walked again (R41, R45, R338). -/
def tileWalk (c : CoreId) (n : Nat) (s : State) : Res :=
  match findTask s c n with
  | none => .next s
  | some t =>
    if !taskDue s (getCore s c) t then .next s else
    let ctx := ((getBlock s t.blk).map (·.ctx)).getD 0
    match recheck s c t with
    | .walks ps => .next (walkPagesAt s c.cd ctx (walkable (getCd s c.cd) ctx ps))
    | .wait _ => .next (onTask s c n fun t => { t with xres := [] })
    | _ => .next s
/-- Pages of a saved store used by its core: the L1 TLB takes those that only the die TLB holds (R41). -/
def taskPages (s : State) (c : CoreId) (t : TileTask) (dest : List (Nat × Target)) : State :=
  if !t.saved then s else
  let ctx := ((getBlock s t.blk).map (·.ctx)).getD 0
  dest.foldl (fun s p => fillTlb s c ctx (BitVec.ofNat 24 (stId t.sc)) p.1) s
/-- A task starts, or a running pass goes on to its next checkpoint (R318, R327, R338, R339). -/
def execTileTaskStart (c : CoreId) (n : Nat) (s : State) : Res :=
  match findTask s c n with
  | none => .next s
  | some t =>
    let k := getCore s c
    if !enginesRun s c t then .next s
    else if t.started then
      if t.fn = 6 ∧ t.progress < 8 ∧ !passStops s t then
        .next (onTask (onCore s c (runSeen (runGroup t t.progress) t)) c n fun t => { t with progress := t.progress + 1, got := [] })
      else .next s
    else if !taskChosen s k t then .next s
    else
      let e := (engineFor k t).getD 0
      match recheck s c t with
      | .fault cause ad => .next (killTask s c t cause ad)
      | .wait _ | .walks _ => .next s
      | .ok dest =>
        let s := taskPages s c t dest
        if killsOnPoison t && t.put.isEmpty && k.accPoison.getLsbD t.ct.toNat then .next (killTask s c t .poison 0)
        else if t.fn = 6 then
          .next (onTask (onCore s c (runSeen (runGroup t t.progress) t)) c n fun t =>
            { t with started := true, engine := e, progress := t.progress + 1, got := [] })
        else if t.fn.toNat ≥ 8 && t.fn.toNat ≤ 11 then
          let (ok, s) := runStore s c { t with dest := dest }
          .next (if ok then onTask s c n fun t => { t with started := true, engine := e, dest := dest } else s)
        else .next (onTask (onCore s c (runSeen (runLocal t) t)) c n fun t => { t with started := true, engine := e })
/-- The 64-byte units of its scratchpad that a task reads up to its next checkpoint: of a pass, those of a row group's rows (R320,
R327). -/
def taskUnits (t : TileTask) : List Nat :=
  let units := fun lo hi : Nat => if hi ≤ lo then [] else span (lo / 64) ((hi - 1) / 64 - lo / 64 + 1)
  if t.fn = 6 then
    dedup (((List.range 4).filter (liveSlice t t.progress)).flatMap fun k => (span (8 * t.progress) 8).flatMap fun m =>
      let z := mstcRow t.mmode / 4
      let o := t.base + t.x 0 + m * t.x 1 + k * z
      units o (o + z))
  else dedup ((taskRanges t).flatMap fun (lo, hi, w) => if w then [] else units lo hi)
/-- A task that runs, or whose unit takes it next, reads a unit of its scratchpad range before the rest: the pieces of what it
reads are events in no order (R66, R131, R320). Which unit is free (log entry 3). -/
def tileRead (c : CoreId) (n : Nat) (s : State) : Res :=
  match findTask s c n with
  | none => .next s
  | some t =>
    let k := getCore s c
    let ks := taskUnits t
    if !enginesRun s c t || !((t.started && t.fn == 6 && t.progress < 8 && !passStops s t) || taskChosen s k t) || ks.isEmpty then .next s
    else
      let (x, s) := freshWord s
      let u := ks.getD (x.toNat % ks.length) 0
      let e := if t.started then t.engine else (engineFor k t).getD 0
      .next (onTask s c n fun t => if t.got.any (·.1 == u) then t else
        { t with engine := e, got := t.got ++ [(u, memBytes k.scr (64 * u) 64, k.scrPoison.filter fun p => p / 8 == u)] })
/-- A store task whose unit takes it next writes a piece of its payload before the others (R66, R320). Which one is free (log entry 3). -/
def tilePut (c : CoreId) (n : Nat) (s : State) : Res :=
  match findTask s c n with
  | none => .next s
  | some t =>
    let k := getCore s c
    if !enginesRun s c t || !taskChosen s k t || !(t.fn.toNat ≥ 8 && t.fn.toNat ≤ 11) || k.accPoison.getLsbD t.ct.toNat then .next s
    else match recheck s c t with
      | .ok dest =>
        let s := taskPages s c t dest
        let runs := storePieces { t with dest := dest } k
        let (x, s) := freshWord s
        let i := x.toNat % runs.length
        if t.put.contains i then .next s
        else
          let (ok, s) := putRuns s c { t with dest := dest } (runs[i]?).toList
          .next (if ok then onTask s c n fun t => { t with dest := dest, engine := (engineFor k t).getD 0, put := t.put ++ [i] } else s)
      | _ => .next s
/-- The completion word of a task, offset and value, if it writes one (R128, R329, R330). -/
def taskWord (t : TileTask) : Option (Nat × Nat) :=
  match t.fn.toNat with
  | 8 | 9 | 10 => some (t.x 5, t.x 6)
  | 11 => some (t.x 3, t.x 4)
  | _ => none
/-- A task completes: its completion word is written, it leaves the queue and its flag falls (R128, R320). -/
def execTileTaskCompletion (c : CoreId) (n : Nat) (s : State) : Res :=
  match findTask s c n with
  | none => .next s
  | some t =>
    if !t.started || (t.fn == 6 && t.progress < 8) then .next s
    else
      let s := match taskWord t with
        | some (o, x) => onCore s c fun k => scrWrite k (t.base + o) (bytesOf 4 x)
        | none => s
      .next (finishOp (onCore s c fun k => { k with tiles := k.tiles.filter (·.op != n) }) t.wave n)

end Sys2Proof.Machine
end

