-- ==== Sys2Proof/Machine/Walks.lean ====
section
/-! DEFINITION. Events of translation and of the package's broadcasts: walks (R41), migration waits (R45), translation
invalidations (R47 to R49, R379) and write-backs (R170, R255). -/

namespace Sys2Proof.Machine

/-- A walk result as a TLB entry; none for a hole, a moving page or an invalid entry (R41). -/
def tlbOf (w : Walk) (o : WalkOut) : Option TlbEntry :=
  match o with
  | .found len perm sh k c (.frame f) _ _ =>
    some { ctx := w.ctx, id := w.id, page := w.page, frame := f, len := len, perm := perm, sh := sh, kind := k, coh := c }
  | _ => none
/-- The wave waits for a walk of a page: for its instruction, or for the frame of its pending trap. -/
def waitsFor (s : State) (cd : Nat) (k : Walk) (w : Wave) : Bool :=
  w.id.cd == cd && w.ctx == k.ctx && (match w.hold with
    | .walk ps => ps.contains (k.id, k.page)
    | .trapPending r _ => pageOf (pendFrame s w r) == (k.id, k.page)
    | _ => false)
/-- A waiting wave gets a walk's result; with its last one it executes again (R41). -/
def giveWalk (k : Walk) (o : WalkOut) (w : Wave) : Wave :=
  match w.hold with
  | .walk ps =>
    let left := ps.filter (· != (k.id, k.page))
    { w with xres := w.xres ++ [⟨k.id, k.page, o⟩], hold := if left.isEmpty then .ready else .walk left }
  | .trapPending _ _ => { w with xres := w.xres ++ [⟨k.id, k.page, o⟩] }
  | _ => w
/-- n bytes of one sector that a walk reads through its die's cache: none while the die may not read the sector, all ones
where its home is lost (R34, R41, R80; log entry 81). -/
def walkRead (s : State) (cd a n : Nat) : Option Nat :=
  if walkLost s cd (sectorOf a) then some (2 ^ (8 * n) - 1)
  else if canRead (getSec s cd (sectorOf a)) then some (devNat s a n) else none
/-- What the next reads of a walk come to: a sector it needs, a walk that goes on, or its result; with the sectors read. -/
inductive WalkNext | need (x : Nat) (k : Walk) (xs : List Nat) | more (k : Walk) (xs : List Nat) | done (o : WalkOut) (xs : List Nat)
  deriving DecidableEq, Repr
/-- The next read of a walk: the table entry whole, then one extent entry at a time (R34 to R36). -/
def walkNext (s : State) (cd : Nat) (k : Walk) : WalkNext :=
  let c := getCtx s (pkgOf cd) k.ctx
  match k.entry with
  | none =>
    let a := entryAddr c k.id.toNat
    if !hasEntry c k.id.toNat then .done .absent [] else
    match walkRead s cd a 32 with
    | none => .need (sectorOf a) k []
    | some e => if entryOk e then .more { k with entry := some e } [sectorOf a] else .done .absent [sectorOf a]
  | some e =>
    let a := extentAddr (pkgOf cd) e k.pos
    if bits e 127 112 ≤ k.pos then .done (walkOut e k.page none) [] else
    match walkRead s cd a 8 with
    | none => .need (sectorOf a) k []
    | some x => match runOf x k.lo with
      | none => .done (walkOut e k.page none) [sectorOf a]
      | some r =>
        if k.page < r.hi then .done (walkOut e k.page (some r)) [sectorOf a]
        else .more { k with pos := k.pos + 1, lo := r.hi } [sectorOf a]
/-- A walk's next reads, at most `fuel`, after those of the sectors `xs`. -/
def walkRun (s : State) (cd : Nat) : Nat → Walk → List Nat → WalkNext
  | 0, k, xs => .more k xs
  | fuel + 1, k, xs => match walkNext s cd k with
    | .more k' ys => walkRun s cd fuel k' (xs ++ ys)
    | .done o ys => .done o (xs ++ ys)
    | .need x k' ys => .need x k' (xs ++ ys)
/-- A saved tile store of a core waits for a walk of a page (R41, R338). -/
def taskWaitsFor (s : State) (cd : Nat) (k : Walk) (c : CoreId) (t : TileTask) : Bool :=
  c.cd == cd && (getBlock s t.blk).any (·.ctx == k.ctx) && (match recheck s c t with
    | .walks ps => ps.contains (k.id, k.page)
    | _ => false)
/-- The result of a walk fills both TLBs, and the waves and saved tile stores that wait for it go on (R41, R338). -/
def endWalk (s : State) (cd n : Nat) (k : Walk) (o : WalkOut) : State :=
  let tasks := s.cores.flatMap fun c => (c.tiles.filter (taskWaitsFor s cd k c.id)).map fun t => (c.id, t.op)
  let cores := dedup ((((allWaves s).filter (waitsFor s cd k)).map fun w => coreId w.id) ++ tasks.map (·.1))
  let s := onCd s cd fun d => { d with walks := dropAt n d.walks }
  let s := match tlbOf k o with
    | none => s
    | some t =>
      let s := onCd s cd fun d => { d with dtlb := (t :: d.dtlb).take 8192 }
      cores.foldl (fun s c => onCore s c fun q => { q with tlb := (t :: q.tlb).take 256 }) s
  let s := tasks.foldl (fun s (c, n) => onTask s c n fun t => { t with xres := t.xres ++ [⟨k.id, k.page, o⟩] }) s
  mapWaves s fun w => if w.live && waitsFor s cd k w then giveWalk k o w else w
/-- The reads of a walk have been made: trump requests made for them are released (R91). -/
def walkDone (s : State) (cd : Nat) (xs : List Nat) : State := (dedup xs).foldl (fun s x => opDone s cd x) s
/-- Reads of walk n of a die, at most `fuel`: it ends, it goes on from where it stands, or it asks for a sector (R41). -/
def advanceWalk (fuel cd n : Nat) (s : State) : Res :=
  match (getCd s cd).walks[n]? with
  | none => .next s
  | some k =>
    let at_ := fun k : Walk => onCd s cd fun d => { d with walks := d.walks.set n k }
    match walkRun s cd fuel k [] with
    | .done o xs => .next (walkDone (endWalk s cd n k o) cd xs)
    | .more k xs => .next (walkDone (at_ k) cd xs)
    | .need x k xs => .next (postReq (walkDone (at_ k) cd xs) cd x false)
/-- A table walk ends with the reads that are left (R41). Other reads of the walk may have come one at a time before. -/
def execTableWalkCompletion (cd n : Nat) (s : State) : Res := advanceWalk 65538 cd n s
/-- One read of a table walk: the reads of a walk may see different states of the table (R36, R50). -/
def walkStep (cd n : Nat) (s : State) : Res := advanceWalk 1 cd n s
/-- The 10 µs of a migration wait pass, or its invalidation has come: the wave executes its instruction again, with walks of its own (R45). -/
def execMigrationWaitRetry (w : WaveId) (s : State) : Res :=
  .next (onWave s w fun v => match v.hold with
    | .migration _ => { v with hold := .ready, xres := [] }
    | _ => v)

/-! ## Translation invalidations (R47 to R49) -/

/-- A page is named by an invalidation. -/
def invPage (k : Inval) (page : Nat) : Bool := k.count == 0 || (k.first ≤ page && page < k.first + k.count)
/-- A TLB entry that an invalidation drops. -/
def invDrops (k : Inval) (t : TlbEntry) : Bool := t.ctx == k.ctx && t.id == k.id && invPage k t.page
/-- The window of a translation register of the object is emptied, whatever the range (R48). -/
def emptyTx (id : BitVec 24) (t : TxReg) : TxReg := if t.v && !t.cl && t.id == id then { t with hi := t.lo.setWidth 41 } else t
/-- The same for the registers of a wave. -/
def emptyArch (id : BitVec 24) (a : WaveArch) : WaveArch := { a with tx := a.tx.map (emptyTx id) }
/-- What the drop does to a wave of the die: its registers, those a rollback would restore, its kept walk results, and a
migration wait for the object ends (R45, R48). -/
def dropWave (k : Inval) (w : Wave) : Wave :=
  if w.ctx != k.ctx then w else
  { w with
    a := emptyArch k.id w.a
    window := w.window.map fun p => { p with a := emptyArch k.id p.a }
    xres := w.xres.filter fun r => !(r.id == k.id)
    hold := if w.hold == .migration k.id then .ready else w.hold }
/-- Everything that a die drops for an invalidation, kept walk results of saved tile stores too, and the walks of the object that it restarts (R48). -/
def dropDie (s : State) (k : Inval) (cd : Nat) : State :=
  let s := onCd s cd fun d => { d with
    dtlb := d.dtlb.filter fun t => !invDrops k t
    walks := d.walks.map fun x => if x.ctx == k.ctx && x.id == k.id then { ctx := x.ctx, id := x.id, page := x.page } else x }
  let mine := fun t : TileTask => (getBlock s t.blk).any (·.ctx == k.ctx)
  let s := { s with cores := updWhere (fun c : Core => c.id.cd == cd) (fun c => { c with
    tlb := c.tlb.filter fun t => !invDrops k t
    tiles := updWhere mine (fun t => { t with xres := t.xres.filter fun r => !(r.id == k.id) }) c.tiles }) s.cores }
  mapWaves s fun w => if w.id.cd == cd then dropWave k w else w
/-- f applied to an invalidation. -/
def onInval (s : State) (k : Nat) (f : Inval → Inval) : State := { s with invals := updWhere (·.k == k) f s.invals }
/-- A compute die drops the translations that an invalidation names (R48). -/
def execTranslationInvalidation (k cd : Nat) (s : State) : Res :=
  match s.invals.find? (·.k == k) with
  | none => .next s
  | some i =>
    if !i.todo.contains cd then .next s
    else .next (onInval (dropDie s i cd) k fun i =>
      { i with todo := i.todo.filter (· != cd), marks := (cd, s.nextId) :: i.marks })
/-- An object address lies in the object of an invalidation: a window that it empties may reach any page (R48). -/
def invObj (k : Inval) (ad : BitVec 64) : Bool := ad.extractLsb' 40 24 == k.id
/-- An operation of a wave reaches the object. -/
def opTouches (k : Inval) (o : Op) : Bool := (o.acc ++ o.done).any fun x => invObj k x.oaddr
/-- A tile store of the object; one of a save image has its pages translated again as it starts (R338). -/
def tileTouches (k : Inval) (t : TileTask) : Bool :=
  (!t.saved || t.started || !t.put.isEmpty) &&
  t.fn.toNat ≥ 8 && t.fn.toNat ≤ 10 && stObj t.sc && stId t.sc == k.id.toNat
/-- An access older than a mark, translated at a die before its drop, is not complete: an operation, a scalar load, a
near-memory piece, a started tile store, or bytes in a write-combining buffer (R48, R301). -/
def openAccess (s : State) (k : Inval) (cd mark : Nat) : Bool :=
  let old := fun w : Wave => w.id.cd == cd && w.ctx == k.ctx
  let cores := s.cores.filter fun c => c.id.cd == cd
  ((allWaves s).any fun w => old w && (w.ops.any (fun o => o.id < mark && opTouches k o) || (match w.hold with
    | .sld _ acc => invObj k acc.oaddr
    | _ => false))) ||
  cores.any fun c =>
    c.nm.any (fun q => q.op < mark && q.left != 0 && q.objs.contains k.id) ||
    c.tiles.any (fun t => t.op < mark && tileTouches k t) || !(c.wc.isEmpty && c.wcWait.isEmpty)
/-- The end of an invalidation: the waves that wait for it go on, and the register set that started it counts it
(R47, R379). -/
def endInval (s : State) (i : Inval) : State :=
  let s := { s with invals := s.invals.filter fun x => x.k != i.k }
  let s := match i.iod with
    | none => s
    | some 0 => onPkg s i.pkg fun p => { p with invDone0 := p.invDone0 + 1 }
    | some _ => onPkg s i.pkg fun p => { p with invDone1 := p.invDone1 + 1 }
  mapWaves s fun w => match w.hold with
    | .inval ks =>
      let left := ks.filter fun k => k != i.k && s.invals.any fun x => x.k == k
      if ks.contains i.k && pkgOf w.id.cd == i.pkg then { w with hold := if left.isEmpty then .ready else .inval left } else w
    | _ => w
/-- A die is no longer counted by an invalidation. -/
def invalAcked (s : State) (k cd : Nat) : State :=
  let s := onInval s k fun i => { i with acks := i.acks.filter (· != cd), todo := i.todo.filter (· != cd) }
  match s.invals.find? (·.k == k) with
  | some i => if i.acks.isEmpty then endInval s i else s
  | none => s
/-- A die's acknowledgement, given once every access it covers has completed, is counted (R47, R48). A die whose uncore
is gated or that is unreachable acknowledges at once (R49). -/
def execInvalidationAck (k cd : Nat) (s : State) : Res :=
  match s.invals.find? (·.k == k) with
  | none => .next s
  | some i =>
    let d := getCd s cd
    let atOnce := d.unreachable || d.power == .gated
    match i.marks.find? (·.1 == cd) with
    | some (_, m) => if i.acks.contains cd && (atOnce || !openAccess s i cd m) then .next (invalAcked s k cd) else .next s
    | none => if i.acks.contains cd && atOnce then .next (invalAcked (dropDie s i cd) k cd) else .next s
/-- A write of INVRNG: an invalidation starts from the I/O die, if that runs, or is refused while one runs (R379, R391, R394). -/
def execDriverInvalidation (pkg iod : Nat) (rng : BitVec 64) (s : State) : Res :=
  let p := getPkg s pkg
  if !iodRuns s pkg then .next s else
  let busy := s.invals.any fun i => i.pkg == pkg && i.iod == some iod
  let obj := if iod = 0 then p.invobj0 else p.invobj1
  if busy then
    .next (onPkg s pkg fun p => if iod = 0 then { p with invRej0 := true } else { p with invRej1 := true })
  else
    let (k, s) := startInval s pkg (bits obj.toNat 63 48) (obj.extractLsb' 24 24) (rng.extractLsb' 0 24).toNat
      (rng.extractLsb' 24 24).toNat (some iod)
    match s.invals.find? (·.k == k) with
    | some i => .next (if i.acks.isEmpty then endInval s i else s)
    | none => .next s

/-! ## Write-backs (R170, R255) -/

/-- A modified sector goes back to its home, with the owner token, which the home keeps or sends on as for any token that
reaches it; the die keeps its other tokens and its copy (R81, R84, R91, R170, R255). -/
def cleanSector (s : State) (cd x : Nat) : State :=
  let e := getSec s cd x
  if !e.modified then s else
  if !e.own then onSec s cd x fun e => { e with modified := false } else
  let s := if e.tokens = 1 then onSec (wakeMonitor s cd x) cd x dropTokens
    else onSec s cd x fun e => { e with tokens := e.tokens - 1, own := false, modified := false }
  homeTok s x e.serial 1 true (some (if e.poison then ones512 else e.data)) e.poison
/-- All tokens and data of a sector go back to its home, which judges them as any token; copies become invalid (R20, R84, R91,
R255). -/
def returnSector (s : State) (cd x : Nat) : State :=
  let e := getSec s cd x
  if e.tokens = 0 then s else
  let s := onSec (wakeMonitor s cd x) cd x dropTokens
  homeTok s x e.serial e.tokens e.own (if e.own then some (if e.poison then ones512 else e.data) else none) e.poison
/-- The sectors of a die that a write-back names. -/
def wbSectors (s : State) (cd : Nat) (b : Writeback) : List Nat :=
  (s.sectors.filter fun e => e.cd == cd && (match b.frames with
    | none => true
    | some fs => fs.contains (e.sector / 1024))).map (·.sector)
/-- A write-back is acknowledged by all its dies: the waves that wait for it go on (R255). -/
def endWriteback (s : State) (k : Nat) : State :=
  let s := { s with wbs := s.wbs.filter (·.k != k) }
  mapWaves s fun w => if w.hold == .writeback k then { w with hold := .ready } else w
/-- A die is no longer counted by a write-back. -/
def writebackAcked (s : State) (k cd : Nat) : State :=
  let s := { s with wbs := updWhere (·.k == k) (fun b => { b with owed := b.owed.filter (· != cd) }) s.wbs }
  match s.wbs.find? (·.k == k) with
  | some b => if b.owed.isEmpty then endWriteback s k else s
  | none => s
/-- A message that waits for a sector whose answer a held partition owes is answered HOLDREPLY, once (R105, R406). -/
def holdAnswer (s : State) (n : Nat) (m : Msg) (xs : List Nat) : State :=
  match xs.find? (heldOwes s m.dst) with
  | some x => if m.woken then s else send { s with net := s.net.set n { m with woken := true } } m.dst m.src (.holdreply x)
  | none => s
/-- A compute die receives a write-back: it returns its sectors to their homes and acknowledges; a sector that a
census holds frozen, or for which the die has a request open, is waited for, under HOLDREPLY where a held partition owes it (R82, R93,
R105, R170, R255). -/
def execWritebackRequest (n : Nat) (s : State) : Res :=
  match s.net[n]? with
  | none => .next s
  | some m => match m.body with
    | .writeback k =>
      match s.wbs.find? (·.k == k) with
      | none => .next { s with net := dropAt n s.net }
      | some b =>
        if (wbSectors s m.dst b).any fun x => (getSec s m.dst x).frozen || (getSec s m.dst x).req.isSome then
          .next (holdAnswer s n m (wbSectors s m.dst b)) else
        let s := { s with net := dropAt n s.net }
        let s := (wbSectors s m.dst b).foldl (fun s x =>
          if b.inv then returnSector s m.dst x else cleanSector s m.dst x) s
        .next (writebackAcked s k m.dst)
    | _ => .next s

end Sys2Proof.Machine
end

