-- ==== Sys2Proof/Machine/Traps.lean ====
section
/-! DEFINITION. Events of a wave's faults and of its partition: trap entry, the fault log, kills, quartz strikes and the
active set (R161, R162, R358 to R374). -/

namespace Sys2Proof.Machine

/-- A wave whose trap waits for its outstanding operations, or for a moving page, takes it (R213, R361, R363). -/
def execTrapEntry (w : WaveId) (s : State) : Res :=
  match getWave s w with
  | none => .next s
  | some v => match v.hold with
    | .trapPending r resume =>
      if pendingLong v || r.cause == .preempt || v.focus.isSome || !partitionRuns s w then .next s
      else .next (enterTrap s v r resume (frameAddr (getCtx s (pkgOf w.cd) v.ctx) w) 0)
    | _ => .next s

/-! ## Victim sets (R171) -/

/-- The joined groups that stand or are being joined. -/
def joinedRefs (s : State) : List GroupRef :=
  (s.groups.map (·.ref) ++ s.groupMsgs.filterMap fun m => match m.ev with
    | .join _ g _ => some g
    | _ => none).filter fun g => match g with
      | .block _ => false
      | _ => true
/-- Two blocks are of one cluster or share a joined group (R171). -/
def linkedBlocks (s : State) (a b : BlockId) : Bool :=
  (a.launch == b.launch && (((getBlock s a).map fun x => a.idx / x.csize == b.idx / x.csize)).getD false) ||
  (joinedRefs s).any fun g => (groupBlocks s g).contains a && (groupBlocks s g).contains b
/-- A set of blocks with every block of a state that is linked to one of them, added until nothing more is (R171). -/
def closedSet (s : State) (st : BlkState) (bs : List BlockId) : List BlockId :=
  (List.range s.blocks.length).foldl (fun bs _ =>
    bs ++ ((s.blocks.filter fun x => x.state == st && !bs.contains x.id && bs.any fun b => linkedBlocks s b x.id).map (·.id))) bs

/-! ## The fault log (R360) -/

/-- The wave of a trap has committed its entry (R370). -/
def recCommitted (s : State) (r : FaultRec) : Bool :=
  match r.waiter with
  | none => true
  | some w => match getWave s w with
    | some v => v.window.isEmpty
    | none => true
/-- Every block of a stopping block's victim set has its block record (R172). -/
def saved (s : State) (b : BlockId) : Bool :=
  (closedSet s .stopping [b]).all fun x => ((getBlock s x).map (·.written)).getD true
/-- The acknowledgement of a record: the trap handler that waits for it begins, with its trace record (R360, R408). -/
def ackRec (s : State) (r : FaultRec) : State :=
  match r.waiter with
  | none => s
  | some w =>
    let s := onWave s w fun v =>
      if v.hold == .logWait then { v with hold := if r.cause = .preempt && !saved s v.blk then .saveWait else .ready } else v
    traceRec s w.cd r.ctx 3 (causeCode r.cause * 2 ^ 32 + r.pc.toNat) []
/-- A record into the log ring of its package; dropped and counted where the ring is full; false where the slot's sector
cannot be written yet (R75, R360). -/
def logRec (s : State) (r : FaultRec) : Bool × State :=
  let p := getPkg s r.pkg
  let n := bits p.flogbase.toNat 11 0
  if n = 0 then (true, s) else
  let h := p.flogHead.toNat % n
  if (h + 1) % n = p.flogTail.toNat % n then
    (true, onPkg s r.pkg fun p => { p with flogDrop := if p.flogDrop = 15 then 15 else p.flogDrop + 1 })
  else
    let x := sectorOf (r.pkg * 2 ^ 44 + bits p.flogbase.toNat 40 12 * 4096 + 64 * h)
    let (ok, s) := homeGather s [x]
    if !ok then (false, s)
    else
      let s := homeDone (writeHome s x 0 (recBytes r true)) x
      (true, onPkg s r.pkg fun p => { p with flogHead := BitVec.ofNat 12 ((h + 1) % n) })
/-- The I/O die receives a record, appends it to the log and acknowledges it (R358, R360). -/
def execFaultLogAppend (n : Nat) (s : State) : Res :=
  match s.faults[n]? with
  | none => .next s
  | some r =>
    if !recCommitted s r then .next s
    else
      let (ok, s) := logRec s r
      if !ok then .next s
      else .next (ackRec { s with faults := dropAt n s.faults } r)

/-- A wave is killed: for a value it could not use, or by order of a security response (R167, R367). -/
def execWaveKill (w : WaveId) (cause : Cause) (s : State) : Res :=
  match getWave s w with
  | none => .next s
  | some v => if v.hold == .ended then .next s else .next (killWave s v cause v.a.pc 0 v.a.trap)

/-! ## Quartz strikes (R370 to R372) -/

/-- A block whose wave's uncommitted PREEMPT entry is undone no longer counts the wave among those to resume; the entry may follow
an `eret` that has not committed either (R369, R371, R374). -/
def unPreempt (w : Wave) (b : Block) : Block :=
  if b.state == .stopping && w.a.trap && w.window.any (fun p => !p.a.trap) then { b with liveW := b.liveW.filter (· != w.k) } else b
/-- The sample count of a partition without n MV instructions that a rollback takes back (R371, R407). -/
def lessCount (p n : Nat) (c : Core) : Core := if h : p < 4 then { c with mv := c.mv.set p (c.mv[p] - n) h } else c
/-- A wave rolled back to its oldest uncommitted instruction: its registers before it, its operations and what they had
asked for withdrawn, and what an undone trap entry or `eret` replaced restored (R335, R371). Of a load some of whose lanes
have landed, one instruction still reads across them (R124). An RLOST of an instruction that
has committed stays (R185). -/
def rollWave (s : State) (w : Wave) : State :=
  match w.window with
  | [] => s
  | p :: _ =>
    let gone := (w.ops.filter fun o => p.seq ≤ o.seq).map (·.id)
    let u := w.undo.head?.getD ⟨0, w.groups, w.rlost, w.lostHeld⟩
    let lost := u.rlost ++ w.rlost.filter fun x => !(u.rlost ++ u.lostHeld).contains x
    let s := onWave s w.id fun w => { w with
      a := p.a, window := [], undo := [], seq := p.seq - 1, hold := .ready, xres := [], counted := [], samples := []
      ops := (w.ops.filter fun o => o.seq < p.seq).map fun o => { o with landed := o.landed.map (Nat.min (p.seq - 1)) }
      groups := u.groups, lostHeld := u.lostHeld, mark := none
      rlost := if p.a.stat.getLsbD 7 then lost else []
      focus := w.focus.map fun f => { f with n := f.n - w.window.length } }
    let s := onBlock s w.blk (unPreempt w)
    let s := onCore s (coreId w.id) fun c => { (lessCount w.id.part w.counted.length c) with
      tiles := c.tiles.filter fun t => !gone.contains t.op
      reqs := c.reqs.filter fun q => !gone.contains q.op
      nm := c.nm.filter fun q => !gone.contains q.op }
    let mine := fun (m : GroupMsg) => p.seq ≤ m.seq && (match m.ev with
      | .join v _ _ => v == w.id
      | .leave v _ _ _ => v == w.id
      | .arrive v _ _ _ => v == w.id
      | .remote v _ _ => v == w.id
      | .kill _ _ => false)
    { s with
      groupMsgs := s.groupMsgs.filter fun m => !mine m
      faults := s.faults.filter fun f => f.waiter != some w.id
      mds := s.mds.map fun d => { d with pieces := d.pieces.filter fun x => !gone.contains x.op } }
/-- Partitions of a region that hold a resident wave. -/
def regionParts (s : State) (cd region : Nat) : Nat :=
  (dedup ((allWaves s).filterMap fun w =>
    if w.id.cd = cd ∧ w.id.core / 6 = region ∧ !w.window.isEmpty then some (w.id.core, w.id.part) else none)).length
/-- Saturating sum of a counter. -/
def satAdd (x : BitVec 16) (n : Nat) : BitVec 16 := BitVec.ofNat 16 (Nat.min 0xFFFF (x.toNat + n))
/-- A sensor report: every wave of the region rolls back (R371, R372). -/
def execStrikeReport (cd region : Nat) (s : State) : Res :=
  if region ≥ 16 || !(getCd s cd).present then .next s else
  let n := regionParts s cd region
  let hit := (allWaves s).filter fun w => w.id.cd == cd && w.id.core / 6 == region
  let s := onCd s cd fun d => { d with strikes := sat16 d.strikes, rollbk := satAdd d.rollbk n }
  .next (hit.foldl rollWave s)

/-! ## The active set (R161, R162) -/

/-- SWAP of a wave's launch (R354). -/
def swapOf (s : State) (w : Wave) : Nat :=
  match getLaunch s w.blk.launch with
  | some l => bits l.flags.toNat 2 1
  | none => 0
/-- What a wave waits for takes it out of the active set, whatever the others do (R39, R162, R255, R292, R303, R308). R162 does not name
the waits for a trap's outstanding operations, for the log's acknowledgement, for the save of the victim set and for a record's
registration: they take it out too (DESIGN CHOICE, log entry 112). -/
def leavesNow (w : Wave) : Bool :=
  match w.hold with
  | .ready | .stall .long | .stall .other | .walk _ | .sld _ _ => false
  | _ => true
/-- A long-latency stall, or a wait that the spec likens to one (R39, R162, R229). -/
def longStall (w : Wave) : Bool :=
  match w.hold with
  | .stall .long | .walk _ | .sld _ _ => true
  | _ => false
/-- A wave in a long-latency stall gives up its place to a ready pending one: at once under SWAP = 0, after 32 core cycles
under SWAP = 1, never under SWAP = 2 (R162, R354). When the 32 cycles have passed is free (log entry 1). -/
def leavesActive (s : State) (aged : Bool) (w : Wave) : Bool := longStall w && (swapOf s w == 0 || (aged && swapOf s w == 1))
/-- The earlier ready of two pending waves; the lower slot of two that became ready together (R162; log entry 80). -/
def readier (s : State) (a b : Wave) : Wave :=
  let k := fun w : Wave => w.readyAt.getD s.tick
  if k b < k a || (k b == k a && b.id.slot < a.id.slot) then b else a
/-- The ready pending wave of a partition that is next to take a place (R162). -/
def firstPending (s : State) (id : WaveId) : Option Wave :=
  match (allWaves s).filter fun w => samePart w.id id && !w.active && !isHandler w && w.hold == .ready with
  | [] => none
  | w :: ws => some (ws.foldl (readier s) w)
/-- A pending wave enters the active set (R161). -/
def enterActive (s : State) (id : WaveId) : State :=
  onWave s id fun v => { v with active := true, since := s.tick, readyAt := none }
/-- The next ready pending wave of a partition takes a free place, or that of a wave in a long-latency stall, if there is
one (R161, R162). -/
def fillPlace (aged : Bool) (s : State) (id : WaveId) : State :=
  match firstPending s id with
  | none => s
  | some v =>
    let peers := (allWaves s).filter fun x => samePart x.id id && x.active && !isHandler x
    if peers.length < 8 then enterActive s v.id
    else match peers.find? (leavesActive s aged) with
      | some x => enterActive (onWave s x.id fun x => { x with active := false }) v.id
      | none => s
/-- A swap comes for a ready pending wave: the first of its partition takes an active place (R161, R162). -/
def execWaveSwap (w : WaveId) (s : State) : Res := .next (fillPlace true s w)

end Sys2Proof.Machine
end

