-- ==== Sys2Proof/Machine/Scheduling.lean ====
section
/-! DEFINITION. From a launch record to a block, and from a block to the launch's end (R155 to R159, R169, R170,
R345 to R352, R356). -/

namespace Sys2Proof.Machine

/-! ## Launch queues (R345, R346, R349) -/

/-- Fields of QCTL (R345). -/
def qEn (q : Queue) : Bool := q.qctl.getLsbD 31
def qPrio (q : Queue) : Nat := bits q.qctl.toNat 24 20
def qCeil (q : Queue) : Nat := bits q.qctl.toNat 29 25
def qQuota (q : Queue) : Nat := bits q.qctl.toNat 15 8
/-- The context that owns a queue (R345). -/
def qCtx (q : Queue) : Nat := bits q.qbase.toNat 63 48
/-- A write of QPTR, through an I/O die that runs: the doorbell (R346, R391, R394). -/
def execQptrDoorbell (pkg q : Nat) (tail : BitVec 16) (s : State) : Res :=
  .next (if iodRuns s pkg then onQueue s pkg q fun x => { x with tail := tail } else s)
/-- Blocks of a launch's grid (R155). -/
def launchSize (l : Launch) : Nat := l.gx * l.gy * l.gz
/-- A launch waits to place a block: a new one, or a saved one (R349, R352). -/
def launchWaits (s : State) (l : Launch) : Bool :=
  l.placed < launchSize l || s.blocks.any fun b => b.id.launch == l.tag && b.state == .saved
/-- The launches of a queue. -/
def queueLaunches (s : State) (pkg q : Nat) : List Launch := s.launches.filter fun l => l.pkg == pkg && l.queue == q
/-- A millisecond without a placement ends while a launch of the queue waits: E rises by 1, up to max(PRIO, CEIL)
(R349). -/
def execPriorityAging (pkg q : Nat) (s : State) : Res :=
  if (queueLaunches s pkg q).any (launchWaits s) then
    .next (onQueue s pkg q fun x => { x with eff := if x.eff < Nat.max (qPrio x) (qCeil x) then x.eff + 1 else x.eff })
  else .next s

/-! ## Launch records (R347, R348, R350) -/

/-- The 128 bytes of the record in a queue's head slot, as a number (R347). -/
def headRecord (s : State) (q : Queue) : Nat := devNat s (slotAddr q q.head.toNat) 128
/-- n bytes of a record from an offset. -/
def recField (r off n : Nat) : Nat := r / 256 ^ off % 256 ^ n
/-- A dependence of a record: address, value, condition (R347). -/
structure Dep where
  addr : BitVec 64
  x : Word
  cond : Nat
  deriving DecidableEq, Repr
/-- The dependences that NDEP counts. -/
def recDeps (r : Nat) : List Dep :=
  (List.range (Nat.min 4 (bits (recField r 15 1) 7 4))).map fun i =>
    ⟨BitVec.ofNat 64 (recField r (56 + 16 * i) 8), BitVec.ofNat 32 (recField r (64 + 16 * i) 4), recField r (68 + 16 * i) 4⟩
/-- The condition of a dependence (R347). -/
def depHolds (d : Dep) (w : Word) : Bool :=
  if d.cond = 0 then w == d.x else if d.cond = 1 then d.x.toNat ≤ w.toNat else w &&& d.x != 0
/-- The check of a 4-byte word that a record names (R42, R348). -/
def recWord (s : State) (pkg ctx : Nat) (need : BitVec 3) (wave : Bool) (ad : BitVec 64) : LaneOut :=
  if ad.toNat % 4 != 0 then .fault 1 .align else translateNow s pkg ctx need wave ad 4
/-- The dependence word is read and its condition is met (R350). -/
def depMet (s : State) (pkg ctx : Nat) (d : Dep) : Bool :=
  match recWord s pkg ctx 0b001 false d.addr with
  | .ok t => depHolds d (BitVec.ofNat 32 (readPlace s t 4))
  | _ => false
/-- The words that a record names with the permissions they need, and whether a wave accesses them (R348). -/
def recWords (r : Nat) : List (BitVec 3 × Bool × BitVec 64) :=
  (recDeps r).map (fun d => ((0b001 : BitVec 3), false, d.addr)) ++
  (if recField r 32 8 = 0 then [] else [((0b011 : BitVec 3), true, BitVec.ofNat 64 (recField r 32 8))]) ++
  (if recField r 40 8 = 0 then [] else [((0b010 : BitVec 3), false, BitVec.ofNat 64 (recField r 40 8))])
/-- The loaded image that a handle names for a context (R344, R348). -/
def imageOf (s : State) (pkg ctx h : Nat) : Option Image :=
  if bits h 31 16 = ctx ∧ bits h 15 8 = 0 then
    (s.pkgs.find? (·.id == pkg)).bind fun p => p.images.find? fun i => i.slot == bits h 7 0 && i.ctx == ctx
  else none
/-- The kernel that a record names. -/
def recKernel (s : State) (pkg ctx r : Nat) : Option (Image × Kernel) :=
  (imageOf s pkg ctx (recField r 0 4)).bind fun i => (i.kernels[recField r 4 2]?).map fun k => (i, k)
/-- The compute dies of a launch mask: physical units of the package that its bits name (R17, R155). -/
def maskDies (s : State) (pkg ctx mask : Nat) : List Nat :=
  (List.range 8).filterMap fun v =>
    if bitOf mask v then (physDie (getCtx s pkg ctx) v).map fun p => 16 * pkg + p else none
/-- The limits of R155 on a record's geometry. -/
def geometryOk (s : State) (pkg ctx r : Nat) (k : Kernel) : Bool :=
  let w := recField r 6 1
  let c := recField r 7 1
  let g := recField r 8 2 * recField r 10 2 * recField r 12 2
  1 ≤ w && w ≤ 16 && 1 ≤ c && c ≤ 16 && 1 ≤ g && g < 2 ^ 32 && g % c == 0 && ceilDiv w 4 * k.regs ≤ 512 &&
  !(maskDies s pkg ctx (recField r 14 1)).isEmpty
/-- A record that does not fail by its own fields (R348). -/
def recordOk (s : State) (pkg ctx r : Nat) : Bool :=
  let m : Word := BitVec.ofNat 32 (recField r 16 4)
  recField r 21 3 == 0 && recField r 52 4 == 0 && recField r 120 8 == 0 &&
  (match recKernel s pkg ctx r with
    | some (_, k) => geometryOk s pkg ctx r k
    | none => false) &&
  legalMode m == some m && bits (recField r 15 1) 7 4 ≤ 4 && (recDeps r).all (·.cond ≤ 2) &&
  bits (recField r 15 1) 2 1 != 3 && recField r 20 1 ≤ 1 && recField r 32 8 % 2 ^ 40 == 0
/-- What a head record comes to: failed, held by a page in migration wait, or sound. -/
inductive RecOut | fail | hold | sound
  deriving DecidableEq, Repr
/-- The checks of R348 and R350 on a record. -/
def recordOut (s : State) (pkg ctx r : Nat) : RecOut :=
  let outs := (recWords r).map fun (need, wave, ad) => recWord s pkg ctx need wave ad
  if !recordOk s pkg ctx r || outs.any (fun o => match o with
      | .fault _ _ => true
      | _ => false) then .fail
  else if outs.any (fun o => match o with
      | .wait _ => true
      | _ => false) then .hold
  else .sound
/-- A context command of the package counts acknowledgements for a context: meanwhile nothing of it is taken or placed (R342; log
entry 92). -/
def ctxBusy (s : State) (pkg ctx : Nat) : Bool := (getPkg s pkg).ctxCmd.any fun c => c.ctx == ctx
/-- A host write of the head record, over the link of the I/O die that serves the queue, waits at its home: it comes before the
doorbell (R346). -/
def slotPending (s : State) (pkg : Nat) (q : Queue) : Bool :=
  (getPkg s pkg).hostReqs.any fun r => r.link == q.q / 128 && (sectorsOf (slotAddr q q.head.toNat) 128).contains r.sector &&
    (match r.op with
      | .write _ => true
      | .read _ _ => false)
/-- The scheduler may take the head record of a queue: its I/O die runs, it is enabled with a record available whose host write is not
held back, its context is active and has not been failed, and the queue's launches have placed all their blocks (R345, R346, R351,
R394, R399). -/
def mayTake (s : State) (pkg : Nat) (q : Queue) : Bool :=
  let n := ringSize q
  let c := getCtx s pkg (qCtx q)
  iodRuns s pkg && !slotPending s pkg q && qEn q && q.head.toNat % n != q.tail.toNat % n && c.active && !ctxBusy s pkg (qCtx q) && !c.failed &&
  (queueLaunches s pkg q.q).all fun l => l.placed == launchSize l
/-- SER of a record holds it behind the queue's previous launch (R347, R351). -/
def serHolds (s : State) (pkg : Nat) (q : Queue) (r : Nat) : Bool :=
  bitOf (recField r 15 1) 0 && (queueLaunches s pkg q.q).any fun l => q.prev == some l.tag
/-- The record is consumed: HEAD moves on. -/
def consume (s : State) (pkg : Nat) (q : Queue) : State :=
  onQueue s pkg q.q fun x => { x with head := BitVec.ofNat 16 ((q.head.toNat + 1) % ringSize q), met := none }
/-- A LAUNCH record of a queue and slot at the time of the I/O die that serves the queue (R357, R359). -/
def logLaunch (s : State) (pkg q slot ctx : Nat) (ad : BitVec 64) : State :=
  let (t, s) := sampleTime s (iodUnit pkg (q / 128))
  let r := plainRec pkg t .launch (BitVec.ofNat 32 (q % 256 * 256 + slot % 256)) ad
  { s with faults := s.faults ++ [{ r with ctx := ctx, conf := confidential s pkg ctx }] }
/-- A failed record: QCTL.FAIL, a fault record, and it is consumed (R348). -/
def failRecord (s : State) (pkg : Nat) (q : Queue) : State :=
  let s := onQueue (consume s pkg q) pkg q.q fun x => { x with qctl := x.qctl ||| 0x40000000 }
  logLaunch s pkg q.q (q.head.toNat % ringSize q) (qCtx q) 0
/-- The launch of a sound record (R347). -/
def launchOf (tag pkg : Nat) (q : Queue) (r : Nat) (i : Image) (k : Kernel) : Launch where
  tag := tag
  pkg := pkg
  queue := q.q
  slot := q.head.toNat % ringSize q
  ctx := qCtx q
  image := i.slot
  code := i.code
  kernel := k
  nwaves := recField r 6 1
  csize := recField r 7 1
  gx := recField r 8 2
  gy := recField r 10 2
  gz := recField r 12 2
  dmask := BitVec.ofNat 8 (recField r 14 1)
  flags := BitVec.ofNat 8 (recField r 15 1)
  mode := BitVec.ofNat 32 (recField r 16 4)
  mexcl := bitOf (recField r 20 1) 0
  args := BitVec.ofNat 64 (recField r 24 8)
  spill := BitVec.ofNat 64 (recField r 32 8)
  signal := BitVec.ofNat 64 (recField r 40 8)
  sigval := BitVec.ofNat 32 (recField r 48 4)
  placed := 0
  retired := 0
  owed := none
/-- The TDI of a confidential context is not in the state RUN, which no state of the device says: a free choice (R400;
log entry 3). -/
def tdiStopped (s : State) (pkg ctx : Nat) : Bool × State := if confidential s pkg ctx then freshBool s else (false, s)
/-- The scheduler takes the head record of a queue, whose dependences are met, and starts its launch; a faulty one fails
(R347 to R351). -/
def execRecordTake (pkg q : Nat) (s : State) : Res :=
  let x := getQueue s pkg q
  if !mayTake s pkg x then .next s else
  let r := headRecord s x
  let ctx := qCtx x
  if serHolds s pkg x r then .next s else
  match recordOut s pkg ctx r with
  | .hold => .next s
  | .fail => .next (failRecord s pkg x)
  | .sound =>
    if x.met != some r && !(recDeps r).all (depMet s pkg ctx) then .next s
    else
      let (stopped, s) := tdiStopped s pkg ctx
      if stopped then .next (failRecord s pkg x)
      else match recKernel s pkg ctx r with
        | none => .next s
        | some (i, k) =>
          let s := { s with nextId := s.nextId + 1, launches := s.launches ++ [launchOf s.nextId pkg x r i k] }
          .next (onQueue (consume s pkg x) pkg q fun y => { y with eff := Nat.max y.eff (qPrio y), prev := some (s.nextId - 1) })
/-- The dependence words of the head record are read again: found met, they stay met for that record (R350). -/
def execDependenceReread (pkg q : Nat) (s : State) : Res :=
  let x := getQueue s pkg q
  if !mayTake s pkg x then .next s else
  let r := headRecord s x
  match recordOut s pkg (qCtx x) r with
  | .sound => if (recDeps r).all (depMet s pkg (qCtx x)) then .next (onQueue s pkg q fun y => { y with met := some r }) else .next s
  | _ => .next s

/-! ## Placement (R157 to R159, R349, R352) -/

/-- The waves that hold ordinary slots of a partition. -/
def slotWaves (s : State) (c : CoreId) (part : Nat) : List Wave :=
  (allWaves s).filter fun w => coreId w.id == c && w.id.part == part && !isHandler w && !slotFreed s w
/-- The free wave slots of a partition, ascending. -/
def freeSlots (s : State) (c : CoreId) (part : Nat) : List Nat :=
  let used := (slotWaves s c part).map (·.id.slot)
  (List.range 16).filter fun k => !used.contains k
/-- The waves of a block of n waves that go to a partition, from p0 (R158). -/
def partWaves (n p0 part : Nat) : List Nat := (List.range n).filter fun k => (p0 + k) % 4 == part
/-- Every partition has the slots and the registers (R158). The V registers of an ended wave are free with its slot, before its block
retires (DEDUCED, log entry 48). -/
def partsFit (s : State) (c : CoreId) (n v p0 : Nat) : Bool :=
  (List.range 4).all fun part =>
    let k := (partWaves n p0 part).length
    k ≤ (freeSlots s c part).length &&
    ((slotWaves s c part).map (·.vlimit)).foldl (· + ·) 0 + k * v ≤ 512
/-- The blocks that a core holds. -/
def coreBlocks (s : State) (c : CoreId) : List Block :=
  s.blocks.filter fun b => b.core == c && (b.state == .resident || b.state == .stopping)
/-- The blocks whose scratchpad allocation a core still holds (R169). -/
def allocBlocks (s : State) (c : CoreId) : List Block := s.blocks.filter fun b => b.core == c && b.state != .saved
/-- The lowest 256-byte aligned place of n contiguous free bytes (R158). -/
def firstFit (s : State) (c : CoreId) (n : Nat) : Option Nat :=
  let bs := allocBlocks s c
  let free := fun a => a + n ≤ 262144 && bs.all fun b => a + n ≤ b.base || b.base + b.size ≤ a
  let ok := (0 :: bs.map fun b => b.base + b.size).filter free
  match ok with
  | [] => none
  | a :: as => some (as.foldl Nat.min a)
/-- A block of a launch that sets MEXCL (R347). -/
def isMexcl (s : State) (b : Block) : Bool := ((getLaunch s b.id.launch).map (·.mexcl)).getD false
/-- A core accepts a block of a launch (R158, R188, R339): the first partition from p0 on that fits, or none. `alone`
asks for a core without blocks, `recs` for room for that many records (R173, R338). -/
def accepts (s : State) (l : Launch) (c : CoreId) (p0 : Nat) (alone : Bool) (recs : Nat) : Option Nat :=
  let bs := coreBlocks s c
  let k := getCore s c
  if Config.coreEnabled c.core && c.core < 96 && bs.length < 16 && (!(l.mexcl || alone) || bs.isEmpty) && !bs.any (isMexcl s) &&
    (firstFit s c l.kernel.scratch).isSome && (k.lastCtx == l.ctx || k.tiles.isEmpty) && coreRecords s c + recs ≤ 32 then
    (List.range 4).findSome? fun i =>
      if partsFit s c l.nwaves l.kernel.regs ((p0 + i) % 4) then some ((p0 + i) % 4) else none
  else none
/-- The dispatcher of a die may place blocks of a launch: the die is in its mask and runs, and the context is active
(R20, R256, R342, R352, R393, R406). -/
def dieOffers (s : State) (l : Launch) (cd : Nat) : Bool :=
  let d := getCd s cd
  pkgOf cd == l.pkg && d.present && d.power == .run && !d.held && !d.thermal && !d.unreachable &&
  (getCtx s l.pkg l.ctx).active && !ctxBusy s l.pkg l.ctx && (maskDies s l.pkg l.ctx l.dmask.toNat).contains cd
/-- Resident blocks of a queue (R345). -/
def queueBlocks (s : State) (pkg q : Nat) : Nat :=
  (s.blocks.filter fun b => (b.state == .resident || b.state == .stopping) &&
    (queueLaunches s pkg q).any fun l => l.tag == b.id.launch).length
/-- The queue is under QUOTA (R345, R349). -/
def underQuota (s : State) (l : Launch) : Bool :=
  let q := getQueue s l.pkg l.queue
  qQuota q == 0 || queueBlocks s l.pkg l.queue < 16 * qQuota q
/-- The core of a list with the fewest resident blocks, and of several the lowest-numbered (R352). -/
def fewest (s : State) (cd : Nat) : List Nat → Option Nat
  | [] => none
  | c :: cs => some (cs.foldl (fun a b => if (coreBlocks s ⟨cd, b⟩).length < (coreBlocks s ⟨cd, a⟩).length then b else a) c)
/-- The dispatcher's choice of distinct cores of a die for a list of needs (a core to itself, records): for each in turn, of
those that accept, the one with the fewest resident blocks (R352); none where one cannot be found. -/
def findCores (s : State) (l : Launch) (cd : Nat) : List (Bool × Nat) → List Nat → Option (List Nat)
  | [], used => some used.reverse
  | (alone, recs) :: ns, used =>
    match fewest s cd ((List.range 96).filter fun c => !used.contains c && (accepts s l ⟨cd, c⟩ 0 alone recs).isSome) with
    | some c => findCores s l cd ns (c :: used)
    | none => none
/-- The saved blocks of a launch that come back together: the clusters all of whose blocks that have not retired are
saved (R171, R173). Clusters that share a core-scope joined group come back one by one (log entry 106). -/
def savedSets (s : State) (l : Launch) : List (List Block) :=
  let bs := s.blocks.filter fun b => b.id.launch == l.tag
  (dedup ((bs.filter (·.state == .saved)).map fun b => b.id.idx / l.csize)).filterMap fun k =>
    let set := bs.filter fun b => b.id.idx / l.csize == k && b.state != .retired
    if set.all (·.state == .saved) then some set else none
/-- What a saved block asks of a core (R173, R338). -/
def savedNeed (b : Block) : Bool × Nat := (b.matrix, b.recs.length + b.unreg.length)
/-- A saved set of the launch can be placed on the die. -/
def canResume (s : State) (l : Launch) (cd : Nat) : Bool :=
  dieOffers s l cd && (savedSets s l).any fun set => (findCores s l cd (set.map savedNeed) []).isSome
/-- The next block or cluster of the launch can be placed on the die. -/
def canPlace (s : State) (l : Launch) (cd : Nat) : Bool :=
  dieOffers s l cd && l.placed < launchSize l && (findCores s l cd (List.replicate l.csize (false, 0)) []).isSome
/-- How many queue numbers a queue comes behind the one that was served last (R349). -/
def queueTurn (s : State) (l : Launch) : Nat := (l.queue + 255 - (getPkg s l.pkg).lastQueue) % 256
/-- The launch is the one that the dispatcher of a die is offered: eligible, and no eligible launch that can place a block
there has a queue of a higher E, or of the same E and before its own in the round (R349; log entry 47). -/
def offered (s : State) (l : Launch) (cd : Nat) : Bool :=
  let eff := fun x : Launch => (getQueue s x.pkg x.queue).eff
  underQuota s l && s.launches.all fun x =>
    x.tag == l.tag || x.pkg != l.pkg || !underQuota s x || eff x < eff l || (eff x == eff l && queueTurn s l ≤ queueTurn s x) ||
    !(canResume s x cd || canPlace s x cd)

/-- The registers of a wave at birth (R159). -/
def birthArch (l : Launch) (idx k : Nat) : WaveArch :=
  let ss : List Nat := [idx % l.gx, idx / l.gx % l.gy, idx / (l.gx * l.gy), l.nwaves * 65536 + k,
    l.csize * 65536 + idx % l.csize, idx, l.args.toNat, l.args.toNat / 2 ^ 32]
  { WaveArch.zero with
    s := ⟨((List.range 57).map fun i => BitVec.ofNat 32 (ss.getD i 0)).toArray, by simp⟩
    em := BitVec.allOnes 96
    mode := l.mode
    pc := l.kernel.entry }
/-- Ordinary waves in the active set of a partition (R161). -/
def activeCount (s : State) (id : WaveId) : Nat :=
  ((allWaves s).filter fun w => samePart w.id id && w.active && !isHandler w && w.hold != .ended).length
/-- A wave put into the lowest free slot of its partition; it is active where a place is free (R158, R161). -/
def bornWave (s : State) (l : Launch) (b : BlockId) (c : CoreId) (p0 k : Nat) (a : WaveArch) : State :=
  let part := (p0 + k) % 4
  let id : WaveId := ⟨c.cd, c.core, part, (freeSlots s c part).headD 0⟩
  let s := if (getWave s id).any fun w => !w.ops.isEmpty then moveEnded s id else s
  addWave s { Wave.empty id with
    live := true, a := a, blk := b, k := k, ctx := l.ctx, vlimit := l.kernel.regs, code := l.code
    priv := (getCtx s l.pkg l.ctx).cflags.getLsbD 0, active := activeCount s id < 8, since := s.tick }
/-- A core receives a block of a context: its matrix state is cleared where the last block's context was another
(R188). -/
def receive (ctx : Nat) (c : Core) : Core :=
  if c.lastCtx = ctx then c else
  { c with lastCtx := ctx, acc := [], accPoison := 0, planes := Vector.replicate 4 {}, cbs := Vector.replicate 8 0, cbPoison := 0 }
/-- One new block on a core (R158, R159, R163). -/
def placeOne (s : State) (l : Launch) (idx : Nat) (c : CoreId) (p0 : Nat) : State :=
  let id : BlockId := ⟨l.tag, idx⟩
  let b : Block := { id := id, pkg := l.pkg, ctx := l.ctx, core := c, base := (firstFit s c l.kernel.scratch).getD 0
                     size := l.kernel.scratch, vregs := l.kernel.regs, nwaves := l.nwaves, csize := l.csize, state := .resident
                     recs := [], matrix := false, written := false, liveW := [], area := 0, oldArea := none, erets := 0, placed := s.nextId }
  let s := onCore s c (receive l.ctx)
  let s := { s with
    nextId := s.nextId + 1
    blocks := s.blocks ++ [b]
    groups := s.groups ++ [{ ref := .block id, members := (List.range l.nwaves).map fun k => ⟨id, k⟩ }] }
  let s := (List.range l.nwaves).foldl (fun s k => bornWave s l id c p0 k (birthArch l idx k)) s
  traceRec s c.cd l.ctx 1 (c.core * 2 ^ 32 + idx) []
/-- A block of a launch has been placed: E of its queue returns to PRIO, and the round goes on behind the queue (R349). -/
def resetPriority (s : State) (l : Launch) : State :=
  onQueue (onPkg s l.pkg fun p => { p with lastQueue := l.queue }) l.pkg l.queue fun q => { q with eff := qPrio q }
/-- The dispatcher of a die claims the next block or cluster of a launch and places it, all or none, on the cores of
its choice that accept it (R157, R158, R349, R352). -/
def execBlockPlacement (l cd : Nat) (cores : List Nat) (p0 : Nat) (s : State) : Res :=
  match getLaunch s l with
  | none => .next s
  | some x =>
    if findCores s x cd (List.replicate x.csize (false, 0)) [] != some cores || x.placed + x.csize > launchSize x || !dieOffers s x cd ||
      !offered s x cd || canResume s x cd then .next s
    else
      let s := cores.zipIdx.foldl (fun s (c, i) =>
        placeOne s x (x.placed + i) ⟨cd, c⟩ ((accepts s x ⟨cd, c⟩ p0 false 0).getD 0)) s
      .next (resetPriority (onLaunch s l fun x => { x with placed := x.placed + x.csize }) x)

/-! ## Retirement and launch end (R169, R170) -/

/-- A group event of a block's waves is on its way. -/
def groupMsgOf (b : BlockId) (s : State) (m : GroupMsg) : Bool :=
  let mine := fun w : WaveId => match getWave s w with
    | some x => x.blk == b
    | none => false
  match m.ev with
  | .join w _ _ => mine w
  | .leave _ _ _ m => m.blk == b
  | .arrive w _ _ _ => mine w
  | .remote w _ _ => mine w
  | .kill m _ => m.blk == b
/-- The wave records of a block. -/
def blockWaves (s : State) (b : BlockId) : List Wave := (allWaves s).filter fun w => w.blk == b
/-- The conditions of R169, but for the release of records. -/
def blockDone (s : State) (b : Block) : Bool :=
  let c := getCore s b.core
  (blockWaves s b.id).all (fun w => slotFreed s w && w.ops.isEmpty) && !c.reqs.any (·.blk == b.id) && !c.nm.any (·.blk == b.id) &&
  !c.tiles.any (·.blk == b.id) && !s.groupMsgs.any (groupMsgOf b.id s)
/-- The slots of a block's waves are emptied and its groups' entries freed. -/
def dropWaves (s : State) (b : BlockId) : State :=
  { s with
    cur := if s.cur.live && s.cur.blk == b then Wave.empty s.cur.id else s.cur
    waves := s.waves.filter fun w => w.blk != b
    groups := s.groups.filter fun g => g.ref != .block b }
/-- A retired block's allocation is freed; in a cluster, once all its blocks have retired (R44, R169). -/
def freeBlock (s : State) (b : Block) : State :=
  let s := onBlock s b.id fun b => { b with state := .retired }
  let same := fun x : Block => x.id.launch == b.id.launch && x.id.idx / b.csize == b.id.idx / b.csize
  if (s.blocks.filter same).all (·.state == .retired) then { s with blocks := s.blocks.filter fun x => !same x } else s
/-- Another block of the context is resident on the die (R409). -/
def ctxOnDie (s : State) (b : Block) : Bool :=
  s.blocks.any fun x => x.id != b.id && x.core.cd == b.core.cd && x.ctx == b.ctx && (x.state == .resident || x.state == .stopping)
/-- A block leaves its core for good: waves, group, allocation, and the retirement message to the launch's counter
(R169, R408, R409). -/
def retire (s : State) (b : Block) : State :=
  let s := freeBlock (dropWaves s b.id) b
  let q := ((getLaunch s b.id.launch).map (·.queue)).getD 0
  let s := send s b.core.cd (iodUnit b.pkg (q / 128)) (.retired b.id.launch)
  let s := traceRec s b.core.cd b.ctx 2 (b.core.core * 2 ^ 32 + b.id.idx) []
  if confidential s b.pkg b.ctx && !ctxOnDie s b then sealTrace s b.core.cd b.ctx else s
/-- A block retires: its records are released, its resources freed, and its counter is told (R169). A stopping block
retires if it has not been saved: no wave of it took the PREEMPT trap, and no task of it is kept (R172, R336). -/
def execBlockRetirement (b : BlockId) (s : State) : Res :=
  match getBlock s b with
  | none => .next s
  | some x =>
    if !(x.state == .resident || (x.state == .stopping && x.liveW.isEmpty && !x.written)) || !blockDone s x then .next s
    else
      let ls := x.recs.map (·.2)
      let (ok, s) := homeGather s (pinSectors s x.pkg x.ctx ls)
      if !ok then .next s
      else .next (retire (onBlock (unpin s x.pkg x.ctx ls) b fun b => { b with recs := [] }) x)
/-- The I/O die counts a retired block; at G it asks every die of the mask for its modified sectors (R170). -/
def countRetired (s : State) (l : Nat) : State :=
  let s := onLaunch s l fun x => { x with retired := x.retired + 1 }
  match getLaunch s l with
  | none => s
  | some x =>
    if x.retired < launchSize x || x.owed.isSome then s
    else
      let ds := (maskDies s x.pkg x.ctx x.dmask.toNat).filter fun d => (countedDies s x.pkg).contains d
      let (k, s) := startWritebackAt s x.pkg ds none false (some l)
      onLaunch s l fun x => { x with owed := some k }
/-- A retirement message reaches the launch's I/O die (R170). -/
def execRetirementMessage (n : Nat) (s : State) : Res :=
  match s.net[n]? with
  | some m => match m.body with
    | .retired l => .next (countRetired { s with net := dropAt n s.net } l)
    | _ => .next s
  | none => .next s
/-- The launch's queue state is freed (R170). -/
def freeLaunch (s : State) (l : Nat) : State :=
  { s with launches := s.launches.filter (·.tag != l), blocks := s.blocks.filter fun b => b.id.launch != l }
/-- The signal word written at its place: at its home under all tokens, or at the host; a write toward a lost home is
discarded (R71, R170, R377). False where tokens are still missing. -/
def writeSignal (s : State) (l : Launch) (t : Target) : Bool × State :=
  if lostHome s l.pkg l.ctx t then (true, s) else
  match t.space with
  | .host p => if hostLocked s t then (false, s) else (true, { s with hostMem := memPut s.hostMem (hostKey p t.addr) (bytesOf 4 l.sigval.toNat) })
  | .scr _ => (true, s)
  | .dev =>
    let x := sectorOf t.addr
    let (ok, s) := homeGather s [x]
    if ok then (true, homeDone (writeHome s x (t.addr % 64) (bytesOf 4 l.sigval.toNat)) x) else (false, s)
/-- After every write-back of the launch is acknowledged, the signal word is released and the launch ends; a signal word
that fails its check is logged, and the launch ends all the same (R170). -/
def execLaunchEnd (l : Nat) (s : State) : Res :=
  match getLaunch s l with
  | none => .next s
  | some x => match x.owed with
    | none => .next s
    | some k =>
      if s.wbs.any (·.k == k) then .next s
      else if x.signal = 0 then .next (freeLaunch s l)
      else match recWord s x.pkg x.ctx 0b010 false x.signal with
        | .wait _ => .next s
        | .walk _ _ => .next s
        | .fault _ _ => .next (freeLaunch (logLaunch s x.pkg x.queue x.slot x.ctx x.signal) l)
        | .ok t =>
          let (ok, s) := writeSignal s x t
          .next (if ok then freeLaunch s l else s)

end Sys2Proof.Machine
end

