-- ==== Sys2Proof/Machine/Preemption.lean ====
section
/-! DEFINITION. Pre-emption, the save of a block and its resumption (R149, R171 to R174, R336 to R338, R353, R368,
R369). -/

namespace Sys2Proof.Machine

/-! ## The choice of victims (R171, R353, R368) -/

/-- SCHCTL of the I/O die that serves a queue (R353). -/
def schctl (s : State) (pkg q : Nat) : Nat := if q < 128 then (getPkg s pkg).schctl0.toNat else (getPkg s pkg).schctl1.toNat
/-- PGAP, with 0 taken as 1 (R353). -/
def pgap (x : Nat) : Nat := Nat.max 1 (bits x 7 3)
/-- The base PRIO of a block's queue. -/
def blockPrio (s : State) (b : Block) : Nat :=
  match getLaunch s b.id.launch with
  | some l => qPrio (getQueue s l.pkg l.queue)
  | none => 0
/-- Save areas of a context in use: by a block that stops or is saved, or by one not every wave of which has executed its
`eret` (R368). -/
def areasUsed (s : State) (pkg ctx : Nat) : List Nat :=
  (s.blocks.filter fun b => b.pkg == pkg && b.ctx == ctx).flatMap fun b =>
    (if b.state == .stopping || b.state == .saved || b.erets != 0 then [b.area] else []) ++
    (if b.erets != 0 then b.oldArea.toList else [])
/-- The free save areas of a context, ascending (R368). -/
def freeAreas (s : State) (pkg ctx : Nat) : List Nat :=
  let used := areasUsed s pkg ctx
  (List.range (saveCount (getCtx s pkg ctx))).filter fun a => !used.contains a
/-- A block becomes a victim: it stops, with a save area, and a PREEMPT is pending for its waves (R172, R368). -/
def stopBlock (s : State) (area : Nat) (b : BlockId) : State :=
  let s := onBlock s b fun b =>
    { b with state := .stopping, area := area, oldArea := if b.erets != 0 then some b.area else none, written := false, liveW := [] }
  mapWaves s fun w => if w.live && w.blk == b && !isHandler w then { w with preempt := true } else w
/-- Every block of a set becomes a victim; none where the pool of its context lacks a free area (R368). -/
def stopAll (s : State) : List BlockId → Option State
  | [] => some s
  | b :: bs => match getBlock s b with
    | none => stopAll s bs
    | some x => match freeAreas s x.pkg x.ctx with
      | [] => none
      | a :: _ => stopAll (stopBlock s a b) bs
/-- The state as it will be once the stopping blocks have been freed. -/
def afterStops (s : State) : State :=
  let gone := (s.blocks.filter (·.state == .stopping)).map (·.id)
  { s with
    blocks := s.blocks.filter (·.state != .stopping)
    cur := if gone.contains s.cur.blk then Wave.empty s.cur.id else s.cur
    waves := s.waves.filter fun w => !gone.contains w.blk
    cores := s.cores.map fun c => { c with tiles := c.tiles.filter fun t => !gone.contains t.blk } }
/-- The launch's next block, cluster or saved set has room on the die once the stopping blocks are freed (R353). -/
def roomAfter (s : State) (l : Launch) (cd : Nat) : Bool :=
  let t := afterStops s
  canPlace t l cd || canResume t l cd
/-- The resident block of a base PRIO that was placed last on a die (R353). -/
def newestVictim (s : State) (cd prio : Nat) : Option BlockId :=
  let bs := s.blocks.filter fun b => b.core.cd == cd && b.state == .resident && blockPrio s b == prio
  match bs with
  | [] => none
  | b :: bs => some (bs.foldl (fun a b => if a.placed < b.placed then b else a) b).id
/-- Victim sets are chosen until they free enough room (R353): the first always, another only if that is too little. -/
def chooseVictims (l : Launch) (cd prio : Nat) : Nat → State → State
  | 0, s => s
  | fuel + 1, s =>
    match newestVictim s cd prio with
    | none => s
    | some b => match stopAll s (closedSet s .resident [b]) with
      | none => s
      | some t => if roomAfter t l cd then t else chooseVictims l cd prio fuel t
/-- The lowest base PRIO among the resident blocks of a die. -/
def lowestPrio (s : State) (cd : Nat) : Option Nat :=
  match (s.blocks.filter fun b => b.core.cd == cd && (b.state == .resident || b.state == .stopping)).map (blockPrio s) with
  | [] => none
  | p :: ps => some (ps.foldl Nat.min p)
/-- The launch of a queue for which a pre-emption is raised on a die: the first that waits, may be placed there and finds no
room (R353). -/
def raisesFor (s : State) (pkg q cd : Nat) : Option Launch :=
  (queueLaunches s pkg q).find? fun l => launchWaits s l && dieOffers s l cd && !roomAfter s l cd
/-- A launch of a queue has waited for PWAIT with E ≥ P + PGAP, and no core of the die can accept its next block: victims
are chosen (R171, R353). -/
def execPreemptionRaise (pkg q cd : Nat) (s : State) : Res :=
  let sc := schctl s pkg q
  match raisesFor s pkg q cd, lowestPrio s cd with
  | some l, some p =>
    if bits sc 19 12 = 0 || (getQueue s pkg q).eff < p + pgap sc then .next s
    else .next (chooseVictims l cd p s.blocks.length s)
  | _, _ => .next s

/-! ## The PREEMPT trap (R149, R172, R336) -/

/-- A wave at a boundary where it can take PREEMPT, with the PC there and what it waited for withdrawn: a sleeper is
woken and a barrier arrival taken back, with the PC at the instruction (R172, R374). -/
def withdraw (s : State) (w : Wave) : Option (Wave × State) :=
  let back := { w with hold := .ready, a := { w.a with pc := w.a.pc - 4 } }
  let unsend := { s with groupMsgs := s.groupMsgs.filter fun m => match m.ev with
    | .arrive v _ _ _ => v != w.id
    | .remote v _ _ => v != w.id
    | _ => true }
  match w.hold with
  | .ready | .stall _ | .walk _ | .migration _ => some ({ w with hold := .ready }, s)
  | .trapPending r _ => if r.cause == .preempt then some ({ w with hold := .ready }, s) else none
  | .sleep _ | .waita .. => some (back, s)
  | .mwait _ x _ => some (back, freeMonitor (onWave s w.id fun v => { v with hold := .ready }) w.id.cd x)
  | .barr => some (back, unsend)
  | .bar g n _ _ => some (back, onGroup unsend g fun x =>
      { x with bars := x.bars.set (barNum n) { x.bars[barNum n] with arrived := x.bars[barNum n].arrived.filter (· != w.id) } })
  | _ => none
/-- A tile task of a victim fares as R336 gives: nothing more of it runs before the save. Whether a predecessor is open is judged
as the task settles, not as its block is chosen (log entry 99). -/
def taskSettled (c : Core) (t : TileTask) : Bool :=
  if t.fn = 6 then t.progress < 8 && t.got.isEmpty else !t.started && !noOpenPred c t
/-- The tile tasks of a block are settled (R336), and the requests that R149 drains have completed. -/
def drained (s : State) (b : Block) : Bool :=
  let c := getCore s b.core
  (c.tiles.filter (·.blk == b.id)).all (taskSettled c) && !c.reqs.any (·.blk == b.id) && !c.nm.any (·.blk == b.id) &&
  !s.cores.any fun k => k.reqs.any fun q => q.kind == .copymc && q.dests.any fun d => d.1 == b.core && d.2 == b.base
/-- A wave stands at a boundary where PREEMPT comes before its next instruction (R172, R374). -/
def preemptHere (s : State) (w : Wave) : Bool :=
  w.preempt && !w.a.trap && !isHandler w && w.rlost.isEmpty && !pendingLongNoTile w && match getBlock s w.blk with
    | some b => b.state == .stopping && !b.liveW.contains w.k && drained s b
    | none => false
/-- The PREEMPT trap of a wave with its hold taken back; its frame goes to its block's save area, and the block counts it
among the waves to resume (R361, R363, R369). -/
def preemptTrap (s : State) (v : Wave) (b : Block) : State :=
  let c := getCtx s b.pkg b.ctx
  let r := waveRec s v .preempt 0 v.a.pc 0 0 false false false
  let t := enterTrap r.2 v r.1 v.a.pc (saveFrameAddr c b.area v.k) (objAddr (saveObj c) (b.area * saveSize c))
  if (getWave t v.id).any fun x => x.hold == .logWait then onBlock t b.id fun b => { b with liveW := b.liveW ++ [v.k] } else t
/-- A wave of a stopping block takes the PREEMPT trap (R172, R361, R363). -/
def takePreempt (s : State) (w : Wave) (b : Block) : State :=
  if w.a.trap || isHandler w || !w.rlost.isEmpty || pendingLongNoTile w || !partitionRuns s w.id || w.focus.isSome || !drained s b then s
  else match withdraw s w with
    | none => s
    | some (v, s) => preemptTrap s v b

/-! ## The block record and the matrix save image (R337, R369) -/

/-- The waves of a block that have taken the PREEMPT trap. -/
def savedMask (b : Block) : Nat := b.liveW.foldl (fun n k => n + 2 ^ k) 0
/-- The saved wave of a block with an index. -/
def savedWave (s : State) (b : Block) (k : Nat) : Option Wave :=
  (allWaves s).find? fun w => w.blk == b.id && w.k == k && !isHandler w && b.liveW.contains k
/-- Members of a group among the saved waves of a block, by index (R369). -/
def entryMembers (s : State) (b : Block) (g : GroupRef) : Nat :=
  b.liveW.foldl (fun n k => match savedWave s b k with
    | some w => if (memberGroups w).contains g then n + 2 ^ k else n
    | none => n) 0
/-- A group entry (R369). -/
def groupEntry (s : State) (b : Block) (x : Group) : List Byte :=
  let isBlock := match x.ref with
    | .block _ => true
    | _ => false
  bytesOf 4 (groupKey x.ref).toNat ++
  bytesOf 1 (1 + 2 * b2n (groupIsCluster x.ref) + 4 * b2n x.abandoned + 8 * b2n isBlock) ++ bytesOf 1 0 ++
  bytesOf 2 (entryMembers s b x.ref) ++ x.bars.toList.flatMap (fun y => bytesOf 1 y.r ++ bytesOf 1 y.q) ++ bytesOf 16 0
/-- The groups of a block that its record holds: its own, and the joined ones with members among its saved waves. -/
def recordGroups (s : State) (b : Block) : List Group :=
  (s.groups.filter fun g => g.ref == .block b.id) ++
  (s.groups.filter fun g => (match g.ref with
    | .block _ => false
    | _ => true) && entryMembers s b g.ref != 0)
/-- The 4,096 bytes of a block record (R369). -/
def blockRecord (s : State) (b : Block) : List Byte :=
  let images := b.recs.map (fun (h, l) => (h, l.image)) ++ b.unreg
  let recs := (List.range 8).flatMap fun h => match images.find? (·.1 == h) with
    | some (_, x) => bytesOf 32 x.toNat
    | none => bytesOf 32 0
  let gs := (recordGroups s b).take 17
  let head := bytesOf 4 b.id.idx ++ bytesOf 2 (savedMask b) ++ bytesOf 1 (b2n b.matrix + 2 * b2n (b.csize != 1)) ++ bytesOf 1 b.nwaves ++
    bytesOf 4 b.size ++ bytesOf 4 b.id.launch ++ bytesOf 48 0
  head ++ recs ++ gs.flatMap (groupEntry s b) ++ bytesOf (32 * (17 - gs.length)) 0 ++ bytesOf 3232 0
/-- The 4 bytes of a plane's record (R314). -/
def planeRecord (p : Plane) : Nat := b2n p.pois * 128 + b2n p.v * 64 + b2n p.cplx * 32 + p.wfmt.toNat
/-- A plane's 0x1100 bytes (R337). -/
def planeBytes (p : Plane) : List Byte :=
  p.rows.toList.flatMap (fun r => bytesOf 128 r.toNat) ++ bytesOf 64 p.ws.toNat ++ bytesOf 64 p.as.toNat ++
  bytesOf 4 (planeRecord p) ++ bytesOf 124 0
/-- A saved task's 64 bytes (R337). -/
def taskBytes (t : TileTask) : List Byte :=
  let head := t.fn.toNat * 2 ^ 27 + t.ct.toNat * 2 ^ 23 + t.pl.toNat * 2 ^ 21 + t.flag % 16 * 2 ^ 17 + t.k * 2 ^ 13 +
    (if t.fn = 6 then t.progress else 0) * 2 ^ 10
  bytesOf 4 head ++ bytesOf 4 t.mmode.toNat ++ (List.range 7).flatMap (fun i => bytesOf 4 (t.x i)) ++ bytesOf 28 0
/-- The tasks of a block in queue order. -/
def blockTasks (c : Core) (b : BlockId) : List TileTask := c.tiles.filter (·.blk == b)
/-- The parts of the matrix save image, by offset (R337). A poisoned tile is all ones. -/
def imageParts (c : Core) (b : BlockId) : List (Nat × List Byte) :=
  (List.range 16).map (fun j => (0x4000 * j,
    if c.accPoison.getLsbD j then List.replicate 0x4000 0xFF else memBytes c.acc (0x4000 * j) 0x4000)) ++
  c.planes.toList.zipIdx.map (fun (p, j) => (0x40000 + 0x1100 * j, planeBytes p)) ++
  [(0x44400, c.cbs.toList.flatMap fun x => bytesOf 32 x.toNat),
   (0x44500, bytesOf 4 (c.accPoison.toNat + c.cbPoison.toNat * 65536) ++ bytesOf 252 0 ++
     bytesOf 4 (blockTasks c b).length ++ bytesOf 60 0 ++
     (blockTasks c b).flatMap taskBytes ++ bytesOf (64 * (64 - (blockTasks c b).length)) 0)]
/-- The places of the bytes of a range of an object, page by page (log entry 9). -/
def objPlaces (s : State) (pkg ctx : Nat) (need : BitVec 3) (id off n : Nat) : List (Nat × Nat × LaneOut) :=
  (rangePages off n).map fun (a, k) => (a, k, translateNow s pkg ctx need false (objAddr id a) 1)
/-- Parts written into an object at a base offset, at their homes; a page that cannot be translated keeps its bytes. False
where a page waits or tokens are missing (R45, R92). -/
def putObj (s : State) (pkg ctx id base : Nat) (parts : List (Nat × List Byte)) : Bool × State :=
  let ws := parts.flatMap fun (o, bs) => (objPlaces s pkg ctx 0b010 id (base + o) bs.length).map fun (a, k, out) =>
    (out, (bs.drop (a - (base + o))).take k)
  let waits := ws.any fun (o, _) => match o with
    | .wait _ => true
    | _ => false
  let ps := ws.filterMap fun (o, bs) => match o with
    | .ok t => if t.space = .dev then some (t.addr, bs) else none
    | _ => none
  if waits then (false, s)
  else
    let xs := ps.flatMap fun (a, bs) => sectorsOf a bs.length
    let (ok, s) := homeGather s xs
    if !ok then (false, s)
    else
      let s := ps.foldl (fun s (a, bs) => homeWrite s a bs) s
      (true, xs.foldl homeDone s)
/-- Every wave of a block has ended or taken its PREEMPT trap, whose entry has committed (R172, R370). -/
def allTrapped (s : State) (b : Block) : Bool :=
  (blockWaves s b.id).all fun w => isHandler w || w.hold == .ended ||
    (b.liveW.contains w.k && w.a.trap && w.window.isEmpty)
/-- The saved tasks leave the queue; their flags keep their counts (R336). -/
def dropTasks (s : State) (b : Block) : State :=
  let gone := (blockTasks (getCore s b.core) b.id).map (·.op)
  let s := onCore s b.core fun c => { c with tiles := c.tiles.filter (·.blk != b.id) }
  mapWaves s fun w => if w.blk == b.id then { w with ops := w.ops.filter fun o => !gone.contains o.id } else w
/-- The handlers of a victim set begin once every block of it is written (R172). -/
def wakeSaved (s : State) (b : BlockId) : State :=
  if saved s b then
    let set := closedSet s .stopping [b]
    mapWaves s fun w => if w.hold == .saveWait && set.contains w.blk then { w with hold := .ready } else w
  else s
/-- The resident blocks that a stopping block's groups tie to it since the choice of its victim set (R171). -/
def tiedBlocks (s : State) (b : BlockId) : List BlockId := (closedSet s .resident [b]).filter (· != b)
/-- Blocks that a join has tied to a victim set before its records are written become victims with it (R171; log entry 84). -/
def widenSet (b : BlockId) (s : State) : Res :=
  match getBlock s b with
  | none => .next s
  | some x =>
    if x.state != .stopping || x.written then .next s
    else .next ((stopAll s (tiedBlocks s b)).getD s)
/-- Every block of a victim set has trapped, no resident block is tied to one of them, its drains are over, and every group event of its waves has been counted, before a
record of the set is written: what a record holds of its groups then stands (R172). -/
def setTrapped (s : State) (b : Block) : Bool :=
  (closedSet s .stopping [b.id]).all fun x => (getBlock s x).all (fun y => allTrapped s y && drained s y) && (tiedBlocks s x).isEmpty &&
    !s.groupMsgs.any fun m => groupMsgOf x s m && !remoteWaits s m.ev
/-- Step 3 of R172 for a block of a victim set all of whose waves have trapped: its record and, with a matrix mark, its matrix image are
written to its save area, and its saved tasks leave the queue. A block without a wave to resume is saved for its
tasks (R336). -/
def writeBlock (s : State) (b : Block) : State :=
  if b.state != .stopping || b.written || (b.liveW.isEmpty && (blockTasks (getCore s b.core) b.id).isEmpty) || !setTrapped s b then s else
  let c := getCtx s b.pkg b.ctx
  let img := if b.matrix then (imageParts (getCore s b.core) b.id).map fun (o, bs) => (0x5000 + o, bs) else []
  let (ok, s) := putObj s b.pkg b.ctx (saveObj c) (b.area * saveSize c) ((0, blockRecord s b) :: img)
  if !ok then s
  else wakeSaved (onBlock (dropTasks s b) b.id fun b => { b with written := true }) b.id
/-- A victim wave takes the PREEMPT trap once its operations are complete; with the last one of the block, its record and
matrix image are written (R172, R336). -/
def execPreemptTrap (w : WaveId) (s : State) : Res :=
  match getWave s w with
  | none => .next s
  | some v => match getBlock s v.blk with
    | none => .next s
    | some b =>
      if b.state != .stopping then .next s
      else
        let s := if b.liveW.contains v.k then s else takePreempt s v b
        match getBlock s v.blk with
        | some b => .next (writeBlock s b)
        | none => .next s
/-- The record of a victim block is written as soon as it can be (R172). -/
def blockSave (b : BlockId) (s : State) : Res :=
  match getBlock s b with
  | some x => .next (writeBlock s x)
  | none => .next s
/-- A pre-empted block is freed once its waves have ended and R169 holds, without a retirement message (R135, R172). -/
def execBlockFree (b : BlockId) (s : State) : Res :=
  match getBlock s b with
  | none => .next s
  | some x =>
    if x.state != .stopping || !x.written || !blockDone s x then .next s
    else
      let ls := x.recs.map (·.2)
      let (ok, s) := homeGather s (pinSectors s x.pkg x.ctx ls)
      if !ok then .next s
      else .next (onBlock (dropWaves (unpin s x.pkg x.ctx ls) b) b fun b => { b with state := .saved, oldArea := none })

/-! ## Resumption (R135, R173, R174, R338) -/

/-- n bytes of an object as a number; a page that cannot be translated reads 0. -/
def objNat (s : State) (pkg ctx id off n : Nat) : Nat :=
  ((objPlaces s pkg ctx 0b001 id off n).reverse).foldl (fun acc (_, k, o) => match o with
    | .ok t => readPlace s t k + 2 ^ (8 * k) * acc
    | _ => 2 ^ (8 * k) * acc) 0
/-- The bytes of a saved block's area that its resumption reads, as ranges: the record and, with a matrix mark, the matrix
save image (R337, R369). -/
def areaRanges (c : Ctx) (b : Block) : List (Nat × Nat) :=
  (b.area * saveSize c, 4096) :: (if b.matrix then [(b.area * saveSize c + 0x5000, 0x45640)] else [])
/-- A page of what a resumption reads is in migration wait (R45). -/
def areaWaits (s : State) (b : Block) : Bool :=
  let c := getCtx s b.pkg b.ctx
  (areaRanges c b).any fun (a, n) => (objPlaces s b.pkg b.ctx 0b001 (saveObj c) a n).any fun (_, _, o) => match o with
    | .wait _ => true
    | _ => false
/-- The sectors of what a resumption reads (R80). -/
def areaSectors (s : State) (b : Block) : List Nat :=
  let c := getCtx s b.pkg b.ctx
  (areaRanges c b).flatMap fun (a, n) => (objPlaces s b.pkg b.ctx 0b001 (saveObj c) a n).flatMap fun (_, k, o) => match o with
    | .ok t => if t.space = .dev then sectorsOf t.addr k else []
    | _ => []
/-- The saved block record as a number. -/
def savedRecord (s : State) (b : Block) : Nat :=
  let c := getCtx s b.pkg b.ctx
  objNat s b.pkg b.ctx (saveObj c) (b.area * saveSize c) 4096
/-- n bytes of the matrix image of a saved block. -/
def savedImage (s : State) (b : Block) (off n : Nat) : Nat :=
  let c := getCtx s b.pkg b.ctx
  objNat s b.pkg b.ctx (saveObj c) (b.area * saveSize c + 0x5000 + off) n
/-- The wave indices of a saved record (R369). -/
def recWaves (r n : Nat) : List Nat := (List.range (Nat.min 16 n)).filter fun k => bitOf (recField r 4 2) k
/-- The saved layout records by handle (R369). -/
def recImages (r : Nat) : List (Nat × BitVec 256) :=
  (List.range 8).filterMap fun h => if recField r (64 + 32 * h) 32 = 0 then none else some (h, BitVec.ofNat 256 (recField r (64 + 32 * h) 32))
/-- A saved group entry. -/
def recEntry (r i : Nat) : Nat := recField r (320 + 32 * i) 32
/-- The barriers of a group entry: R and Q, without arrivals (R369). -/
def entryBars (e : Nat) : Vector Barrier 4 :=
  ⟨((List.range 4).map fun i => ({ arrived := [], r := recField e (8 + 2 * i) 1, q := recField e (9 + 2 * i) 1 } : Barrier)).toArray, by simp⟩
/-- A group entry put back: a group that stands already takes the members, and one of cluster scope R and Q from the block of
rank 0; one of core scope that an earlier resumption has put back keeps its barriers (R173, R369). A member that is not resumed was killed since, so the group is abandoned (R367). No entry is asked for on the core:
where its 16 are in use the group is made all the same (R164; log entry 105). -/
def putGroup (s : State) (b : Block) (back : List Nat) (e : Nat) : State :=
  let f := recField e 4 1
  if !bitOf f 0 then s else
  let key : Word := BitVec.ofNat 32 (recField e 0 4)
  let ref : GroupRef := if bitOf f 3 then .block b.id
    else if bitOf f 1 then .cluster b.ctx b.id.launch (b.id.idx / b.csize) key else .core b.ctx b.core key
  let ks := (List.range 16).filter fun k => bitOf (recField e 6 2) k
  let ms : List Member := (ks.filter back.contains).map fun k => ⟨b.id, k⟩
  let gone := bitOf f 2 || !ks.all back.contains
  let g0 : Group := { ref := ref, born := s.nextId, bars := entryBars e }
  { s with nextId := s.nextId + 1, groups := upsert (·.ref == ref) (fun g =>
      { g with
        members := g.members ++ ms, abandoned := g.abandoned || gone
        bars := if bitOf f 1 && b.id.idx % b.csize = 0 then entryBars e else g.bars }) g0 s.groups }
/-- A joined group all of whose members have been killed since it was saved has dissolved: none comes back (R163, R173). -/
def dropEmptyGroups (s : State) : State :=
  { s with groups := s.groups.filter fun g => !g.members.isEmpty || (match g.ref with
      | .block _ => true
      | _ => false) }
/-- The registers of a wave at the resume entry (R174). -/
def resumeArch (c : Ctx) (l : Launch) (b : Block) (area k : Nat) : WaveArch :=
  { birthArch l b.id.idx k with
    pc := resumeEntry c
    trap := true
    tfaddr := saveFrameAddr c area k
    tsaddr := objAddr (saveObj c) (area * saveSize c) }
/-- The matrix state of an image (R337, R338). -/
def loadImage (s : State) (b : Block) (c : Core) : Core :=
  let img := savedImage s b
  let marks := img 0x44500 4
  { c with
    acc := memPut [] 0 (bytesOf 0x40000 (img 0 0x40000))
    accPoison := BitVec.ofNat 16 marks
    cbPoison := BitVec.ofNat 8 (marks / 65536)
    cbs := ⟨((List.range 8).map fun k => BitVec.ofNat 256 (img (0x44400 + 32 * k) 32)).toArray, by simp⟩
    planes := ⟨((List.range 4).map fun j =>
      let at' := 0x40000 + 0x1100 * j
      let r := img (at' + 0x1080) 4
      ({ pois := bitOf r 7, v := bitOf r 6, cplx := bitOf r 5, wfmt := BitVec.ofNat 4 r
         rows := ⟨((List.range 32).map fun m => BitVec.ofNat 1024 (img (at' + 128 * m) 128)).toArray, by simp⟩
         ws := BitVec.ofNat 512 (img (at' + 0x1000) 64), as := BitVec.ofNat 512 (img (at' + 0x1040) 64) } : Plane)).toArray, by simp⟩ }
/-- A saved task put back at the end of the queue, with an operation of its wave (R338). Its PC is not saved; a record
that would name it holds a free value (log entry 3). Nor is its lookahead limit saved: it comes back with LA 15, which sets none (R211,
R337; DESIGN CHOICE, log entry 110). -/
def putTask (s : State) (b : Block) (i : Nat) : State :=
  let e := savedImage s b (0x44640 + 64 * i) 64
  let h := e % 2 ^ 32
  let k := bits h 16 13
  let (pc, s) := freshWord s
  let (id, s) := takeId s
  let owner := (allWaves s).find? fun w => w.blk == b.id && w.k == k && !isHandler w
  let wid := (owner.map (·.id)).getD ⟨b.core.cd, b.core.core, 4, 0⟩
  let t : TileTask := { wave := wid, blk := b.id, k := k, op := id, fn := BitVec.ofNat 5 (bits h 31 27), ct := BitVec.ofNat 4 (bits h 26 23)
                        pl := BitVec.ofNat 2 (bits h 22 21), flag := bits h 20 17, mmode := BitVec.ofNat 32 (recField e 4 4)
                        scal := (List.range 7).map fun j => BitVec.ofNat 32 (recField e (8 + 4 * j) 4)
                        base := b.base, dest := [], pc := pc.extractLsb' 0 32, started := false, progress := bits h 12 10, saved := true }
  let s := onCore s b.core fun c => { c with tiles := c.tiles ++ [t] }
  onWave s wid fun w =>
    let o : Op := { newOp { s with cur := w } .tile (BitVec.ofNat 4 t.flag) 15 with id := id, left := true }
    { w with ops := w.ops ++ [o] }
/-- Saved images registered again under their handles, and those that a page in migration wait keeps back; one that fails a
check is left out (R135). -/
def registerAll (s : State) (pkg ctx : Nat) (images : List (Nat × BitVec 256)) : List (Nat × LayRec) × List (Nat × BitVec 256) :=
  let outs := images.map fun (h, img) => (h, img, register (nowView s pkg ctx) pkg img)
  (outs.filterMap fun (h, _, o) => match o with
    | .ok l => some (h, l)
    | _ => none,
   outs.filterMap fun (h, img, o) => match o with
    | .wait _ => some (h, img)
    | _ => none)
/-- PINCNT of the objects of newly registered records counts them (R51). -/
def pinAll (s : State) (pkg ctx : Nat) (regs : List (Nat × LayRec)) : State :=
  regs.foldl (fun s x => addPin s (getCtx s pkg ctx) (x.2.addr.extractLsb' 40 24).toNat 1) s
/-- One saved block placed again on a core, with its waves at the resume entry, held where a registration is (R135, R173, R174,
R338). -/
def resumeOne (s : State) (l : Launch) (b : Block) (core : CoreId) (p0 : Nat)
    (regs : List (Nat × LayRec) × List (Nat × BitVec 256)) : State :=
  let c := getCtx s b.pkg b.ctx
  let r := savedRecord s b
  let live := (recWaves r l.nwaves).filter b.liveW.contains
  let img := bitOf (recField r 6 1) 0
  let nb : Block := { b with
    core := core, base := (firstFit s core b.size).getD 0, state := .resident, recs := regs.1, unreg := regs.2, matrix := img
    written := false, liveW := [], erets := live.length, placed := s.nextId }
  let s := { onBlock (onCore s core (receive b.ctx)) b.id (fun _ => nb) with nextId := s.nextId + 1 }
  let s := live.foldl (fun s k => bornWave s l b.id core p0 k (resumeArch c l b b.area k)) s
  let s := if regs.2.isEmpty then s else mapWaves s fun w => if w.live && w.blk == b.id then { w with hold := .regWait } else w
  let s := (List.range 17).foldl (fun s i => putGroup s nb live (recEntry r i)) s
  let s := pinAll s b.pkg b.ctx regs.1
  let s := if img then
      (List.range (Nat.min 64 (savedImage s b 0x44600 4))).foldl (fun s i => putTask s nb i) (onCore s core (loadImage s b))
    else s
  traceRec s core.cd b.ctx 1 (core.core * 2 ^ 32 + b.id.idx) []
/-- The registrations that a resumed block waits for are tried again; with the last of them its waves may issue (R45, R135). -/
def registerRetry (b : BlockId) (s : State) : Res :=
  match getBlock s b with
  | none => .next s
  | some x =>
    if x.unreg.isEmpty || !(x.state == .resident || x.state == .stopping) then .next s else
    let regs := registerAll s x.pkg x.ctx x.unreg
    let (ok, s) := homeGather s (pinSectors s x.pkg x.ctx (regs.1.map (·.2)))
    if !ok then .next s
    else
      let s := onBlock (pinAll s x.pkg x.ctx regs.1) b fun y => { y with recs := y.recs ++ regs.1, unreg := regs.2 }
      .next (if regs.2.isEmpty then mapWaves s fun w => if w.hold == .regWait && w.blk == b then { w with hold := .ready } else w
        else s)
/-- A saved block, with all of its cluster, is placed again on cores that accept it (R135, R173, R352). -/
def execBlockResumption (b : BlockId) (cd : Nat) (cores : List Nat) (p0 : Nat) (s : State) : Res :=
  match getLaunch s b.launch with
  | none => .next s
  | some l => match (savedSets s l).find? fun set => set.any (·.id == b) with
    | none => .next s
    | some set =>
      let plan := set.zip cores
      let fits := fun x : Block × Nat => accepts s l ⟨cd, x.2⟩ p0 (savedNeed x.1).1 (savedNeed x.1).2
      if findCores s l cd (set.map savedNeed) [] != some cores || !dieOffers s l cd || !offered s l cd || set.any (areaWaits s) then .next s
      else
        let area := dedup (set.flatMap (areaSectors s))
        let (ok, s) := homeGather s area
        if !ok then .next s
        else
          let regs := set.map fun x => registerAll s x.pkg x.ctx (recImages (savedRecord s x))
          let (ok, s) := homeGather s (pinSectors s l.pkg l.ctx (regs.flatMap fun r => r.1.map (·.2)))
          if !ok then .next s
          else
            let s := (plan.zip regs).foldl (fun s (x, r) => resumeOne s l x.1 ⟨cd, x.2⟩ ((fits x).getD 0) r) s
            let s := dropEmptyGroups s
            .next (resetPriority (area.foldl homeDone s) l)

end Sys2Proof.Machine
end

