-- ==== Sys2Proof/Machine/Issue.lean ====
section
/-! DEFINITION. Choosing the wave that issues, running the word it fetches, and placing a word for the next fetch. -/

namespace Sys2Proof.Machine

/-- A wave is ready to issue (R161); not while lane focus is on it (R405), nor where PREEMPT
comes first (R172). -/
def isReady (s : State) (w : Wave) : Bool :=
  w.live && w.hold == .ready && (w.active || isHandler w) && w.focus.isNone && partitionRuns s w.id && !preemptHere s w
/-- The wave that a partition picks among its ready waves (R145, R161, R354). -/
def pickIn (s : State) (ws : List Wave) : Option Wave :=
  match ws.filter (fun w => w.passed ≥ 15) with
  | x :: xs => some (xs.foldl (fun a b => if b.id.slot < a.id.slot then b else a) x)
  | [] =>
    let hs := ws.filter isHandler
    let os := ws.filter fun w => !isHandler w
    match hs, os with
    | [], [] => none
    | h :: hs, [] => some (hs.foldl (older (lastSlotOf s h.id)) h)
    | [], o :: os => some (os.foldl (older (lastSlotOf s o.id)) o)
    | h :: hs, o :: os =>
      if (h :: hs).any (hfirst s) then
        match (h :: hs).filter (hfirst s) with
        | y :: ys => some (ys.foldl (older (lastSlotOf s h.id)) y)
        | [] => some (hs.foldl (older (lastSlotOf s h.id)) h)
      else if (getCore s (coreId h.id)).lastHandler.getLsbD h.id.part then some (os.foldl (older (lastSlotOf s h.id)) o)
      else some (hs.foldl (older (lastSlotOf s h.id)) h)
/-- One ready wave of each partition that has one. -/
def partHeads (s : State) : List Wave :=
  let ready := (allWaves s).filter (isReady s)
  ready.filter fun w => ((ready.find? fun x => samePart x.id w.id).map (·.id)) == some w.id
/-- The wave that issues next; of several partitions with ready waves any goes first, but for one that has been skipped
4,096 times (R168; log entry 1). -/
def pickWave (s : State) : Option Wave :=
  let heads := partHeads s
  let h := match heads.filter (fun w => skippedOf s w.id ≥ 4096) with
    | x :: xs => some (xs.foldl (fun (a b : Wave) => if skippedOf s a.id < skippedOf s b.id then b else a) x)
    | [] => match heads with
      | [] => none
      | [h] => some h
      | h :: hs => some ((h :: hs).getD (Config.turn s.tick % (h :: hs).length) h)
  h.bind fun h => pickIn s ((allWaves s).filter fun w => isReady s w && samePart w.id h.id)
/-- A pick of a partition noted in its core: the kind and slot picked (R145, R161), and its skips (R168). -/
def notePart (w : Wave) (c : Core) : Core :=
  { c with
    lastHandler := setPart c.lastHandler w.id.part (isHandler w)
    lastSlot := if h : w.id.part < 4 then (if isHandler w then c.lastSlot else c.lastSlot.set w.id.part w.id.slot h) else c.lastSlot
    skipped := if h : w.id.part < 4 then c.skipped.set w.id.part 0 h else c.skipped }
/-- One more skip of a partition. -/
def skipPart (p : Nat) (c : Core) : Core :=
  if h : p < 4 then { c with skipped := c.skipped.set p (c.skipped[p] + 1) h } else c
/-- What a word that the issuing wave fetched does: `run` for an instruction, else the trap of R214. -/
def runWord (run : Instr → State → Res) (s : State) (w : Word) : Res :=
  match decode w with
  | .ok i => run i s
  | .error (.field i) => .next (trapAt s ((earlyCheck i s.cur).getD .rsvf))
  | .error .major => .next (trapAt s .ill)
  | .error .function => .next (trapAt s .ill)
/-- The issuing wave at an instruction boundary: an RLOST trap that is due (R213), else the fetch and the
fetched word. A fetch that fails parks the wave with every active lane in the PLM (R45, R203). -/
def issueNext (run : Instr → State → Res) (s : State) : Res :=
  match s.cur.rlost with
  | (pc, ad) :: _ => .next (raiseTrap s .rlost 0 s.cur.a.pc pc ad 0 false)
  | [] =>
    match fetchOut s s.cur s.cur.a.pc with
    | .ok t => match fetchNeeds s s.cur t with
      | some x => .next (awaitSector s x)
      | none => runWord run (fetched s s.cur s.cur.a.pc t) (fetchWord s s.cur t)
    | .fault _ c => .next (parkActive s c (codeAddr s.cur s.cur.a.pc))
    | .wait id => .next (holdMigration s id)
    | .walk id page => .next (waitWalks s [(id, page)])

/-- The next instruction of a wave is not held: it would issue now (R161). -/
def wouldIssue (run : Instr → State → Res) (s : State) (w : Wave) : Bool :=
  match issueNext run (focusOn s { w with hold := .ready }) with
  | .next t => !isStalled t.cur
  | _ => true
/-- What the pick of a wave leaves: the other waves of its partition that were ready have been passed over once more, it and those that
were not ready no longer (R161, R354), and the partitions keep their turns (R145, R161, R168). -/
def notePick (run : Instr → State → Res) (s : State) (w : Wave) (t : State) : State :=
  let passedBy := (allWaves s).filter fun x => samePart x.id w.id && isReady s x && !(x.id == w.id) && wouldIssue run s x
  let t := mapWaves t fun x =>
    if passedBy.any (fun y => y.id == x.id) then { x with passed := x.passed + 1 }
    else if samePart x.id w.id then { x with passed := 0 } else x
  let t := ((partHeads s).filter fun x => !samePart x.id w.id).foldl (fun t x => onCore t (coreId x.id) (skipPart x.id.part)) t
  onCore t (coreId w.id) (notePart w)

/-- The next instruction of a ready wave. A wave whose instruction turns out to be held was not ready (R161): another
one is picked, of at most n. -/
def issueReady (run : Instr → State → Res) : Nat → State → Option Res
  | 0, _ => none
  | n + 1, s =>
    match pickWave s with
    | none => none
    | some w =>
      match issueNext run (focusOn s w) with
      | .next t => if isStalled t.cur then (issueReady run n t).orElse fun _ => some (.next t) else some (.next (notePick run s w t))
      | r => some r

/-- After an event, every wave that could not issue tries again. -/
def wakeStalled : Res → Res
  | .next s => .next (mapWaves s fun w => if isStalled w then { w with hold := .ready } else w)
  | .fault f => .fault f
  | .refused r => .refused r

/-! ## The active set (R161, R162) -/

/-- The next instruction of a pending wave would issue, or would ask for something that it then waits for, such as tokens (R107, R161). -/
def wouldAct (run : Instr → State → Res) (s : State) (w : Wave) : Bool :=
  let s := focusOn s { w with hold := .ready }
  match issueNext run s with
  | .next t => !isStalled t.cur || stallBy .other t != stallBy .other s
  | _ => true
/-- A pending wave is ready: its next instruction is not held (R161). -/
def pendReady (run : Instr → State → Res) (s : State) (w : Wave) : Bool :=
  w.live && !w.active && !isHandler w && (w.hold == .ready || isStalled w) && w.focus.isNone && partitionRuns s w.id &&
  !preemptHere s w && wouldAct run s w
/-- The active set after a step: a wave that waits for one of the causes of R162 has left it, and what is free goes at once to
the pending wave that became ready earliest, as does the place of a wave in a long-latency stall (R162, R354). -/
def activeSet (run : Instr → State → Res) (s : State) : State :=
  let s := mapWaves s fun w => if w.active && leavesNow w then { w with active := false } else w
  let ready := (allWaves s).filter (pendReady run s)
  let s := mapWaves s fun w =>
    if ready.any fun x => x.id == w.id then { w with hold := .ready, readyAt := w.readyAt.orElse fun _ => some s.tick }
    else if !w.active && !isHandler w && w.hold == .ready then { w with hold := .stall .other, readyAt := none }
    else { w with readyAt := none }
  ready.foldl (fun s w => fillPlace false s w.id) s
/-- The same for the outcome of a step. -/
def settled (run : Instr → State → Res) : Res → Res
  | .next s => .next (activeSet run s)
  | .fault f => .fault f
  | .refused r => .refused r

/-- A block of one wave of context 1 on core 0 of CD0, as a launch places it: what `placeWord` needs where no
wave is resident. -/
def bornFirst (s : State) : State :=
  let b : Block := { id := ⟨0, 0⟩, pkg := 0, ctx := 1, core := ⟨0, 0⟩, base := 0, size := 262144, vregs := 192, nwaves := 1
                     csize := 1, state := .resident, recs := [], matrix := false, written := false, liveW := [], area := 0, oldArea := none
                     erets := 0, placed := 0 }
  { s with
    cur := { Wave.empty ⟨0, 0, 0, 0⟩ with
      live := true, blk := ⟨0, 0⟩, ctx := 1, vlimit := 192, code := 1, active := true
      a := { WaveArch.zero with em := BitVec.allOnes 96 } }
    blocks := b :: s.blocks
    groups := { ref := .block ⟨0, 0⟩, members := [⟨⟨0, 0⟩, 0⟩] } :: s.groups
    cores := upsert (·.id == (⟨0, 0⟩ : CoreId)) (fun c => { c with lastCtx := 1 }) { id := ⟨0, 0⟩ } s.cores }
/-- The frame of CD0's package that `placeWord` puts the fetched page into. -/
def wordFrame : Nat := 0x17FFFF8
/-- A word stored where the next step fetches: the issuing wave (one is born where none is resident) is ready
and picked first, its L1 TLB holds the page of its PC, and the word stands there, its sector held by the wave's die. -/
def placeWord (s : State) (x : Word) : State :=
  let s := if s.cur.live then s else bornFirst s
  let w := s.cur
  let pk := pkgOf w.id.cd
  let a := pk * 2 ^ 44 + wordFrame * 65536 + w.a.pc.toNat % 65536
  let t : TlbEntry := { ctx := w.ctx, id := w.code, page := w.a.pc.toNat / 65536, frame := BitVec.ofNat 40 wordFrame
                        len := 2 ^ 40, perm := 0b100, sh := false, kind := .dev, coh := .pkg }
  let mem := memPut s.mem a (bytesOf 4 x.toNat)
  let e : DieSector := { cd := w.id.cd, sector := sectorOf a, tokens := 64, own := true, valid := true
                         data := BitVec.ofNat 512 (memNat mem (sectorOf a * 64) 64) }
  let h : Home := { sector := sectorOf a, tokens := 0, own := false }
  let s := onCore s (coreId w.id) fun c =>
    { c with tlb := t :: c.tlb, stopped := 0, lastHandler := 0 }
  let s := onCd s w.id.cd fun d => { d with power := .run, held := false, thermal := false }
  let s := mapWaves s fun w => { w with active := false }
  { s with
    agenda := [], tick := 0
    mem := mem
    homes := h :: s.homes.filter (·.sector != a / 64)
    sectors := e :: s.sectors.filter (·.sector != a / 64)
    waves := s.waves.filter fun x => !isHandler x
    cur := { s.cur with hold := .ready, active := true, rlost := [], focus := none } }

end Sys2Proof.Machine
end

