-- ==== Sys2Proof/Machine/Contexts.lean ====
section
/-! DEFINITION. Context commands (R340 to R342) and the loader engine (R219 to R224, R343, R344). -/

namespace Sys2Proof.Machine

/-! ## Descriptors (R33, R341, R342) -/

/-- The context table register of the I/O die that serves the package (R24, R340). -/
def ctxtbl (p : Pkg) : BitVec 64 := if p.iod1 then p.ctxtbl1 else p.ctxtbl0
/-- The 256 bytes of a context's descriptor as a number (R340, R341). -/
def descriptor (s : State) (pkg ctx : Nat) : Nat :=
  devNat s (pkg * 2 ^ 44 + bits (ctxtbl (getPkg s pkg)).toNat 40 20 * 2 ^ 20 + 256 * ctx) 256
/-- The context that a descriptor describes, over what the context already has (R341). -/
def ctxOf (c : Ctx) (x : Nat) : Ctx :=
  { c with
    otbase := BitVec.ofNat 25 (bits (recField x 0 8) 40 16)
    otlen := BitVec.ofNat 24 (recField x 8 8)
    vdt := BitVec.ofNat 32 (recField x 16 4)
    cflags := BitVec.ofNat 32 (recField x 24 4)
    pcg := BitVec.ofNat 8 (recField x 28 1)
    trapdesc := BitVec.ofNat 128 (recField x 32 16)
    ctrace := BitVec.ofNat 64 (recField x 48 8) }
/-- The reserved bytes and bits of a descriptor are 0 (R33, R341, R362). -/
def reservedZero (x : Nat) : Bool :=
  bits (recField x 0 8) 63 41 == 0 && bits (recField x 0 8) 15 0 == 0 && bits (recField x 8 8) 63 24 == 0 &&
  recField x 20 4 == 0 && bits (recField x 24 4) 31 6 == 0 && recField x 29 3 == 0 && bits (recField x 32 16) 55 48 == 0 &&
  bits (recField x 48 8) 63 41 == 0 && recField x 56 200 == 0
/-- The virtual die table binds every enabled compute die once, in its first entries (R17, R342). -/
def vdtOk (p : Pkg) (c : Ctx) : Bool :=
  let es := (List.range 8).map fun k => bits c.vdt.toNat (4 * k + 3) (4 * k)
  let n := 8 - (dedup (p.fused.filter (· < 8))).length
  let bound := es.take n
  bound.all (fun d => d < 8 && !p.fused.contains d) && dedup bound == bound && (es.drop n).all (· == 15)
/-- An object of the context is DEV with Rd and W, and at least n bytes long (R362). -/
def trapObject (s : State) (c : Ctx) (id n : Nat) : Bool :=
  match validEntry s c id with
  | some e => kindOf (bits e 45 44) == some .dev && bits e 41 40 == 3 && n ≤ bits e 39 0
  | none => false
/-- TRAPDESC obeys R362. -/
def trapdescOk (s : State) (c : Ctx) : Bool :=
  trapObject s c (trapObj c) (49152 * 1024) && 6 ≤ bits c.trapdesc.toNat 87 80 && trapObject s c (saveObj c) 0
/-- The checks of R342 on a descriptor. -/
def descriptorOk (s : State) (pkg ctx x : Nat) : Bool :=
  let p := getPkg s pkg
  let c := ctxOf (getCtx s pkg ctx) x
  let conf := c.cflags.getLsbD 4
  reservedZero x && vdtOk p c && trapdescOk s c && (c.ctrace == 0 || 2 ≤ bits c.ctrace.toNat 11 0) &&
  (!conf || (p.sec.lifecycle == .prod && c.ctrace != 0)) &&
  (!c.cflags.getLsbD 5 || p.mcgroups.any fun g => g.1 == c.pcg.toNat && g.2 != 0)
/-- A block of the context is resident. -/
def ctxResident (s : State) (pkg ctx : Nat) : Bool :=
  s.blocks.any fun b => b.pkg == pkg && b.ctx == ctx && (b.state == .resident || b.state == .stopping)
/-- A block of the context awaits resumption. -/
def ctxSaved (s : State) (pkg ctx : Nat) : Bool := s.blocks.any fun b => b.pkg == pkg && b.ctx == ctx && b.state == .saved
/-- A refused command sets REJ and CAUSE alone (R340, R342). -/
def refuseCtx (s : State) (pkg : Nat) (cause : BitVec 8) : State :=
  onPkg s pkg fun p => { p with ctxRej := true, ctxCause := cause }
/-- The causes that every command shares (R340). -/
def ctxCause (s : State) (pkg ctx : Nat) (active : Bool) : BitVec 8 :=
  if (getPkg s pkg).ctxCmd.isSome || !(ctxtbl (getPkg s pkg)).getLsbD 0 then 1
  else if ctx % 4096 = 0 then 2
  else if (getCtx s pkg ctx).active != active then 3
  else 0
/-- The dies whose acknowledgement a context command counts: the compute dies that are counted, and the other I/O die while the
package has one (R24, R342). -/
def ctxDies (s : State) (pkg : Nat) : List Nat :=
  countedDies s pkg ++ (if (getPkg s pkg).iod1 then [] else [iodUnit pkg 1])
/-- A command starts: it goes to the dies, and BUSY is 1 while it counts (R340, R342). -/
def startCtx (s : State) (pkg ctx : Nat) (op : CtxOp) (x : Nat) : State :=
  onPkg s pkg fun p => { p with ctxCmd := some ⟨op, ctx, x, match op with
    | .retire => countedDies s pkg
    | _ => ctxDies s pkg⟩ }
/-- Activate: the descriptor is read, checked and sent to every die (R342). -/
def execCtxActivate (pkg ctx : Nat) (s : State) : Res :=
  let k := ctx % 4096
  let cause := ctxCause s pkg k false
  let x := descriptor s pkg k
  if !iodRuns s pkg then .next s
  else if cause != 0 then .next (refuseCtx s pkg cause)
  else if !descriptorOk s pkg k x then .next (refuseCtx s pkg 4)
  else .next (startCtx s pkg k .activate x)
/-- Update: the descriptor of an active context without a resident wave is read, checked and sent again (R342). -/
def execCtxUpdate (pkg ctx : Nat) (s : State) : Res :=
  let k := ctx % 4096
  let cause := ctxCause s pkg k true
  let x := descriptor s pkg k
  let c := getCtx s pkg k
  if !iodRuns s pkg then .next s
  else if cause != 0 then .next (refuseCtx s pkg cause)
  else if !descriptorOk s pkg k x then .next (refuseCtx s pkg 4)
  else if ctxResident s pkg k || (ctxSaved s pkg k && (ctxOf c x).trapdesc != c.trapdesc) then .next (refuseCtx s pkg 5)
  else .next (startCtx s pkg k .update x)
/-- Every TLB entry of a context at a compute die is dropped (R342). -/
def dropCtx (s : State) (cd ctx : Nat) : State :=
  { s with
    cds := updWhere (fun d => d.unit == cd) (fun d => { d with dtlb := d.dtlb.filter (·.ctx != ctx) }) s.cds
    cores := updWhere (fun c => c.id.cd == cd) (fun c => { c with tlb := c.tlb.filter (·.ctx != ctx) }) s.cores }
/-- Retire: every compute die drops the context's TLB entries (R342). -/
def execCtxRetire (pkg ctx : Nat) (s : State) : Res :=
  let k := ctx % 4096
  let cause := ctxCause s pkg k true
  if !iodRuns s pkg then .next s
  else if cause != 0 then .next (refuseCtx s pkg cause)
  else if ctxResident s pkg k || ctxSaved s pkg k then .next (refuseCtx s pkg 5)
  else if s.queues.any fun q => q.pkg == pkg && qEn q && qCtx q == k then .next (refuseCtx s pkg 6)
  else .next (startCtx s pkg k .retire 0)
/-- A die acknowledges the command that counts; for a retirement a compute die has dropped the context's TLB entries (R342). -/
def ctxAck (pkg die : Nat) (s : State) : Res :=
  match (getPkg s pkg).ctxCmd with
  | none => .next s
  | some c =>
    if !c.owed.contains die then .next s else
    let s := onPkg s pkg fun p => { p with ctxCmd := some { c with owed := c.owed.filter (· != die) } }
    .next (if c.op == .retire then dropCtx s die c.ctx else s)
/-- A confidential context that a command makes or keeps active where the lifecycle permits none any more: it is failed, as those that
were active when the lifecycle changed (R397, R399). -/
def noConf (s : State) (pkg : Nat) (c : Ctx) : Bool := c.cflags.getLsbD 4 && (getPkg s pkg).sec.lifecycle != .prod
/-- Nothing of a context's trace before its activation is left on a die: pages that wait to be written are dropped and counted, and the
next record has none before it (R75, R408, R409). -/
def freshTrace (ctx : Nat) (d : CDie) : CDie :=
  let old := fun x : TraceWrite => match x with
    | .page c _ => c == ctx
    | .ring _ _ => false
  { d with
    pend := d.pend.filter fun x => !old x
    trace := { d.trace with
      confLast := d.trace.confLast.filter (·.1 != ctx)
      drop := (d.pend.filter old).foldl (fun n _ => sat16 n) d.trace.drop } }
/-- What a command does to its context once every die has acknowledged it: a retirement frees the context's image slots (R342, R344), and
its keys go with it, as the numbers of its sealed pages start again with an activation (R409; log entry 70). -/
def applyCtx (s : State) (pkg : Nat) (c : CtxCmd) : State :=
  match c.op with
  | .activate =>
    let s := { s with cds := updWhere (fun d => pkgOf d.unit == pkg) (freshTrace c.ctx) s.cds }
    onCtx s pkg c.ctx fun x => { ctxOf x c.desc with
      active := true, failed := noConf s pkg (ctxOf x c.desc), sealed := [], openPage := [], erased := [] }
  | .update => onCtx s pkg c.ctx fun x => { ctxOf x c.desc with failed := x.failed || noConf s pkg (ctxOf x c.desc) }
  | .retire => onPkg (onCtx s pkg c.ctx fun x => { x with active := false, keys := none }) pkg fun p =>
      { p with images := p.images.filter (·.ctx != c.ctx) }
/-- Every die has acknowledged: the command has its effect, and DONE counts it (R340, R342). -/
def ctxDone (pkg : Nat) (s : State) : Res :=
  match (getPkg s pkg).ctxCmd with
  | none => .next s
  | some c =>
    if !c.owed.isEmpty || !iodRuns s pkg then .next s else
    .next (onPkg (applyCtx s pkg c) pkg fun p => { p with ctxCmd := none, ctxDone := p.ctxDone + 1 })

/-! ## The loader (R219 to R224, R343, R344) -/

/-- n bytes of the image at LDRSRC. -/
def imgBytes (s : State) (pkg off n : Nat) : List Byte :=
  let a := pkg * 2 ^ 44 + bits (getPkg s pkg).ldrsrc.toNat 40 6 * 64 + off
  (List.range n).map fun i => devByte s (a + i)
/-- n bytes of the image as a number. -/
def imgNat (s : State) (pkg off n : Nat) : Nat := leNat (imgBytes s pkg off n)
/-- Segment entry i of the image (R219, R221). -/
def segOf (s : State) (pkg i : Nat) : Seg :=
  let x := imgNat s pkg (64 + 32 * i) 32
  ⟨recField x 0 1, recField x 1 1, recField x 4 4, recField x 8 4, recField x 12 4, recField x 16 4,
    recField x 2 2 + recField x 20 12⟩
/-- The header's NSEG (R220). -/
def imgNseg (s : State) (pkg : Nat) : Nat := imgNat s pkg 6 2
/-- The header is accepted (R220); in SCRAP no image is (R397). -/
def headerOk (s : State) (pkg : Nat) : Bool :=
  let p := getPkg s pkg
  let n := imgNseg s pkg
  p.sec.lifecycle != .scrap && 64 ≤ p.ldrlen.toNat && imgNat s pkg 0 4 == 0x4B4C5256 && imgNat s pkg 4 2 == 1 &&
  2 ≤ n && n ≤ 4 && imgNat s pkg 16 16 == 0 && 64 + 32 * n ≤ p.ldrlen.toNat
/-- The entries of the image. -/
def imgSegs (s : State) (pkg : Nat) : List Seg := (List.range (imgNseg s pkg)).map (segOf s pkg)
/-- The object that a segment fills (R343, R344); the kernel table has none. -/
def segObject (p : Pkg) (ty : Nat) : Option (BitVec 24) :=
  if ty = 1 then some (p.ldrobja.extractLsb' 24 24) else if ty = 2 then some (p.ldrobja.extractLsb' 0 24)
  else if ty = 3 then some (p.ldrobjb.extractLsb' 0 24) else none
/-- Permissions that a segment's object receives: X, W, Rd (R221). -/
def segPerm (ty : Nat) : Nat := if ty = 1 then 4 else if ty = 2 then 1 else 3
/-- The places of a segment's object, if each of its pages translates now: offset, bytes, place (R344). -/
def segPlaces (s : State) (pkg ctx : Nat) (id : BitVec 24) (memsize : Nat) : RangeOut :=
  rangeOut (nowView s pkg ctx) pkg (confidential s pkg ctx) 0 false (objAddr id.toNat 0) memsize
/-- What the check of a named object comes to. -/
inductive ObjOut | bad | wait | good
  deriving DecidableEq, Repr
/-- The check of R344 on an object that a segment fills. -/
def objectOut (s : State) (pkg ctx : Nat) (id : BitVec 24) (memsize : Nat) : ObjOut :=
  match validEntry s (getCtx s pkg ctx) id.toNat with
  | none => .bad
  | some e =>
    if bits e 45 44 != 0 || bits e 47 46 != 0 || !bitOf e 43 || !bitOf e 41 || bits e 143 128 != 0 || bits e 39 0 != memsize then .bad
    else match segPlaces s pkg ctx id memsize with
      | .fault _ _ => .bad
      | .wait _ | .walks _ => .wait
      | .ok _ _ => .good
/-- The named objects match the image's segments (R344). An image without a code segment fails here, with RESULT 4 (DESIGN CHOICE, log
entry 113). -/
def objectsOut (s : State) (pkg ctx : Nat) (segs : List Seg) : ObjOut :=
  let p := getPkg s pkg
  let absent := ([2, 3] : List Nat).any fun ty =>
    !(segs.any (·.ty == ty)) && (match segObject p ty with
      | some id => id != 0
      | none => false)
  let outs := segs.filterMap fun g => (segObject p g.ty).map fun id => objectOut s pkg ctx id g.memsize
  if absent || !segs.any (·.ty == 1) || outs.contains .bad then .bad
  else if outs.contains .wait then .wait else .good
/-- The checks on a segment's entry (R219, R221). A second segment of one type fails here, with RESULT 2 (DESIGN CHOICE, log entry
113). -/
def segEntryOk (p : Pkg) (segs : List Seg) (i : Nat) (g : Seg) : Bool :=
  1 ≤ g.ty && g.ty ≤ 4 && !(segs.take i).any (·.ty == g.ty) && 2 ≤ g.align && g.align ≤ 16 && g.reserved == 0 &&
  g.off % 64 == 0 && g.sigoff % 64 == 0 && g.size ≤ g.memsize && g.off + g.size ≤ p.ldrlen.toNat && g.sigoff + 2820 ≤ p.ldrlen.toNat
/-- The signed message of a segment (R222). -/
def segMessage (s : State) (pkg i : Nat) (g : Seg) : List Byte :=
  let e := imgBytes s pkg (64 + 32 * i) 32
  imgBytes s pkg 0 32 ++ bytesOf 2 i ++ (e.take 16 ++ bytesOf 4 0 ++ e.drop 20) ++ imgBytes s pkg g.off g.size
/-- The key is one that the firmware accepts for the context, and the signature verifies under it (R222, R394). -/
def segSigned (s : State) (pkg ctx i : Nat) (g : Seg) : Bool :=
  let key := imgBytes s pkg 32 32
  Config.keyAccepted ctx key && Config.xmssVerify key (segMessage s pkg i g) (imgBytes s pkg g.sigoff 2820)
/-- A measurement extended with a digest (R395). -/
def extend (m d : List Byte) : List Byte := Config.shake256 (m ++ d) 32
/-- The 5 bytes from bit 40 of an entry hold its permissions: Rd, W, X and SH replaced (R34, R344). -/
def setPerms (s : State) (pkg ctx : Nat) (id : BitVec 24) (f : Nat → Nat) : State :=
  let a := entryAddr (getCtx s pkg ctx) id.toNat
  let e := devNat s a 32
  homeWrite s a (bytesOf 32 (setBits e 43 40 (f (bits e 43 40))))
/-- The contents of a segment's object: its bytes in the image, then zero bytes (R221, R344). -/
def segBytes (s : State) (pkg : Nat) (g : Seg) : List Byte :=
  imgBytes s pkg g.off g.size ++ List.replicate (g.memsize - g.size) 0
/-- Bytes of an object written at its places, each place's own part (R344). -/
def fillPlaces (s : State) (bs : List Byte) (ps : List (Nat × Nat × Target)) : State :=
  ps.foldl (fun s (o, k, t) => homeWrite s t.addr ((bs.drop o).take k)) s
/-- An accepted segment extends the context's measurement (R224, R395). -/
def measureSegment (s : State) (pkg ctx i : Nat) (g : Seg) : State :=
  onCtx s pkg ctx fun c => { c with cmr := extend c.cmr (Config.shake256 (segMessage s pkg i g) 32) }
/-- The sectors that an object's bytes and its entry lie in. -/
def objectSectors (s : State) (pkg ctx : Nat) (id : BitVec 24) (ps : List (Nat × Nat × Target)) : List Nat :=
  dedup (sectorOf (entryAddr (getCtx s pkg ctx) id.toNat) :: ps.flatMap fun (_, k, t) => sectorsOf t.addr k)
/-- Kernel table entry i (R223). -/
def kernelOf (s : State) (pkg : Nat) (g : Seg) (i : Nat) : Nat := imgNat s pkg (g.off + 96 * i) 96
/-- A kernel of a table entry. -/
def kernelEntry (x : Nat) : Kernel :=
  { entry := BitVec.ofNat 32 (recField x 0 4), codeSize := BitVec.ofNat 32 (recField x 4 4), regs := recField x 8 2
    scratch := recField x 12 4
    handlers := (List.range (recField x 10 2)).map fun j => BitVec.ofNat 32 (recField x (16 + 4 * j) 4) }
/-- A kernel table entry is accepted against the code segment (R155, R223, R224). -/
def kernelOk (size x : Nat) : Bool :=
  let k := kernelEntry x
  let lo := k.entry.toNat
  let hi := lo + k.codeSize.toNat
  lo % 4 == 0 && hi ≤ size && recField x 10 2 ≤ 16 && k.handlers.all (fun h => lo ≤ h.toNat && h.toNat < hi) &&
  8 ≤ k.regs && k.regs ≤ 192 && k.regs % 8 == 0 && k.scratch ≤ 262144 && k.scratch % 256 == 0
/-- The kernels of the image, if its table is accepted (R224). An image without a kernel segment, and a table whose SIZE is no multiple
of 96, fail here, with RESULT 3 (DESIGN CHOICE, log entry 113). -/
def kernelTable (s : State) (pkg : Nat) (segs : List Seg) : Option (List Kernel) :=
  match segs.find? (·.ty == 1), segs.find? (·.ty == 4) with
  | some code, some tbl =>
    let xs := (List.range (tbl.size / 96)).map (kernelOf s pkg tbl)
    if tbl.size % 96 = 0 ∧ xs.all (kernelOk code.size) then some (xs.map kernelEntry) else none
  | _, _ => none
/-- A load or unload ends: RESULT, SEG, and DONE; BUSY is 0 (R343). -/
def ldrEnd (s : State) (pkg : Nat) (result : BitVec 3) (seg : Nat) : State :=
  onPkg s pkg fun p => { p with ldrResult := result, ldrSeg := BitVec.ofNat 4 seg, ldrDone := p.ldrDone + 1, load := none }
/-- A load or unload that is refused (R343). -/
def ldrRefuse (s : State) (pkg : Nat) : State := onPkg s pkg fun p => { p with ldrResult := 6 }
/-- The lowest free image slot (R344). -/
def freeImage (p : Pkg) : Option Nat := (List.range 256).find? fun k => !p.images.any (·.slot == k)
/-- The load of a package goes on to a phase. -/
def setLoad (s : State) (pkg : Nat) (ph : LoadPhase) : State :=
  onPkg s pkg fun p => { p with load := p.load.map fun l => { l with phase := ph } }
/-- An invalidation of the whole object is started, and the load goes on to the phase that waits for it (R47, R344). -/
def loadInval (s : State) (pkg ctx : Nat) (id : BitVec 24) (ph : Nat → LoadPhase) : State :=
  let r := startInval s pkg ctx id 0 0 none
  setLoad r.2 pkg (ph r.1)
/-- An accepted segment whose object's places are known: it fails, waits for a page in migration, or is measured and filled, with its
permissions, once the home has the tokens of every sector; then the invalidation (R45, R224, R344). -/
def placeSegment (s : State) (pkg ctx i : Nat) (g : Seg) (id : BitVec 24) : RangeOut → State
  | .fault _ _ => ldrEnd s pkg 4 0
  | .wait _ | .walks _ => s
  | .ok ps _ =>
    let xs := objectSectors s pkg ctx id ps
    let r := homeGather s xs
    if !r.1 then r.2 else
    let u := fillPlaces (measureSegment r.2 pkg ctx i g) (segBytes r.2 pkg g) ps
    let u := xs.foldl homeDone (setPerms u pkg ctx id fun _ => segPerm g.ty)
    loadInval u pkg ctx id (.inval i)
/-- An accepted segment: its measurement, and what its object receives (R224, R344). -/
def acceptSegment (s : State) (pkg ctx i : Nat) (g : Seg) : State :=
  match segObject (getPkg s pkg) g.ty with
  | none => setLoad (measureSegment s pkg ctx i g) pkg (.seg (i + 1))
  | some id => placeSegment s pkg ctx i g id (segPlaces s pkg ctx id g.memsize)
/-- X revoked, one object of the image after the other, each with its invalidation; then the load ends with the index of the
rejected segment (R224, R343). -/
def revokeStep (s : State) (pkg ctx i : Nat) (ids : List (BitVec 24)) : State :=
  match ids with
  | [] => ldrEnd s pkg 2 i
  | id :: ids =>
    if (validEntry s (getCtx s pkg ctx) id.toNat).isNone then setLoad s pkg (.revoke i ids none) else
    let x := sectorOf (entryAddr (getCtx s pkg ctx) id.toNat)
    let r := homeGather s [x]
    if !r.1 then r.2 else
    loadInval (homeDone (setPerms r.2 pkg ctx id fun y => bits y 1 0 + 8 * bits y 3 3) x) pkg ctx id fun k => .revoke i ids (some k)
/-- The objects that the segments of an image fill (R224). -/
def imageObjects (s : State) (pkg : Nat) (segs : List Seg) : List (BitVec 24) :=
  dedup (segs.filterMap fun g => segObject (getPkg s pkg) g.ty)
/-- Segment i is checked; the last one is followed by the kernel table, and then the image takes its slot (R224, R344). -/
def loadSegment (s : State) (pkg : Nat) (l : Load) (i : Nat) : State :=
  match l.segs[i]? with
  | some g =>
    if segEntryOk (getPkg s pkg) l.segs i g && segSigned s pkg l.ctx i g then acceptSegment s pkg l.ctx i g
    else setLoad s pkg (.revoke i (imageObjects s pkg l.segs) none)
  | none => match kernelTable s pkg l.segs with
    | none => ldrEnd s pkg 3 0
    | some ks =>
      let im : Image := { pkg := pkg, slot := l.slot, ctx := l.ctx, code := (getPkg s pkg).ldrobja.extractLsb' 24 24, kernels := ks }
      ldrEnd (onPkg s pkg fun p => { p with images := p.images ++ [im], ldrHandle := BitVec.ofNat 32 (l.ctx * 65536 + l.slot) }) pkg 0 0
/-- An invalidation is over. -/
def invalOver (s : State) (k : Nat) : Bool := !s.invals.any fun i => i.k == k && !i.acks.isEmpty
/-- In SCRAP a load in progress is rejected as every image is: with the header's RESULT before the first segment, else as at a rejected
segment (R397; log entry 51). -/
def scrapLoad (s : State) (pkg : Nat) (l : Load) : Option State :=
  if (getPkg s pkg).sec.lifecycle != .scrap then none else
  match l.phase with
  | .objects => some (ldrEnd s pkg 1 0)
  | .seg i | .inval i _ => some (setLoad s pkg (.revoke i (imageObjects s pkg l.segs) none))
  | .revoke _ _ _ => none
/-- The load of a package goes on from where it stands (R224, R344); one whose context is retired meanwhile ends as for an inactive
context (log entry 51). -/
def loaderStep (pkg : Nat) (s : State) : Res :=
  match (getPkg s pkg).load with
  | none => .next s
  | some l =>
    if !iodRuns s pkg then .next s else
    if !(getCtx s pkg l.ctx).active then .next (ldrEnd s pkg 5 0) else
    match scrapLoad s pkg l with
    | some t => .next t
    | none =>
    match l.phase with
    | .objects => match objectsOut s pkg l.ctx l.segs with
      | .bad => .next (ldrEnd s pkg 4 0)
      | .wait => .next s
      | .good => .next (setLoad s pkg (.seg 0))
    | .seg i => .next (loadSegment s pkg l i)
    | .inval i k => .next (if invalOver s k then setLoad s pkg (.seg (i + 1)) else s)
    | .revoke i ids none => .next (revokeStep s pkg l.ctx i ids)
    | .revoke i ids (some k) => .next (if invalOver s k then setLoad s pkg (.revoke i ids none) else s)
/-- A load starts: BUSY is 1 until it ends (R224, R343, R344). -/
def execLdrLoad (pkg : Nat) (s : State) : Res :=
  let p := getPkg s pkg
  let ctx := bits p.ldrobja.toNat 63 48
  if !iodRuns s pkg then .next s
  else if p.load.isSome then .next (ldrRefuse s pkg)
  else match freeImage p with
  | none => .next (ldrEnd s pkg 5 0)
  | some slot =>
    if !(getCtx s pkg ctx).active then .next (ldrEnd s pkg 5 0)
    else if !headerOk s pkg then .next (ldrEnd s pkg 1 0)
    else .next (onPkg s pkg fun p => { p with load := some ⟨slot, ctx, imgSegs s pkg, .objects⟩ })
/-- An unload frees its slot, unless a load is in progress or a launch that names the slot has a block placed, resident or awaiting
resumption (R343, R344). -/
def execLdrUnload (pkg slot : Nat) (s : State) : Res :=
  let used := s.launches.any fun l => l.pkg == pkg && l.image == slot &&
    s.blocks.any fun b => b.id.launch == l.tag && b.state != .retired
  if !iodRuns s pkg then .next s
  else if (getPkg s pkg).load.isSome || used then .next (ldrRefuse s pkg)
  else .next (ldrEnd (onPkg s pkg fun p => { p with images := p.images.filter (·.slot != slot) }) pkg 0 0)

end Sys2Proof.Machine
end

