-- ==== Sys2Proof/Machine/HostLinks.lean ====
section
/-! DEFINITION. What memory-side dies do for the driver and the host: hotness records and moves (R73 to R78), bias and
flips (R380 to R384), CXL requests (R378, R381), and the host links (R377). -/

namespace Sys2Proof.Machine

/-! ## Hotness (R74 to R76) -/

/-- HOTCTL written: setting EN clears the counters, the candidates and DROP, and numbers intervals from 0 (R75, R76). -/
def writeHotctl (d : MDie) (x : Word) : MDie :=
  let x := x &&& 0x3FFFFFF3
  if x.getLsbD 0 && !d.hotctl.getLsbD 0 then { d with hotctl := x, sketch := [], cands := [], hotDrop := 0, hotSeq := 0 }
  else { d with hotctl := x }
/-- HOTCTL written with EN = 1 (R75). -/
def execHotctlEnable (md : Nat) (value : BitVec 32) (s : State) : Res :=
  if !(mdUp s md && iodRuns s (pkgOf md)) then .next s else .next (onMd s md fun d => writeHotctl d (value ||| 1))
/-- A candidate inserted by descending estimate, ties in ascending frame order (R76). -/
def insertCand (c : HotCand) : List HotCand → List HotCand
  | [] => [c]
  | d :: ds => if d.est < c.est || (d.est == c.est && c.frame < d.frame) then c :: d :: ds else d :: insertCand c ds
/-- The entries of a record: candidates at THRESH or above, sorted (R74, R76). -/
def hotEntries (d : MDie) : List HotCand :=
  (d.cands.filter fun c => bits d.hotctl.toNat 15 4 ≤ c.est).foldr insertCand []
/-- The bytes of a record (R76). -/
def hotRecord (d : MDie) (time : BitVec 64) : List Byte :=
  let es := hotEntries d
  bytesOf 8 time.toNat ++ bytesOf 4 d.hotSeq.toNat ++ bytesOf 2 es.length ++ bytesOf 1 (d.unit % 16 - 8) ++ bytesOf 49 0 ++
  es.flatMap fun c => bytesOf 8 (c.dies.toNat * 2 ^ 56 + c.est * 2 ^ 40 + c.frame % 2 ^ 25)
/-- The candidates go, and the counters are cleared or halved; the next interval begins (R74, R75). -/
def hotReset (d : MDie) : MDie :=
  { d with
    cands := [], hotSeq := d.hotSeq + 1
    sketch := if d.hotctl.getLsbD 1 then (d.sketch.map fun c => (c.1, c.2.1, c.2.2 / 2)).filter fun c => c.2.2 != 0 else [] }
/-- The record of an interval written at slot h of the ring of n records, whose head moves on (R75, R76). -/
def hotAppend (md n h : Nat) (d : MDie) (s : State) : State :=
  let t := sampleTime s md
  let bs := hotRecord d t.1
  let a := md / 16 * 2 ^ 44 + bits d.hotbuf.toNat 40 12 * 4096 + 1024 * h
  let xs := sectorsOf a bs.length
  let g := homeGather t.2 xs
  if g.1 then
    onMd (xs.foldl homeDone (homeWrite g.2 a bs)) md fun d => hotReset { d with hotHead := BitVec.ofNat 8 ((h + 1) % n) }
  else g.2
/-- An interval ends: the record goes to the ring, or is dropped and counted where the ring is full (R74 to R76). -/
def execHotnessIntervalEnd (md : Nat) (s : State) : Res :=
  let d := getMd s md
  if !mdUp s md || !d.hotctl.getLsbD 0 || bits d.hotctl.toNat 29 16 = 0 then .next s else
  let n := bits d.hotbuf.toNat 11 4
  let h := d.hotHead.toNat % n
  if n = 0 then .next (onMd s md hotReset)
  else if (h + 1) % n = d.hotTail.toNat % n then
    .next (onMd s md fun d => hotReset { d with hotDrop := if d.hotDrop = 255 then 255 else d.hotDrop + 1 })
  else .next (hotAppend md n h d s)
/-- COHCTL.PCLR, written through an I/O die that runs, empties the destination-set predictor (R108, R391, R394). -/
def execCohctlPclr (cd : Nat) (s : State) : Res :=
  .next (if iodRuns s (pkgOf cd) then onCd s cd fun d => { d with pred := [] } else s)

/-! ## Moves (R77, R78) -/

/-- A frame of installed memory is homed at a memory-side die (R37, R55). -/
def homesFrame (md f : Nat) : Bool := f < 0x1800000 && f % 8 == md % 16 - 8
/-- A write of MIGCMD starts a move, or is refused (R77). -/
def execMigcmdMove (md : Nat) (value : BitVec 64) (s : State) : Res :=
  let dst := bits value.toNat 56 32
  let src := bits value.toNat 24 0
  let d := getMd s md
  if !(mdUp s md && iodRuns s (pkgOf md)) then .next s
  else if d.move.isSome || !homesFrame md src || dst = src || dst ≥ 0x1800000 then
    .next (onMd s md fun d => { d with migRej := true })
  else .next (onMd s md fun d => { d with move := some ⟨dst, src, 0⟩ })
/-- The next sector of a move: recalled, written to the destination under a new serial with all tokens there, and kept at
the old home under a new serial (R78). -/
def execMigrationSectorMoved (md : Nat) (s : State) : Res :=
  match (getMd s md).move with
  | none => .next s
  | some m =>
    if !mdUp s md then .next s else
    let base := md / 16 * 2 ^ 38
    let x := base + m.src * 1024 + m.next
    let y := base + m.dst * 1024 + m.next
    let (ok, s) := homeGather s [x]
    if !ok then .next s
    else
      let s := setHomeData s y (homeData s x) (getHome s x).poison
      let s := onHome s y fun h => { h with tokens := 64, own := true, serial := h.serial + 1 }
      let s := homeDone (onHome s x fun h => { h with serial := h.serial + 1 }) x
      .next (onMd s md fun d =>
        if m.next = 1023 then { d with move := none, migDone := d.migDone + 1 }
        else { d with move := some { m with next := m.next + 1 } })

/-! ## Bias flips (R382, R383) -/

/-- A write of BIASCMD: refused, or a flip begins (R382, R383). -/
def biasCmd (s : State) (md : Nat) (value : BitVec 64) (toHost : Bool) : State :=
  let page := bits value.toNat 28 0
  let key := md / 16 * 2 ^ 32 + page
  let d := getMd s md
  if d.flip.isSome || !homesFrame md (page / 16) || d.hostBias.contains key == toHost then
    onMd s md fun d => { d with biasRej := true }
  else
    let f : Flip := { page := key, toHost := toHost, snooping := false, owed := 0 }
    let s := onMd s md fun d => { d with flip := some f }
    if toHost then flipProgress s md else flipSnoop s md f
/-- A flip to host bias begins (R383). -/
def execBiasFlipToHost (md : Nat) (value : BitVec 64) (s : State) : Res :=
  .next (if mdUp s md && iodRuns s (pkgOf md) then biasCmd s md value true else s)
/-- A flip to device bias begins (R383). -/
def execBiasFlipToDevice (md : Nat) (value : BitVec 64) (s : State) : Res :=
  .next (if mdUp s md && iodRuns s (pkgOf md) then biasCmd s md value false else s)
/-- The home gathers a sector for the host, whose own copy does not stand in the way (R381). -/
def hostGather (s : State) (x : Nat) : Bool × State :=
  let h := getHome s x
  if h.tokens == 64 && h.own && !h.frozen then (true, s) else (false, homeRequest s x)
/-- A host response is counted: the last one of a sector gives back what the host held, and tokens flow again; the last one of a
flip's snoops ends it (R381, R383). -/
def countBirsp (s : State) (x : Nat) (flip : Bool) : State :=
  let s := onHome s x fun h => { h with biOwed := h.biOwed - 1, hostHeld := h.hostHeld && h.biOwed > 1 }
  let s := homeToWinner s x
  let md := homeUnit x
  match (getMd s md).flip with
  | some f =>
    if flip && f.page == x / 64 && f.snooping then
      if f.owed ≤ 1 then endFlip s md f else onMd s md fun d => { d with flip := some { f with owed := f.owed - 1 } }
    else s
  | none => s
/-- A home holds a write of a line from a host link (R381). -/
def writeHeld (s : State) (x link : Nat) : Bool :=
  (getPkg s (pkgOf (homeUnit x))).hostReqs.any fun q => q.sector == x && q.link == link && (match q.op with
    | .write _ => true
    | .read _ _ => false)
/-- A host link answers a back-invalidate snoop, with the line's dirty data if it held it: the data is written at the home
under its 64 tokens (R383). A write of the line that crosses the snoop is performed first: CXL's BIConflict handshake makes the
answer wait for it (R376, R384). -/
def execBirsp (n : Nat) (dirty : Option (BitVec 512)) (s : State) : Res :=
  match s.net[n]? with
  | some m => match m.body with
    | .biSnp l x _ flip =>
      if writeHeld s x l then .next s else
      match dirty with
      | none => .next (countBirsp { s with net := dropAt n s.net } x flip)
      | some d =>
        let g := hostGather { s with net := dropAt n s.net } x
        if !g.1 then .next (hostGather s x).2
        else .next (countBirsp (hostDone (setHomeData g.2 x d false) x) x flip)
    | _ => .next s
  | none => .next s

/-! ## CXL.mem (R376, R378, R381, R400) -/

/-- The device physical address of a host address, through the link's decoder, whose window may reach beyond installed memory
(R378; log entry 18). -/
def hdmOffset (p : Pkg) (link addr : Nat) : Option Nat :=
  match if link = 0 then p.hdm0 else p.hdm1 with
  | some b => if b.1 ≤ addr && addr < b.1 + b.2 then some (addr - b.1) else none
  | none => none
/-- A frame, numbered through the pod, belongs to an object of a confidential context: of its DEV and POD objects, pages in
migration wait among them (R400). -/
def confFrame (s : State) (frame : Nat) : Bool :=
  (s.ctxs.filter fun c => c.active && c.cflags.getLsbD 4).any fun c =>
    (List.range c.otlen.toNat).any fun id => (pageFrames s c.pkg c.id id 0 0).contains frame
/-- A reply toward the host. -/
def reply (s : State) (r : HostReply) : State := { s with hostOut := s.hostOut ++ [r] }
/-- The link of a package is up (R377, R391, R394). -/
def linkUp (s : State) (pkg link : Nat) : Bool :=
  iodRuns s pkg && (if link = 0 then (getPkg s pkg).linkUp0 else (getPkg s pkg).linkUp1)
/-- The page of a sector is served under host bias: it has it, or moves toward it (R381). -/
def hostRules (s : State) (x : Nat) : Bool :=
  match (getMd s (homeUnit x)).flip with
  | some f => if f.page == x / 64 then f.toHost else hostBiased s x
  | none => hostBiased s x
/-- MetaValue of a read's answer where the host keeps what it asks for (R381). -/
def copyMeta : CxlReq → Option MetaValue
  | .shared => some .s | .exclusive => some .a | _ => none
/-- Width and new value of a host AtomicOp on an old value (R376). -/
def hostAtomic (old : BitVec 64) : CxlReq → Option (Nat × BitVec 64)
  | .fetchAdd wide x => some (if wide then 8 else 4, old + x)
  | .swap wide x => some (if wide then 8 else 4, x)
  | .cas wide x new =>
    let same := if wide then old == x else old.extractLsb' 0 32 == x.extractLsb' 0 32
    some (if wide then 8 else 4, if same then new else old)
  | _ => none
/-- A host AtomicOp is performed at the home under all 64 tokens, once the host keeps no copy of the line (R376; log entry 93). -/
def performAtomic (s : State) (q : HostReq) (req : CxlReq) (off n : Nat) : Bool × State :=
  let x := q.sector
  let h := getHome s x
  if h.hostHeld || h.biOwed != 0 then (false, snoopHeld s x) else
  let g := hostGather s x
  if !g.1 then g else
  let old := (homeData g.2 x).extractLsb' (8 * off) 64
  let new := match hostAtomic old req with
    | some r => r.2
    | none => old
  let s := writeHome (countHot g.2 x none) x off (bytesOf n new.toNat)
  (true, reply (hostDone s x) (.atomic q.addr (if n = 8 then old else old &&& 0xFFFFFFFF)))
/-- A host read or AtomicOp at the home: held in a flip until the owner token is home, else the data that the home obtains as a read;
under host bias a request for a copy makes the home keep all 64 tokens for the host (R376, R381, R384). -/
def performRead (s : State) (q : HostReq) (req : CxlReq) (off : Nat) : Bool × State :=
  let x := q.sector
  let h := getHome s x
  match copyMeta req, hostAtomic 0 req with
  | _, some (n, _) => performAtomic s q req off n
  | some mv, none =>
    if hostRules s x && !h.hostHeld then
      if h.biOwed != 0 then (false, s) else
      let g := hostGather s x
      if !g.1 then g else
      let s := countHot (hostDone g.2 x) x none
      (true, reply (onHome s x fun h => { h with hostHeld := true }) (.data q.addr (homeData s x) (getHome s x).poison mv))
    else plainRead s q (if hostRules s x then mv else .i)
  | none, none => plainRead s q .i
where
  /-- A read answered with the data as it stands. -/
  plainRead (s : State) (q : HostReq) (mv : MetaValue) : Bool × State :=
    let r := homeRead s q.sector
    match r.1 with
    | none => (false, r.2)
    | some v => (true, reply (countHot r.2 q.sector none) (.data q.addr v.1 v.2 mv))
/-- A host request is performed at its home, or waits there, with what it needs asked for (R381). A write takes all 64 tokens. -/
def performHost (s : State) (q : HostReq) : Bool × State :=
  let x := q.sector
  if !mdUp s (homeUnit x) || (inFlip s x && !(getHome s x).own) then (false, s) else
  match q.op with
  | .read req off => performRead s q req off
  | .write d =>
    let g := hostGather s x
    if !g.1 then g
    else (true, reply (hostDone (setHomeData (countHot g.2 x none) x d false) x) (.written q.addr))
/-- A host request comes to its home, behind those held there for the same line (R381). -/
def hostRequest (s : State) (pkg : Nat) (q : HostReq) : State :=
  let hold := fun s : State => onPkg s pkg fun p => { p with hostReqs := p.hostReqs ++ [q] }
  if (getPkg s pkg).hostReqs.any (·.sector == q.sector) then hold s
  else
    let r := performHost s q
    if r.1 then r.2 else hold r.2
/-- Held host request n of a package is tried again, unless an older one of its line is held (R381, R384). -/
def hostServe (pkg n : Nat) (s : State) : Res :=
  let qs := (getPkg s pkg).hostReqs
  match qs[n]? with
  | none => .next s
  | some q =>
    if (qs.take n).any (·.sector == q.sector) then .next s else
    let r := performHost s q
    .next (if r.1 then onPkg r.2 pkg fun p => { p with hostReqs := dropAt n p.hostReqs } else r.2)
/-- A host read, or AtomicOp, of a line (R376, R378, R381, R384, R400): all ones, as poison beyond installed memory, and without it for a
frame of a confidential context; else it goes to its home. -/
def execCxlMemrd (pkg link addr : Nat) (req : CxlReq) (s : State) : Res :=
  if !linkUp s pkg link then .next s else
  match hdmOffset (getPkg s pkg) link addr with
  | none => .next s
  | some o =>
    let ones := fun (bad : Bool) => if (hostAtomic 0 req).isSome then HostReply.atomic addr (BitVec.allOnes 64)
      else .data addr ones512 bad .i
    if o ≥ 0x18000000000 then .next (reply s (ones true))
    else if confFrame s (pkg * 2 ^ 28 + o / 65536) then .next (reply s (ones false))
    else .next (hostRequest s pkg ⟨link, addr, pkg * 2 ^ 38 + o / 64, .read req (o % 64)⟩)
/-- A host write of a line, performed at the home under all 64 tokens (R378, R381, R400). -/
def execCxlMemwr (pkg link addr : Nat) (data : BitVec 512) (s : State) : Res :=
  if !linkUp s pkg link then .next s else
  match hdmOffset (getPkg s pkg) link addr with
  | none => .next s
  | some o =>
    if o ≥ 0x18000000000 || confFrame s (pkg * 2 ^ 28 + o / 65536) then .next (reply s (.written addr))
    else .next (hostRequest s pkg ⟨link, addr, pkg * 2 ^ 38 + o / 64, .write data⟩)

/-! ## Accesses that are lost (R71, R285, R377, R389) -/

/-- A place that no package has: what an access is turned to once its home is lost, whatever comes back later. -/
def lostPlace : Target := ⟨.dev, 4096 * 2 ^ 44, .pod, .none⟩
/-- An access toward a lost place is turned to `lostPlace`. -/
def loseAcc (p : Target → Bool) (x : LaneAcc) : LaneAcc := if p x.tgt then { x with tgt := lostPlace } else x
/-- The outstanding accesses of a wave that go to a lost place: they complete with the lost value, and stores are
discarded. -/
def loseWave (p : Target → Bool) (w : Wave) : Wave :=
  { w with
    ops := w.ops.map fun o => { o with acc := o.acc.map (loseAcc p) }
    hold := match w.hold with
      | .sld d x => .sld d (loseAcc p x)
      | h => h }
/-- The buffer entries and waiting bytes of a core that go to a lost place are discarded; bytes that wait merge into what is freed
(R69, R71). -/
def loseBuffer (p : Target → Bool) (c : Core) : Core :=
  wcRefill { c with
    wc := c.wc.filter fun e => !p ⟨e.space, e.line * 128, .dev, .none⟩
    wcWait := c.wcWait.filter fun b => !p ⟨b.space, b.line * 128, .dev, .none⟩ }
/-- The context's host requests go over a link (R377). -/
def ctxLink (s : State) (pkg ctx : Nat) : Nat := b2n ((getCtx s pkg ctx).cflags.getLsbD 3)
/-- Message k of the network is a snoop of a host link of a package: its sector, and whether it is a flip's. -/
def linkSnoop (pkg link : Nat) (m : Msg) : Option (Nat × Bool) :=
  match m.body with
  | .biSnp l x _ flip => if l = link && unitPkg m.dst == pkg then some (x, flip) else none
  | _ => none
/-- The snoops of a host link that goes down count as answered: what lay behind it holds nothing any more (log entry 93). -/
def dropSnoops (s : State) (pkg link : Nat) : State :=
  let xs := s.net.filterMap (linkSnoop pkg link)
  let s := { s with net := s.net.filter fun m => (linkSnoop pkg link m).isNone }
  xs.foldl (fun s x => countBirsp s x.1 x.2) s
/-- A host link goes down: its outstanding HOST loads complete with all ones, the engines' reads too, its writes are discarded, its
requests and snoops are over (R71, R377). -/
def execHostLinkDown (pkg link : Nat) (s : State) : Res :=
  let s := dropSnoops s pkg link
  let host := fun t : Target => t.space == .host pkg
  let s := onPkg s pkg fun p =>
    let p := { p with hostReqs := p.hostReqs.filter (·.link != link) }
    if link = 0 then { p with linkUp0 := false } else { p with linkUp1 := false }
  let s := mapWaves s fun w => if pkgOf w.id.cd == pkg && ctxLink s pkg w.ctx == link then loseWave host w else w
  let s := { s with cores := updWhere (fun c => pkgOf c.id.cd == pkg && ctxLink s pkg c.lastCtx == link) (loseBuffer host) s.cores }
  .next { s with cores := updWhere (fun c => pkgOf c.id.cd == pkg) (fun c =>
    { c with reqs := updWhere (fun q => ctxLink s pkg q.ctx == link) loseReads c.reqs }) s.cores }
/-- A host link comes up and carries HOST requests again (R377). -/
def execHostLinkUp (pkg link : Nat) (s : State) : Res :=
  .next (onPkg s pkg fun p => if link = 0 then { p with linkUp0 := true } else { p with linkUp1 := true })

end Sys2Proof.Machine
end

