-- ==== Sys2Proof/Machine/Fabric.lean ====
section
/-! DEFINITION. Dies that stop answering and come back (R49, R98, R99, R105, R373), the pod fabric: multicast, removal,
links (R385 to R390). -/

namespace Sys2Proof.Machine

/-! ## Unreachable dies (R98, R105, R373) -/

/-- A home that waits for data from a die that is lost decides again without it (R94, R98). -/
def settleAgain (s : State) (homes : List Nat) (die : Nat) : State :=
  homes.foldl (fun s x => match (getHome s x).trump with
    | some t =>
      if t.phase = .fetch die then
        settleHome s x { t with reports := t.reports.filter (·.die != die) }
      else s
    | none => s) s
/-- A die counts as having acknowledged the context command of its package (R342). -/
def ctxUncount (s : State) (die : Nat) : State :=
  onPkg s (pkgOf die) fun p => { p with ctxCmd := p.ctxCmd.map fun c => { c with owed := c.owed.filter (· != die) } }
/-- A die counts as having acknowledged everything open: coherence counts, context commands, invalidations, write-backs (R49, R101,
R342, R392). -/
def leaveCounts (s : State) (die : Nat) : State :=
  let s := settleAgain (dropFromCounts s die) (s.homes.map (·.sector)) die
  let s := ctxUncount s die
  let s := (s.invals.map (·.k)).foldl (fun s k => invalAcked s k die) s
  (s.wbs.map (·.k)).foldl (fun s k => writebackAcked s k die) s
/-- The resident blocks of a die. -/
def dieBlocks (s : State) (cd : Nat) : List Block :=
  s.blocks.filter fun b => b.core.cd == cd && (b.state == .resident || b.state == .stopping)
/-- Records of the waves of a die that are killed with it: they hold its physical number (R359, R373). -/
def deathRecords (s : State) (cd : Nat) (t : BitVec 64) : State :=
  ((allWaves s).filter fun w => w.id.cd == cd && w.hold != .ended).foldl (fun s w =>
    let (r, s) := waveRec s w .unreach 0 w.a.pc 0 0 false true w.a.trap
    { s with faults := s.faults ++ [{ r with time := t, vdie := cd % 16 }] }) s
/-- Everything that a die's cores hold is gone: waves, blocks, groups, group events, cores, cache sectors, translations,
counters (R49, R99, R108, R188, R373). -/
def clearDie (s : State) (cd : Nat) : State :=
  let gone := (dieBlocks s cd).map (·.id)
  let ids := ((allWaves s).filter fun w => w.id.cd == cd).map (·.id)
  { s with
    cur := if s.cur.id.cd = cd then Wave.empty s.cur.id else s.cur
    waves := s.waves.filter fun w => w.id.cd != cd
    groupMsgs := s.groupMsgs.filter fun m => !gone.any fun b => groupMsgOf b s m
    groups := s.groups.filter fun g => !g.members.any fun m => gone.contains m.blk
    blocks := s.blocks.filter fun b => !(b.core.cd == cd && b.state != .saved)
    cores := s.cores.filter fun c => c.id.cd != cd
    sectors := s.sectors.filter fun e => e.cd != cd
    mds := s.mds.map fun d => { d with pieces := d.pieces.filter fun p => p.core.cd != cd }
    faults := s.faults.map fun f => if f.waiter.any ids.contains then { f with waiter := none } else f
    cds := updWhere (·.unit == cd) (fun d =>
      { unit := d.unit, present := d.present, power := .reset, time := d.time, unreachable := true : CDie }) s.cds }
/-- The pins of blocks that die with their die are taken back, each once its object's entry has been gathered (R135). -/
def unpinLost (s : State) (bs : List Block) : State :=
  bs.foldl (fun s b => onPkg s b.pkg fun p => { p with unpins := p.unpins ++ b.recs.map fun r => (b.ctx, r.2.addr.extractLsb' 40 24) }) s
/-- The oldest pin that a package still has to take back (R51, R135). -/
def unpinNext (pkg : Nat) (s : State) : Res :=
  match (getPkg s pkg).unpins with
  | [] => .next s
  | (ctx, id) :: _ =>
    let c := getCtx s pkg ctx
    let (ok, s) := homeGather s [sectorOf (entryAddr c id.toNat)]
    if ok then .next (onPkg (addPin s c id.toNat 65535) pkg fun p => { p with unpins := p.unpins.drop 1 }) else .next s
/-- An image of a package is to be verified again (R373, R392, R394). -/
def unverify (s : State) (pkg : Nat) (t : FwTarget) : State :=
  onPkg s pkg fun p => { p with sec := { p.sec with verified := p.sec.verified.filter (· != t) } }
/-- A compute die is declared unreachable: logged, its blocks killed and counted as retired, the die reset, its tokens
lost (R98, R373). -/
def declareCompute (s : State) (waiter cd : Nat) : State :=
  let (t, s) := sampleTime s waiter
  let s := if isCd waiter then onCd s waiter fun d => { d with unreachCnt := sat16 d.unreachCnt } else s
  let r := { plainRec (pkgOf cd) t .unreach 0 0 with vdie := cd % 16 }
  let s := { s with faults := s.faults ++ [r] }
  let bs := dieBlocks s cd
  let s := unpinLost (clearDie (deathRecords s cd t) cd) bs
  let s := leaveCounts s cd
  let s := unverify s (pkgOf cd) .compute
  bs.foldl (fun s b => countRetired s b.id.launch) s
/-- A move stops where the die that makes it or the die it moves to stops (R78). -/
def stopMove (md : Nat) (d : MDie) : MDie :=
  if d.unit == md then { d with move := none }
  else if pkgOf d.unit == pkgOf md && d.move.any fun m => m.dst % 8 == md % 16 - 8 then { d with move := none } else d
/-- The trump requests of a memory-side die's homes, and what they keep for the host, end with its reset (R373, R383, R435). -/
def dropTrumps (s : State) (md : Nat) : State :=
  let go := fun h : Home => { h with trump := none, round := [], waiting := [], frozen := false, hostHeld := false, biOwed := 0 }
  { s with homes := updWhere (fun h => homeUnit h.sector == md) go s.homes }
/-- A memory-side die is declared unreachable and reset: logged, its registers and bias bits take their reset values, its move and
flip stop, the trump requests of its homes, and moves to it; pieces queued there count as lost (R78, R102, R373, R380, R383; log
entry 63). -/
def declareMemory (s : State) (waiter md : Nat) : State :=
  let (t, s) := sampleTime s waiter
  let s := if isCd waiter then onCd s waiter fun d => { d with unreachCnt := sat16 d.unreachCnt } else s
  let r := { plainRec (pkgOf md) t .unreach 0 0 with vdie := md % 16 }
  let s := { s with faults := s.faults ++ [r] }
  let s := unverify s (pkgOf md) .memside
  let s := onMd s md fun d => { unit := d.unit, time := d.time, move := d.move, pieces := d.pieces, unreachable := true, inReset := true : MDie }
  dropTrumps { s with mds := s.mds.map (stopMove md) } md
/-- A die has given no link-layer response for 64 µs: it is declared unreachable. One that answers WAKEPEND or HOLDREPLY, one in
die-off and one in reset never is (R105, R106, R392). -/
def execLinkResponseTimeout (waiter die : Nat) (s : State) : Res :=
  if pkgOf waiter != pkgOf die || waiter == die || die ≥ 0x100000 then .next s
  else if isCd die then
    let d := getCd s die
    if d.present && !d.unreachable && !d.held && (d.power == .run || d.power == .coreStop) then .next (declareCompute s waiter die) else .next s
  else if !mdUp s die then .next s
  else .next (declareMemory s waiter die)
/-- A step of a die's TIME is noted for the next trace record of each of its streams (R25, R408). -/
def noteStep (s : State) (die : Nat) : State :=
  let step := fun t : TraceSt => { t with stepped := true, steps := t.steps + 1 }
  if isCd die then onCd s die fun d => { d with trace := step d.trace } else s
/-- TIME of a die taken from the grandmaster by a forward step, with STEP set and LOCK 0 (R28). Until its first exchange no
bound is known and the die is not in holdover: ERR reads 0xFFFF and HOLDOVER 0 (log entry 77). -/
def stepTime (s : State) (die : Nat) : State :=
  let (now, s) := sampleTime s (grandmaster s (timePkg die))
  let s := onTime s die fun t =>
    { t with time := laterTime t.time now, step := true, lock := false, err := 0xFFFF, holdover := false }
  noteStep s die
/-- A package that leaves its pod keeps its own time: its grandmaster's bound is 0 again (R27); a pod that loses its
reference package has none, and no die of it has a bound until an exchange with a new one (R24, R26; log entry 77). -/
def leavePod (s : State) (pkg : Nat) : State :=
  if !(getPkg s pkg).inPod then s else
  let s := onPkg (loseReference s pkg) pkg fun p => { p with inPod := false }
  onTime s (grandmaster s pkg) fun t => { t with err := 0, lock := true, holdover := false, domain := false }
/-- A die rejoins: its firmware verified, its TIME stepped, its admission counted (R99, R373, R392). -/
def letIn (s : State) (cd : Nat) : State :=
  onCd (stepTime s cd) cd fun d => { d with power := .run, unreachable := false, mhz := 3000, held := false, thermal := false }
/-- The compute-die firmware of a package has been verified (R394). -/
def computeVerified (s : State) (pkg : Nat) : Bool := (getPkg s pkg).sec.verified.contains .compute
/-- The sector of a coherence message. -/
def msgSector : MsgBody → Option Nat
  | .rdreq x .. | .wrreq x .. | .tok x .. | .trumpreq x .. | .act x .. | .deact x .. | .gathered x .. | .release x ..
  | .ack x .. | .census x .. | .report x .. | .late x .. | .rebuild x .. | .wakepend x | .holdreply x | .dataReq x _
  | .biSnp _ x _ _ => some x
  | .writeback _ | .retired _ | .coll _ => none
/-- Memory initialisation of a memory-side die before it reports ready after a reset: its stack holds zeros, every sector all its tokens
under serial 0 and no poison; tokens, copies and messages of its sectors from before are gone (R60). -/
def initStack (s : State) (md : Nat) : State :=
  { s with
    mem := s.mem.filter fun c => homeUnit (c.1 / 64) != md
    homes := s.homes.filter fun h => homeUnit h.sector != md
    sectors := s.sectors.filter fun e => homeUnit e.sector != md
    net := s.net.filter fun m => !(msgSector m.body).any fun x => homeUnit x == md }
/-- A memory-side die reports ready after a reset: its stack initialised, its bias bits and registers as its reset left them (R60,
R373, R394). -/
def startMemory (s : State) (md : Nat) : State :=
  onMd (initStack s md) md fun d => { d with unreachable := false, inReset := false }
/-- The admission of a reset die has been broadcast and counted, its firmware verified: it rejoins, a memory-side die with the bias
bits and registers of its reset (R373, R394). -/
def execDieAdmission (cd : Nat) (s : State) : Res :=
  if isCd cd then
    let d := getCd s cd
    if d.present && d.power == .reset && iodRuns s (pkgOf cd) && computeVerified s (pkgOf cd) then .next (letIn s cd) else .next s
  else if (getMd s cd).unreachable && iodRuns s (pkgOf cd) && (getPkg s (pkgOf cd)).sec.verified.contains .memside then
    .next (startMemory (stepTime s cd) cd)
  else .next s

/-! ## Multicast (R101, R388) -/

/-- The multicast entry of a group at a package (R388; log entry 13). -/
def mcEntry (p : Pkg) (g : Nat) : BitVec 64 := ((p.mcgroups.find? (·.1 == g)).map (·.2)).getD 0
/-- A link carries flits now (R385, R390). -/
def linkOpen (l : Link) : Bool := l.up && !l.training && l.credit
/-- A link carries flits to a package whose I/O dies run (R391, R394). -/
def carries (s : State) (l : Link) : Bool := linkOpen l && l.far.any (iodRuns s)
/-- A copy of a flit goes to the package at a link's far end. -/
def forwardFlit (s : State) (pkg : Nat) (l : Link) (f : McFlit) : State :=
  match l.far with
  | none => s
  | some q => if isRemoved s pkg q then s else onPkg s q fun p => { p with mcIn := p.mcIn ++ [{ f with via := some pkg }] }
/-- The branches of a flit at a package: the links of the tree, but for the one it came by. -/
def branches (p : Pkg) (f : McFlit) : List Link :=
  p.links.filter fun l => (mcEntry p f.group).getLsbD l.id && l.far.isSome && l.far != f.via
/-- The data of a collective operation has reached a package (R299, R388). -/
def carryColl (s : State) (pkg n : Nat) : State :=
  mapWaves s fun w => { w with ops := updWhere (·.id == n) (fun o => { o with carried := o.carried.map (pkg :: ·) }) w.ops }
/-- A flit delivered at a package: a message that has arrived there, to each compute die, or the data of a collective operation
(R101, R388). -/
def deliverFlit (s : State) (pkg : Nat) (f : McFlit) : State :=
  match f.body with
  | .coll n => carryColl s pkg n
  | b => { s with net := s.net ++ (countedDies s pkg).map fun d => { src := f.src, dst := d, body := b, pos := some pkg } }
/-- The router copies a flit to its branches and to the local compute dies; a blocked branch has its copy held, and the
input stalls only while the 512-flit buffer is full (R388). A flit that enters here has reached its own package already. -/
def execMulticastFlit (pkg n : Nat) (s : State) : Res :=
  let p := getPkg s pkg
  match p.mcIn[n]? with
  | none => .next s
  | some f =>
    let bs := branches p f
    let blocked := bs.filter fun l => !carries s l
    if !iodRuns s pkg || p.mcHeld.length + blocked.length > 512 then .next s
    else
      let s := onPkg s pkg fun p => { p with mcIn := dropAt n p.mcIn, mcHeld := p.mcHeld ++ blocked.map fun l => (l.id, f) }
      let s := (bs.filter (carries s)).foldl (fun s l => forwardFlit s pkg l f) s
      .next (if f.via.isSome && (mcEntry p f.group).getLsbD 32 then deliverFlit s pkg f else s)
/-- f applied to a link of a package. -/
def onLink (s : State) (pkg link : Nat) (f : Link → Link) : State :=
  onPkg s pkg fun p => { p with links := updWhere (·.id == link) f p.links }
/-- A link of a package. -/
def getLink (s : State) (pkg link : Nat) : Option Link := (getPkg s pkg).links.find? (·.id == link)
/-- The far end of a link: its package, and its number there (R385; log entry 2). -/
def farEnd (s : State) (pkg link : Nat) : Option (Nat × Nat) := (getLink s pkg link).bind fun l => l.far.map fun q => (q, l.port)
/-- f applied to both ends of a link (R390). -/
def onEnds (s : State) (pkg link : Nat) (f : Link → Link) : State :=
  match farEnd s pkg link with
  | some (q, k) => onLink (onLink s pkg link f) q k fun l => if l.far == some pkg then f l else l
  | none => onLink s pkg link f
/-- The held copies of a link that is open are sent (R388). -/
def sendHeld (s : State) (pkg link : Nat) : State :=
  match getLink s pkg link with
  | none => s
  | some l =>
    if !carries s l then s
    else
      let mine := (getPkg s pkg).mcHeld.filter (·.1 == link)
      let s := onPkg s pkg fun p => { p with mcHeld := p.mcHeld.filter (·.1 != link) }
      mine.foldl (fun s f => forwardFlit s pkg l f.2) s
/-- A blocked branch has credit again, and its held copies are sent (R388). -/
def execMulticastCreditReturn (pkg link : Nat) (s : State) : Res :=
  .next (sendHeld (onLink s pkg link fun l => { l with credit := true }) pkg link)

/-! ## Unicast routing (R386, R387) -/

/-- The route entry of a destination package; all zero where none is loaded (R386). -/
def route (p : Pkg) (far : Nat) : BitVec 64 := ((p.froute.find? (·.1 == far)).map (·.2)).getD 0
/-- A message has no way on from a package: its destination is not reachable, or has been removed (R386, R389). -/
def unroutable (s : State) (m : Msg) : Bool :=
  let p := getPkg s (msgPkg m)
  !(route p (unitPkg m.dst)).getLsbD 12 || isRemoved s p.id (unitPkg m.dst)
/-- A message may take a link of the package where it is: in an adaptive channel one of ADAPT, in the escape channel of its hop count
the ESC link; and once in escape it stays there (R386, R387). -/
def hopOk (s : State) (m : Msg) (l : Link) (esc : Bool) : Bool :=
  let p := getPkg s (msgPkg m)
  let e := route p (unitPkg m.dst)
  iodRuns s p.id && carries s l && (l.far.any fun q => !isRemoved s p.id q) && !unroutable s m &&
  (if esc then bits e.toNat 4 0 == l.id && m.hops < 6 else !m.esc && e.getLsbD (32 + l.id))
/-- Message n takes one hop over a link toward its destination package; one that has no way on is lost (R385 to R387). -/
def hop (n link : Nat) (esc : Bool) (s : State) : Res :=
  match s.net[n]? with
  | none => .next s
  | some m =>
    if arrived m then .next s
    else if unroutable s m then .next (logLoss { s with net := dropAt n s.net } (iodUnit (msgPkg m) 0) m)
    else match getLink s (msgPkg m) link with
      | none => .next s
      | some l =>
        if hopOk s m l esc then
          .next { s with net := s.net.set n { m with pos := l.far, hops := m.hops + 1, esc := m.esc || esc, retries := 0 } }
        else .next s
/-- The hops that a message can take now. -/
def hopsOf (s : State) (m : Msg) : List (Nat × Bool) :=
  if unroutable s m then [(0, false)] else
  (getPkg s (msgPkg m)).links.flatMap fun l => [false, true].filterMap fun esc => if hopOk s m l esc then some (l.id, esc) else none
/-- The I/O die of a fabric link (R385). -/
def linkDie (pkg link : Nat) : Nat := iodUnit pkg (if link < 16 then 0 else 1)
/-- A link of a package retrains, at both ends (R385, R390). -/
def retrain (s : State) (pkg link : Nat) : State := onEnds s pkg link fun l => { l with training := l.up }
/-- A link retries a flit whose CRC failed: 16 times on the fabric and 8 inside a package. Past the limit the flit is dropped and
logged, and a fabric link retrains. Which of the links that the message may take carried it is free (R85, R385; log entries 3, 86). -/
def execFlitCrcFailure (n : Nat) (s : State) : Res :=
  match s.net[n]? with
  | none => .next s
  | some m =>
    let again := { s with net := s.net.set n { m with retries := m.retries + 1 } }
    let gone := { s with net := dropAt n s.net }
    if arrived m then
      if m.retries < 8 then .next again
      else .next (logLoss gone (if m.pos.isSome then iodUnit (msgPkg m) 0 else m.src) m)
    else
      let (x, r) := freshWord gone
      let hs := hopsOf s m
      match hs[x.toNat % hs.length]? with
      | none => .next s
      | some (link, _) =>
        if unroutable s m then .next s
        else if m.retries < 16 then .next again
        else
          let p := msgPkg m
          .next (retrain (onPkg (logLoss r (linkDie p link) m) p fun k => { k with linkLog := k.linkLog ++ [link] }) p link)

/-! ## Links (R85, R390) -/

/-- A failing lane is replaced by the spare, and the link retrains, at both ends (R390). -/
def execLaneSparing (pkg link : Nat) (s : State) : Res :=
  .next (onEnds s pkg link fun l => if l.up && !l.spareUsed then { l with spareUsed := true, training := true } else l)
/-- The link has retrained: its ends carry flits again (R390). -/
def execLinkRetrainDone (pkg link : Nat) (s : State) : Res :=
  let s := sendHeld (onEnds s pkg link fun l => { l with training := false }) pkg link
  .next (match farEnd s pkg link with
    | some (q, k) => sendHeld s q k
    | none => s)
/-- A message carries tokens and is on its way through a package's router to another package. -/
def crossTok (pkg : Nat) (m : Msg) : Bool :=
  !arrived m && msgPkg m == pkg && (match m.body with
    | .tok _ _ _ _ _ _ _ _ _ => true
    | _ => false)
/-- Of the token messages on their way through a package, those that its torn-down link held are lost, which ones is free (R85; log
entry 3); each loss is logged. -/
def loseMessages (s : State) (pkg link : Nat) : State :=
  let (keep, s) := s.net.foldl (fun (acc : List Msg × State) m =>
    if crossTok pkg m then
      let (b, s) := freshBool acc.2
      if b then (acc.1, logLoss (onPkg s pkg fun p => { p with linkLog := p.linkLog ++ [link] }) (linkDie pkg link) m) else (acc.1 ++ [m], s)
    else (acc.1 ++ [m], acc.2)) ([], s)
  { s with net := keep }
/-- The messages that a torn-down link held at one of its ends; the end's package logs it (R85, R390). -/
def tearEnd (s : State) (pkg link : Nat) : State :=
  loseMessages (onPkg s pkg fun p => { p with linkLog := p.linkLog ++ [link] }) pkg link
/-- A second lane fault tears the link down at both ends; routing avoids it at once (R390). -/
def execLinkTeardown (pkg link : Nat) (s : State) : Res :=
  match getLink s pkg link with
  | none => .next s
  | some l =>
    if !l.up || !l.spareUsed then .next s
    else
      let s := tearEnd (onEnds s pkg link fun l => { l with up := false, training := false }) pkg link
      .next (match farEnd s pkg link with
        | some (q, k) => tearEnd s q k
        | none => s)

/-! ## Removal (R71, R98, R102, R389) -/

/-- The compute dies of a package drop the sectors homed in a removed one, counted in STALE; their requests end (R102). -/
def dropHomedIn (s : State) (pkg far : Nat) : State :=
  (s.sectors.filter fun e => pkgOf e.cd == pkg && pkgOf (homeUnit e.sector) == far).foldl (fun s e =>
    let s := wakeMonitor (if e.tokens = 0 then s else countStale s e.cd e.tokens) e.cd e.sector
    onSec s e.cd e.sector fun e => { dropTokens e with req := none, act := none, frozen := false, heldReqs := [] }) s
/-- The compute dies of a removed package hold nothing of the sectors homed in a package any more: their tokens are lost, and no
sweep follows (R98). -/
def loseHeld (s : State) (pkg far : Nat) : State :=
  let go := fun e : DieSector => { dropTokens e with req := none, act := none, frozen := false, heldReqs := [] }
  { s with sectors := updWhere (fun e => pkgOf e.cd == far && pkgOf (homeUnit e.sector) == pkg) go s.sectors }
/-- A removed package counts as having acknowledged, no report of its dies is waited for, and a home that fetches data from one
of them decides again (R94, R98, R101, R389). -/
def dropPkgFromCounts (s : State) (pkg far : Nat) : State :=
  let mine := (s.homes.filter fun h => pkgOf (homeUnit h.sector) == pkg).map (·.sector)
  let s := ((s.cds.filter fun d => pkgOf d.unit == far).map (·.unit)).foldl (fun s d => settleAgain s mine d) s
  mine.foldl (fun s x =>
    let s := onHome s x fun h => { h with trump := h.trump.map fun t => { t with due := t.due.filter fun d => pkgOf d != far } }
    match (getHome s x).trump with
    | some t =>
      if t.owed.contains (iodUnit far 0) then countAck s x (iodUnit far 0)
      else if t.phase == .census && t.owed.isEmpty && t.due.isEmpty then phaseDone s x else s
    | none => s) s
/-- The packages whose acknowledgements, reports or data a home waits for, though no route leads to them any more (R94, R101, R386). -/
def lostPkgs (s : State) (h : Home) : List Nat :=
  match h.trump with
  | none => []
  | some t =>
    let asked := match t.phase with
      | .fetch d => [pkgOf d]
      | _ => []
    ((t.owed.map unitPkg) ++ t.due.map pkgOf ++ asked).filter fun q => !pkgReachable s (pkgOf (homeUnit h.sector)) q
/-- A package to which no route leads counts as having acknowledged (R101, R386). -/
def uncount (pkg far : Nat) (s : State) : Res := .next (if pkgReachable s pkg far then s else dropPkgFromCounts s pkg far)
/-- What runs on a package is lost with it: its launches, blocks and waves, and what its cores hold for them (R429; log entry 107). -/
def loseWork (s : State) (pkg : Nat) : State :=
  let gone := (s.blocks.filter (·.pkg == pkg)).map (·.id)
  { s with
    cur := if pkgOf s.cur.id.cd = pkg then Wave.empty s.cur.id else s.cur
    waves := s.waves.filter fun w => pkgOf w.id.cd != pkg
    launches := s.launches.filter (·.pkg != pkg)
    blocks := s.blocks.filter (·.pkg != pkg)
    groups := s.groups.filter fun g => !(g.members.any fun m => gone.contains m.blk) && !gone.any fun b => g.ref == .block b
    groupMsgs := s.groupMsgs.filter fun m => !gone.any fun b => groupMsgOf b s m
    cores := s.cores.filter fun c => pkgOf c.id.cd != pkg
    mds := s.mds.map fun d => { d with pieces := d.pieces.filter fun p => pkgOf p.core.cd != pkg }
    faults := s.faults.filter (·.pkg != pkg) }
/-- A package acts on the first removal notice for another one, whose work is lost with the first in the pod (R389, R429). -/
def execRemovalNotice (pkg removed : Nat) (s : State) : Res :=
  if pkg = removed || isRemoved s pkg removed then .next s
  else
    let s := if s.pkgs.any fun p => p.removed.contains removed then s else loseWork s removed
    let lost := fun t : Target => t.space == .dev && pkgOf (homeUnit (sectorOf t.addr)) == removed
    let s := onPkg s pkg fun p =>
      { p with
        removed := p.removed ++ [removed]
        mcHeld := p.mcHeld.filter fun h => !p.links.any fun l => l.id == h.1 && l.far == some removed
        linkLog := p.linkLog ++ [removed] }
    let s := mapWaves s fun w => if pkgOf w.id.cd == pkg then loseWave lost w else w
    let s := { s with cores := updWhere (fun c => pkgOf c.id.cd == pkg) (loseBuffer lost) s.cores }
    .next (dropPkgFromCounts (leavePod (loseHeld (dropHomedIn s pkg removed) pkg removed) removed) pkg removed)
/-- A package has lost its last link to a neighbour without an orderly shutdown (R389). -/
def lastLinkLost (s : State) (p : Pkg) (q : Nat) : Bool :=
  q != p.id && p.links.any (·.far == some q) && p.links.all (fun l => l.far != some q || !l.up) && !isRemoved s p.id q
/-- A neighbour's notice reaches a package over an up link, and the package has not acted on one for it yet (R389). -/
def noticeReaches (s : State) (p : Pkg) (q : Nat) : Bool :=
  q != p.id && !isRemoved s p.id q &&
    p.links.any fun l => l.up && l.far.any fun r => !isRemoved s p.id r && isRemoved s r q
/-- The removal notices on their way: of a package whose last link a neighbour has lost, and those that a package which has acted
on one floods over its up links (R389). -/
def noticesDue (s : State) : List (Nat × Nat) :=
  s.pkgs.flatMap fun p =>
    (p.links.filterMap (·.far) ++ s.pkgs.flatMap (·.removed)).filterMap fun q =>
      if lastLinkLost s p q || noticeReaches s p q then some (p.id, q) else none
/-- A link has no credit now (R385, R388). -/
def creditSpent (pkg link : Nat) (s : State) : Res := .next (onLink s pkg link fun l => { l with credit := false })

end Sys2Proof.Machine
end

