-- ==== Sys2Proof/Machine/Power.lean ====
section
/-! DEFINITION. The time base (R23 to R28) and the clocks and power states of a die (R19, R20, R391 to R393). -/

namespace Sys2Proof.Machine

/-! ## The time base -/

/-- The die exists and its time base runs: it does in every state but die-off and D3cold (R28, R391). -/
def hasTime (s : State) (die : Nat) : Bool :=
  let p := getPkg s (timePkg die)
  s.pkgs.any (·.id == timePkg die) && !p.cold && (0x100000 ≤ die || !isCd die || ((getCd s die).present && (getCd s die).power != .off))
/-- The distance of two TIMEs. -/
def timeGap (a b : BitVec 64) : Nat := (a.toNat - b.toNat) + (b.toNat - a.toNat)
/-- An exchange of a die with a partner completes, whose TIME has come to `reference` meanwhile as far as its own bound allows
(R24 to R27). An offset is slewed, so TIME itself does not jump, except that a correction of more than 1 µs is a forward step.
ERR is the bound that the exchange reached and the partner's own, and never less than the distance it leaves from the
reference (log entry 77). -/
def exchange (s : State) (die partner : Nat) (reference : BitVec 64) (err : BitVec 16) (domain : Bool) : State :=
  let s := if timeRef s partner = partner then s else (sampleTime s partner).2
  let s := onTime s partner fun t => { t with time := timeAt s partner reference }
  let (x, s) := freshWord s
  let now := timeAt s die x
  let s := onTime s die fun t => { t with domain := domain }
  let p := timeSt s partner
  let jump := decide (now.toNat + 16000 < p.time.toNat)
  let time := if jump then p.time else now
  let bound := Nat.max (err.toNat + p.err.toNat) (timeGap time (timeSt s (timeRef s die)).time)
  let e := BitVec.ofNat 16 (Nat.min 0xFFFF bound)
  let s := onTime s die fun t =>
    { t with time := time, err := e, lock := e.toNat ≤ lockBound domain, step := t.step || jump, holdover := false }
  if jump then noteStep s die else s
/-- A die other than the package's grandmaster completes its exchange with the grandmaster (R24). -/
def execSyncExchange (die : Nat) (reference : BitVec 64) (err : BitVec 16) (s : State) : Res :=
  let g := grandmaster s (timePkg die)
  if hasTime s die && die != g then
    .next (exchange s die g reference err ((getPkg s (timePkg die)).inPod && s.podRef.isSome))
  else .next s
/-- The pod's packages within n hops of its reference over links that are up. -/
def podWithin (s : State) (ref : Nat) : Nat → List Nat
  | 0 => [ref]
  | n + 1 =>
    let near := podWithin s ref n
    (s.pkgs.filter fun p => near.contains p.id ||
      (p.inPod && !p.cold && p.links.any fun l => l.up && l.far.any near.contains)).map (·.id)
/-- The neighbours of a package that are nearer its pod's reference, hop by hop (R24; log entry 77). -/
def nearerPkgs (s : State) (pkg ref : Nat) : List Nat :=
  ((getPkg s pkg).links.filter (·.up)).filterMap fun l => l.far.bind fun q =>
    if (List.range s.pkgs.length).any fun n => (podWithin s ref n).contains q && !(podWithin s ref n).contains pkg then some q else none
/-- The grandmaster of a package in a pod, but for the pod's reference package, completes its exchange with a neighbour's,
nearer the reference; which of several is free (R24; log entry 77). -/
def execPodExchange (pkg : Nat) (reference : BitVec 64) (err : BitVec 16) (s : State) : Res :=
  match s.podRef with
  | none => .next s
  | some ref =>
    let g := grandmaster s pkg
    if !(getPkg s pkg).inPod || ref == pkg || !hasTime s g then .next s else
    let qs := nearerPkgs s pkg ref
    let (x, r) := freshWord s
    match qs[x.toNat % qs.length]? with
    | none => .next s
    | some q => .next (exchange r g (grandmaster r q) reference err true)
/-- A die is no longer disciplined: ERR begins to grow, from TIME at this moment (R26, R27; log entry 77). -/
def setHoldover (s : State) (die : Nat) : State :=
  growErr (onTime (growErr (sampleTime s die).2 die) die fun t =>
    if t.holdover then t else { t with holdover := true, heldErr := t.err, heldSince := t.time }) die
/-- The die is the reference of its own TIME: the grandmaster of a package outside a pod, or of the pod's reference package
(R24, R27). -/
def isReference (s : State) (die : Nat) : Bool :=
  die == grandmaster s (timePkg die) && (!(getPkg s (timePkg die)).inPod || s.podRef == some (timePkg die))
/-- No exchange has succeeded within 4 intervals (R26); a reference has none to make (R27). -/
def execHoldoverTimeout (die : Nat) (s : State) : Res :=
  if hasTime s die && !isReference s die then .next (setHoldover s die)
  else .next s
/-- The dies of a package, its I/O dies included. -/
def timeDies (pkg : Nat) : List Nat := [iodUnit pkg 0, iodUnit pkg 1] ++ span (16 * pkg) 16
/-- IOD0 is lost: IOD1 takes over the grandmaster from its own disciplined TIME, and every other die is in holdover until it
has made an exchange with it; in a pod IOD1 is so too, but for the pod's reference. Where IOD0 was the reference of other
dies, IOD1 is now, and their bounds take in its own (R24, R26, R27; log entry 16). -/
def execGrandmasterFailover (pkg : Nat) (s : State) : Res :=
  let p := getPkg s pkg
  if p.iod1 || p.cold then .next s else
  let old := iodUnit pkg 0
  let one := iodUnit pkg 1
  let isRef := isReference s old
  let s := growErr (sampleTime s one).2 one
  let s := widenAgainst s old (timeSt s one).err
  let s := onPkg s pkg fun p =>
    { p with iod1 := true, ctxCmd := p.ctxCmd.map fun c => { c with owed := c.owed.filter (· != one) }
             time1 := if isRef then { p.time1 with err := 0, lock := true, holdover := false } else p.time1 }
  let ds := (timeDies pkg).filter fun d => hasTime s d && (d != one || !isRef)
  .next (ds.foldl setHoldover s)
/-- TIMEERR of a die that has been stepped as its package joined a pod: no bound against the pod's reference is known
before an exchange, but for the reference itself, whose bound is 0 (R25, R26; log entry 77). -/
def joinedTime (time : BitVec 64) (reference : Bool) : TimeSt :=
  { time := time, err := if reference then 0 else 0xFFFF, lock := reference, step := true, holdover := false, domain := true }
/-- A package joins a pod before any context runs on it: the TIME of its dies is stepped to the pod reference's, which has
come to `time`, in either direction (R25, R389). Where the fabric manager has named no reference yet, no die has a bound (R26; log
entry 77). -/
def execPodJoin (pkg : Nat) (time : BitVec 64) (s : State) : Res :=
  let p := getPkg s pkg
  if p.inPod || p.cold || s.blocks.any (fun b => b.pkg == pkg && (b.state == .resident || b.state == .stopping)) then .next s else
  let s := onPkg { s with pkgs := s.pkgs.map fun q => { q with removed := q.removed.filter (· != pkg) } } pkg fun q =>
    { q with inPod := true }
  let r := grandmaster s (s.podRef.getD pkg)
  let s := if r = grandmaster s pkg then s else onTime s r fun t => { t with time := laterTime t.time time }
  let now := if r = grandmaster s pkg then time else (timeSt s r).time
  let ds := (timeDies pkg).filter (hasTime s)
  .next (ds.foldl (fun s d => noteStep (onTime s d fun _ => joinedTime now (s.podRef == some pkg && d == r)) d) s)
/-- The fabric manager names a package that runs the reference of a pod that has none (R24). Its grandmaster's bound is 0; no die had
a bound against the pod's reference before (R26, R27). -/
def nameReference (pkg : Nat) (s : State) : Res :=
  if s.podRef.isSome || !s.pkgs.any (fun p => p.id == pkg && !p.cold) then .next s else
  let s := { s with podRef := some pkg }
  .next (onTime s (grandmaster s pkg) fun t => { t with err := 0, lock := true, holdover := false })

/-! ## Clocks and power states -/

/-- A clock-change record with the new frequency, 0 for a stop (R408). -/
def clockRec (s : State) (cd mhz : Nat) : State := traceRec s cd 0 5 (mhz / 25 * 2 ^ 32) []
/-- The core clock of a die at a new frequency. -/
def setClock (s : State) (cd mhz : Nat) : State := clockRec (onCd s cd fun d => { d with mhz := mhz }) cd mhz
/-- The core frequency changes between 1.0 and 3.2 GHz; only time passes (R19, R20). -/
def execCoreFrequencyChange (cd mhz : Nat) (s : State) : Res :=
  if clockRuns (getCd s cd) && 1000 ≤ mhz && mhz ≤ 3200 then .next (setClock s cd mhz) else .next s
/-- The power manager stops the core clock: issue freezes, the uncore runs on (R20, R391). -/
def execCoreClockStop (cd : Nat) (s : State) : Res :=
  let d := getCd s cd
  if d.present && d.power == .run && !d.unreachable then
    .next (clockRec (onCd (sampleCycle s cd).2 cd fun d => { d with power := .coreStop }) cd 0)
  else .next s
/-- A stopped core clock runs again (R391). -/
def execCoreClockRestart (cd : Nat) (s : State) : Res :=
  let d := getCd s cd
  if d.present && d.power == .coreStop && !d.unreachable then .next (clockRec (onCd s cd fun d => { d with power := .run }) cd d.mhz)
  else .next s
/-- Every window of a wave's registers is emptied, and its kept walk results go (R48, R49). -/
def dropWindows (w : Wave) : Wave :=
  let f := fun a : WaveArch => { a with tx := a.tx.map fun t => if t.v && !t.cl then { t with hi := t.lo.setWidth 41 } else t }
  { w with a := f w.a, window := w.window.map fun p => { p with a := f p.a }, xres := [] }
/-- A die drops every translation (R49, R392). -/
def dropTranslations (s : State) (cd : Nat) : State :=
  let s := onCd s cd fun d => { d with dtlb := [] }
  let s := { s with cores := updWhere (fun c : Core => c.id.cd == cd) (fun c => { c with tlb := [] }) s.cores }
  mapWaves s fun w => if w.id.cd == cd then dropWindows w else w
/-- The sectors of a die. -/
def dieSectors (s : State) (cd : Nat) : List DieSector := s.sectors.filter (·.cd == cd)
/-- Nothing of a die's uncore is in use: no request of its cache, no frozen sector, no walk, no operation or scalar load under
way, no buffer entry, no engine request, no tile task (R49, R50). -/
def uncoreIdle (s : State) (cd : Nat) : Bool :=
  (dieSectors s cd).all (fun e => e.req.isNone && !e.frozen && e.heldReqs.isEmpty) && (getCd s cd).walks.isEmpty &&
  (getCd s cd).pend.isEmpty &&
  (allWaves s).all (fun w => w.id.cd != cd || (w.ops.isEmpty && (match w.hold with
    | .sld _ _ => false
    | _ => true))) &&
  s.cores.all (fun c => c.id.cd != cd || (c.wc.isEmpty && c.wcWait.isEmpty && c.reqs.isEmpty && c.nm.isEmpty && c.tiles.isEmpty))
/-- A die returns every token to its homes and drops every translation (R20, R49, R392). -/
def emptyUncore (s : State) (cd : Nat) : State :=
  dropTranslations (((dieSectors s cd).map (·.sector)).foldl (fun s x => returnSector s cd x) s) cd
/-- The uncore is gated, once its cache has returned every token (R20, R391). -/
def execUncoreGate (cd : Nat) (s : State) : Res :=
  let d := getCd s cd
  if d.present && d.power == .coreStop && !d.unreachable && uncoreIdle s cd then
    .next (onCd (emptyUncore s cd) cd fun d => { d with power := .gated })
  else .next s
/-- A gated uncore wakes: the pauses that its WAKEPEND replies began end (R106, R391). -/
def execUncoreWake (cd : Nat) (s : State) : Res :=
  if (getCd s cd).power != .gated then .next s else
  .next (wakeOver (onCd s cd fun d => { d with power := .coreStop }) cd)
/-- A die with no resident context returns its tokens, drops its translations, leaves every count, and powers down with
its time base; its firmware is to be verified again (R391, R392, R394). -/
def execDieOff (cd : Nat) (s : State) : Res :=
  let d := getCd s cd
  let toks := s.net.any fun m => m.dst == cd && (match m.body with
    | .tok .. => true
    | _ => false)
  if d.present && !d.unreachable && (d.power == .run || d.power == .coreStop) && (dieBlocks s cd).isEmpty && !toks && uncoreIdle s cd then
    let s := unverify (leaveCounts (emptyUncore s cd) cd) (pkgOf cd) .compute
    .next { s with
      sectors := s.sectors.filter (·.cd != cd)
      cores := s.cores.filter (·.id.cd != cd)
      cds := updWhere (·.unit == cd) (fun d => { unit := d.unit, present := d.present, power := .off, time := d.time : CDie }) s.cds }
  else .next s
/-- A die returns from die-off: its firmware verified, its TIME stepped, its admission counted (R28, R373, R392). -/
def execDieReturn (cd : Nat) (s : State) : Res :=
  if (getCd s cd).power == .off && computeVerified s (pkgOf cd) then .next (letIn s cd) else .next s

/-! ## Thermal control (R393) -/

/-- A junction reaches 105 °C: the core clock is throttled toward the 1.0 GHz floor. -/
def execThermalThrottle (cd mhz : Nat) (s : State) : Res :=
  let d := getCd s cd
  if clockRuns d && 1000 ≤ mhz && mhz < d.mhz then .next (setClock s cd mhz) else .next s
/-- A junction reaches 115 °C: the core clock stops, and the die logs THERM. No wave belongs to the record, and its byte 12 holds the
physical die number, the model's choice (R17, R359; log entry 91). -/
def execThermalStop (cd : Nat) (s : State) : Res :=
  let d := getCd s cd
  if d.present && (d.power == .run || d.power == .coreStop) && !d.thermal && !d.unreachable then
    let (t, s) := sampleTime s cd
    let s := onCd (sampleCycle s cd).2 cd fun d => { d with thermal := true }
    let s := { s with faults := s.faults ++ [{ plainRec (pkgOf cd) t .therm 0 0 with vdie := cd % 16 }] }
    .next (if d.power == .run then clockRec s cd 0 else s)
  else .next s
/-- Every junction is below 100 °C: the core clock restarts at the floor. -/
def execThermalRestart (cd : Nat) (s : State) : Res :=
  let d := getCd s cd
  if d.present && d.thermal && !d.unreachable then
    let s := onCd s cd fun d => { d with thermal := false, mhz := 1000 }
    .next (if d.power == .run then clockRec s cd 1000 else s)
  else .next s

end Sys2Proof.Machine
end

