-- ==== Sys2Proof/Machine/Privileged.lean ====
section
/-! DEFINITION. The instructions of major 0x3F (R251 to R257): system registers, the return from a trap, cache
operations, debugger instructions and key wipes. -/

namespace Sys2Proof.Machine

/-- The code of a lifecycle state (R397). -/
def lifecycleCode : Lifecycle → Nat | .test => 1 | .prod => 2 | .rma => 3 | .scrap => 4
/-- LCSTATE (R397). -/
def lcstate (p : Pkg) : Word := BitVec.ofNat 32 (b2n p.sec.port * 2 ^ 15 + lifecycleCode p.sec.lifecycle)
/-- TIMEERR (R26). -/
def timeerrWord (t : TimeSt) : Word :=
  BitVec.ofNat 32 (t.err.toNat + b2n t.lock * 2 ^ 16 + b2n t.step * 2 ^ 17 + b2n t.holdover * 2 ^ 18 + b2n t.domain * 2 ^ 19)
/-- The number of bound compute dies of a context (R17). -/
def boundDies (c : Ctx) : Nat := ((List.range 8).filter fun k => bits c.vdt.toNat (4 * k + 3) (4 * k) != 15).length
/-- VDIE as a die reads it (R18). -/
def vdieWord (c : Ctx) (cd : Nat) : Word := BitVec.ofNat 32 (8 * 2 ^ 12 + boundDies c * 2 ^ 8 + virtualDie c (cd % 16))
/-- ATOMSZ: 8 bytes of HOST, 32 of POD, 32 of DEV, 64 of a scratchpad (R67). -/
def atomszWord : Word := 0x08202040
/-- TRCIDX (R408). -/
def trcidx (t : TraceSt) : BitVec 64 := t.drop ++ t.tail ++ t.head

/-- The value that `sysr` reads from a register number, 64 bits wide, with a sampled clock advanced (R31, R67,
R253, R365, R397, R407, R408). -/
def sysRead (s : State) (num : Nat) : BitVec 64 × State :=
  let w := s.cur
  let cd := w.id.cd
  let d := getCd s cd
  let p := getPkg s (pkgOf cd)
  match num with
  | 0x010 => sampleTime s cd
  | 0x012 =>
    let s := growErr (sampleTime s cd).2 cd
    ((timeerrWord (getCd s cd).time).setWidth 64, s)
  | 0x014 => sampleCycle s cd
  | 0x018 => ((vdieWord (getCtx s (pkgOf cd) w.ctx) cd).setWidth 64, s)
  | 0x01A => (atomszWord.setWidth 64, s)
  | 0x030 => (w.a.tfaddr, s)
  | 0x032 => (w.a.tsaddr, s)
  | 0x034 => ((w.a.tscr.toArray.getD 0 0).setWidth 64, s)
  | 0x035 => ((w.a.tscr.toArray.getD 1 0).setWidth 64, s)
  | 0x036 => ((w.a.tscr.toArray.getD 2 0).setWidth 64, s)
  | 0x037 => ((w.a.tscr.toArray.getD 3 0).setWidth 64, s)
  | 0x040 => ((lcstate p).setWidth 64, s)
  | 0x042 => (d.trace.sampctl.setWidth 64, s)
  | 0x044 => (d.trace.trcctl.setWidth 64, s)
  | 0x046 => (d.trace.trcbase, s)
  | 0x048 => (trcidx d.trace, s)
  | 0x04A => (p.sec.devid, s)
  | _ => (0, s)
/-- TRCCTL written: the first record after EN is set is absolute (R408). -/
def writeTrcctl (t : TraceSt) (x : Word) : TraceSt :=
  let starts := x.getLsbD 31 && !t.trcctl.getLsbD 31
  { t with trcctl := x &&& 0x800000FE, last := if starts then none else t.last, runs := if starts then t.runs + 1 else t.runs }
/-- What `sysw` writes to a register number: RO and RW0 fields keep their values, STEP of TIMEERR is cleared by a 1
(R6, R31, R67, R365, R397, R407, R408). -/
def sysWrite (s : State) (num : Nat) (x : BitVec 64) : State :=
  let cd := s.cur.id.cd
  let lo : Word := x.extractLsb' 0 32
  let onTrace := fun f : TraceSt → TraceSt => onCd s cd fun d => { d with trace := f d.trace }
  let tscr := fun k : Fin 4 => mapA s fun a => { a with tscr := a.tscr.set k lo }
  match num with
  | 0x012 => onTime s cd fun t => { t with step := t.step && !lo.getLsbD 17 }
  | 0x034 => tscr 0
  | 0x035 => tscr 1
  | 0x036 => tscr 2
  | 0x037 => tscr 3
  | 0x042 => onTrace fun t => { t with sampctl := lo &&& 0x8000001F }
  | 0x044 => onTrace fun t => writeTrcctl t lo
  | 0x046 => onTrace fun t => { t with trcbase := x &&& 0x1FFFFFFFFFF }
  | 0x048 => onTrace fun t => { t with tail := x.extractLsb' 24 24 }
  | _ => s
/-- A register number names a 64-bit register (R253). -/
def sysWide (num : Nat) : Bool := sysWidth num == some true

/-- `sysr`: a 64-bit register goes into a pair, from one sample (R253). -/
def execSysr (a : SReg) (num : BitVec 10) (s : State) : Res :=
  checked (.sysr a num) s fun s =>
    let (x, s) := sysRead (issue s) num.toNat
    .next (advance (mapA s fun w =>
      if sysWide num.toNat then writePair (isHandler s.cur) w a x else writeS (isHandler s.cur) w a (x.extractLsb' 0 32)))
/-- `sysw`: a 64-bit register is written in one write (R253). A write of a die's register leaves the core at once (log
entry 14). -/
def execSysw (a : SReg) (num : BitVec 10) (s : State) : Res :=
  checked (.sysw a num) s fun s =>
    let w := s.cur.a
    let x := if sysWide num.toNat then readPair w a else (readS w a).setWidth 64
    if 0x034 ≤ num.toNat && num.toNat ≤ 0x037 then .next (advance (sysWrite (issue s) num.toNat x))
    else if !s.cur.window.isEmpty then .next (stallBy .other s)
    else .next (advance (sysWrite (issueNow s) num.toNat x))
/-- Bytes of a frame that must be 0: those that R359 and R364 give as 0 whatever the frame holds (R366). Unused path-stack entries
and group keys are not among them, nor the fixed bits within a byte of the record, which `eret` does not read (log entry 83). -/
def frameReserved : List Nat :=
  span 0x30 16 ++ span 0x44 4 ++ [0x69, 0x6A] ++ [0x72, 0x73] ++ span 0x78 8 ++
  (List.range 7).flatMap (fun i => span (0x80 + 16 * i + 9) 7) ++ span 0xFD 3 ++ span 0x280 384
/-- n bytes of a frame at an offset, as a number. -/
def frameNat (fr : List Byte) (off n : Nat) : Nat := leNat ((fr.drop off).take n)
/-- A frame that `eret` accepts (R366). -/
def frameOk (fr : List Byte) : Bool :=
  frameNat fr 0x40 4 % 4 == 0 &&
  legalMode (BitVec.ofNat 32 (frameNat fr 0x60 4)) == some (BitVec.ofNat 32 (frameNat fr 0x60 4)) &&
  legalMmode (BitVec.ofNat 32 (frameNat fr 0x64 4)) == some (BitVec.ofNat 32 (frameNat fr 0x64 4)) &&
  frameNat fr 0x74 4 ≤ 256 &&
  (List.range (Nat.min 16 (frameNat fr 0x74 4))).all (fun i => frameNat fr (0x100 + 24 * i) 4 ≤ 3) &&
  (List.range 7).all (fun i => frameNat fr (0x88 + 16 * i) 1 ≤ 1) &&
  frameNat fr 0xFC 1 < 32 &&
  frameReserved.all fun k => frameNat fr k 1 == 0
/-- The valid translation registers of a frame, by address, as far as they name a page to walk (R46). -/
def frameTx (fr : List Byte) : List (BitVec 64) :=
  (List.range 7).filterMap fun i =>
    let ad := BitVec.ofNat 64 (frameNat fr (0x80 + 16 * i) 8)
    if frameNat fr (0x88 + 16 * i) 1 = 1 && (pageOf ad).1 != 0 && (pageOf ad).1 != clusterId then some ad else none
/-- The result of the walk that a wave's instruction has made for the page of an address. -/
def walked (w : Wave) (ad : BitVec 64) : WalkOut :=
  ((w.xres.find? fun r => (r.id, r.page) == pageOf ad).map (·.out)).getD .absent
/-- The registers that a frame restores (R254, R366); the translation registers are translated again (R46), and
the flags count the wave's saved tile tasks, and nothing that the handler left outstanding (log entry 114). -/
def restoreArch (s : State) (w : Wave) (fr : List Byte) : WaveArch :=
  let xl : Mask := BitVec.ofNat 96 (frameNat fr 0x54 12)
  let em : Mask := BitVec.ofNat 96 (frameNat fr 0x48 12)
  let depth := frameNat fr 0x74 4
  { w.a with
    pc := BitVec.ofNat 32 (frameNat fr 0x40 4)
    xl := xl
    em := em &&& ~~~xl
    mode := BitVec.ofNat 32 (frameNat fr 0x60 4)
    mmode := BitVec.ofNat 32 (frameNat fr 0x64 4)
    stat := legalStat (BitVec.ofNat 32 (frameNat fr 0x68 4))
    depth := depth
    stack := (List.range (Nat.min 16 depth)).filterMap fun i => entryOfNat (frameNat fr (0x100 + 24 * i) 24)
    flags := ⟨((List.range 12).map fun n => BitVec.ofNat 4 (savedTasks s w n)).toArray, by simp⟩
    tx := ⟨((List.range 7).map fun i =>
      if frameNat fr (0x88 + 16 * i) 1 = 1 then
        let ad := BitVec.ofNat 64 (frameNat fr (0x80 + 16 * i) 8)
        txOf (w.a.tx.toArray.getD i {}) ad (walked w ad)
      else { : TxReg }).toArray, by simp⟩
    trap := false
    tsaddr := 0
    tscr := Vector.replicate 4 0 }
/-- The group stack of a frame, of those groups the wave is a member of (R174, R254). -/
def restoreGroups (s : State) (w : Wave) (fr : List Byte) : List GroupRef :=
  let n := frameNat fr 0xFC 4 / 8
  let cl := match getBlock s w.blk with
    | some b => b.id.idx / b.csize
    | none => 0
  ((List.range (Nat.min n 3)).map fun i =>
    let k : Word := BitVec.ofNat 32 (frameNat fr (0xF0 + 4 * i) 4)
    if bitOf (frameNat fr 0xFC 4) i then GroupRef.cluster w.ctx w.blk.launch cl k else GroupRef.core w.ctx (coreId w.id) k).filter
    fun g => s.groups.any fun x => x.ref == g && x.members.contains (memberOf w)
/-- Stores of a wave to scratchpads that have not been performed. -/
def scrStores (w : Wave) : Bool := w.ops.any fun o => isStoreOp o && o.acc.any fun x => match x.tgt.space with
  | .scr _ => true
  | _ => false
/-- The return from a trap (R254, R366): after a release at wave scope, and in resume code once the scratchpad stores have been
performed, which saved tasks read (R338), the frame at TFADDR is read as a load of the wave reads it (R80, R114); one that holds a
value R366 forbids, or that cannot be read, kills the wave. The translation registers are walked again (R39, R46). Then the state is
restored, trap state is left, and the instruction at the restored PC comes next. -/
def returnTrap (s : State) : State :=
  let w := s.cur
  if !ownReleased w s.nextId || (inResume w.a && scrStores w) then stallBy .other s else
  match translate s w 0b001 (pageOf w.a.tfaddr).1 (w.a.tfaddr.extractLsb' 0 40).toNat 1024 with
  | .fault _ c => killWave s w c w.a.pc 0 true
  | .wait id => holdCur s (.migration id)
  | .walk id page => waitWalks s [(id, page)]
  | .ok t =>
    match tryRead s w s.nextId (piecesOf w.a.tfaddr t (List.replicate 1024 0)) with
    | .notYet s => stall s
    | .poison _ s => killWave s w .poison w.a.pc 0 true
    | .got vals _ s' =>
      let fr := bytesOf 1024 ((vals.map (·.2)).foldl (· + ·) 0)
      let left := ((frameTx fr).map pageOf).filter fun p => !w.xres.any fun r => (r.id, r.page) == p
      if !frameOk fr then killWave s' w .rsvf w.a.pc 0 true
      else if !left.isEmpty then waitWalks s (dedup left)
      else
        let gs := restoreGroups s w fr
        let a := restoreArch s w fr
        let s := issue s'
        { s with cur := { s.cur with
            a := a, groups := gs, rlost := w.rlost ++ w.lostHeld, lostHeld := []
            undo := w.undo ++ [⟨w.seq + 1, w.groups, w.rlost, w.lostHeld⟩] } }

/-- `eret` returns from a trap (R254, R366). -/
def execEret (s : State) : Res := checked .eret s fun s => .next (returnTrap s)

/-- What a `cacheop` names: the object address of the pair, its id and first page, and the page count (R255). -/
structure CacheArgs where
  addr : BitVec 64
  id : BitVec 24
  first : Nat
  count : Nat
  deriving DecidableEq, Repr
/-- The operands of a `cacheop` (R255). -/
def cacheArgs (a : WaveArch) (r : SReg) : CacheArgs :=
  let ad := readPair a r
  ⟨ad, ad.extractLsb' 40 24, (ad.extractLsb' 16 24).toNat, (readBlk a r 2).toNat⟩
/-- A `cacheop`: its checks, for which the die reads the object's entry and extents under its tokens (R80), the pkg-scope release it
waits for, and its start with the wave's reason to wait (R255). -/
def cacheOp (i : Instr) (r : SReg) (s : State) (entry : Bool) (start : CacheArgs → State → State) : Res :=
  checked i s fun s =>
    let w := s.cur
    let c := cacheArgs w.a r
    if c.id = 0 then .next (parkActive s .bounds c.addr)
    else if c.id = clusterId then .next (advance (issue s))
    else if entry && !(tableNeeds s w.id.cd w.ctx c.id.toNat).isEmpty then
      .next (stall ((tableNeeds s w.id.cd w.ctx c.id.toNat).foldl (fun s x => postReq s w.id.cd x false) s))
    else if entry && (entryAt s w.id.cd w.ctx c.id.toNat).isNone then .next (parkActive s .noxl c.addr)
    else if !released s w .pkg then .next (waitRelease s)
    else if !w.window.isEmpty then .next (stallBy .other s)
    else .next (start c (advance (issueNow s)))
/-- INVX: a translation invalidation of the pages; the wave waits for the acknowledgements, if a die owes one (R255). -/
def execCacheopInvx (a : SReg) (s : State) : Res :=
  cacheOp (.cacheopInvx a) a s false fun c s =>
    if (countedDies s (pkgOf s.cur.id.cd)).isEmpty then s else
    let (k, s) := startInval s (pkgOf s.cur.id.cd) s.cur.ctx c.id c.first c.count none
    holdCur s (.inval [k])
/-- A write-back of the pages, with the tokens and copies given up or kept; the wave waits for the acknowledgements, if a die owes one
(R255). -/
def cacheWb (i : Instr) (a : SReg) (s : State) (inv : Bool) : Res :=
  cacheOp i a s true fun c s =>
    let p := pkgOf s.cur.id.cd
    let s := (tableSectors s s.cur.id.cd s.cur.ctx c.id.toNat).foldl (fun s x => opDone s s.cur.id.cd x) s
    if (countedDies s p).isEmpty then s else
    let (k, s) := startWriteback s p (some (pageFrames s p s.cur.ctx c.id.toNat c.first c.count)) inv
    holdCur s (.writeback k)
/-- WB: every modified sector of the pages goes back to its home (R255). -/
def execCacheopWb (a : SReg) (s : State) : Res := cacheWb (.cacheopWb a) a s false
/-- WBINV: all tokens and data of the pages' sectors go back to their homes (R255). -/
def execCacheopWbinv (a : SReg) (s : State) : Res := cacheWb (.cacheopWbinv a) a s true

/-- The debug port of the wave's package is open (R397). -/
def portOpen (s : State) (w : Wave) : Bool := (getPkg s (pkgOf w.id.cd)).sec.port
/-- `dbgbrk`: with the port open the partition stops at it and the code is reported; else it acts as `trap` (R256). -/
def execDbgbrk (n : BitVec 4) (s : State) : Res :=
  checked (.dbgbrk n) s fun s =>
    let w := s.cur
    if portOpen s w then
      let s := onCore s (coreId w.id) fun c => { c with stopped := setPart c.stopped w.id.part true }
      .next { s with hostOut := s.hostOut ++ [.debugStop (coreId w.id) w.id.part n.toNat] }
    else .next (raiseTrap s .dbg (n.setWidth 32) (w.a.pc + 4) w.a.pc 0 0 false)
/-- `halt`: with the port open the die enters debug hold behind it; else it traps PRIV (R256). -/
def execHalt (s : State) : Res :=
  checked .halt s fun s =>
    if portOpen s s.cur then .next (onCd (advance (issue s)) s.cur.id.cd fun d => { d with held := true })
    else .next (trapAt s .priv)

/-- The streams of a context's keys, which are about to go, before those that have gone (R257). -/
def erasedNow (c : Ctx) : List (Nat × Stream) := ((c.keys.map fun k => k.streams).getD []).map (fun t => (c.keySets, t)) ++ c.erased
/-- The tenant keys of the contexts of a package that satisfy p erased (R257, R399). -/
def wipeKeys (s : State) (pkg : Nat) (p : Ctx → Bool) : State :=
  { s with ctxs := updWhere (fun c => c.pkg == pkg && p c) (fun c => { c with keys := none, erased := erasedNow c }) s.ctxs }
/-- `keywipe` of every tenant key of the package (R257). -/
def execKeywipeAll (s : State) : Res :=
  checked .keywipeAll s fun s =>
    if !s.cur.window.isEmpty then .next (stallBy .other s)
    else .next (wipeKeys (advance (issueNow s)) (pkgOf s.cur.id.cd) fun _ => true)
/-- `keywipe` of the issuing context's keys (R257). -/
def execKeywipeContext (s : State) : Res :=
  checked .keywipeContext s fun s =>
    if !s.cur.window.isEmpty then .next (stallBy .other s)
    else .next (wipeKeys (advance (issueNow s)) (pkgOf s.cur.id.cd) fun c => c.id == s.cur.ctx)

end Sys2Proof.Machine
end

