-- ==== Sys2Proof/Machine/Security.lean ====
section
/-! DEFINITION. Package reset and D3cold (R60, R391), the patrol scrub (R59), alarms (R375), and the security controller:
firmware, measurements, lifecycle, debug unlock, tenant keys (R393 to R400). -/

namespace Sys2Proof.Machine

/-- f applied to the security controller of a package. -/
def onSecurity (s : State) (pkg : Nat) (f : Security → Security) : State := onPkg s pkg fun p => { p with sec := f p.sec }
/-- A measurement register extended with the digest of a message (R395). -/
def extendMr (x : Security) (k : Nat) (msg : List Byte) : Security :=
  if h : k < 8 then { x with mr := x.mr.set k (extend x.mr[k] (Config.shake256 msg 32)) h } else x

/-! ## Reset and power -/

/-- The package of a sector's home. -/
def sectorPkg (x : Nat) : Nat := x * 64 / 2 ^ 44
/-- The security controller after a reset: fuses and the leaf counter stay, the nonce is fresh, the port is as the
lifecycle gives it (R395 to R398). -/
def resetSecurity (x : Security) (nonce : BitVec 64) (held : Bool) : Security :=
  { lifecycle := x.lifecycle, devid := x.devid, leaf := x.leaf, nonce := nonce, held := held
    port := x.lifecycle == .test || x.lifecycle == .rma }
/-- A package's registers after a reset; its fuses and the cabling of its links stay. -/
def resetPkg (p : Pkg) (nonce : BitVec 64) (held cold : Bool) : Pkg :=
  { id := p.id, fused := p.fused, cold := cold, sec := resetSecurity p.sec nonce held
    links := p.links.map fun l => { id := l.id, far := l.far, port := l.port } }
/-- The package's waves, blocks, contexts, dies, messages and registers as reset leaves them; memory and sidebands are
initialised, unless the package stays in reset (R60, R375, R391); the nonce of the debug unlock is reported (R398). Sectors homed there are gone from every other die. -/
def clearPackage (s : State) (pkg : Nat) (held cold : Bool) : State :=
  let (nonce, s) := freshWord (loseReference s pkg)
  let gone := (s.blocks.filter (·.pkg == pkg)).map (·.id)
  let ours := fun x : Nat => sectorPkg x == pkg
  { s with
    cur := if pkgOf s.cur.id.cd = pkg then Wave.empty s.cur.id else s.cur
    waves := s.waves.filter fun w => pkgOf w.id.cd != pkg
    mem := if held then s.mem else s.mem.filter fun c => c.1 / 2 ^ 44 != pkg
    homes := s.homes.filter fun h => !ours h.sector
    sectors := s.sectors.filter fun e => pkgOf e.cd != pkg && !ours e.sector
    cds := s.cds.map fun d => if pkgOf d.unit == pkg then { unit := d.unit, present := d.present, power := .reset : CDie } else d
    mds := s.mds.map fun d => if pkgOf d.unit == pkg then { unit := d.unit, inReset := true : MDie } else d
    cores := s.cores.filter fun c => pkgOf c.id.cd != pkg
    net := s.net.filter fun m => !(pkgOf m.dst == pkg && m.dst < 0x100000) && m.dst != iodUnit pkg 0 && m.dst != iodUnit pkg 1 &&
      !(msgSector m.body).any ours
    pkgs := updWhere (·.id == pkg) (fun p => resetPkg p nonce held cold) s.pkgs
    ctxs := s.ctxs.filter (·.pkg != pkg)
    queues := s.queues.filter (·.pkg != pkg)
    launches := s.launches.filter (·.pkg != pkg)
    blocks := s.blocks.filter (·.pkg != pkg)
    groups := s.groups.filter fun g => !(g.members.any fun m => gone.contains m.blk) && !gone.any fun b => g.ref == .block b
    groupMsgs := s.groupMsgs.filter fun m => !gone.any fun b => groupMsgOf b s m
    invals := s.invals.filter (·.pkg != pkg)
    wbs := s.wbs.filter (·.pkg != pkg)
    faults := s.faults.filter (·.pkg != pkg)
    hostOut := s.hostOut ++ [.nonce pkg nonce] }
/-- A package reset: memory, sidebands and registers are as after reset (R60); one that an alarm holds needs its power
removed first (R375). -/
def execPackageReset (pkg : Nat) (s : State) : Res :=
  if (getPkg s pkg).sec.held then .next s else .next (clearPackage s pkg false false)
/-- The host puts the package into D3cold: its state is lost, and power is removed (R375, R391). -/
def execPackageD3cold (pkg : Nat) (s : State) : Res := .next (clearPackage s pkg false true)

/-! ## Memory errors and alarms -/

/-- The patrol scrub of a stack: a sector whose sideband is impossible has an uncorrectable error, and is poisoned (R59,
R60). -/
def execPatrolScrub (md : Nat) (s : State) : Res :=
  let bad := fun h : Home => homeUnit h.sector == md && !atomOpen s .dev h.sector && (h.tokens > 64 || (h.own && h.tokens == 0))
  .next { s with homes := updWhere bad (fun h => { h with poison := true }) s.homes }
/-- The number of a detector class: its bit in ALMSTAT, its field in ALMCTL (R375). -/
def classOf : AlarmClass → Fin 5 | .volt => 0 | .clk => 1 | .temp => 2 | .light => 3 | .mesh => 4
/-- The ALARM record of the security controller with its detector bits (R375, R394). -/
def alarmRec (s : State) (pkg code : Nat) : FaultRec × State :=
  let (t, s) := sampleTime s (grandmaster s pkg)
  (plainRec pkg t .alarm (BitVec.ofNat 32 code) 0, s)
/-- A record written into the log at once, at the home: the reset that follows takes every token and copy of the sector
(R360, R375). -/
def logNow (s : State) (r : FaultRec) : State :=
  let p := getPkg s r.pkg
  let n := bits p.flogbase.toNat 11 0
  if n = 0 then s else
  let h := p.flogHead.toNat % n
  if (h + 1) % n = p.flogTail.toNat % n then s
  else onPkg (homeWrite s (r.pkg * 2 ^ 44 + bits p.flogbase.toNat 40 12 * 4096 + 64 * h) (recBytes r true)) r.pkg fun p =>
    { p with flogHead := BitVec.ofNat 12 ((h + 1) % n) }
/-- A detector trips: HIT is set, ALARM logged, and the class's action taken (R375). -/
def execAlarm (pkg : Nat) (cls : AlarmClass) (s : State) : Res :=
  if !securityRuns s pkg then .next s else
  let k := classOf cls
  let action := (getPkg s pkg).sec.almctl[k]
  let s := onSecurity s pkg fun x => { x with almHit := x.almHit ||| (1 <<< k.val) }
  let (r, s) := alarmRec s pkg (2 ^ k.val)
  if action = 2 then .next (clearPackage (wipeKeys (logNow s r) pkg fun _ => true) pkg true false)
  else
    let s := { s with faults := s.faults ++ [r] }
    .next (if action = 1 then wipeKeys s pkg fun _ => true else s)

/-! ## Firmware and measurements (R393 to R396) -/

/-- The measurement register of an image (R395). -/
def fwMr : FwTarget → Nat | .security => 0 | .iod => 1 | .compute => 2 | .memside => 3
/-- The dies that a verified image serves start: those that wait in reset, but for those declared unreachable, which wait for their
admission (R373, R394). -/
def startDies (s : State) (pkg : Nat) : FwTarget → State
  | .compute =>
    let waits := fun d : CDie => pkgOf d.unit == pkg && d.present && d.power == .reset && !d.unreachable
    { s with cds := updWhere waits (fun d => { d with power := .run }) s.cds }
  | .memside =>
    ((s.mds.filter fun d => pkgOf d.unit == pkg && d.inReset && !d.unreachable).map (·.unit)).foldl startMemory s
  | _ => s
/-- A running compute die is put into reset: its blocks are gone and count as retired, its tokens are lost (R98, R373, R394). -/
def resetCompute (s : State) (cd : Nat) : State :=
  let bs := dieBlocks s cd
  let s := leaveCounts (unpinLost (clearDie s cd) bs) cd
  let s := onCd s cd fun d => { d with unreachable := false }
  bs.foldl (fun s b => countRetired s b.id.launch) s
/-- The dies that an image serves are held in reset: one that did not verify is not started (R394; log entry 94). -/
def holdDies (s : State) (pkg : Nat) : FwTarget → State
  | .compute =>
    ((s.cds.filter fun d => pkgOf d.unit == pkg && d.present && d.power != .off && d.power != .reset).map (·.unit)).foldl resetCompute s
  | .memside =>
    { s with mds := updWhere (fun d => pkgOf d.unit == pkg) (fun d => { unit := d.unit, time := d.time, unreachable := d.unreachable, inReset := true }) s.mds }
  | _ => s
/-- The security controller runs, so it can verify an image: its own firmware has been verified, or is the image (R394). -/
def mayVerify (s : State) (pkg : Nat) (target : FwTarget) : Bool :=
  pkgRuns s pkg && (target == .security || securityRuns s pkg)
/-- A firmware image is verified under the fused firmware key: it is measured and the dies it serves start, or it is not
started, the dies it serves are held in reset, and ALARM is logged (R394, R395). -/
def execFirmwareVerify (pkg : Nat) (target : FwTarget) (image sig : List Byte) (s : State) : Res :=
  if !mayVerify s pkg target then .next s
  else if Config.xmssVerify Config.fwKey image sig then
    let s := onSecurity s pkg fun x =>
      { extendMr x (fwMr target) image with verified := if x.verified.contains target then x.verified else target :: x.verified }
    .next (startDies s pkg target)
  else
    let (r, s) := alarmRec s pkg 0
    let s := holdDies (unverify s pkg target) pkg target
    .next { s with faults := s.faults ++ [r] }
/-- A firmware update is accepted only with a signature that verifies, and is extended into MR4, MR5 and MR6 in turn (R393,
R395). -/
def execFirmwareUpdate (pkg : Nat) (image sig : List Byte) (s : State) : Res :=
  if securityRuns s pkg && Config.xmssVerify Config.fwKey image sig then
    .next (onSecurity s pkg fun x => { extendMr x (4 + x.updates % 3) image with updates := x.updates + 1 })
  else .next s
/-- GET_MEASUREMENTS: MR0 to MR7, and the CMR of a TDI's context, signed with the next leaf of the device identity key; an
error where the key does not exist yet or has no leaf left (R396). -/
def execGetMeasurements (pkg : Nat) (tdiCtx : Option Nat) (s : State) : Res :=
  if !securityRuns s pkg then .next s else
  let x := (getPkg s pkg).sec
  if x.lifecycle == .test || x.leaf ≥ 2 ^ 20 then .next (reply s .spdmError)
  else
    let body := x.mr.toList.flatten ++ (match tdiCtx with
      | some c => (getCtx s pkg c).cmr
      | none => [])
    let s := onSecurity s pkg fun x => { x with leaf := x.leaf + 1 }
    .next (reply s (.measurement body (Config.xmssSign x.leaf body)))

/-! ## Lifecycle, debug unlock, tenant keys (R397 to R401) -/

/-- A confidential context of a package is failed: its resident waves are killed with ALARM (R399). -/
def failContexts (s : State) (pkg : Nat) : State :=
  let hit := fun w : Wave => pkgOf w.id.cd == pkg && confidential s pkg w.ctx && w.hold != .ended
  let s := ((allWaves s).filter hit).foldl (fun s w => killWave s w .alarm w.a.pc 0 w.a.trap) s
  { s with ctxs := updWhere (fun c => c.pkg == pkg && c.cflags.getLsbD 4) (fun c => { c with failed := true }) s.ctxs }
/-- The next lifecycle state (R397). -/
def nextLifecycle : Lifecycle → Option Lifecycle | .test => some .prod | .prod => some .rma | .rma => some .scrap | .scrap => none
/-- A lifecycle transition on a command signed with the debug key: forward by one state, extended into MR7; RMA and SCRAP
erase the tenant keys and fail the confidential contexts, which are never held again; the port is closed where the new state closes it, and in RMA opens at the next reset (R397; log entry 17). -/
def execLifecycleTransition (pkg : Nat) (target : Lifecycle) (cmd sig : List Byte) (s : State) : Res :=
  let x := (getPkg s pkg).sec
  if securityRuns s pkg && nextLifecycle x.lifecycle == some target && Config.xmssVerify Config.dbgKey cmd sig then
    let s := onSecurity s pkg fun x =>
      { extendMr x 7 cmd with lifecycle := target, port := x.port && target == .rma }
    .next (if target == .prod then s else failContexts (wipeKeys s pkg fun _ => true) pkg)
  else .next s
/-- n bytes of a token as a number. -/
def tokNat (tok : List Byte) (off n : Nat) : Nat := leNat ((tok.drop off).take n)
/-- A debug-unlock token that the security controller accepts (R398). -/
def tokenOk (x : Security) (tok : List Byte) : Bool :=
  tok.length == 2852 && tokNat tok 0 4 == 0x4B4E4C55 && tokNat tok 4 1 == lifecycleCode x.lifecycle && tokNat tok 5 3 == 0 &&
  tokNat tok 8 8 == x.devid.toNat && tokNat tok 16 8 == x.nonce.toNat && tokNat tok 24 8 == 0 &&
  Config.xmssVerify Config.dbgKey (tok.take 32) (tok.drop 32)
/-- A debug unlock: the token is checked, and a new nonce drawn and reported; then the keys are wiped, the confidential contexts failed,
MR7 extended, and the port opened (R398, R399). SCRAP keeps the port closed (R397). -/
def execDebugUnlock (pkg : Nat) (token : List Byte) (s : State) : Res :=
  if !securityRuns s pkg then .next s else
  let x := (getPkg s pkg).sec
  let (nonce, s) := freshWord s
  let s := reply (onSecurity s pkg fun x => { x with nonce := nonce }) (.nonce pkg nonce)
  if tokenOk x token && x.lifecycle != .scrap then
    let s := failContexts (wipeKeys s pkg fun _ => true) pkg
    .next (onSecurity s pkg fun x => { extendMr x 7 token with port := true })
  else .next s
/-- A tenant sets a context's trace key, salt and at most 16 streams; only PROD holds tenant keys (R397, R400, R401). -/
def execTenantKeySetup (pkg ctx : Nat) (keys : TenantKeys) (s : State) : Res :=
  if securityRuns s pkg && (getPkg s pkg).sec.lifecycle == .prod && 1 ≤ ctx && ctx < 4096 && keys.streams.length ≤ 16 then
    let k := { keys with streams := keys.streams.map fun t => { t with written := 0, tagf := false } }
    .next (onCtx s pkg ctx fun c => { c with keys := some k, erased := erasedNow c, keySets := c.keySets + 1 })
  else .next s

/-! ## Management (R393) -/

/-- The sensors that PLDM Type 2 reads: power in W, a die's temperature in °C, the coolant's flow, the state of a fabric link. -/
inductive Sensor | power | temperature (unit : Nat) | coolantFlow | link (id : Nat)
  deriving DecidableEq, Repr
/-- What the module answers to a sensor request: a measured quantity is free (log entry 3), at most 3,800 W; a link is down, up, or
training: 0, 1, 2 (R393). -/
def readSensor (s : State) (pkg : Nat) : Sensor → Nat × State
  | .power =>
    let (x, s) := freshWord s
    (x.toNat % 3801, s)
  | .temperature _ | .coolantFlow =>
    let (x, s) := freshWord s
    (x.toNat, s)
  | .link k => (match (getPkg s pkg).links.find? (·.id == k) with
    | some l => if !l.up then 0 else if l.training then 2 else 1
    | none => 0, s)
/-- A package-wide performance total over a window of at least 1 ms, of which the spec names no counter: a free value (R403; log entry
3). -/
def perfTotal (s : State) : BitVec 64 × State := freshWord s

end Sys2Proof.Machine
end

