-- ==== Sys2Proof/Machine/VectorFloat.lean ====
section
/-! DEFINITION. Float vector instructions (R263 to R266), the float unary ones (R271) and `cvt` (R272). -/

namespace Sys2Proof.Machine

/-- A float operation that rounds under MODE.RM: `f` of type, rounding and the two values; SEED advances
(R199, R264). -/
def fltOp (i : Instr) (d x y : VSel) (s : State) (f : EType → Rnd → FVal → FVal → Nat × Nat) : Res :=
  simple i s fun a =>
    let t := curType a
    advanceSeed (vecTyped a d x y fun l e u v => f t (rndOf a l e) (fdec t (modeFtz a.mode) u) (fdec t (modeFtz a.mode) v))
/-- A fused operation ±(x · y) ± d (R263, R264). -/
def fmaOp (i : Instr) (d x y : VSel) (s : State) (negP negD : Bool) : Res :=
  simple i s fun a =>
    let t := curType a
    let b := widthOf t
    let dec := fdec t (modeFtz a.mode)
    advanceSeed (vecWrite a d fun l =>
      let u := srcWord a .typed t x l
      let v := srcWord a .typed t y l
      let z := laneOf (regLanes a d.toNat) l
      elemwise b fun e =>
        let w := dec (elemOf b z e)
        fmaF t (rndOf a l e) negP (dec (elemOf b u e)) (dec (elemOf b v e)) (if negD then negVal w else w))
/-- A minimum or maximum (R265). -/
def minMaxOp (i : Instr) (d x y : VSel) (s : State) (mx propagate : Bool) : Res :=
  simple i s fun a =>
    let t := curType a
    vecTyped a d x y fun _ _ u v => minMax t (modeFtz a.mode) mx propagate u v
/-- A float operation on one operand that does not round under MODE.RM: `f` of type, mode, pattern and value (R271). -/
def fltOp1 (i : Instr) (d x : VSel) (s : State) (f : EType → Word → Nat → FVal → Nat × Nat) : Res :=
  simple i s fun a =>
    let t := curType a
    vecTyped1 a d x fun _ _ u => f t a.mode u (fdec t (modeFtz a.mode) u)
/-- A sign operation: the pattern passed on with its sign replaced; a NaN gives the canonical one (R271). -/
def signOp (t : EType) (f : Bool → Bool) (x : Nat) (v : FVal) : Nat × Nat :=
  let m := 2 ^ (widthOf t - 1)
  match v with
  | .nan s => (nanBits t, sigNV (.nan s))
  | _ => (signBit t (f (bitOf x (widthOf t - 1))) + passBits t x v % m, 0)

/-- round(x + y) (R263, R264). -/
def execFadd (d a b : VSel) (s : State) : Res := fltOp (.fadd d a b) d a b s fun t c x y => addF t c x y
/-- round(x − y) (R263, R264). -/
def execFsub (d a b : VSel) (s : State) : Res := fltOp (.fsub d a b) d a b s fun t c x y => addF t c x (negVal y)
/-- round(x · y) (R263, R264). -/
def execFmul (d a b : VSel) (s : State) : Res := fltOp (.fmul d a b) d a b s fun t c x y => mulF t c x y
/-- minimumNumber of x and y (R265). -/
def execFmin (d a b : VSel) (s : State) : Res := minMaxOp (.fmin d a b) d a b s false false
/-- maximumNumber of x and y (R265). -/
def execFmax (d a b : VSel) (s : State) : Res := minMaxOp (.fmax d a b) d a b s true false
/-- minimum of x and y (R265). -/
def execFminp (d a b : VSel) (s : State) : Res := minMaxOp (.fminp d a b) d a b s false true
/-- maximum of x and y (R265). -/
def execFmaxp (d a b : VSel) (s : State) : Res := minMaxOp (.fmaxp d a b) d a b s true true
/-- round(x · y + d) (R263, R264). -/
def execFfma (d a b : VSel) (s : State) : Res := fmaOp (.ffma d a b) d a b s false false
/-- round(x · y − d) (R263, R264). -/
def execFfms (d a b : VSel) (s : State) : Res := fmaOp (.ffms d a b) d a b s false true
/-- round(−(x · y) + d) (R263, R264). -/
def execFfnma (d a b : VSel) (s : State) : Res := fmaOp (.ffnma d a b) d a b s true false
/-- round(−(x · y) − d) (R263, R264). -/
def execFfnms (d a b : VSel) (s : State) : Res := fmaOp (.ffnms d a b) d a b s true true
/-- One lane of `fdp2`: x0·y0 + x1·y1 + d, rounded once to FP32 (R266). The sign of an exact zero is that of R264's rule for two
addends, taken over the three terms (log entry 26). -/
def fdp2Lane (t : EType) (c : Rnd) (u v z : Word) : Word × Nat :=
  let dec := fun x => fdec t c.ftz x
  let d := fdec .fp32 c.ftz z.toNat
  let x0 := dec (elemOf 16 u 0)
  let y0 := dec (elemOf 16 v 0)
  let x1 := dec (elemOf 16 u 1)
  let y1 := dec (elemOf 16 v 1)
  let p := mulVal x0 y0
  let q := mulVal x1 y1
  let r := sumVal (zeroSum c.rm [p.1, q.1, d]) [p.1, q.1, d]
  let o := finish .fp32 c (r.1, r.2 ||| p.2 ||| q.2 ||| sigNV x0 ||| sigNV y0 ||| sigNV x1 ||| sigNV y1 ||| sigNV d)
  (BitVec.ofNat 32 o.1, o.2)
/-- The dot product of two half-width elements with an FP32 accumulator (R266). -/
def execFdp2 (d a b : VSel) (s : State) : Res :=
  simple (.fdp2 d a b) s fun w =>
    let t := curType w
    advanceSeed (vecWrite w d fun i =>
      fdp2Lane t (rndOf w i 0) (srcWord w .typed t a i) (srcWord w .typed t b i) (laneOf (regLanes w d.toNat) i))

/-- −x (R271). -/
def execFneg (d a : VSel) (s : State) : Res := fltOp1 (.fneg d a) d a s fun t _ x v => signOp t (fun n => !n) x v
/-- |x| (R271). -/
def execFabs (d a : VSel) (s : State) : Res := fltOp1 (.fabs d a) d a s fun t _ x v => signOp t (fun _ => false) x v
/-- The largest integral value at or below x (R271). -/
def execFfloor (d a : VSel) (s : State) : Res := fltOp1 (.ffloor d a) d a s fun t _ x v => integral t 2 false x v
/-- The smallest integral value at or above x (R271). -/
def execFceil (d a : VSel) (s : State) : Res := fltOp1 (.fceil d a) d a s fun t _ x v => integral t 3 false x v
/-- x rounded toward zero to an integral value (R271). -/
def execFtrunc (d a : VSel) (s : State) : Res := fltOp1 (.ftrunc d a) d a s fun t _ x v => integral t 1 false x v
/-- x rounded to an integral value under MODE.RM, SR read as RNE; NX when it differs (R271). -/
def execFrnd (d a : VSel) (s : State) : Res :=
  fltOp1 (.frnd d a) d a s fun t m x v => integral t (if modeRm m = 5 then 0 else modeRm m) true x v

/-- A `cvt` that rounds under MODE.RM: every one but a widening float-to-float and an integer-to-integer one (R199). -/
def cvtRounds (src dst : EType) : Bool :=
  !(isIntType src && isIntType dst) && !(!isIntType src && !isIntType dst && widthOf src < widthOf dst)
/-- One lane of a `cvt` with part P: the new word and its conditions (R272). -/
def cvtLane (a : WaveArch) (src dst : EType) (p i : Nat) (u z : Word) : Word × Nat :=
  let ns := elemsOf src
  let nd := elemsOf dst
  let bs := widthOf src
  let bd := widthOf dst
  if nd ≥ ns then
    let r := fun e => conv src dst (rndOf a i (p * ns + e)) (elemOf bs u e)
    (wordOfElems bd (fun k => if p * ns ≤ k ∧ k < p * ns + ns then (r (k - p * ns)).1 else elemOf bd z k),
     elemFlags ns fun e => (r e).2)
  else
    let r := fun e => conv src dst (rndOf a i e) (elemOf bs u (p * nd + e))
    (wordOfElems bd fun e => (r e).1, elemFlags nd fun e => (r e).2)
/-- The conversion from the source type named in the word to MODE.ETYPE (R272). -/
def execCvt (d : VSel) (p : BitVec 3) (t : EType) (a : VSel) (s : State) : Res :=
  simple (.cvt d p t a) s fun w =>
    let dst := curType w
    let w' := vecWrite w d fun i => cvtLane w t dst p.toNat i (srcWord w (.src t) t a i) (laneOf (regLanes w d.toNat) i)
    if cvtRounds t dst then advanceSeed w' else w'

end Sys2Proof.Machine
end

