-- ==== Sys2Proof/Machine/VectorInt.lean ====
section
/-! DEFINITION. Integer vector instructions (R260 to R262) and the integer and raw unary ones (R271). -/

namespace Sys2Proof.Machine

/-- An integer operation on two typed operands, written exactly and then wrapped or saturated (R261). -/
def intOp (i : Instr) (d x y : VSel) (s : State) (f : Int → Int → Int) : Res :=
  simple i s fun a =>
    let t := curType a
    let b := widthOf t
    vecTyped a d x y fun _ _ u v => satInt (modeSat a.mode) (isSigned t) b (f (intOf (isSigned t) b u) (intOf (isSigned t) b v))
/-- An integer operation on the elements' patterns that never saturates: `f` of width, signedness and the
two patterns. -/
def bitOp (i : Instr) (d x y : VSel) (s : State) (f : Nat → Bool → Nat → Nat → Nat) : Res :=
  simple i s fun a =>
    let t := curType a
    vecTyped a d x y fun _ _ u v => (f (widthOf t) (isSigned t) u v, 0)
/-- A bitwise operation on whole lane words (class A). -/
def rawOp (i : Instr) (d x y : VSel) (s : State) (f : Word → Word → Word) : Res :=
  simple i s fun a => vecRaw a d x y f
/-- An integer operation on one typed operand. -/
def intOp1 (i : Instr) (d x : VSel) (s : State) (f : Bool → Int → Int) : Res :=
  simple i s fun a =>
    let t := curType a
    let b := widthOf t
    vecTyped1 a d x fun _ _ u => satInt (modeSat a.mode) (isSigned t) b (f (isSigned t) (intOf (isSigned t) b u))
/-- An operation on one whole lane word. -/
def rawOp1 (i : Instr) (d x : VSel) (s : State) (f : Word → Word) : Res :=
  simple i s fun a => vecWrite a d fun l => (f (srcWord a .raw .fp32 x l), 0)

/-- x + y, wrapped or saturated (R260, R261). -/
def execIadd (d a b : VSel) (s : State) : Res := intOp (.iadd d a b) d a b s fun x y => x + y
/-- x − y, wrapped or saturated (R260, R261). -/
def execIsub (d a b : VSel) (s : State) : Res := intOp (.isub d a b) d a b s fun x y => x - y
/-- x · y, wrapped or saturated (R260, R261). -/
def execImul (d a b : VSel) (s : State) : Res := intOp (.imul d a b) d a b s fun x y => x * y
/-- The upper b bits of the exact product (R260). -/
def execImulh (d a b : VSel) (s : State) : Res :=
  bitOp (.imulh d a b) d a b s fun n sg x y => wrapN n (intOf sg n x * intOf sg n y / (2 ^ n : Nat))
/-- d + x · y, formed exactly, wrapped or saturated (R260, R261). -/
def execImad (d a b : VSel) (s : State) : Res :=
  simple (.imad d a b) s fun w =>
    let t := curType w
    let n := widthOf t
    let sg := isSigned t
    vecWrite w d fun i =>
      let u := srcWord w .typed t a i
      let v := srcWord w .typed t b i
      let z := laneOf (regLanes w d.toNat) i
      elemwise n fun e =>
        satInt (modeSat w.mode) sg n (intOf sg n (elemOf n z e) + intOf sg n (elemOf n u e) * intOf sg n (elemOf n v e))
/-- The lesser element (R260). -/
def execImin (d a b : VSel) (s : State) : Res :=
  bitOp (.imin d a b) d a b s fun n sg x y => if intOf sg n x ≤ intOf sg n y then x else y
/-- The greater element (R260). -/
def execImax (d a b : VSel) (s : State) : Res :=
  bitOp (.imax d a b) d a b s fun n sg x y => if intOf sg n x ≤ intOf sg n y then y else x
/-- |x − y| as an unsigned value (R260). -/
def execIabsd (d a b : VSel) (s : State) : Res :=
  bitOp (.iabsd d a b) d a b s fun n sg x y => (intOf sg n x - intOf sg n y).natAbs
/-- a and b, on the whole lane word (R260). -/
def execVand (d a b : VSel) (s : State) : Res := rawOp (.vand d a b) d a b s fun x y => x &&& y
/-- a or b, on the whole lane word (R260). -/
def execVor (d a b : VSel) (s : State) : Res := rawOp (.vor d a b) d a b s fun x y => x ||| y
/-- a xor b, on the whole lane word (R260). -/
def execVxor (d a b : VSel) (s : State) : Res := rawOp (.vxor d a b) d a b s fun x y => x ^^^ y
/-- a and not b, on the whole lane word (R260). -/
def execVandn (d a b : VSel) (s : State) : Res := rawOp (.vandn d a b) d a b s fun x y => x &&& ~~~y
/-- x shifted left by the element of VB, 0 for a count of b or more (R260; the count is an element, log entry 12). -/
def execShl (d a b : VSel) (s : State) : Res :=
  bitOp (.shl d a b) d a b s fun n _ x c => if c < n then x * 2 ^ c else 0
/-- x shifted right with zero fill (R260). -/
def execShr (d a b : VSel) (s : State) : Res :=
  bitOp (.shr d a b) d a b s fun n _ x c => if c < n then x / 2 ^ c else 0
/-- x shifted right with the element's top bit as fill (R260). -/
def execSar (d a b : VSel) (s : State) : Res :=
  bitOp (.sar d a b) d a b s fun n _ x c => wrapN n (sgn n x / (2 ^ Nat.min c n : Nat))
/-- x rotated left by c mod b (R260). -/
def execIrot (d a b : VSel) (s : State) : Res :=
  bitOp (.irot d a b) d a b s fun n _ x c => x * 2 ^ (c % n) + x / 2 ^ (n - c % n)
/-- The dot product of packed elements into the lane's 32-bit accumulator (R262). -/
def execIdp (d a b : VSel) (s : State) : Res :=
  simple (.idp d a b) s fun w =>
    let t := curType w
    let n := widthOf t
    let sg := isSigned t
    vecWrite w d fun i =>
      let u := srcWord w .typed t a i
      let v := srcWord w .typed t b i
      let z := laneOf (regLanes w d.toNat) i
      let p := sumInt ((List.range (32 / n)).map fun e => intOf sg n (elemOf n u e) * intOf sg n (elemOf n v e))
      let r := satInt (modeSat w.mode) sg 32 (intOf sg 32 z.toNat + p)
      (BitVec.ofNat 32 r.1, r.2)

/-- −x, saturating (R271). -/
def execIneg (d a : VSel) (s : State) : Res := intOp1 (.ineg d a) d a s fun _ x => -x
/-- |x|, saturating; an unsigned x is returned unchanged (R271). -/
def execIabs (d a : VSel) (s : State) : Res := intOp1 (.iabs d a) d a s fun sg x => if sg then (x.natAbs : Int) else x
/-- not a (R271). -/
def execVnot (d a : VSel) (s : State) : Res := rawOp1 (.vnot d a) d a s fun x => ~~~x
/-- The number of one bits of the lane word (R271). -/
def execPopc (d a : VSel) (s : State) : Res := rawOp1 (.popc d a) d a s fun x => BitVec.ofNat 32 (popcount 32 x.toNat)
/-- The leading zero bits of the lane word (R271). -/
def execClz (d a : VSel) (s : State) : Res := rawOp1 (.clz d a) d a s fun x => BitVec.ofNat 32 (clzN 32 x.toNat)
/-- The lane word with bit j moved to bit 31 − j (R271). -/
def execBrev (d a : VSel) (s : State) : Res := rawOp1 (.brev d a) d a s fun x => BitVec.ofNat 32 (revBits 32 x.toNat)

end Sys2Proof.Machine
end

