-- ==== Sys2Proof/Machine/VectorMove.lean ====
section
/-! DEFINITION. Compares (R267, R268), moves, select and lane access (R269, R270, R273) and the cross-lane
operations (R274, R275). -/

namespace Sys2Proof.Machine

/-- The destination triple of a compare: the result in active lanes, combined as SUB says (R267). -/
def cmpMask (o : CmpComb) (em old r : Mask) : Mask :=
  match o with
  | .set => em &&& r
  | .and => (old &&& ~~~em) ||| (old &&& em &&& r)
  | .or => old ||| (em &&& r)
/-- A compare: `f` gives an element's bit and conditions; a lane's bit holds when every element's does (R267). -/
def cmpOp (i : Instr) (o : CmpComb) (k : BitVec 5) (x y : VSel) (s : State) (f : EType → WaveArch → Nat → Nat → Bool × Nat) : Res :=
  simple i s fun a =>
    let t := curType a
    let b := widthOf t
    let r := fun l e => f t a (elemOf b (srcWord a .typed t x l) e) (elemOf b (srcWord a .typed t y l) e)
    let m := maskOf fun l => (List.range (32 / b)).all fun e => (r l e).1
    let fl := flagsOver a.em fun l => elemFlags (32 / b) fun e => (r l e).2
    orStat (writeTriple (isHandler s.cur) a (3 * k.toNat) (cmpMask o a.em (readTriple a (3 * k.toNat)) m)) fl
/-- An integer condition (R268). -/
def icmpBit (c : IcmpCc) (x y : Int) : Bool :=
  match c with
  | .eq => x == y | .ne => x != y | .lt => x < y | .le => x ≤ y | .gt => y < x | .ge => y ≤ x
/-- The integer compare (R267, R268). -/
def execIcmp (o : CmpComb) (c : IcmpCc) (k : BitVec 5) (a b : VSel) (s : State) : Res :=
  cmpOp (.icmp o c k a b) o k a b s fun t _ x y =>
    (icmpBit c (intOf (isSigned t) (widthOf t) x) (intOf (isSigned t) (widthOf t) y), 0)
/-- The float compare (R267, R268). -/
def execFcmp (o : CmpComb) (c : FcmpCc) (k : BitVec 5) (a b : VSel) (s : State) : Res :=
  cmpOp (.fcmp o c k a b) o k a b s fun t w x y =>
    fcmpBit c (fdec t (modeFtz w.mode) x) (fdec t (modeFtz w.mode) y)

/-- Each active lane word copied unchanged (R270). -/
def execMov (d a : VSel) (s : State) : Res :=
  simple (.mov d a) s fun w => vecWrite w d fun i => (srcWord w .raw .fp32 a i, 0)
/-- Select under the guard triple MODE.GSEL (R270). -/
def execSel (d a b : VSel) (s : State) : Res :=
  simple (.sel d a b) s fun w =>
    let g := readTriple w (3 * modeGsel w.mode)
    vecWrite w d fun i => (if g.getLsbD i then srcWord w .raw .fp32 a i else srcWord w .raw .fp32 b i, 0)
/-- The number of lanes a wave has (R142, R270). -/
def laneCount (w : Wave) : Nat := if isHandler w then 32 else 96
/-- One lane's word into a scalar, whatever em holds; 0 for a lane that does not exist (R270). -/
def execVrdl (d : SReg) (a : VSel) (b : SReg) (s : State) : Res :=
  simple (.vrdl d a b) s fun w =>
    let n := (readS w b).toNat
    writeS (isHandler s.cur) w d (if n < laneCount s.cur then srcWord w .raw .fp32 a n else 0)
/-- A scalar into one lane, whatever em holds; the last-result file shifts (R270). -/
def execVwrl (d : VSel) (a b : SReg) (s : State) : Res :=
  simple (.vwrl d a b) s fun w =>
    let n := (readS w b).toNat
    let old := regLanes w d.toNat
    shiftLast w d.toNat (mkLanes fun i => if i = n ∧ n < laneCount s.cur then readS w a else laneOf old i)
/-- A scalar into every active lane (R273). -/
def execVsplat (d : VSel) (a : SReg) (s : State) : Res :=
  simple (.vsplat d a) s fun w => vecWrite w d fun _ => (readS w a, 0)
/-- The lane's number (R273). -/
def execVlaneid (d : VSel) (s : State) : Res :=
  simple (.vlaneid d) s fun w => vecWrite w d fun i => (BitVec.ofNat 32 i, 0)
/-- All ones where the triple has the lane's bit, else 0 (R273). -/
def execVmask (d a : VSel) (s : State) : Res :=
  simple (.vmask d a) s fun w =>
    let t := readTriple w a.toNat
    vecWrite w d fun i => (if t.getLsbD i then 0xFFFFFFFF else 0, 0)

/-- The lane that lane i reads is valid: a lane of its sub-group that is active (R275). -/
def xlValid (em : Mask) (w i : Nat) (j : Int) : Bool :=
  decide (0 ≤ j) && decide (j < 96) && decide (j.toNat / w = i / w) && em.getLsbD j.toNat
/-- A cross-lane operation: `f` of sub-group width, lane and index word gives the source lane. A lane whose
read is invalid keeps its own source value and clears its xv bit (R274, R275). -/
def crossLane (i : Instr) (d x y : VSel) (s : State) (f : Nat → Nat → Word → Int) : Res :=
  simple i s fun a =>
    let w := modeSgw a.mode
    let j := fun l => f w l (srcWord a .raw .fp32 y l)
    let a' := vecWrite a d fun l =>
      (srcWord a .raw .fp32 x (if xlValid a.em w l (j l) then (j l).toNat else l), 0)
    { a' with xv := maskOf fun l => a.em.getLsbD l && xlValid a.em w l (j l) }
/-- Lane k (R274). -/
def execVperm (d a i : VSel) (s : State) : Res := crossLane (.vperm d a i) d a i s fun _ _ k => k.toNat
/-- Lane k of the sub-group (R274). -/
def execVbcst (d a i : VSel) (s : State) : Res := crossLane (.vbcst d a i) d a i s fun w l k => (l / w * w + k.toNat : Nat)
/-- Lane i + k, k signed (R274). -/
def execVshf (d a i : VSel) (s : State) : Res := crossLane (.vshf d a i) d a i s fun _ l k => l + k.toInt
/-- Lane i xor k (R274). -/
def execVbfly (d a i : VSel) (s : State) : Res := crossLane (.vbfly d a i) d a i s fun _ l k => (l ^^^ k.toNat : Nat)

end Sys2Proof.Machine
end

