-- ==== Sys2Proof/Machine/Debug.lean ====
section
/-! DEFINITION. The debugger (R404 to R406), the release of a debug hold (R339), lane focus (R405), and the sealing of a
trace page (R409). -/

namespace Sys2Proof.Machine

/-- The debug port of a package is open (R397, R404). -/
def portIsOpen (s : State) (pkg : Nat) : Bool := pkgRuns s pkg && (getPkg s pkg).sec.port
/-- The partition of a wave is in a debug stop. -/
def inStop (s : State) (w : WaveId) : Bool := (getCore s (coreId w)).stopped.getLsbD w.part
/-- A debugger stops a partition (R404). -/
def execDebugStopRequest (c : CoreId) (part : Nat) (s : State) : Res :=
  if portIsOpen s (pkgOf c.cd) && part < 4 then .next (onCore s c fun k => { k with stopped := setPart k.stopped part true })
  else .next s
/-- A debugger restarts every wave of a partition (R404). -/
def execDebugResume (c : CoreId) (part : Nat) (s : State) : Res :=
  if portIsOpen s (pkgOf c.cd) && part < 4 then .next (onCore s c fun k => { k with stopped := setPart k.stopped part false })
  else .next s
/-- A die leaves debug hold: its partitions and engines resume (R339, R406). -/
def execDebugHoldRelease (cd : Nat) (s : State) : Res :=
  if portIsOpen s (pkgOf cd) then
    let owed := (s.sectors.filter fun e => e.cd == cd && heldOwes s cd e.sector).map (·.sector)
    .next (holdOver (onCd s cd fun d => { d with held := false }) owed)
  else .next s

/-- The 256-bit image of a translation register (R38). -/
def txImage (t : TxReg) : Nat :=
  t.base.toNat + t.id.toNat * 2 ^ 40 + t.lo.toNat * 2 ^ 64 + b2n t.v * 2 ^ 119 + b2n t.cl * 2 ^ 120 + cohCode t.coh * 2 ^ 121 +
  kindCode t.kind * 2 ^ 123 + t.perm.toNat * 2 ^ 125 + t.hi.toNat * 2 ^ 128 + t.frame.toNat * 2 ^ 192
/-- The translation register with an image; none for a code of KIND or COH that does not exist. -/
def txOfImage (x : Nat) : Option TxReg :=
  match kindOf (bits x 124 123), cohOf (bits x 122 121) with
  | some k, some c => some
    { v := bitOf x 119, cl := bitOf x 120, id := BitVec.ofNat 24 (bits x 63 40), base := BitVec.ofNat 40 (bits x 39 0)
      lo := BitVec.ofNat 40 (bits x 103 64), hi := BitVec.ofNat 41 (bits x 168 128), frame := BitVec.ofNat 40 (bits x 231 192)
      perm := BitVec.ofNat 3 (bits x 127 125), kind := k, coh := c }
  | _, _ => none
/-- One lane of a register's lanes replaced. -/
def setLane (x : Lanes) (lane : Nat) (v : Word) : Lanes := if h : lane < 96 then x.set lane v h else x
/-- A 32-bit half of a 64-bit register replaced. -/
def setHalf (x : BitVec 64) (k : Nat) (v : Word) : BitVec 64 :=
  BitVec.ofNat 64 (setBits x.toNat (32 * (k % 2) + 31) (32 * (k % 2)) v.toNat)
/-- Word k of the 24 bytes of a path-stack entry (R187). -/
def entryWord (e : PathEntry) (k : Nat) : Word := BitVec.ofNat 32 (leNat (((entryBytes e).drop (4 * (k % 6))).take 4))
/-- An entry with a word replaced; none where its KIND is never written (R187). -/
def setEntryWord (e : PathEntry) (k : Nat) (v : Word) : Option PathEntry :=
  entryOfNat (setBits (leNat (entryBytes e)) (32 * (k % 6) + 31) (32 * (k % 6)) v.toNat)
/-- A register of a wave as a debugger writes it; reserved bits are discarded, and a value that the register cannot hold
changes nothing (R7, R183, R404). -/
def debugWrite (h : Bool) (a : WaveArch) (r : DbgReg) (v : Word) : WaveArch :=
  match r with
  | .s n => if n < 64 then writeS h a (BitVec.ofNat 6 n) v else a
  | .v r lane => if r < 192 then setLanes a r (setLane (regLanes a r) lane v) else a
  | .w r lane => if r < 8 then setLanes a (192 + r) (setLane (regLanes a (192 + r)) lane v) else a
  | .em k => if k < 3 then writeEm h a (setMaskWord a.em k v) else a
  | .xl k => if k < 3 then
      let x := setMaskWord a.xl k v
      { a with xl := x, em := a.em &&& ~~~x }
    else a
  | .tx n k => if hn : n < 7 then
      match txOfImage (setBits (txImage a.tx[n]) (32 * (k % 8) + 31) (32 * (k % 8)) v.toNat) with
      | some t => { a with tx := a.tx.set n t hn }
      | none => a
    else a
  | .pc => { a with pc := v }
  | .mode => { a with mode := (legalMode v).getD a.mode }
  | .mmode => { a with mmode := (legalMmode v).getD a.mmode }
  | .stat => { a with stat := legalStat v }
  | .seed => { a with seed := v }
  | .flag n => if hn : n < 12 then { a with flags := a.flags.set n (v.setWidth 4) hn } else a
  | .tfaddr k => { a with tfaddr := setHalf a.tfaddr k v }
  | .tsaddr k => { a with tsaddr := setHalf a.tsaddr k v }
  | .tscr n => if hn : n < 4 then { a with tscr := a.tscr.set n v hn } else a
  | .path n k => match (a.stack[n]?).bind fun e => setEntryWord e k v with
    | some e => { a with stack := a.stack.set n e }
    | none => a
  -- the top entries that a new depth leaves; others that it adds are all zero (log entry 101)
  | .depth => if v.toNat ≤ 256 then
      { a with depth := v.toNat, stack := (a.stack ++ List.replicate 16 (⟨.els, 0, 0, 0⟩ : PathEntry)).take (Nat.min 16 v.toNat) } else a
/-- A 32-bit half of a 64-bit register. -/
def halfOf (x : BitVec 64) (k : Nat) : Word := BitVec.ofNat 32 (bits x.toNat (32 * (k % 2) + 31) (32 * (k % 2)))
/-- A register of a wave as a debugger reads it; a number that no register has reads 0 (R404). -/
def regValue (a : WaveArch) (r : DbgReg) : Word :=
  match r with
  | .s n => if n < 64 then readS a (BitVec.ofNat 6 n) else 0
  | .v r lane => if r < 192 then laneOf (regLanes a r) lane else 0
  | .w r lane => if r < 8 then laneOf (regLanes a (192 + r)) lane else 0
  | .em k => if k < 3 then maskWord a.em k else 0
  | .xl k => if k < 3 then maskWord a.xl k else 0
  | .tx n k => if hn : n < 7 then BitVec.ofNat 32 (bits (txImage a.tx[n]) (32 * (k % 8) + 31) (32 * (k % 8))) else 0
  | .pc => a.pc
  | .mode => a.mode
  | .mmode => a.mmode
  | .stat => a.stat
  | .seed => a.seed
  | .flag n => if hn : n < 12 then a.flags[n].setWidth 32 else 0
  | .tfaddr k => halfOf a.tfaddr k
  | .tsaddr k => halfOf a.tsaddr k
  | .tscr n => if hn : n < 4 then a.tscr[n] else 0
  | .path n k => ((a.stack[n]?).map fun e => entryWord e k).getD 0
  | .depth => BitVec.ofNat 32 a.depth
/-- A pending register write in a wave's dump: the PC of its instruction, the destination span, and the flag (R404). -/
structure PendingWrite where
  pc : Word
  dst : VSel
  nreg : Nat
  flag : Option Nat
  deriving DecidableEq, Repr
/-- The dump of a stopped wave lists each accepted long-latency instruction that has not completed yet and will write registers,
in issue order (R404). -/
def pendingWrites (w : Wave) : List PendingWrite :=
  (w.ops.filter fun o => o.nreg != 0).map fun o => ⟨o.pc, o.dst, o.nreg, o.flag⟩
/-- The bytes of a pending register write in a dump, whose form the spec leaves open (log entry 100). -/
def pendingBytes (p : PendingWrite) : List Byte :=
  bytesOf 4 p.pc.toNat ++ bytesOf 1 p.dst.toNat ++ bytesOf 1 p.nreg ++ bytesOf 1 (p.flag.getD 255)
/-- A wave that a debugger can read: its partition is stopped, the port open, and what it has executed has committed (R404; log entry
14). -/
def dumpable (s : State) (w : WaveId) : Option Wave :=
  (getWave s w).bind fun v => if portIsOpen s (pkgOf w.cd) && inStop s w && v.window.isEmpty then some v else none
/-- What a debugger reads through the port: a register of a stopped wave, its pending register writes, the counts of its outstanding
operations in its flags, scratchpad bytes, a tile, a plane with its record, a codebook slot (R314, R339, R403, R404). -/
inductive DumpItem
  | reg (w : WaveId) (r : DbgReg) | pending (w : WaveId) | scratchpad (c : CoreId) (a n : Nat) | tile (c : CoreId) (j : Nat)
  | plane (c : CoreId) (p : Nat) | slot (c : CoreId) (k : Nat)
  deriving DecidableEq, Repr
/-- The context of what a debugger reads, and its bytes in the clear; none where the port is closed or the wave runs (R404). -/
def dumpPlain (s : State) (pkg : Nat) : DumpItem → Option (Nat × List Byte)
  | .reg w r => (dumpable s w).map fun v => (v.ctx, bytesOf 4 (regValue v.a r).toNat)
  | .pending w => (dumpable s w).map fun v => (v.ctx, (pendingWrites v).flatMap pendingBytes)
  | .scratchpad c a n => core c (scrBytes (getCore s c) a n)
  | .tile c j => core c (memBytes (getCore s c).acc (0x4000 * j) 0x4000)
  | .plane c p => core c (planeBytes ((getCore s c).planes.toArray.getD p {}))
  | .slot c k => core c (bytesOf 32 ((getCore s c).cbs.toArray.getD k 0).toNat)
where
  /-- State of a core, which belongs to the context that it runs or ran last (R188). -/
  core (c : CoreId) (bs : List Byte) : Option (Nat × List Byte) := if portIsOpen s pkg then some ((getCore s c).lastCtx, bs) else none
/-- The package of what a debugger reads. -/
def dumpPkg : DumpItem → Nat
  | .reg w _ | .pending w => pkgOf w.cd
  | .scratchpad c _ _ | .tile c _ | .plane c _ | .slot c _ => pkgOf c.cd
/-- A dump: bytes in the clear, or those of a confidential context sealed under its trace key, with their length (R403). -/
inductive Dump | plain (bs : List Byte) | sealed (cipher tag : List Byte) (len : Nat)
  deriving DecidableEq, Repr
/-- What a debugger gets, with the state after: of a confidential context the sealed bytes, none where its key is gone (R403; log
entry 100). -/
def debugDump (s : State) (i : DumpItem) : Option Dump × State :=
  let pkg := dumpPkg i
  match dumpPlain s pkg i with
  | none => (none, s)
  | some (ctx, bs) =>
    if !confidential s pkg ctx then (some (.plain bs), s)
    else match (getCtx s pkg ctx).keys with
      | none => (some (.sealed [] [] bs.length), s)
      | some k =>
        let (x, s) := freshWord s
        let r := Config.gcmSeal k.trace (k.tsalt ++ x) [] bs
        (some (.sealed r.1 r.2 bs.length), s)
/-- A register of a stopped wave that the debugger reads in the clear; none where it may not (R403, R404). -/
def debugRead (s : State) (w : WaveId) (r : DbgReg) : Option Word :=
  (dumpable s w).bind fun v => if confidential s (pkgOf w.cd) v.ctx then none else some (regValue v.a r)
/-- The debugger writes a register of a stopped wave, once what the wave has executed has committed (R404). -/
def execDebugRegisterAccess (w : WaveId) (reg : DbgReg) (value : BitVec 32) (s : State) : Res :=
  match dumpable s w with
  | none => .next s
  | some _ => .next (onWave s w fun v => { v with a := debugWrite (isHandler v) v.a reg value })

/-! ## Lane focus (R405) -/

/-- The instructions of formats VB, VU and VX; no other is executed under focus (R405). -/
def vectorExec (i : Instr) (s : State) : Option Res :=
  match i with
  | .iadd d a b => some (execIadd d a b s)
  | .isub d a b => some (execIsub d a b s)
  | .imul d a b => some (execImul d a b s)
  | .imulh d a b => some (execImulh d a b s)
  | .imad d a b => some (execImad d a b s)
  | .imin d a b => some (execImin d a b s)
  | .imax d a b => some (execImax d a b s)
  | .iabsd d a b => some (execIabsd d a b s)
  | .vand d a b => some (execVand d a b s)
  | .vor d a b => some (execVor d a b s)
  | .vxor d a b => some (execVxor d a b s)
  | .vandn d a b => some (execVandn d a b s)
  | .shl d a b => some (execShl d a b s)
  | .shr d a b => some (execShr d a b s)
  | .sar d a b => some (execSar d a b s)
  | .irot d a b => some (execIrot d a b s)
  | .idp d a b => some (execIdp d a b s)
  | .fadd d a b => some (execFadd d a b s)
  | .fsub d a b => some (execFsub d a b s)
  | .fmul d a b => some (execFmul d a b s)
  | .fmin d a b => some (execFmin d a b s)
  | .fmax d a b => some (execFmax d a b s)
  | .fminp d a b => some (execFminp d a b s)
  | .fmaxp d a b => some (execFmaxp d a b s)
  | .ffma d a b => some (execFfma d a b s)
  | .ffms d a b => some (execFfms d a b s)
  | .ffnma d a b => some (execFfnma d a b s)
  | .ffnms d a b => some (execFfnms d a b s)
  | .fdp2 d a b => some (execFdp2 d a b s)
  | .ineg d a => some (execIneg d a s)
  | .iabs d a => some (execIabs d a s)
  | .vnot d a => some (execVnot d a s)
  | .popc d a => some (execPopc d a s)
  | .clz d a => some (execClz d a s)
  | .brev d a => some (execBrev d a s)
  | .fneg d a => some (execFneg d a s)
  | .fabs d a => some (execFabs d a s)
  | .ffloor d a => some (execFfloor d a s)
  | .fceil d a => some (execFceil d a s)
  | .ftrunc d a => some (execFtrunc d a s)
  | .frnd d a => some (execFrnd d a s)
  | .cvt d p t a => some (execCvt d p t a s)
  | .vsplat d a => some (execVsplat d a s)
  | .vlaneid d => some (execVlaneid d s)
  | .vmask d a => some (execVmask d a s)
  | .vperm d a i => some (execVperm d a i s)
  | .vbcst d a i => some (execVbcst d a i s)
  | .vshf d a i => some (execVshf d a i s)
  | .vbfly d a i => some (execVbfly d a i s)
  | .mov d a => some (execMov d a s)
  | .sel d a b => some (execSel d a b s)
  | .vrdl d a b => some (execVrdl d a b s)
  | .vwrl d a b => some (execVwrl d a b s)
  | _ => none
/-- What the path stack of a wave under focus still needs before the debugger's request can be done: tokens, or a walk (R41, R80). -/
def focusNeeds {α : Type} (s : State) (w : Wave) (g : Got α) : State :=
  match g with
  | .notYet t => t
  | .walks ps => startWalks s w ps
  | _ => s
/-- It can come, so that the request may be made again. -/
def focusWaits {α : Type} (g : Got α) : Bool :=
  match g with
  | .notYet _ | .walks _ | .wait _ => true
  | _ => false
/-- Lane focus is entered on a stopped wave that stands ready at its PC with nothing uncommitted: the deferred lanes are
pushed and em holds the one lane (R405). A push that the path stack cannot hold is refused. -/
def execLaneFocusEnter (w : WaveId) (lane : Nat) (s : State) : Res :=
  match getWave s w with
  | none => .next s
  | some v =>
    if portIsOpen s (pkgOf w.cd) && inStop s w && v.window.isEmpty && v.focus.isNone && lane < 96 && v.a.em.getLsbD lane &&
        (v.hold == .ready || isStalled v) then
      let one : Mask := 1 <<< lane
      let g := (pushEntry s v ⟨.els, v.a.em &&& ~~~one, 0xFFFFFFFC, v.a.pc⟩ (viewOf v.a)).andThen fun x =>
          (settle s v x).andThen fun (hw, acc, rd) => .ok (x, hw, acc, rd)
      match g with
      | .ok (x, hw, acc, rd) =>
        let s := focusOn (readDone s v rd) v
        let o := { newOp s .frame 0 15 with flag := none, acc := acc, left := true }
        let s := if acc.isEmpty then s else accept s o
        let f : Focus := { lane := lane, n := 0, pc := v.a.pc, mask := v.a.em &&& ~~~one, rest := none }
        .next (mapA { s with cur := { s.cur with focus := some f } } fun a => { a with em := one, stack := hw, depth := x.total })
      | g => .next (if focusWaits g then focusNeeds s v g else reply s (.focusRefused w))
    else .next s
/-- One instruction of the issuing wave under focus, fetched as every instruction is, so that it may first wait for a walk or for
tokens (R41, R80, R203): none where it cannot be fetched, is not permitted or would trap, which is held. -/
def focusInstr (s : State) : Option State :=
  match fetchOut s s.cur s.cur.a.pc with
  | .fault _ _ => none
  | .wait id => some (holdMigration s id)
  | .walk id page => some (waitWalks s [(id, page)])
  | .ok p => match fetchNeeds s s.cur p, decode (fetchWord s s.cur p) with
    | some x, _ => some (awaitSector s x)
    | none, .error _ => none
    | none, .ok i =>
      let s := fetched s s.cur s.cur.a.pc p
      if (decodeTrap i s.cur).isSome then none else
      match vectorExec i s with
      | some (.next t) => some t
      | _ => none
/-- A step for the focused lane alone; an instruction of another format is not executed, and the debugger is told. A step
that has to wait is asked for again (R405). -/
def execLaneFocusStep (w : WaveId) (s : State) : Res :=
  match getWave s w with
  | none => .next s
  | some v =>
    match v.focus with
    | none => .next s
    | some f =>
      if !inStop s w || f.rest.isSome then .next s else
      match focusInstr (focusOn s v) with
      | none => .next (reply s (.focusRefused w))
      | some t =>
        if t.cur.seq = v.seq then .next t
        else .next { t with cur := { t.cur with hold := .ready, focus := some { f with n := f.n + 1 } } }
/-- The deferred lanes run the instructions that are left, as far as they can issue now. -/
def runDeferred : Nat → State → Nat × State
  | 0, s => (0, s)
  | n + 1, s =>
    match focusInstr s with
    | none => (n + 1, s)
    | some t => if t.cur.seq = s.cur.seq then (n + 1, t) else runDeferred n { t with cur := { t.cur with hold := .ready } }
/-- The path stack without the focus entry; spilled entries come back as the hardware entries empty (R187). -/
def popFocus (s : State) (w : Wave) : Got (List PathEntry × Nat × List LaneAcc) :=
  (fill s w 1 1 (viewOf w.a)).andThen fun v =>
    (settle s w { v with pre := v.pre.drop 1 }).andThen fun (hw, _, rd) => .ok (hw, v.total - 1, rd)
/-- Focus is left: the deferred lanes run the stepped instructions from the stop PC, then all lanes go on together (R405).
What the deferred lanes run is committed with it. -/
def execLaneFocusLeave (w : WaveId) (s : State) : Res :=
  match getWave s w with
  | none => .next s
  | some v =>
    match v.focus with
    | none => .next s
    | some f =>
      if !inStop s w || !v.window.isEmpty then .next s else
      let s := focusOn s v
      let s := match f.rest with
        | some _ => s
        | none => mapA s fun a => { a with em := f.mask &&& ~~~a.xl, pc := f.pc }
      let (rest, s) := runDeferred (f.rest.getD f.n) s
      let s := { s with cur := { s.cur with window := [], ops := s.cur.ops.map fun o => { o with left := true } } }
      let wait := fun s : State => { s with cur := { s.cur with focus := some { f with rest := some rest } } }
      if rest != 0 then .next (wait s) else
      match popFocus s s.cur with
      | .ok (hw, d, rd) =>
        let one : Mask := 1 <<< f.lane
        let s := readDone s s.cur rd
        .next (mapA { s with cur := { s.cur with focus := none } } fun a =>
          { a with em := (f.mask ||| one) &&& ~~~a.xl, stack := hw, depth := d })
      | g => .next (wait (focusNeeds s s.cur g))

/-! ## Confidential trace (R409) -/

/-- An open trace page is sealed 1 ms after its first record (R409). -/
def execTracePageSeal (cd ctx : Nat) (s : State) : Res :=
  .next (if (getCd s cd).pend.isEmpty then traceWrite (sealTrace s cd ctx) cd else sealTrace s cd ctx)

end Sys2Proof.Machine
end

