-- ==== Sys2Proof/Machine/Errors.lean ====
section
/-! DEFINITION. Errors of the arrays and of the paths between them: parity and ECC errors, the end-to-end check values, and
the sideband (R57 to R62, R334, R372). When one comes, and where, is free (log entry 1). -/

namespace Sys2Proof.Machine

/-! ## The sideband (R60) -/

/-- The sideband of a sector without its ECC field. -/
def sideLow (h : Home) : Word :=
  BitVec.ofNat 32 (h.serial.toNat * 65536 + b2n h.poison * 32768 + b2n h.own * 16384 + h.tokens % 128 * 128)
/-- The sideband of a sector (R60). The slice's own copy and the stack's are one here: nothing tells them apart. -/
def sideband (s : State) (x : Nat) : BitVec 64 := Config.ecc (homeData s x) (sideLow (getHome s x)) ++ sideLow (getHome s x)
/-- A sideband that no state of a sector has: an uncorrectable error (R60). -/
def badSideband (h : Home) : Bool := h.tokens > 64 || (h.own && h.tokens == 0)
/-- What a memory-test read of the driver shows of sector x of a package: data and sideband; all ones for a frame of a
confidential context (R60, R400). -/
def memoryTest (s : State) (pkg x : Nat) : BitVec 512 × BitVec 64 :=
  let y := pkg * 2 ^ 38 + x
  if confFrame s (pkg * 2 ^ 28 + x / 1024) then (ones512, BitVec.allOnes 64) else (homeData s y, sideband s y)
/-- A memory-test write of the driver to sector x of a package: discarded for a frame of a confidential context (R400), else made at
the home once it holds all 64 tokens (log entry 104). -/
def memoryTestWrite (s : State) (pkg x : Nat) (d : BitVec 512) : State :=
  let y := pkg * 2 ^ 38 + x
  if confFrame s (pkg * 2 ^ 28 + x / 1024) then s
  else
    let (ok, s) := homeGather s [y]
    if ok then homeDone (setHomeData s y d false) y else s

/-! ## Check values (R62) -/

/-- One bit of a CRC-32C (log entry 89). -/
def crcBit (c : Word) : Word := if c.getLsbD 0 then (c >>> 1) ^^^ 0x82F63B78 else c >>> 1
/-- A byte taken into a CRC-32C. -/
def crcByte (c : Word) (b : Byte) : Word := (List.range 8).foldl (fun c _ => crcBit c) (c ^^^ b.setWidth 32)
/-- CRC-32C of a list of bytes (R62). -/
def crc32c (bs : List Byte) : Word := ~~~ bs.foldl crcByte 0xFFFFFFFF
/-- Data on its way: bytes, the mask of those that are meant, and the check value made where it entered (R62). -/
structure Packet where
  bytes : List Byte
  mask : BitVec 64
  check : Word
  deriving DecidableEq, Repr
/-- The check value over data bytes and byte mask. -/
def checkOf (bs : List Byte) (m : BitVec 64) : Word := crc32c (bs ++ bytesOf 8 m.toNat)
/-- A packet as it is made. -/
def packetOf (bs : List Byte) (m : BitVec 64) : Packet := ⟨bs, m, checkOf bs m⟩
/-- The check of a packet at a merge point, an exit or an engine. -/
def verifies (p : Packet) : Bool := checkOf p.bytes p.mask == p.check
/-- A datum meets its next check with bytes that are free: it fails where they do not verify (R62; log entry 89). -/
def checkFails (s : State) (bs : List Byte) : Bool × State :=
  let (got, s) := (List.range (ceilDiv bs.length 8)).foldl (fun (p : List Byte × State) _ =>
    let (x, s) := freshWord p.2
    (p.1 ++ bytesOf 8 x.toNat, s)) ([], s)
  (!verifies { packetOf bs (BitVec.allOnes 64) with bytes := got.take bs.length }, s)
/-- The 64 bytes of a sector's data. -/
def bytes512 (d : BitVec 512) : List Byte := bytesOf 64 d.toNat

/-! ## The events -/

/-- An error, and where it is found. -/
inductive ErrEvent
  /-- Parity on an L1 hit (R57). -/
  | l1Parity (cd x core : Nat)
  /-- A single-bit error in the scratchpad, the accumulator store or the die cache of a die, corrected (R58, R59). -/
  | single (cd : Nat)
  /-- A double-bit error in a scratchpad word, in a tile (R58). -/
  | scrDouble (c : CoreId)
  | tileDouble (c : CoreId)
  /-- An uncorrectable error of a die cache's sector; of a line of a slice; of the stack (R59). -/
  | cacheDouble (cd x : Nat)
  | sliceDouble (md line : Nat)
  | stackDouble (md : Nat)
  /-- A sideband that no state of a sector has (R60). -/
  | sideband (x : Nat)
  /-- A check value that fails: in a die cache, at a home, in a write-combining buffer, in flight, at an engine's write into the
  scratchpad, and in an engine that writes a tile, a plane or a slot (R62, R334). -/
  | checkCache (cd x : Nat)
  | checkHome (x : Nat)
  | checkBuffer (c : CoreId) (n : Nat)
  | checkFlight (n : Nat)
  | checkScratch (c : CoreId)
  | checkTask (c : CoreId) (n : Nat)
  /-- A check value that fails where load data is written into registers, of a load or atomic and of an `sld`, or where the I/O die
  consumes what it has read for a locked atomic; and in the engine that consumes what a burst or unit has read (R62). -/
  | checkLoad (w : WaveId) (n : Nat)
  | checkWord (w : WaveId)
  | checkUnit (c : CoreId) (tag u : Nat)
  /-- A check value that fails as data of a store, an atomic or a collective operation leaves on a host link (R62). -/
  | checkEgress (w : WaveId) (n : Nat)
  deriving DecidableEq, Repr

/-- A correction counted at a die (R372; log entry 89). -/
def countCorr (s : State) (cd : Nat) : State := onCd s cd fun d => { d with corr := sat16 d.corr }
/-- A die's sector becomes poisoned at the die (R59, R61). -/
def poisonSec (s : State) (cd x : Nat) : State := if atomOpen s .dev x then s else onSec s cd x fun e => { e with poison := true, data := ones512, l1 := [] }
/-- A word of a core's scratchpad becomes poisoned (R58). -/
def poisonWord (s : State) (c : CoreId) (k : Nat) : State := if atomOpen s (.scr c) (k / 8) then s else onCore s c fun q => scrMark q k
/-- A home's sector becomes poisoned where the home has its data (R59, R61). -/
def poisonHome (s : State) (x : Nat) : State := if (getHome s x).own && !atomOpen s .dev x then onHome s x fun h => { h with poison := true } else s
/-- An uncorrectable error of a die cache's sector: a clean copy is dropped and fetched again, modified data or the owner token's
becomes poisoned (R59). -/
def cacheError (s : State) (cd x : Nat) : State :=
  let e := getSec s cd x
  if e.tokens = 0 || !e.valid then s
  else if e.modified || e.own then poisonSec s cd x
  else postReq (countCorr (onSec s cd x fun e => { e with valid := false, l1 := [] }) cd) cd x false
/-- An uncorrectable error in a line of a slice: a clean line is dropped and fetched from the stack again, a sector of a modified one
becomes poisoned (R59). -/
def sliceError (s : State) (md line : Nat) : State :=
  if (getMd s md).slice.contains (line, true) then
    let (b, s) := freshBool s
    poisonHome s (2 * line + b2n b)
  else onMd s md fun d => { d with slice := d.slice.filter (·.1 != line) }
/-- A sector of a stack, at random. -/
def anySector (md : Nat) (s : State) : Nat × State :=
  let (x, s) := freshWord s
  let (y, s) := freshWord s
  (md / 16 * 2 ^ 38 + (x.toNat % 0x300000 * 8 + md % 8) * 1024 + y.toNat % 1024, s)
/-- The data of a message in flight is poisoned (R61, R62). -/
def poisonMsg (b : MsgBody) : MsgBody :=
  match b with
  | .tok x ser c own (some d) m _ tag w => .tok x ser c own (some d) m true tag w
  | .report x die ser c own true d _ => .report x die ser c own true d true
  | .late x die ser c own true d _ => .late x die ser c own true d true
  | b => b
/-- The data of a message in flight. -/
def msgData (b : MsgBody) : Option (BitVec 512) :=
  match b with
  | .tok _ _ _ _ d _ _ _ _ => d
  | .report _ _ _ _ _ true d _ => some d
  | .late _ _ _ _ _ true d _ => some d
  | _ => none
/-- The sector of its data. -/
def dataSector (b : MsgBody) : Nat :=
  match b with
  | .tok x _ _ _ _ _ _ _ _ | .report x _ _ _ _ _ _ _ | .late x _ _ _ _ _ _ _ => x
  | _ => 0
/-- What a task writes becomes poisoned: its plane, its slot or its tile (R334). -/
def poisonDest (t : TileTask) (c : Core) : Core :=
  match t.fn.toNat with
  | 1 => { c with cbPoison := c.cbPoison ||| (1 <<< (t.ct.toNat % 8)) }
  | 2 | 3 | 4 | 5 => onPlane c t.pl.toNat fun p => { p with pois := true }
  | 6 | 7 | 12 => setTilePoison c t.ct.toNat true
  | _ => c
/-- The values that an operation has read and not yet written into registers or memory: those of its finished accesses once none is
left, or that of a locked read (R62, R65). -/
def readData (o : Op) : List Byte :=
  match o.kind with
  | .load _ => if o.acc.isEmpty then o.done.flatMap fun y => bytesOf y.sz y.val else []
  | .atom _ => (match o.lock with
    | some v => (o.acc.head?.map fun y => bytesOf y.sz v).getD []
    | none => if o.acc.isEmpty then o.done.flatMap fun y => bytesOf y.sz y.val else [])
  | _ => []
/-- A load or atomic whose data fails its check on the way into the registers: the wave is killed, and no destination is written
(R61, R62). -/
def failLoad (s : State) (w : Wave) (o : Op) : State :=
  completeOp (if w.hold == .ended then s else killWave s w .poison o.pc 0 w.a.trap) w.id o id
/-- The bytes that a unit has read from the source sector of its byte i carry a mark from here on (R61, R62). -/
def markRead (ps : List Target) (u i : Nat) (q : EngReq) : EngReq :=
  let at_ := fun k : Nat => (ps[k]?).map fun t => (t.space, t.addr / 64)
  { q with got := q.got.map fun g => if g.1 == u && at_ g.2.1 == at_ i then (u, g.2.1, { g.2.2 with val := 0xFF, pois := true }) else g }
/-- The accesses of an operation whose data leaves on a host link without the write-combining buffer. -/
def hostAccs (o : Op) : List LaneAcc :=
  if !o.left then [] else o.acc.filter fun y => match y.tgt.space with
    | .host _ => true
    | _ => false
/-- An access of an operation leaves poisoned on its host link: of a collective operation as from a poisoned source (R61, R62). -/
def failEgress (y : LaneAcc) (o : Op) : Op :=
  match o.kind with
  | .coll _ => { o with acc := updWhere (· == y) (fun y => { y with cmp := 1 }) o.acc }
  | .load _ => o
  | _ => { o with bad := y :: o.bad }
/-- An error comes. -/
def ErrEvent.run (e : ErrEvent) (s : State) : Res :=
  match e with
  | .l1Parity cd x core => .next (if (getSec s cd x).l1.contains core then countCorr (dropL1 s cd x core) cd else s)
  | .single cd => .next (countCorr s cd)
  | .scrDouble c =>
    let (k, s) := freshWord s
    .next (poisonWord s c (k.toNat % 32768))
  | .tileDouble c =>
    let (k, s) := freshWord s
    .next (onCore s c fun q => setTilePoison q (k.toNat % 16) true)
  | .cacheDouble cd x => .next (cacheError s cd x)
  | .sliceDouble md line => .next (sliceError s md line)
  | .stackDouble md =>
    let (x, s) := anySector md s
    .next (if (getMd s md).slice.any (·.1 == x / 2) then s else poisonHome s x)
  | .sideband x => .next (if badSideband (getHome s x) && !atomOpen s .dev x then onHome s x fun h => { h with poison := true } else s)
  | .checkCache cd x =>
    let (bad, s) := checkFails s (bytes512 (getSec s cd x).data)
    .next (if bad && (getSec s cd x).tokens != 0 && (getSec s cd x).valid then poisonSec s cd x else s)
  | .checkHome x =>
    let (bad, s) := checkFails s (bytes512 (homeData s x))
    .next (if bad then poisonHome s x else s)
  | .checkBuffer c n =>
    match (getCore s c).wc[n]? with
    | none => .next s
    | some e =>
      let (h, s) := freshBool s
      let k := b2n h
      let (bad, s) := checkFails s (bytesOf 64 (e.data.extractLsb' (512 * k) 512).toNat)
      .next (if bad then onCore s c fun q => { q with wc := q.wc.mapIdx fun i e => if i = n then { e with pois := e.pois ||| (1 <<< k) } else e } else s)
  | .checkFlight n =>
    match s.net[n]? with
    | none => .next s
    | some m => match msgData m.body with
      | none => .next s
      | some d =>
        let (bad, s) := checkFails s (bytes512 d)
        .next (if bad && !atomOpen s .dev (dataSector m.body) then { s with net := s.net.set n { m with body := poisonMsg m.body } } else s)
  | .checkScratch c =>
    let (k, s) := freshWord s
    let k := k.toNat % 32768
    let (bad, s) := checkFails s (memBytes (getCore s c).scr (8 * k) 8)
    .next (if bad then poisonWord s c k else s)
  | .checkTask c n =>
    match findTask s c n with
    | none => .next s
    | some t =>
      if !t.started then .next s
      else
        let (bad, s) := checkFails s (memBytes (getCore s c).acc (0x4000 * t.ct.toNat) 64)
        .next (if bad then onCore s c (poisonDest t) else s)
  | .checkLoad w n =>
    match getWave s w, findOp s w n with
    | some x, some o =>
      let (bad, s) := checkFails s (readData o)
      .next (if bad && !(readData o).isEmpty then failLoad s x o else s)
    | _, _ => .next s
  | .checkWord w =>
    match getWave s w with
    | none => .next s
    | some x => match x.hold with
      | .sld _ acc => match tryRead s x s.nextId [acc] with
        | .got vals none s =>
          let (bad, s) := checkFails s (bytesOf 4 ((vals.map (·.2)).headD 0))
          .next (if bad then killWave s x .poison (x.a.pc - 4) acc.oaddr x.a.trap else s)
        | _ => .next s
      | _ => .next s
  | .checkUnit c tag u =>
    match findReq s c tag with
    | none => .next s
    | some q => match q.flying.find? (·.1 == u) with
      | none => .next s
      | some (_, row) =>
        let got := gotOf q u
        let (x, s) := freshWord s
        match got[x.toNat % got.length]? with
        | none => .next s
        | some (i, b) =>
          let (bad, s) := checkFails s [b.val]
          .next (if bad && !b.lost then onReq s c tag (markRead (srcPlaces (pkgOf c.cd) q u row) u i) else s)
  | .checkEgress w n =>
    match findOp s w n with
    | none => .next s
    | some o =>
      let (x, s) := freshWord s
      match (hostAccs o)[x.toNat % (hostAccs o).length]? with
      | none => .next s
      | some y =>
        let (bad, s) := checkFails s (bytesOf y.sz y.val)
        .next (if bad then onWave s w fun v => { v with ops := updWhere (·.id == n) (failEgress y) v.ops } else s)
/-- The errors that may come. -/
def errorEvents (s : State) : List ErrEvent :=
  s.cds.flatMap (fun d => if d.present then [.single d.unit] else []) ++
  s.sectors.flatMap (fun e => e.l1.map (.l1Parity e.cd e.sector ·) ++ [.cacheDouble e.cd e.sector, .checkCache e.cd e.sector]) ++
  s.cores.flatMap (fun c => [.scrDouble c.id, .tileDouble c.id, .checkScratch c.id] ++
    c.wc.zipIdx.map (fun (_, n) => .checkBuffer c.id n) ++ (c.tiles.filter (·.started)).map (fun t => .checkTask c.id t.op)) ++
  (allWaves s).flatMap (fun w => (match w.hold with | .sld _ _ => [.checkWord w.id] | _ => []) ++
    (w.ops.filter fun o => !(readData o).isEmpty).map (fun o => .checkLoad w.id o.id) ++
    (w.ops.filter fun o => !(hostAccs o).isEmpty).map fun o => .checkEgress w.id o.id) ++
  s.cores.flatMap (fun c => c.reqs.flatMap fun q => (q.flying.filter fun f => !(gotOf q f.1).isEmpty).map fun f => .checkUnit c.id q.tag f.1) ++
  s.mds.flatMap (fun d => .stackDouble d.unit :: d.slice.map fun e => .sliceDouble d.unit e.1) ++ s.homes.map (fun h => .checkHome h.sector) ++
  (s.net.zipIdx.filter fun (m, _) => (msgData m.body).isSome).map fun (_, n) => .checkFlight n

end Sys2Proof.Machine
end

