-- ==== Sys2Proof/Machine/WaveControl.lean ====
section
/-! DEFINITION. Wave control (R245 to R250). -/

namespace Sys2Proof.Machine

/-- `nop` has no effect (R249). -/
def execNop (s : State) : Res := simple .nop s id
/-- `exit` ends the wave, whatever em holds (R250). -/
def execExitW (s : State) : Res :=
  checked .exitW s fun s => .next (endWave (advance (issue s)))
/-- Every flag that a mask names reads 0 (R186). -/
def flagsClear (a : WaveArch) (m : BitVec 12) : Bool :=
  (List.range 12).all fun n => !m.getLsbD n || flagOf a n == 0
/-- `wait` issues only when every named flag reads 0 (R246). -/
def execWaitW (mask : BitVec 12) (s : State) : Res :=
  checked (.waitW mask) s fun s =>
    .next (if flagsClear s.cur.a mask then advance (issue s) else stall s)
/-- The register of a selector (R183). -/
def modeReg (a : WaveArch) (sel : ModeSel) : Word :=
  match sel with
  | .mode => a.mode | .mmode => a.mmode | .stat => a.stat | .seed => a.seed
/-- The registers with a new value for a selector; none for a reserved value in an RW field (R183). -/
def setModeReg (a : WaveArch) (sel : ModeSel) (x : Word) : Option WaveArch :=
  match sel with
  | .mode => (legalMode x).map fun m => { a with mode := m }
  | .mmode => (legalMmode x).map fun m => { a with mmode := m }
  | .stat => some { a with stat := legalStat x }
  | .seed => some { a with seed := x }
/-- A `setmode` of a new value: RSVF for a reserved one (R183, R247). -/
def modeWrite (s : State) (sel : ModeSel) (x : Word) : State :=
  match setModeReg s.cur.a sel x with
  | some a => advance (mapA (issue s) fun _ => a)
  | none => trapAt s .rsvf
/-- `setmode` (R247). -/
def execSetmode (a : SReg) (sel : ModeSel) (s : State) : Res :=
  checked (.setmode a sel) s fun s => .next (modeWrite s sel (readS s.cur.a a))
/-- `setmode.m`: the bits of the mask alone (R247). -/
def execSetmodeM (a b : SReg) (sel : ModeSel) (s : State) : Res :=
  checked (.setmodeM a b sel) s fun s =>
    let m := readS s.cur.a b
    .next (modeWrite s sel ((modeReg s.cur.a sel &&& ~~~m) ||| (readS s.cur.a a &&& m)))
/-- `getmode` (R247). -/
def execGetmode (a : SReg) (sel : ModeSel) (s : State) : Res :=
  simple (.getmode a sel) s fun w => writeS (isHandler s.cur) w a (modeReg w sel)
/-- `trap n`: a DBG trap whose frame continues behind it (R249). -/
def execTrapW (n : BitVec 4) (s : State) : Res :=
  checked (.trapW n) s fun s =>
    .next (raiseTrap s .dbg (n.setWidth 32) (s.cur.a.pc + 4) s.cur.a.pc 0 0 false)
/-- A ready pending wave of the same partition (R161, R248). -/
def pendingReady (s : State) (w : Wave) : Bool :=
  s.waves.any fun x => x.live && x.hold == .ready && !x.active && !isHandler x &&
    x.id.cd == w.id.cd && x.id.core == w.id.core && x.id.part == w.id.part
/-- `sleep`: the wave is held for at least s[A] ns, 16 counts of TIME each; with 0 it gives up its active place to
a ready pending wave (R23, R248). -/
def execSleep (a : SReg) (s : State) : Res :=
  checked (.sleep a) s fun s =>
    let n := (readS s.cur.a a).toNat
    if n = 0 then
      let p := pendingReady s s.cur
      let s := advance (issue s)
      .next { s with cur := { s.cur with active := s.cur.active && !p } }
    else
      let (t, s) := sampleTime s s.cur.id.cd
      .next (holdCur (advance (issue s)) (.sleep (t.toNat + 16 * n)))

end Sys2Proof.Machine
end

