-- ==== Sys2Proof/Machine/Agenda.lean ====
section
/-! DEFINITION. The order in which the machine's own events come when the agenda is empty (log entry 1): the events that the
state calls for, and those that a time limit brings, in an order that is free. -/

namespace Sys2Proof.Machine

/-- What the machine brings itself: the events of the table whose time is set by nothing outside it, and the landing of lanes
before a completion (R212). -/
inductive Own
  | rdreq (n : Nat)
  | wrreq (n : Nat)
  | tok (n : Nat)
  | trumpreq (n : Nat)
  | act (n : Nat)
  | deact (n : Nat)
  | gathered (n : Nat)
  | release (n : Nat)
  | coherenceAck (n : Nat)
  | census (n : Nat)
  | report (n : Nat)
  | late (n : Nat)
  | rebuild (n : Nat)
  | wakepend (n : Nat)
  | holdreply (n : Nat)
  | reshuffleDataRequest (n : Nat)
  | writebackRequest (n : Nat)
  | retirementMessage (n : Nat)
  | loadCompletion (w : WaveId) (n : Nat)
  | storeAcknowledgement (w : WaveId) (n : Nat)
  | atomicCompletion (w : WaveId) (n : Nat) (order : List Nat)
  | vlCompletion (w : WaveId) (n : Nat)
  | vlLanding (w : WaveId) (n : Nat)
  | accessLanding (w : WaveId) (n : Nat)
  | walkReading (cd n : Nat)
  | collectiveCompletion (w : WaveId) (n : Nat)
  | migrationWaitRetry (w : WaveId)
  | scalarLoadReturn (w : WaveId)
  | sleepExpiry (w : WaveId)
  | waitaReread (w : WaveId)
  | trapEntry (w : WaveId)
  | waveSwap (w : WaveId)
  | commitWindowClose (w : WaveId)
  | preemptTrap (w : WaveId)
  | engineBurstIssue (c : CoreId) (tag : Nat)
  | lastBurstEvent (c : CoreId) (tag : Nat)
  | burstReturn (c : CoreId) (tag b : Nat)
  | transferUnitReturn (c : CoreId) (tag u : Nat)
  | nmopCompletion (c : CoreId) (n : Nat)
  | tileTaskStart (c : CoreId) (n : Nat)
  | tileTaskCompletion (c : CoreId) (n : Nat)
  | wcDrainAck (c : CoreId) (n : Nat)
  | blockResumption (b : BlockId) (cd : Nat) (cores : List Nat) (p0 : Nat)
  | blockPlacement (l cd : Nat) (cores : List Nat) (p0 : Nat)
  | groupEventArrival (n : Nat)
  | monitorWake (cd sector : Nat)
  | tableWalkCompletion (cd n : Nat)
  | nmopPiece (md : Nat)
  | migrationSectorMoved (md : Nat)
  | translationInvalidation (k cd : Nat)
  | invalidationAck (k cd : Nat)
  | faultLogAppend (n : Nat)
  | blockRetirement (b : BlockId)
  | blockFree (b : BlockId)
  | blockSave (b : BlockId)
  | loadPiece (w : WaveId) (n : Nat)
  | storePiece (w : WaveId) (n : Nat)
  | atomPiece (w : WaveId) (n : Nat)
  | drainPiece (c : CoreId) (n : Nat)
  | collPiece (w : WaveId) (n : Nat)
  | completionStep (c : CoreId) (tag : Nat)
  | nmopUnit (md : Nat)
  | tileRead (c : CoreId) (n : Nat)
  | tilePut (c : CoreId) (n : Nat)
  | tileWalk (c : CoreId) (n : Nat)
  | enginePiece (c : CoreId) (tag u : Nat)
  | registerRetry (b : BlockId)
  | traceWrite (cd : Nat)
  | unpin (pkg : Nat)
  | widen (b : BlockId)
  | evict (cd sector : Nat)
  | evictL1 (cd sector core : Nat)
  | evictSlice (md line : Nat)
  | linkWaking (n : Nat)
  | linkAwake (u : Nat)
  | hop (n link : Nat) (esc : Bool)
  | uncoreWake (cd : Nat)
  | wakeBudgetExpiry (cd sector : Nat)
  | dieAdmission (cd : Nat)
  | removalNotice (pkg removed : Nat)
  | linkRetrainDone (pkg link : Nat)
  | multicastCreditReturn (pkg link : Nat)
  | creditSpent (pkg link : Nat)
  | handlerDrainLimit (w : WaveId)
  | error (e : ErrEvent)
  | launchEnd (l : Nat)
  | recordTake (pkg q : Nat)
  | multicastFlit (pkg n : Nat)
  | reissueTimerExpiry (cd sector : Nat)
  | censusTimeExpiry (sector : Nat)
  | settleTimeExpiry (sector : Nat)
  | wcAgeDrain (c : CoreId) (n : Nat)
  | waitaTimeout (w : WaveId)
  | mwaitTimeout (w : WaveId)
  | dependenceReread (pkg q : Nat)
  | priorityAging (pkg q : Nat)
  | preemptionRaise (pkg q cd : Nat)
  | tracePageSeal (cd ctx : Nat)
  | hotnessIntervalEnd (md : Nat)
  | ctxAck (pkg die : Nat)
  | ctxDone (pkg : Nat)
  | loaderStep (pkg : Nat)
  | hostServe (pkg n : Nat)
  | nameReference (pkg : Nat)
  | flipStep (md : Nat)
  | uncount (pkg far : Nat)
  deriving DecidableEq, Repr
/-- What an event of the machine itself does: the meaning of the table's row of the same name. -/
def Own.run (e : Own) (s : State) : Res :=
  match e with
  | .rdreq n => execRdreq n s
  | .wrreq n => execWrreq n s
  | .tok n => execTok n s
  | .trumpreq n => execTrumpreq n s
  | .act n => execAct n s
  | .deact n => execDeact n s
  | .gathered n => execGathered n s
  | .release n => execRelease n s
  | .coherenceAck n => execCoherenceAck n s
  | .census n => execCensus n s
  | .report n => execReport n s
  | .late n => execLate n s
  | .rebuild n => execRebuild n s
  | .wakepend n => execWakepend n s
  | .holdreply n => execHoldreply n s
  | .reshuffleDataRequest n => execReshuffleDataRequest n s
  | .writebackRequest n => execWritebackRequest n s
  | .retirementMessage n => execRetirementMessage n s
  | .loadCompletion w n => execLoadCompletion w n s
  | .storeAcknowledgement w n => execStoreAcknowledgement w n s
  | .atomicCompletion w n order => execAtomicCompletion w n order s
  | .vlCompletion w n => execVlCompletion w n s
  | .vlLanding w n => Sys2Proof.Machine.landSome w n s
  | .accessLanding w n => landAccess w n s
  | .walkReading cd n => Sys2Proof.Machine.walkStep cd n s
  | .collectiveCompletion w n => execCollectiveCompletion w n s
  | .migrationWaitRetry w => execMigrationWaitRetry w s
  | .scalarLoadReturn w => execScalarLoadReturn w s
  | .sleepExpiry w => execSleepExpiry w s
  | .waitaReread w => execWaitaReread w s
  | .trapEntry w => execTrapEntry w s
  | .waveSwap w => execWaveSwap w s
  | .commitWindowClose w => execCommitWindowClose w s
  | .preemptTrap w => execPreemptTrap w s
  | .engineBurstIssue c tag => execEngineBurstIssue c tag s
  | .lastBurstEvent c tag => execLastBurstEvent c tag s
  | .burstReturn c tag b => execBurstReturn c tag b s
  | .transferUnitReturn c tag u => execTransferUnitReturn c tag u s
  | .nmopCompletion c n => execNmopCompletion c n s
  | .tileTaskStart c n => execTileTaskStart c n s
  | .tileTaskCompletion c n => execTileTaskCompletion c n s
  | .wcDrainAck c n => execWcDrainAck c n s
  | .blockResumption b cd cores p0 => execBlockResumption b cd cores p0 s
  | .blockPlacement l cd cores p0 => execBlockPlacement l cd cores p0 s
  | .groupEventArrival n => execGroupEventArrival n s
  | .monitorWake cd sector => execMonitorWake cd sector s
  | .tableWalkCompletion cd n => execTableWalkCompletion cd n s
  | .nmopPiece md => execNmopPiece md s
  | .migrationSectorMoved md => execMigrationSectorMoved md s
  | .translationInvalidation k cd => execTranslationInvalidation k cd s
  | .invalidationAck k cd => execInvalidationAck k cd s
  | .faultLogAppend n => execFaultLogAppend n s
  | .blockRetirement b => execBlockRetirement b s
  | .blockFree b => execBlockFree b s
  | .blockSave b => Sys2Proof.Machine.blockSave b s
  | .widen b => Sys2Proof.Machine.widenSet b s
  | .loadPiece w n => Sys2Proof.Machine.loadPiece w n s
  | .storePiece w n => Sys2Proof.Machine.storePiece w n s
  | .atomPiece w n => Sys2Proof.Machine.atomPiece w n s
  | .drainPiece c n => Sys2Proof.Machine.drainPiece c n s
  | .collPiece w n => Sys2Proof.Machine.collPiece w n s
  | .completionStep c tag => Sys2Proof.Machine.completionStep c tag s
  | .nmopUnit md => Sys2Proof.Machine.nmopUnit md s
  | .tileRead c n => Sys2Proof.Machine.tileRead c n s
  | .tilePut c n => Sys2Proof.Machine.tilePut c n s
  | .tileWalk c n => Sys2Proof.Machine.tileWalk c n s
  | .enginePiece c tag u => Sys2Proof.Machine.enginePiece c tag u s
  | .registerRetry b => Sys2Proof.Machine.registerRetry b s
  | .traceWrite cd => .next (Sys2Proof.Machine.traceWrite s cd)
  | .unpin pkg => Sys2Proof.Machine.unpinNext pkg s
  | .evict cd sector => Sys2Proof.Machine.evictSector cd sector s
  | .evictL1 cd sector core => Sys2Proof.Machine.evictL1 cd sector core s
  | .evictSlice md line => Sys2Proof.Machine.evictSlice md line s
  | .linkWaking n => Sys2Proof.Machine.linkWaking n s
  | .linkAwake u => Sys2Proof.Machine.linkAwake u s
  | .hop n link esc => Sys2Proof.Machine.hop n link esc s
  | .uncoreWake cd => execUncoreWake cd s
  | .wakeBudgetExpiry cd sector => execWakeBudgetExpiry cd sector s
  | .dieAdmission cd => execDieAdmission cd s
  | .removalNotice pkg removed => execRemovalNotice pkg removed s
  | .linkRetrainDone pkg link => execLinkRetrainDone pkg link s
  | .multicastCreditReturn pkg link => execMulticastCreditReturn pkg link s
  | .creditSpent pkg link => Sys2Proof.Machine.creditSpent pkg link s
  | .handlerDrainLimit w => execHandlerDrainLimit w s
  | .error e => e.run s
  | .launchEnd l => execLaunchEnd l s
  | .recordTake pkg q => execRecordTake pkg q s
  | .multicastFlit pkg n => execMulticastFlit pkg n s
  | .reissueTimerExpiry cd sector => execReissueTimerExpiry cd sector s
  | .censusTimeExpiry sector => execCensusTimeExpiry sector s
  | .settleTimeExpiry sector => execSettleTimeExpiry sector s
  | .wcAgeDrain c n => execWcAgeDrain c n s
  | .waitaTimeout w => execWaitaTimeout w s
  | .mwaitTimeout w => execMwaitTimeout w s
  | .dependenceReread pkg q => execDependenceReread pkg q s
  | .priorityAging pkg q => execPriorityAging pkg q s
  | .preemptionRaise pkg q cd => execPreemptionRaise pkg q cd s
  | .tracePageSeal cd ctx => execTracePageSeal cd ctx s
  | .hotnessIntervalEnd md => execHotnessIntervalEnd md s
  | .flipStep md => Sys2Proof.Machine.flipStep md s
  | .uncount pkg far => Sys2Proof.Machine.uncount pkg far s
  | .ctxAck pkg die => Sys2Proof.Machine.ctxAck pkg die s
  | .ctxDone pkg => Sys2Proof.Machine.ctxDone pkg s
  | .loaderStep pkg => Sys2Proof.Machine.loaderStep pkg s
  | .hostServe pkg n => Sys2Proof.Machine.hostServe pkg n s
  | .nameReference pkg => Sys2Proof.Machine.nameReference pkg s

/-- The arrival of message n of the network; none for one that an outside agent answers. -/
def messageEvent (m : Msg) (n : Nat) : List Own :=
  match m.body with
  | .rdreq .. => [.rdreq n]
  | .wrreq .. => [.wrreq n]
  | .tok .. => [.tok n]
  | .trumpreq .. => [.trumpreq n]
  | .act .. => [.act n]
  | .deact .. => [.deact n]
  | .gathered .. => [.gathered n]
  | .release .. => [.release n]
  | .ack .. => [.coherenceAck n]
  | .census .. => [.census n]
  | .report .. => [.report n]
  | .late .. => [.late n]
  | .rebuild .. => [.rebuild n]
  | .wakepend _ => [.wakepend n]
  | .holdreply _ => [.holdreply n]
  | .dataReq .. => [.reshuffleDataRequest n]
  | .writeback _ => [.writebackRequest n]
  | .biSnp .. | .coll _ => []
  | .retired _ => [.retirementMessage n]
/-- The completion of an operation of a wave; engine, near-memory and tile operations complete by their queues. -/
def opEvent (w : Wave) (o : Op) : List Own :=
  match o.kind with
  | .load _ => [.loadCompletion w.id o.id, .loadPiece w.id o.id, .accessLanding w.id o.id]
  | .store | .frame => [.storeAcknowledgement w.id o.id, .storePiece w.id o.id]
  | .atom _ => [.atomicCompletion w.id o.id [], .atomPiece w.id o.id, .accessLanding w.id o.id]
  | .vl => [.vlCompletion w.id o.id, .vlLanding w.id o.id]
  | .coll _ => [.collectiveCompletion w.id o.id, .collPiece w.id o.id]
  | .engine _ | .nmop | .tile => []
/-- What a wave waits for that can come of itself. -/
def holdEvent (w : Wave) : List Own :=
  match w.hold with
  | .migration _ => [.migrationWaitRetry w.id]
  | .sld _ _ => [.scalarLoadReturn w.id]
  | .sleep _ => [.sleepExpiry w.id]
  | .waita _ _ _ _ _ => [.waitaReread w.id]
  | .trapPending _ _ => [.trapEntry w.id]
  | .ready => if w.active || isHandler w then [] else [.waveSwap w.id]
  | _ => []
/-- The events of a wave. -/
def waveEvents (w : Wave) : List Own :=
  w.ops.flatMap (opEvent w) ++ holdEvent w ++ (if w.window.isEmpty then [] else [.commitWindowClose w.id]) ++
  (if w.preempt then [.preemptTrap w.id] else [])
/-- The events of a core: its engines, its burst buffer, its near-memory operations, its tile queue, its draining buffer entries. -/
def coreEvents (c : Core) : List Own :=
  c.reqs.flatMap (fun q => [.engineBurstIssue c.id q.tag, .lastBurstEvent c.id q.tag, .completionStep c.id q.tag] ++
    q.flying.flatMap fun f => [if q.kind == .bulkrd then .burstReturn c.id q.tag f.1 else .transferUnitReturn c.id q.tag f.1, .enginePiece c.id q.tag f.1]) ++
  (c.bursts.take 1).map (fun x => .burstReturn c.id x.tag x.b) ++ c.nm.map (fun q => .nmopCompletion c.id q.op) ++
  c.tiles.flatMap (fun t => [.tileTaskStart c.id t.op, .tileTaskCompletion c.id t.op, .tileRead c.id t.op, .tilePut c.id t.op, .tileWalk c.id t.op]) ++
  c.wc.zipIdx.flatMap fun (e, n) => if e.draining then [.wcDrainAck c.id n, .drainPiece c.id n] else []
/-- The compute dies of a package. -/
def pkgDies (s : State) (pkg : Nat) : List Nat := (s.cds.filter fun d => pkgOf d.unit == pkg).map (·.unit)
/-- The placements that the dies can make of the next block or cluster of a launch, and of its saved ones (R352). -/
def placements (s : State) (l : Launch) : List Own :=
  (pkgDies s l.pkg).flatMap fun cd =>
    if !(dieOffers s l cd && offered s l cd) then [] else
    (savedSets s l).filterMap (fun set => match set with
      | b :: _ => (findCores s l cd (set.map savedNeed) []).map fun cs => .blockResumption b.id cd cs 0
      | [] => none) ++
    (if l.placed + l.csize > launchSize l then [] else
      ((findCores s l cd (List.replicate l.csize (false, 0)) []).map fun cs => Own.blockPlacement l.tag cd cs 0).toList)
/-- The events that the state calls for. -/
def dueEvents (s : State) : List Own :=
  s.net.zipIdx.flatMap (fun (m, n) => if arrived m then messageEvent m n else (hopsOf s m).map fun h => .hop n h.1 h.2) ++ (allWaves s).flatMap waveEvents ++ s.cores.flatMap coreEvents ++
  s.groupMsgs.zipIdx.map (fun (_, n) => .groupEventArrival n) ++
  (s.sectors.filter (·.wakeDue)).map (fun e => .monitorWake e.cd e.sector) ++
  (s.homes.filter fun h => badSideband h && !h.poison).map (fun h => .error (.sideband h.sector)) ++
  (s.sectors.filter fun e => e.tokens > 0 && (setLines s e.cd e.sector).length > 16).map (fun e => .evict e.cd e.sector) ++
  s.sectors.flatMap (fun e => (e.l1.filter fun c => (l1Lines s e.cd e.sector c).length > 8).map (.evictL1 e.cd e.sector ·)) ++
  s.mds.flatMap (fun d => (d.slice.filter fun e => (sliceLines s d.unit e.1).length > 16).map fun e => .evictSlice d.unit e.1) ++
  (s.cds.filter fun d => !d.pend.isEmpty).map (fun d => .traceWrite d.unit) ++
  (s.mds.filter fun d => d.flip.any fun f => f.toHost && !f.snooping).map (fun d => .flipStep d.unit) ++
  s.homes.flatMap (fun h => (lostPkgs s h).map (.uncount (pkgOf (homeUnit h.sector)))) ++
  (s.pkgs.filter fun p => !p.unpins.isEmpty).map (fun p => .unpin p.id) ++
  (s.blocks.filter fun b => !b.unreg.isEmpty).map (fun b => .registerRetry b.id) ++
  s.cds.flatMap (fun d => d.walks.zipIdx.flatMap fun (_, n) => [.tableWalkCompletion d.unit n, .walkReading d.unit n]) ++
  s.mds.flatMap (fun d => (if d.pieces.isEmpty then [] else [.nmopPiece d.unit, .nmopUnit d.unit]) ++
    (if d.move.isSome then [.migrationSectorMoved d.unit] else [])) ++
  s.invals.flatMap (fun i => i.todo.map (.translationInvalidation i.k ·) ++ i.acks.map (.invalidationAck i.k ·)) ++
  s.faults.zipIdx.map (fun (_, n) => .faultLogAppend n) ++
  s.blocks.flatMap (fun b => match b.state with
    | .resident => [.blockRetirement b.id]
    | .stopping => [.blockRetirement b.id, .blockSave b.id, .blockFree b.id] ++
      (if !b.written && !(tiedBlocks s b.id).isEmpty then [.widen b.id] else [])
    | _ => []) ++
  s.launches.flatMap (fun l => .launchEnd l.tag :: placements s l) ++
  s.queues.map (fun q => .recordTake q.pkg q.q) ++
  (s.cds.filter fun d => d.power == .gated && s.net.any (·.dst == d.unit)).map (fun d => .uncoreWake d.unit) ++
  (s.cds.filter fun d => d.power == .reset && d.unreachable && computeVerified s (pkgOf d.unit)).map (fun d => .dieAdmission d.unit) ++
  (s.mds.filter fun d => d.unreachable && (getPkg s (pkgOf d.unit)).sec.verified.contains .memside).map (fun d => .dieAdmission d.unit) ++
  (noticesDue s).map (fun n => .removalNotice n.1 n.2) ++
  s.pkgs.flatMap (fun p => (match p.ctxCmd with
    | none => []
    | some c => if c.owed.isEmpty then [.ctxDone p.id] else c.owed.map (.ctxAck p.id ·)) ++
    (if p.load.isSome then [.loaderStep p.id] else []) ++ p.hostReqs.zipIdx.map fun (_, n) => .hostServe p.id n) ++
  s.pkgs.flatMap fun p => p.mcIn.zipIdx.map (fun (_, n) => .multicastFlit p.id n) ++
    (p.links.filter fun l => !l.credit).map fun l => .multicastCreditReturn p.id l.id
/-- The events that a time limit brings (R22), and errors, which come at any time. -/
def timerEvents (s : State) : List Own :=
  (s.sectors.filter (·.req.isSome)).map (fun e => .reissueTimerExpiry e.cd e.sector) ++
  s.homes.filterMap (fun h => h.trump.bind fun t => match t.phase with
    | .gather => some (.censusTimeExpiry h.sector)
    | .settle => some (.settleTimeExpiry h.sector)
    | _ => none) ++
  s.cores.flatMap (fun c => c.wc.zipIdx.filterMap fun (e, n) => if e.draining then none else some (.wcAgeDrain c.id n)) ++
  (allWaves s).filterMap (fun w => match w.hold with
    | .waita _ _ _ _ (some _) => some (.waitaTimeout w.id)
    | .mwait _ _ (some _) => some (.mwaitTimeout w.id)
    | _ => none) ++
  s.queues.flatMap (fun q => [.dependenceReread q.pkg q.q, .priorityAging q.pkg q.q] ++
    (pkgDies s q.pkg).map fun cd => .preemptionRaise q.pkg q.q cd) ++
  s.ctxs.flatMap (fun c => c.openPage.map fun p => .tracePageSeal p.1 c.id) ++
  ((allWaves s).filter fun w => isHandler w && w.hold != .ended && (blockOf s w).state == .stopping).map (fun w => .handlerDrainLimit w.id) ++
  (s.mds.filter fun d => d.hotctl.getLsbD 0).map (fun d => .hotnessIntervalEnd d.unit) ++
  (s.sectors.filter fun e => e.req.any fun r => !r.wakes.isEmpty).map (fun e => .wakeBudgetExpiry e.cd e.sector) ++
  s.sectors.flatMap (fun e => ((e.req.map (·.wakes)).getD []).map .linkAwake) ++
  s.pkgs.flatMap (fun p => p.links.map fun l => if l.training then .linkRetrainDone p.id l.id else .creditSpent p.id l.id) ++
  (if s.podRef.isNone && s.pkgs.any (·.inPod) then s.pkgs.map fun p => .nameReference p.id else []) ++
  s.net.zipIdx.map (fun (_, n) => .linkWaking n) ++ (errorEvents s).map .error

/-- The next event of the machine itself. Which of those due comes is free, and so is when a time limit passes (log entry 1). -/
def nextEvent (s : State) : Option Own :=
  let k := Config.turn s.tick
  let pick := fun l : List Own => l[k / 16 % l.length]?
  if k % 16 = 0 then (pick (timerEvents s)).orElse fun _ => pick (dueEvents s)
  else (pick (dueEvents s)).orElse fun _ => pick (timerEvents s)

end Sys2Proof.Machine
end

