-- ==== Sys2Proof/Machine/Registers.lean ====
section
/-! DEFINITION. Writes of driver and system registers that have no table row of their own (R6, R7): RW fields take the
written value, W1C bits are cleared by a 1, RO fields and reserved bits keep theirs; and what the driver reads from each. -/

namespace Sys2Proof.Machine

/-- A write-one-to-clear bit after a write. -/
def w1c (b : Bool) (x : BitVec 64) (k : Nat) : Bool := b && !x.getLsbD k
/-- An entry of a table that lists only nonzero entries. -/
def setEntry (l : List (Nat × BitVec 64)) (k : Nat) (x : BitVec 64) : List (Nat × BitVec 64) :=
  if x = 0 then l.filter (·.1 != k) else (k, x) :: l.filter (·.1 != k)
/-- QCTL written; E that had not risen is the new PRIO, else it stays between PRIO and the greater of PRIO and CEIL (R345, R349). -/
def writeQctl (q : Queue) (x : BitVec 64) : Queue :=
  let lo : Word := x.extractLsb' 0 32
  let risen := qPrio q < q.eff
  let q := { q with qctl := (lo &&& 0xBFF0FF0F) ||| (if w1c (q.qctl.getLsbD 30) x 30 then 0x40000000 else 0) }
  let e := if risen then Nat.min (Nat.max q.eff (qPrio q)) (Nat.max (qPrio q) (qCeil q)) else qPrio q
  { q with eff := e }
/-- The field k of ALMCTL after a write: 0b11 leaves it unchanged (R375). -/
def alarmField (old : Vector (BitVec 2) 5) (x : BitVec 64) (k : Fin 5) : BitVec 2 :=
  let f : BitVec 2 := x.extractLsb' (2 * k.val) 2
  if f = 3 then old[k] else f
/-- ALMCTL written; ignored once LOCK is set (R375). -/
def writeAlmctl (c : Security) (x : BitVec 64) : Security :=
  if c.almLock then c
  else { c with almLock := x.getLsbD 31, almctl := Vector.ofFn (alarmField c.almctl x) }
/-- CTXTBL written; a write that changes BASE while a context is active is ignored (R340). -/
def writeCtxtbl (s : State) (pkg : Nat) (old x : BitVec 64) : BitVec 64 :=
  let x := x &&& 0x1FFFFF00001
  if x >>> 20 != old >>> 20 && s.ctxs.any (fun c => c.pkg == pkg && c.active) then old else x
/-- An HDM decoder as it is written: commit in bit 0, the window's size in bits 13 to 1 in units of 256 MiB, at most 1,536 GiB, and
its base in bits 63 to 28 (R378; log entry 18). -/
def hdmOf (x : BitVec 64) : Option (Nat × Nat) :=
  if x.getLsbD 0 then some ((x &&& 0xFFFFFFFFF0000000).toNat, Nat.min 6144 (bits x.toNat 13 1) * 2 ^ 28) else none
/-- The unit whose package a register belongs to, as a package. -/
def regPkg : MmioReg → Nat
  | .timeerr die | .time die => timePkg die
  | .cycle u | .vdie u | .atomsz u | .hotctl u | .hotbuf u | .hotidx u | .migstat u | .biasstat u | .cohctl u | .cohcnt u
  | .errcnt u | .sampctl u | .trcctl u | .trcbase u | .trcidx u => pkgOf u
  | .lcstate p | .devid p | .ctxstat p | .ldrsrc p | .ldrlen p | .ldrobja p | .ldrobjb p | .ldrstat p | .ldrhandle p
  | .flogbase p | .flogidx p | .almctl p | .almstat p => p
  | .ctxtbl p _ | .qbase p _ | .qctl p _ | .schctl p _ | .invobj p _ | .invstat p _ | .froute p _ | .mcgroup p _
  | .hdm p _ => p
/-- A register written (R6, R26, R75, R77, R108, R340, R343, R345, R355, R360, R375, R378 to R381, R386, R388, R407, R408).
The layouts of MCGROUP and HDM are the model's (log entries 13, 18). -/
def writeRegister (s : State) (reg : MmioReg) (x : BitVec 64) : State :=
  let lo : Word := x.extractLsb' 0 32
  match reg with
  | .time _ | .cycle _ | .vdie _ | .atomsz _ | .lcstate _ | .devid _ | .cohcnt _ | .errcnt _ | .ldrstat _ | .ldrhandle _ => s
  | .timeerr die => onTime s die fun t => { t with step := w1c t.step x 17 }
  | .hotctl u => onMd s u fun d => writeHotctl d lo
  | .hotbuf u => onMd s u fun d => { d with hotbuf := x &&& 0x1FFFFFFFFF0 }
  | .hotidx u => onMd s u fun d => { d with hotTail := x.extractLsb' 8 8 }
  | .migstat u => onMd s u fun d => { d with migRej := w1c d.migRej x 30 }
  | .biasstat u => onMd s u fun d => { d with biasRej := w1c d.biasRej x 30 }
  | .cohctl u => onCd s u fun d => { d with dsp := x.extractLsb' 0 2, pred := if x.getLsbD 2 then [] else d.pred }
  | .ctxtbl p i => onPkg s p fun k =>
      if i = 0 then { k with ctxtbl0 := writeCtxtbl s p k.ctxtbl0 x } else { k with ctxtbl1 := writeCtxtbl s p k.ctxtbl1 x }
  | .ctxstat p => onPkg s p fun k => { k with ctxRej := w1c k.ctxRej x 30 }
  | .ldrsrc p => onPkg s p fun k => { k with ldrsrc := x &&& 0x1FFFFFFFFC0 }
  | .ldrlen p => onPkg s p fun k => { k with ldrlen := lo }
  | .ldrobja p => onPkg s p fun k => { k with ldrobja := x }
  | .ldrobjb p => onPkg s p fun k => { k with ldrobjb := x &&& 0xFFFFFF }
  | .qbase p q => if q < 256 then onQueue s p q fun k => { k with qbase := x &&& 0xFFFF01FFFFFFFF80, met := none } else s
  | .qctl p q => if q < 256 then onQueue s p q fun k => writeQctl k x else s
  | .schctl p i => onPkg s p fun k =>
      if i = 0 then { k with schctl0 := lo &&& 0x3FFFF0F8 } else { k with schctl1 := lo &&& 0x3FFFF0F8 }
  | .flogbase p => onPkg s p fun k => { k with flogbase := x &&& 0x1FFFFFFFFFF }
  | .flogidx p => onPkg s p fun k => { k with flogTail := x.extractLsb' 12 12 }
  | .almctl p => onSecurity s p fun c => writeAlmctl c x
  | .almstat p => onSecurity s p fun c => { c with almHit := c.almHit &&& ~~~(x.extractLsb' 0 5) }
  | .invobj p i => onPkg s p fun k =>
      if i = 0 then { k with invobj0 := x &&& 0xFFFFFFFFFF000000 } else { k with invobj1 := x &&& 0xFFFFFFFFFF000000 }
  | .invstat p i => onPkg s p fun k =>
      if i = 0 then { k with invRej0 := w1c k.invRej0 x 30 } else { k with invRej1 := w1c k.invRej1 x 30 }
  | .froute p d => if d < 4096 then onPkg s p fun k => { k with froute := setEntry k.froute d (x &&& 0xFFFFFFFF0000F01F) } else s
  | .mcgroup p g => if g < 256 then onPkg s p fun k => { k with mcgroups := setEntry k.mcgroups g (x &&& 0x1FFFFFFFF) } else s
  | .hdm p l => onPkg s p fun k =>
      let b := hdmOf x
      if l = 0 then { k with hdm0 := b } else { k with hdm1 := b }
  | .sampctl u => onCd s u fun d => { d with trace := { d.trace with sampctl := lo &&& 0x8000001F } }
  | .trcctl u => onCd s u fun d => { d with trace := writeTrcctl d.trace lo }
  | .trcbase u => onCd s u fun d => { d with trace := { d.trace with trcbase := x &&& 0x1FFFFFFFFFF } }
  | .trcidx u => onCd s u fun d => { d with trace := { d.trace with tail := x.extractLsb' 24 24 } }
/-- A write of a register of a package whose I/O dies run (R6, R391, R394). -/
def execRegisterWrite (reg : MmioReg) (value : BitVec 64) (s : State) : Res :=
  if iodRuns s (regPkg reg) then .next (writeRegister s reg value) else .next s

/-! ## Reads -/

/-- A status register's BUSY in bit 31, a sticky bit 30, and its other fields (R77, R340, R343, R379, R382). -/
def statWord (busy rej : Bool) (low : Nat) : BitVec 64 := BitVec.ofNat 64 (b2n busy * 2 ^ 31 + b2n rej * 2 ^ 30 + low)
/-- The entry of a table that lists only nonzero entries. -/
def getEntry (l : List (Nat × BitVec 64)) (k : Nat) : BitVec 64 := ((l.find? (·.1 == k)).map (·.2)).getD 0
/-- ALMCTL: LOCK and the five actions (R375). -/
def almctlWord (c : Security) : BitVec 64 :=
  BitVec.ofNat 64 (b2n c.almLock * 2 ^ 31 + (List.finRange 5).foldl (fun n k => n + c.almctl[k].toNat * 4 ^ k.val) 0)
/-- COHCNT of a compute or a memory-side die (R108). -/
def cohcntWord (s : State) (u : Nat) : BitVec 64 :=
  if u % 16 < 8 then
    let d := getCd s u
    d.stall ++ d.unreachCnt ++ d.stale ++ d.trumps
  else
    let d := getMd s u
    d.census ++ d.reshuf ++ d.poisoned ++ d.stale
/-- ERRCNT (R372). -/
def errcntWord (d : CDie) : BitVec 64 := d.strikes ++ d.rollbk ++ d.corr ++ d.uncorr
/-- An HDM decoder as it is read back (log entry 18). -/
def hdmWord (b : Option (Nat × Nat)) : BitVec 64 := match b with
  | some n => BitVec.ofNat 64 (n.1 + n.2 / 2 ^ 28 * 2 + 1)
  | none => 0
/-- What the driver reads from a register, with a sampled clock advanced: RO and W1C fields as they stand, RW fields as last
written, WO and reserved fields 0 (R6, R26, R75, R77, R108, R340, R343, R345, R353, R355, R360, R372, R375, R378, R379, R382,
R386, R388, R397, R407, R408). VDIE depends on the wave that reads it: its fields are free here (log entry 90). -/
def readRegister (s : State) (reg : MmioReg) : BitVec 64 × State :=
  let pkg := fun (p : Nat) (f : Pkg → BitVec 64) => (f (getPkg s p), s)
  let word := fun (x : Word) => x.setWidth 64
  match reg with
  | .time die => sampleTime s die
  | .timeerr die =>
    let s := growErr (sampleTime s die).2 die
    (word (timeerrWord (timeSt s die)), s)
  | .cycle u => sampleCycle s u
  | .vdie _ =>
    let (x, s) := freshWord s
    ((x &&& 0xF0F) ||| 0x8000, s)
  | .atomsz _ => (word atomszWord, s)
  | .lcstate p => pkg p fun k => word (lcstate k)
  | .devid p => pkg p fun k => k.sec.devid
  | .hotctl u => (word (getMd s u).hotctl, s)
  | .hotbuf u => ((getMd s u).hotbuf, s)
  | .hotidx u =>
    let d := getMd s u
    ((d.hotDrop ++ d.hotTail ++ d.hotHead).setWidth 64, s)
  | .migstat u =>
    let d := getMd s u
    (statWord d.move.isSome d.migRej d.migDone.toNat, s)
  | .biasstat u =>
    let d := getMd s u
    (statWord d.flip.isSome d.biasRej (b2n d.biasLast * 2 ^ 16 + d.biasDone.toNat), s)
  | .cohctl u => ((getCd s u).dsp.setWidth 64, s)
  | .cohcnt u => (cohcntWord s u, s)
  | .errcnt u => (errcntWord (getCd s u), s)
  | .ctxtbl p i => pkg p fun k => if i = 0 then k.ctxtbl0 else k.ctxtbl1
  | .ctxstat p => pkg p fun k => statWord k.ctxCmd.isSome k.ctxRej (k.ctxCause.toNat * 2 ^ 16 + k.ctxDone.toNat)
  | .ldrsrc p => pkg p fun k => k.ldrsrc
  | .ldrlen p => pkg p fun k => word k.ldrlen
  | .ldrobja p => pkg p fun k => k.ldrobja
  | .ldrobjb p => pkg p fun k => k.ldrobjb
  | .ldrstat p => pkg p fun k =>
    BitVec.ofNat 64 (b2n k.load.isSome * 2 ^ 31 + k.ldrResult.toNat * 2 ^ 28 + k.ldrSeg.toNat * 2 ^ 24 + k.ldrDone.toNat)
  | .ldrhandle p => pkg p fun k => word k.ldrHandle
  | .qbase p q => ((getQueue s p q).qbase, s)
  | .qctl p q => (word (getQueue s p q).qctl, s)
  | .schctl p i => pkg p fun k => word (if i = 0 then k.schctl0 else k.schctl1)
  | .flogbase p => pkg p fun k => k.flogbase
  | .flogidx p => pkg p fun k => (k.flogDrop ++ k.flogTail ++ k.flogHead).setWidth 64
  | .almctl p => pkg p fun k => almctlWord k.sec
  | .almstat p => pkg p fun k => k.sec.almHit.setWidth 64
  | .invobj p i => pkg p fun k => if i = 0 then k.invobj0 else k.invobj1
  | .invstat p i => pkg p fun k =>
    let i := if i = 0 then 0 else 1
    let busy := s.invals.any fun v => v.pkg == p && v.iod == some i
    if i = 0 then statWord busy k.invRej0 k.invDone0.toNat else statWord busy k.invRej1 k.invDone1.toNat
  | .froute p d => pkg p fun k => getEntry k.froute d
  | .mcgroup p g => pkg p fun k => getEntry k.mcgroups g
  | .hdm p l => pkg p fun k => hdmWord (if l = 0 then k.hdm0 else k.hdm1)
  | .sampctl u => (word (getCd s u).trace.sampctl, s)
  | .trcctl u => (word (getCd s u).trace.trcctl, s)
  | .trcbase u => ((getCd s u).trace.trcbase, s)
  | .trcidx u => (trcidx (getCd s u).trace, s)
/-- The registers that the driver reads: those that `REGISTER_WRITE` writes, and those whose writes are events of their own, QPTR and
the write-only command registers (R6, R77, R340, R343, R345, R379, R382). -/
inductive DriverReg
  | reg (r : MmioReg) | qptr (pkg q : Nat) | ctxcmd (pkg : Nat) | ldrcmd (pkg : Nat) | migcmd (unit : Nat) | biascmd (unit : Nat)
  | invrng (pkg iod : Nat)
  deriving DecidableEq, Repr
/-- What the driver reads: TAIL and HEAD of QPTR as they stand (R345), 0 from a write-only register (R6). -/
def readDriver (s : State) (r : DriverReg) : BitVec 64 × State :=
  match r with
  | .reg r => readRegister s r
  | .qptr p q => (((getQueue s p q).tail ++ (getQueue s p q).head).setWidth 64, s)
  | .ctxcmd _ | .ldrcmd _ | .migcmd _ | .biascmd _ | .invrng _ _ => (0, s)

end Sys2Proof.Machine
end

