-- ==== Sys2Proof/Machine/Scalar.lean ====
section
/-! DEFINITION. Scalar arithmetic, majors 0x01 to 0x05 and 0x07 (R225 to R227). -/

namespace Sys2Proof.Machine

/-- A scalar instruction: the sources are read at issue and the destination is written before the next
instruction (R225). -/
def scalarOp (i : Instr) (d : SReg) (s : State) (f : WaveArch → Word) : Res :=
  simple i s fun a => writeS (isHandler s.cur) a d (f a)
/-- 1 for a condition that holds, else 0. -/
def boolWord (b : Bool) : Word := if b then 1 else 0
/-- A shift left; 0 for a count of 32 or more (R226). -/
def shlWord (a b : Word) : Word := if b.toNat < 32 then a <<< b.toNat else 0
/-- A shift right with zero fill (R226). -/
def shrWord (a b : Word) : Word := if b.toNat < 32 then a >>> b.toNat else 0
/-- A shift right with sign fill; a count of 32 or more gives the sign in every bit (R226). -/
def sarWord (a b : Word) : Word := a.sshiftRight (Nat.min b.toNat 31)
/-- Bits [63:32] of the exact signed product (R226). -/
def mulHighS (a b : Word) : Word := BitVec.ofInt 32 (a.toInt * b.toInt / 2 ^ 32)
/-- Bits [63:32] of the exact unsigned product (R226). -/
def mulHighU (a b : Word) : Word := BitVec.ofNat 32 (a.toNat * b.toNat / 2 ^ 32)

/-- The sum modulo 2^32 (R226). -/
def execSadd (d a b : SReg) (s : State) : Res :=
  scalarOp (.sadd d a b) d s fun w => let x := readS w a; let y := readS w b; x + y
/-- The difference modulo 2^32 (R226). -/
def execSsub (d a b : SReg) (s : State) : Res :=
  scalarOp (.ssub d a b) d s fun w => let x := readS w a; let y := readS w b; x - y
/-- The bitwise AND (R226). -/
def execSand (d a b : SReg) (s : State) : Res :=
  scalarOp (.sand d a b) d s fun w => let x := readS w a; let y := readS w b; x &&& y
/-- The bitwise OR (R226). -/
def execSor (d a b : SReg) (s : State) : Res :=
  scalarOp (.sor d a b) d s fun w => let x := readS w a; let y := readS w b; x ||| y
/-- The bitwise XOR (R226). -/
def execSxor (d a b : SReg) (s : State) : Res :=
  scalarOp (.sxor d a b) d s fun w => let x := readS w a; let y := readS w b; x ^^^ y
/-- a and not b (R226). -/
def execSandn (d a b : SReg) (s : State) : Res :=
  scalarOp (.sandn d a b) d s fun w => let x := readS w a; let y := readS w b; x &&& ~~~y
/-- The shift left (R226). -/
def execSshl (d a b : SReg) (s : State) : Res :=
  scalarOp (.sshl d a b) d s fun w => let x := readS w a; let y := readS w b; shlWord x y
/-- The logical shift right (R226). -/
def execSshr (d a b : SReg) (s : State) : Res :=
  scalarOp (.sshr d a b) d s fun w => let x := readS w a; let y := readS w b; shrWord x y
/-- The arithmetic shift right (R226). -/
def execSsar (d a b : SReg) (s : State) : Res :=
  scalarOp (.ssar d a b) d s fun w => let x := readS w a; let y := readS w b; sarWord x y
/-- The low word of the product (R226). -/
def execSmul (d a b : SReg) (s : State) : Res :=
  scalarOp (.smul d a b) d s fun w => let x := readS w a; let y := readS w b; x * y
/-- The high word of the signed product (R226). -/
def execSmulhs (d a b : SReg) (s : State) : Res :=
  scalarOp (.smulhs d a b) d s fun w => let x := readS w a; let y := readS w b; mulHighS x y
/-- The high word of the unsigned product (R226). -/
def execSmulhu (d a b : SReg) (s : State) : Res :=
  scalarOp (.smulhu d a b) d s fun w => let x := readS w a; let y := readS w b; mulHighU x y
/-- The lesser, signed (R226). -/
def execSmin (d a b : SReg) (s : State) : Res :=
  scalarOp (.smin d a b) d s fun w => let x := readS w a; let y := readS w b; if x.toInt ≤ y.toInt then x else y
/-- The greater, signed (R226). -/
def execSmax (d a b : SReg) (s : State) : Res :=
  scalarOp (.smax d a b) d s fun w => let x := readS w a; let y := readS w b; if x.toInt ≤ y.toInt then y else x
/-- The lesser, unsigned (R226). -/
def execSminu (d a b : SReg) (s : State) : Res :=
  scalarOp (.sminu d a b) d s fun w => let x := readS w a; let y := readS w b; if x.toNat ≤ y.toNat then x else y
/-- The greater, unsigned (R226). -/
def execSmaxu (d a b : SReg) (s : State) : Res :=
  scalarOp (.smaxu d a b) d s fun w => let x := readS w a; let y := readS w b; if x.toNat ≤ y.toNat then y else x
/-- 1 if a < b, signed (R226). -/
def execSslt (d a b : SReg) (s : State) : Res :=
  scalarOp (.sslt d a b) d s fun w => let x := readS w a; let y := readS w b; boolWord (decide (x.toInt < y.toInt))
/-- 1 if a < b, unsigned (R226). -/
def execSsltu (d a b : SReg) (s : State) : Res :=
  scalarOp (.ssltu d a b) d s fun w => let x := readS w a; let y := readS w b; boolWord (decide (x.toNat < y.toNat))
/-- 1 if a = b (R226). -/
def execSseq (d a b : SReg) (s : State) : Res :=
  scalarOp (.sseq d a b) d s fun w => let x := readS w a; let y := readS w b; boolWord (x == y)
/-- Leading zero bits, 0 to 32 (R226). -/
def execSclz (d a : SReg) (s : State) : Res :=
  scalarOp (.sclz d a) d s fun w => let x := readS w a; BitVec.ofNat 32 (clzN 32 x.toNat)
/-- The number of one bits (R226). -/
def execSpopc (d a : SReg) (s : State) : Res :=
  scalarOp (.spopc d a) d s fun w => let x := readS w a; BitVec.ofNat 32 (popcount 32 x.toNat)
/-- The low byte, sign-extended (R226). -/
def execSsext8 (d a : SReg) (s : State) : Res :=
  scalarOp (.ssext8 d a) d s fun w => let x := readS w a; (x.extractLsb' 0 8).signExtend 32
/-- The low half, sign-extended (R226). -/
def execSsext16 (d a : SReg) (s : State) : Res :=
  scalarOp (.ssext16 d a) d s fun w => let x := readS w a; (x.extractLsb' 0 16).signExtend 32
/-- The sum of two pairs modulo 2^64 (R226). -/
def execSadd64 (d a b : SReg) (s : State) : Res :=
  simple (.sadd64 d a b) s fun w => writePair (isHandler s.cur) w d (readPair w a + readPair w b)
/-- The difference of two pairs modulo 2^64 (R226). -/
def execSsub64 (d a b : SReg) (s : State) : Res :=
  simple (.ssub64 d a b) s fun w => writePair (isHandler s.cur) w d (readPair w a - readPair w b)
/-- Adds the sign-extended immediate (R227). -/
def execSaddi (d a : SReg) (i : BitVec 14) (s : State) : Res :=
  scalarOp (.saddi d a i) d s fun w => readS w a + i.signExtend 32
/-- ANDs the sign-extended immediate (R227). -/
def execSandi (d a : SReg) (i : BitVec 14) (s : State) : Res :=
  scalarOp (.sandi d a i) d s fun w => readS w a &&& i.signExtend 32
/-- ORs the sign-extended immediate (R227). -/
def execSori (d a : SReg) (i : BitVec 14) (s : State) : Res :=
  scalarOp (.sori d a i) d s fun w => readS w a ||| i.signExtend 32
/-- XORs the sign-extended immediate (R227). -/
def execSxori (d a : SReg) (i : BitVec 14) (s : State) : Res :=
  scalarOp (.sxori d a i) d s fun w => readS w a ^^^ i.signExtend 32
/-- The 20-bit immediate shifted left by 12 (R227). -/
def execSlui (d : SReg) (i : BitVec 20) (s : State) : Res :=
  scalarOp (.slui d i) d s fun _ => i ++ (0 : BitVec 12)

end Sys2Proof.Machine
end

