-- ==== Sys2Proof/Machine/Dispatch.lean ====
section
/-! DEFINITION. The dispatch: one arm per instruction, each a call of its meaning. -/

namespace Sys2Proof.Machine

/-- The effect of an instruction or event on the machine: one arm per row of the opcode table. -/
def exec (i : Instr) (s : State) : Host.Outcome State Fault Refusal :=
  match i with
  | .sadd d a b => Sys2Proof.Machine.execSadd d a b s
  | .ssub d a b => Sys2Proof.Machine.execSsub d a b s
  | .sand d a b => Sys2Proof.Machine.execSand d a b s
  | .sor d a b => Sys2Proof.Machine.execSor d a b s
  | .sxor d a b => Sys2Proof.Machine.execSxor d a b s
  | .sandn d a b => Sys2Proof.Machine.execSandn d a b s
  | .sshl d a b => Sys2Proof.Machine.execSshl d a b s
  | .sshr d a b => Sys2Proof.Machine.execSshr d a b s
  | .ssar d a b => Sys2Proof.Machine.execSsar d a b s
  | .smul d a b => Sys2Proof.Machine.execSmul d a b s
  | .smulhs d a b => Sys2Proof.Machine.execSmulhs d a b s
  | .smulhu d a b => Sys2Proof.Machine.execSmulhu d a b s
  | .smin d a b => Sys2Proof.Machine.execSmin d a b s
  | .smax d a b => Sys2Proof.Machine.execSmax d a b s
  | .sminu d a b => Sys2Proof.Machine.execSminu d a b s
  | .smaxu d a b => Sys2Proof.Machine.execSmaxu d a b s
  | .sslt d a b => Sys2Proof.Machine.execSslt d a b s
  | .ssltu d a b => Sys2Proof.Machine.execSsltu d a b s
  | .sseq d a b => Sys2Proof.Machine.execSseq d a b s
  | .sclz d a => Sys2Proof.Machine.execSclz d a s
  | .spopc d a => Sys2Proof.Machine.execSpopc d a s
  | .ssext8 d a => Sys2Proof.Machine.execSsext8 d a s
  | .ssext16 d a => Sys2Proof.Machine.execSsext16 d a s
  | .sadd64 d a b => Sys2Proof.Machine.execSadd64 d a b s
  | .ssub64 d a b => Sys2Proof.Machine.execSsub64 d a b s
  | .saddi d a idx => Sys2Proof.Machine.execSaddi d a idx s
  | .sandi d a idx => Sys2Proof.Machine.execSandi d a idx s
  | .sori d a idx => Sys2Proof.Machine.execSori d a idx s
  | .sxori d a idx => Sys2Proof.Machine.execSxori d a idx s
  | .sld d a idx => Sys2Proof.Machine.execSld d a idx s
  | .slui d idx => Sys2Proof.Machine.execSlui d idx s
  | .sst d a idx => Sys2Proof.Machine.execSst d a idx s
  | .bz c o => Sys2Proof.Machine.execBz c o s
  | .bnz c o => Sys2Proof.Machine.execBnz c o s
  | .bltz c o => Sys2Proof.Machine.execBltz c o s
  | .bgez c o => Sys2Proof.Machine.execBgez c o s
  | .bgtz c o => Sys2Proof.Machine.execBgtz c o s
  | .blez c o => Sys2Proof.Machine.execBlez c o s
  | .bany c o => Sys2Proof.Machine.execBany c o s
  | .ball c o => Sys2Proof.Machine.execBall c o s
  | .bnone c o => Sys2Proof.Machine.execBnone c o s
  | .split c o => Sys2Proof.Machine.execSplit c o s
  | .elseW o => Sys2Proof.Machine.execElseW o s
  | .merge => Sys2Proof.Machine.execMerge s
  | .breakv c o => Sys2Proof.Machine.execBreakv c o s
  | .breakvOpen o => Sys2Proof.Machine.execBreakvOpen o s
  | .contv c o => Sys2Proof.Machine.execContv c o s
  | .branch o => Sys2Proof.Machine.execBranch o s
  | .call c o => Sys2Proof.Machine.execCall c o s
  | .nop => Sys2Proof.Machine.execNop s
  | .ret a => Sys2Proof.Machine.execRet a s
  | .exitW => Sys2Proof.Machine.execExitW s
  | .exitv a => Sys2Proof.Machine.execExitv a s
  | .waitW mask => Sys2Proof.Machine.execWaitW mask s
  | .setmode a sel => Sys2Proof.Machine.execSetmode a sel s
  | .setmodeM a b sel => Sys2Proof.Machine.execSetmodeM a b sel s
  | .getmode a sel => Sys2Proof.Machine.execGetmode a sel s
  | .trapW n => Sys2Proof.Machine.execTrapW n s
  | .sleep a => Sys2Proof.Machine.execSleep a s
  | .mand d a b => Sys2Proof.Machine.execMand d a b s
  | .mor d a b => Sys2Proof.Machine.execMor d a b s
  | .mxor d a b => Sys2Proof.Machine.execMxor d a b s
  | .mandn d a b => Sys2Proof.Machine.execMandn d a b s
  | .mnot d a => Sys2Proof.Machine.execMnot d a s
  | .mset d => Sys2Proof.Machine.execMset d s
  | .mclr d => Sys2Proof.Machine.execMclr d s
  | .mcnt d a => Sys2Proof.Machine.execMcnt d a s
  | .mfirst d a => Sys2Proof.Machine.execMfirst d a s
  | .mlane d a => Sys2Proof.Machine.execMlane d a s
  | .sysr a num => Sys2Proof.Machine.execSysr a num s
  | .sysw a num => Sys2Proof.Machine.execSysw a num s
  | .eret => Sys2Proof.Machine.execEret s
  | .cacheopInvx a => Sys2Proof.Machine.execCacheopInvx a s
  | .cacheopWb a => Sys2Proof.Machine.execCacheopWb a s
  | .cacheopWbinv a => Sys2Proof.Machine.execCacheopWbinv a s
  | .dbgbrk n => Sys2Proof.Machine.execDbgbrk n s
  | .keywipeAll => Sys2Proof.Machine.execKeywipeAll s
  | .keywipeContext => Sys2Proof.Machine.execKeywipeContext s
  | .halt => Sys2Proof.Machine.execHalt s
  | .iadd d a b => Sys2Proof.Machine.execIadd d a b s
  | .isub d a b => Sys2Proof.Machine.execIsub d a b s
  | .imul d a b => Sys2Proof.Machine.execImul d a b s
  | .imulh d a b => Sys2Proof.Machine.execImulh d a b s
  | .imad d a b => Sys2Proof.Machine.execImad d a b s
  | .imin d a b => Sys2Proof.Machine.execImin d a b s
  | .imax d a b => Sys2Proof.Machine.execImax d a b s
  | .iabsd d a b => Sys2Proof.Machine.execIabsd d a b s
  | .vand d a b => Sys2Proof.Machine.execVand d a b s
  | .vor d a b => Sys2Proof.Machine.execVor d a b s
  | .vxor d a b => Sys2Proof.Machine.execVxor d a b s
  | .vandn d a b => Sys2Proof.Machine.execVandn d a b s
  | .shl d a b => Sys2Proof.Machine.execShl d a b s
  | .shr d a b => Sys2Proof.Machine.execShr d a b s
  | .sar d a b => Sys2Proof.Machine.execSar d a b s
  | .irot d a b => Sys2Proof.Machine.execIrot d a b s
  | .idp d a b => Sys2Proof.Machine.execIdp d a b s
  | .icmp o c k a b => Sys2Proof.Machine.execIcmp o c k a b s
  | .fcmp o c k a b => Sys2Proof.Machine.execFcmp o c k a b s
  | .fadd d a b => Sys2Proof.Machine.execFadd d a b s
  | .fsub d a b => Sys2Proof.Machine.execFsub d a b s
  | .fmul d a b => Sys2Proof.Machine.execFmul d a b s
  | .fmin d a b => Sys2Proof.Machine.execFmin d a b s
  | .fmax d a b => Sys2Proof.Machine.execFmax d a b s
  | .fminp d a b => Sys2Proof.Machine.execFminp d a b s
  | .fmaxp d a b => Sys2Proof.Machine.execFmaxp d a b s
  | .ffma d a b => Sys2Proof.Machine.execFfma d a b s
  | .ffms d a b => Sys2Proof.Machine.execFfms d a b s
  | .ffnma d a b => Sys2Proof.Machine.execFfnma d a b s
  | .ffnms d a b => Sys2Proof.Machine.execFfnms d a b s
  | .fdp2 d a b => Sys2Proof.Machine.execFdp2 d a b s
  | .ineg d a => Sys2Proof.Machine.execIneg d a s
  | .iabs d a => Sys2Proof.Machine.execIabs d a s
  | .vnot d a => Sys2Proof.Machine.execVnot d a s
  | .popc d a => Sys2Proof.Machine.execPopc d a s
  | .clz d a => Sys2Proof.Machine.execClz d a s
  | .brev d a => Sys2Proof.Machine.execBrev d a s
  | .fneg d a => Sys2Proof.Machine.execFneg d a s
  | .fabs d a => Sys2Proof.Machine.execFabs d a s
  | .ffloor d a => Sys2Proof.Machine.execFfloor d a s
  | .fceil d a => Sys2Proof.Machine.execFceil d a s
  | .ftrunc d a => Sys2Proof.Machine.execFtrunc d a s
  | .frnd d a => Sys2Proof.Machine.execFrnd d a s
  | .cvt d p t a => Sys2Proof.Machine.execCvt d p t a s
  | .vsplat d a => Sys2Proof.Machine.execVsplat d a s
  | .vlaneid d => Sys2Proof.Machine.execVlaneid d s
  | .vmask d a => Sys2Proof.Machine.execVmask d a s
  | .vperm d a idx => Sys2Proof.Machine.execVperm d a idx s
  | .vbcst d a idx => Sys2Proof.Machine.execVbcst d a idx s
  | .vshf d a idx => Sys2Proof.Machine.execVshf d a idx s
  | .vbfly d a idx => Sys2Proof.Machine.execVbfly d a idx s
  | .mov d a => Sys2Proof.Machine.execMov d a s
  | .sel d a b => Sys2Proof.Machine.execSel d a b s
  | .vrdl d a b => Sys2Proof.Machine.execVrdl d a b s
  | .vwrl d a b => Sys2Proof.Machine.execVwrl d a b s
  | .idiv d a b fl la => Sys2Proof.Machine.execIdiv d a b fl la s
  | .irem d a b fl la => Sys2Proof.Machine.execIrem d a b fl la s
  | .fdiv d a b fl la => Sys2Proof.Machine.execFdiv d a b fl la s
  | .fsqrt d a fl la => Sys2Proof.Machine.execFsqrt d a fl la s
  | .frcp d a fl la => Sys2Proof.Machine.execFrcp d a fl la s
  | .frsq d a fl la => Sys2Proof.Machine.execFrsq d a fl la s
  | .fexp2 d a fl la => Sys2Proof.Machine.execFexp2 d a fl la s
  | .flog2 d a fl la => Sys2Proof.Machine.execFlog2 d a fl la s
  | .fsinpi d a fl la => Sys2Proof.Machine.execFsinpi d a fl la s
  | .fcospi d a fl la => Sys2Proof.Machine.execFcospi d a fl la s
  | .ftanh d a fl la => Sys2Proof.Machine.execFtanh d a fl la s
  | .rsum d a fl la => Sys2Proof.Machine.execRsum d a fl la s
  | .rmin d a fl la => Sys2Proof.Machine.execRmin d a fl la s
  | .rmax d a fl la => Sys2Proof.Machine.execRmax d a fl la s
  | .rand d a fl la => Sys2Proof.Machine.execRand d a fl la s
  | .ror d a fl la => Sys2Proof.Machine.execRor d a fl la s
  | .rxor d a fl la => Sys2Proof.Machine.execRxor d a fl la s
  | .ld8u d w tx fl la => Sys2Proof.Machine.execLd8u d w tx fl la s
  | .ld8s d w tx fl la => Sys2Proof.Machine.execLd8s d w tx fl la s
  | .ld16u d w tx fl la => Sys2Proof.Machine.execLd16u d w tx fl la s
  | .ld16s d w tx fl la => Sys2Proof.Machine.execLd16s d w tx fl la s
  | .ld32 d w tx fl la => Sys2Proof.Machine.execLd32 d w tx fl la s
  | .ld64 d w tx fl la => Sys2Proof.Machine.execLd64 d w tx fl la s
  | .ld128 d w tx fl la => Sys2Proof.Machine.execLd128 d w tx fl la s
  | .ld8uAcq d w tx fl la => Sys2Proof.Machine.execLd8uAcq d w tx fl la s
  | .ld8sAcq d w tx fl la => Sys2Proof.Machine.execLd8sAcq d w tx fl la s
  | .ld16uAcq d w tx fl la => Sys2Proof.Machine.execLd16uAcq d w tx fl la s
  | .ld16sAcq d w tx fl la => Sys2Proof.Machine.execLd16sAcq d w tx fl la s
  | .ld32Acq d w tx fl la => Sys2Proof.Machine.execLd32Acq d w tx fl la s
  | .ld64Acq d w tx fl la => Sys2Proof.Machine.execLd64Acq d w tx fl la s
  | .ld128Acq d w tx fl la => Sys2Proof.Machine.execLd128Acq d w tx fl la s
  | .st8 d w tx fl la => Sys2Proof.Machine.execSt8 d w tx fl la s
  | .st16 d w tx fl la => Sys2Proof.Machine.execSt16 d w tx fl la s
  | .st32 d w tx fl la => Sys2Proof.Machine.execSt32 d w tx fl la s
  | .st64 d w tx fl la => Sys2Proof.Machine.execSt64 d w tx fl la s
  | .st128 d w tx fl la => Sys2Proof.Machine.execSt128 d w tx fl la s
  | .st8Rel d w tx fl la => Sys2Proof.Machine.execSt8Rel d w tx fl la s
  | .st16Rel d w tx fl la => Sys2Proof.Machine.execSt16Rel d w tx fl la s
  | .st32Rel d w tx fl la => Sys2Proof.Machine.execSt32Rel d w tx fl la s
  | .st64Rel d w tx fl la => Sys2Proof.Machine.execSt64Rel d w tx fl la s
  | .st128Rel d w tx fl la => Sys2Proof.Machine.execSt128Rel d w tx fl la s
  | .atomAdd d w tx fl la => Sys2Proof.Machine.execAtomAdd d w tx fl la s
  | .atomAnd d w tx fl la => Sys2Proof.Machine.execAtomAnd d w tx fl la s
  | .atomOr d w tx fl la => Sys2Proof.Machine.execAtomOr d w tx fl la s
  | .atomXor d w tx fl la => Sys2Proof.Machine.execAtomXor d w tx fl la s
  | .atomMin d w tx fl la => Sys2Proof.Machine.execAtomMin d w tx fl la s
  | .atomMax d w tx fl la => Sys2Proof.Machine.execAtomMax d w tx fl la s
  | .atomMinu d w tx fl la => Sys2Proof.Machine.execAtomMinu d w tx fl la s
  | .atomMaxu d w tx fl la => Sys2Proof.Machine.execAtomMaxu d w tx fl la s
  | .atomSwap d w tx fl la => Sys2Proof.Machine.execAtomSwap d w tx fl la s
  | .atomCas d w tx fl la => Sys2Proof.Machine.execAtomCas d w tx fl la s
  | .atomFadd d w tx fl la => Sys2Proof.Machine.execAtomFadd d w tx fl la s
  | .atomAdd64 d w tx fl la => Sys2Proof.Machine.execAtomAdd64 d w tx fl la s
  | .atomSwap64 d w tx fl la => Sys2Proof.Machine.execAtomSwap64 d w tx fl la s
  | .atomCas64 d w tx fl la => Sys2Proof.Machine.execAtomCas64 d w tx fl la s
  | .atomInc d w tx fl la => Sys2Proof.Machine.execAtomInc d w tx fl la s
  | .atomArAdd o d w tx fl la => Sys2Proof.Machine.execAtomArAdd o d w tx fl la s
  | .atomArSwap o d w tx fl la => Sys2Proof.Machine.execAtomArSwap o d w tx fl la s
  | .atomArCas o d w tx fl la => Sys2Proof.Machine.execAtomArCas o d w tx fl la s
  | .atomArCas64 o d w tx fl la => Sys2Proof.Machine.execAtomArCas64 o d w tx fl la s
  | .mcst a fl la => Sys2Proof.Machine.execMcst a fl la s
  | .redst a o fl la => Sys2Proof.Machine.execRedst a o fl la s
  | .bulkrd a b fl la => Sys2Proof.Machine.execBulkrd a b fl la s
  | .copy a b fl la => Sys2Proof.Machine.execCopy a b fl la s
  | .copymc a b fl la => Sys2Proof.Machine.execCopymc a b fl la s
  | .nmopFill a fl la => Sys2Proof.Machine.execNmopFill a fl la s
  | .nmopCopy a fl la => Sys2Proof.Machine.execNmopCopy a fl la s
  | .nmopCmp a fl la => Sys2Proof.Machine.execNmopCmp a fl la s
  | .nmopRed a o fl la => Sys2Proof.Machine.execNmopRed a o fl la s
  | .xlat a n => Sys2Proof.Machine.execXlat a n s
  | .layreg a d => Sys2Proof.Machine.execLayreg a d s
  | .layrel a => Sys2Proof.Machine.execLayrel a s
  | .publ a b => Sys2Proof.Machine.execPubl a b s
  | .fenceAcq sc => Sys2Proof.Machine.execFenceAcq sc s
  | .fenceRel sc => Sys2Proof.Machine.execFenceRel sc s
  | .fenceAr sc => Sys2Proof.Machine.execFenceAr sc s
  | .fenceSc sc => Sys2Proof.Machine.execFenceSc sc s
  | .bar a d n => Sys2Proof.Machine.execBar a d n s
  | .barr a n => Sys2Proof.Machine.execBarr a n s
  | .gjoin a d g => Sys2Proof.Machine.execGjoin a d g s
  | .gleave => Sys2Proof.Machine.execGleave s
  | .ginfo d sel => Sys2Proof.Machine.execGinfo d sel s
  | .waita a d c => Sys2Proof.Machine.execWaita a d c s
  | .mwait a d => Sys2Proof.Machine.execMwait a d s
  | .dist a d => Sys2Proof.Machine.execDist a d s
  | .lnch a d => Sys2Proof.Machine.execLnch a d s
  | .msetm a fl la => Sys2Proof.Machine.execMsetm a fl la s
  | .mcb k a fl la => Sys2Proof.Machine.execMcb k a fl la s
  | .mld a p fl la => Sys2Proof.Machine.execMld a p fl la s
  | .mldsw a p fl la => Sys2Proof.Machine.execMldsw a p fl la s
  | .mldsa a p fl la => Sys2Proof.Machine.execMldsa a p fl la s
  | .mldc c a p fl la => Sys2Proof.Machine.execMldc c a p fl la s
  | .mstc c a p fl la => Sys2Proof.Machine.execMstc c a p fl la s
  | .mzero c fl la => Sys2Proof.Machine.execMzero c fl la s
  | .mstr c a fl la => Sys2Proof.Machine.execMstr c a fl la s
  | .mstrs c a fl la => Sys2Proof.Machine.execMstrs c a fl la s
  | .mstrx c a fl la => Sys2Proof.Machine.execMstrx c a fl la s
  | .mrdc c a fl la => Sys2Proof.Machine.execMrdc c a fl la s
  | .mwrc c a fl la => Sys2Proof.Machine.execMwrc c a fl la s
  | .msync fl la => Sys2Proof.Machine.execMsync fl la s
  | .vlCompletion w n => Sys2Proof.Machine.execVlCompletion w n s
  | .migrationWaitRetry w => Sys2Proof.Machine.execMigrationWaitRetry w s
  | .loadCompletion w n => Sys2Proof.Machine.execLoadCompletion w n s
  | .atomicCompletion w n order => Sys2Proof.Machine.execAtomicCompletion w n order s
  | .collectiveCompletion w n => Sys2Proof.Machine.execCollectiveCompletion w n s
  | .engineBurstIssue c tag => Sys2Proof.Machine.execEngineBurstIssue c tag s
  | .burstReturn c tag b => Sys2Proof.Machine.execBurstReturn c tag b s
  | .lastBurstEvent c tag => Sys2Proof.Machine.execLastBurstEvent c tag s
  | .handlerDrainLimit w => Sys2Proof.Machine.execHandlerDrainLimit w s
  | .nmopPiece md => Sys2Proof.Machine.execNmopPiece md s
  | .nmopCompletion c n => Sys2Proof.Machine.execNmopCompletion c n s
  | .groupEventArrival n => Sys2Proof.Machine.execGroupEventArrival n s
  | .waitaReread w => Sys2Proof.Machine.execWaitaReread w s
  | .waitaTimeout w => Sys2Proof.Machine.execWaitaTimeout w s
  | .monitorWake cd sector => Sys2Proof.Machine.execMonitorWake cd sector s
  | .mwaitTimeout w => Sys2Proof.Machine.execMwaitTimeout w s
  | .sleepExpiry w => Sys2Proof.Machine.execSleepExpiry w s
  | .tileTaskStart c n => Sys2Proof.Machine.execTileTaskStart c n s
  | .tileTaskCompletion c n => Sys2Proof.Machine.execTileTaskCompletion c n s
  | .rdreq n => Sys2Proof.Machine.execRdreq n s
  | .wrreq n => Sys2Proof.Machine.execWrreq n s
  | .tok n => Sys2Proof.Machine.execTok n s
  | .trumpreq n => Sys2Proof.Machine.execTrumpreq n s
  | .act n => Sys2Proof.Machine.execAct n s
  | .deact n => Sys2Proof.Machine.execDeact n s
  | .gathered n => Sys2Proof.Machine.execGathered n s
  | .release n => Sys2Proof.Machine.execRelease n s
  | .coherenceAck n => Sys2Proof.Machine.execCoherenceAck n s
  | .census n => Sys2Proof.Machine.execCensus n s
  | .report n => Sys2Proof.Machine.execReport n s
  | .late n => Sys2Proof.Machine.execLate n s
  | .rebuild n => Sys2Proof.Machine.execRebuild n s
  | .wakepend n => Sys2Proof.Machine.execWakepend n s
  | .holdreply n => Sys2Proof.Machine.execHoldreply n s
  | .reissueTimerExpiry cd sector => Sys2Proof.Machine.execReissueTimerExpiry cd sector s
  | .censusTimeExpiry sector => Sys2Proof.Machine.execCensusTimeExpiry sector s
  | .settleTimeExpiry sector => Sys2Proof.Machine.execSettleTimeExpiry sector s
  | .wakeBudgetExpiry cd sector => Sys2Proof.Machine.execWakeBudgetExpiry cd sector s
  | .linkResponseTimeout waiter die => Sys2Proof.Machine.execLinkResponseTimeout waiter die s
  | .dieAdmission cd => Sys2Proof.Machine.execDieAdmission cd s
  | .messageBufferTimeout n => Sys2Proof.Machine.execMessageBufferTimeout n s
  | .flitCrcFailure n => Sys2Proof.Machine.execFlitCrcFailure n s
  | .laneSparing pkg link => Sys2Proof.Machine.execLaneSparing pkg link s
  | .linkTeardown pkg link => Sys2Proof.Machine.execLinkTeardown pkg link s
  | .translationInvalidation k cd => Sys2Proof.Machine.execTranslationInvalidation k cd s
  | .invalidationAck k cd => Sys2Proof.Machine.execInvalidationAck k cd s
  | .driverInvalidation pkg iod rng => Sys2Proof.Machine.execDriverInvalidation pkg iod rng s
  | .wcAgeDrain c n => Sys2Proof.Machine.execWcAgeDrain c n s
  | .wcDrainAck c n => Sys2Proof.Machine.execWcDrainAck c n s
  | .commitWindowClose w => Sys2Proof.Machine.execCommitWindowClose w s
  | .strikeReport cd region => Sys2Proof.Machine.execStrikeReport cd region s
  | .waveSwap w => Sys2Proof.Machine.execWaveSwap w s
  | .trapEntry w => Sys2Proof.Machine.execTrapEntry w s
  | .faultLogAppend n => Sys2Proof.Machine.execFaultLogAppend n s
  | .waveKill w cause => Sys2Proof.Machine.execWaveKill w cause s
  | .preemptionRaise pkg q cd => Sys2Proof.Machine.execPreemptionRaise pkg q cd s
  | .preemptTrap w => Sys2Proof.Machine.execPreemptTrap w s
  | .blockFree b => Sys2Proof.Machine.execBlockFree b s
  | .blockResumption b cd cores p0 => Sys2Proof.Machine.execBlockResumption b cd cores p0 s
  | .blockRetirement b => Sys2Proof.Machine.execBlockRetirement b s
  | .retirementMessage n => Sys2Proof.Machine.execRetirementMessage n s
  | .launchEnd l => Sys2Proof.Machine.execLaunchEnd l s
  | .qptrDoorbell pkg q tail => Sys2Proof.Machine.execQptrDoorbell pkg q tail s
  | .recordTake pkg q => Sys2Proof.Machine.execRecordTake pkg q s
  | .dependenceReread pkg q => Sys2Proof.Machine.execDependenceReread pkg q s
  | .priorityAging pkg q => Sys2Proof.Machine.execPriorityAging pkg q s
  | .blockPlacement l cd cores p0 => Sys2Proof.Machine.execBlockPlacement l cd cores p0 s
  | .ctxActivate pkg ctx => Sys2Proof.Machine.execCtxActivate pkg ctx s
  | .ctxUpdate pkg ctx => Sys2Proof.Machine.execCtxUpdate pkg ctx s
  | .ctxRetire pkg ctx => Sys2Proof.Machine.execCtxRetire pkg ctx s
  | .ldrLoad pkg => Sys2Proof.Machine.execLdrLoad pkg s
  | .ldrUnload pkg slot => Sys2Proof.Machine.execLdrUnload pkg slot s
  | .migcmdMove md value => Sys2Proof.Machine.execMigcmdMove md value s
  | .migrationSectorMoved md => Sys2Proof.Machine.execMigrationSectorMoved md s
  | .hotctlEnable md value => Sys2Proof.Machine.execHotctlEnable md value s
  | .hotnessIntervalEnd md => Sys2Proof.Machine.execHotnessIntervalEnd md s
  | .cohctlPclr cd => Sys2Proof.Machine.execCohctlPclr cd s
  | .biasFlipToHost md value => Sys2Proof.Machine.execBiasFlipToHost md value s
  | .biasFlipToDevice md value => Sys2Proof.Machine.execBiasFlipToDevice md value s
  | .cxlMemrd pkg link addr req => Sys2Proof.Machine.execCxlMemrd pkg link addr req s
  | .cxlMemwr pkg link addr data => Sys2Proof.Machine.execCxlMemwr pkg link addr data s
  | .birsp n dirty => Sys2Proof.Machine.execBirsp n dirty s
  | .hostLinkDown pkg link => Sys2Proof.Machine.execHostLinkDown pkg link s
  | .removalNotice pkg removed => Sys2Proof.Machine.execRemovalNotice pkg removed s
  | .multicastFlit pkg n => Sys2Proof.Machine.execMulticastFlit pkg n s
  | .multicastCreditReturn pkg link => Sys2Proof.Machine.execMulticastCreditReturn pkg link s
  | .syncExchange die reference err => Sys2Proof.Machine.execSyncExchange die reference err s
  | .podExchange pkg reference err => Sys2Proof.Machine.execPodExchange pkg reference err s
  | .holdoverTimeout die => Sys2Proof.Machine.execHoldoverTimeout die s
  | .grandmasterFailover pkg => Sys2Proof.Machine.execGrandmasterFailover pkg s
  | .podJoin pkg time => Sys2Proof.Machine.execPodJoin pkg time s
  | .coreFrequencyChange cd mhz => Sys2Proof.Machine.execCoreFrequencyChange cd mhz s
  | .coreClockStop cd => Sys2Proof.Machine.execCoreClockStop cd s
  | .uncoreGate cd => Sys2Proof.Machine.execUncoreGate cd s
  | .uncoreWake cd => Sys2Proof.Machine.execUncoreWake cd s
  | .dieOff cd => Sys2Proof.Machine.execDieOff cd s
  | .dieReturn cd => Sys2Proof.Machine.execDieReturn cd s
  | .packageD3cold pkg => Sys2Proof.Machine.execPackageD3cold pkg s
  | .thermalThrottle cd mhz => Sys2Proof.Machine.execThermalThrottle cd mhz s
  | .thermalStop cd => Sys2Proof.Machine.execThermalStop cd s
  | .thermalRestart cd => Sys2Proof.Machine.execThermalRestart cd s
  | .packageReset pkg => Sys2Proof.Machine.execPackageReset pkg s
  | .patrolScrub md => Sys2Proof.Machine.execPatrolScrub md s
  | .alarm pkg cls => Sys2Proof.Machine.execAlarm pkg cls s
  | .firmwareVerify pkg target image sig => Sys2Proof.Machine.execFirmwareVerify pkg target image sig s
  | .firmwareUpdate pkg image sig => Sys2Proof.Machine.execFirmwareUpdate pkg image sig s
  | .getMeasurements pkg tdiCtx => Sys2Proof.Machine.execGetMeasurements pkg tdiCtx s
  | .lifecycleTransition pkg target cmd sig => Sys2Proof.Machine.execLifecycleTransition pkg target cmd sig s
  | .debugUnlock pkg token => Sys2Proof.Machine.execDebugUnlock pkg token s
  | .tenantKeySetup pkg ctx keys => Sys2Proof.Machine.execTenantKeySetup pkg ctx keys s
  | .debugStopRequest c part => Sys2Proof.Machine.execDebugStopRequest c part s
  | .debugResume c part => Sys2Proof.Machine.execDebugResume c part s
  | .debugRegisterAccess w reg value => Sys2Proof.Machine.execDebugRegisterAccess w reg value s
  | .debugHoldRelease cd => Sys2Proof.Machine.execDebugHoldRelease cd s
  | .laneFocusEnter w lane => Sys2Proof.Machine.execLaneFocusEnter w lane s
  | .laneFocusStep w => Sys2Proof.Machine.execLaneFocusStep w s
  | .laneFocusLeave w => Sys2Proof.Machine.execLaneFocusLeave w s
  | .tracePageSeal cd ctx => Sys2Proof.Machine.execTracePageSeal cd ctx s
  | .registerWrite reg value => Sys2Proof.Machine.execRegisterWrite reg value s
  | .tableWalkCompletion cd n => Sys2Proof.Machine.execTableWalkCompletion cd n s
  | .scalarLoadReturn w => Sys2Proof.Machine.execScalarLoadReturn w s
  | .storeAcknowledgement w n => Sys2Proof.Machine.execStoreAcknowledgement w n s
  | .transferUnitReturn c tag u => Sys2Proof.Machine.execTransferUnitReturn c tag u s
  | .writebackRequest n => Sys2Proof.Machine.execWritebackRequest n s
  | .reshuffleDataRequest n => Sys2Proof.Machine.execReshuffleDataRequest n s
  | .linkRetrainDone pkg link => Sys2Proof.Machine.execLinkRetrainDone pkg link s
  | .coreClockRestart cd => Sys2Proof.Machine.execCoreClockRestart cd s
  | .hostLinkUp pkg link => Sys2Proof.Machine.execHostLinkUp pkg link s

end Sys2Proof.Machine
end

