-- ==== Sys2Proof/Machine/Step.lean ====
section
/-! DEFINITION. One step of the machine. -/

namespace Sys2Proof.Machine

/-- A wave's instruction, if a wave is ready. -/
def stepWave (s : State) : Option (Host.Outcome State Fault Refusal) :=
  issueReady exec (allWaves s).length { s with tick := s.tick + 1 }
/-- An event of the machine, if one is due. -/
def stepEvent (s : State) : Option (Host.Outcome State Fault Refusal) :=
  (nextEvent s).map fun e => wakeStalled (e.run { s with tick := s.tick + 1 })

/-- One step: the head of the agenda, if it is not empty; else the next instruction of a ready wave and the
machine's own events take turns; then the active set is settled (R162). A machine in which nothing can happen stays as it is. -/
def step (s : State) : Host.Outcome State Fault Refusal :=
  match s.agenda with
  | e :: es => settled exec (wakeStalled (exec e { s with agenda := es }))
  | [] =>
    let idle : Host.Outcome State Fault Refusal := .next { s with tick := s.tick + 1 }
    if s.tick % 2 = 0 then settled exec (((stepWave s).orElse fun _ => stepEvent s).getD idle)
    else settled exec (((stepEvent s).orElse fun _ => stepWave s).getD idle)

/-- The state with an instruction word where the next step fetches (log entry 11). -/
def State.withFetchWord (s : State) (nbits w : Nat) : State := placeWord s (BitVec.ofNat 32 (w % 2 ^ nbits))

end Sys2Proof.Machine
end

