-- ==== Sys2Proof/Safety.lean ====
section
/-! DEFINITION. Safe runs: the machine never stops, and its memories stay canonical. -/

namespace Sys2Proof

open Sys2Proof.Machine

/-- The memory of the machine is in canonical form. -/
def memoryWf (s : State) : Bool := memWf s.mem && memWf s.hostMem
/-- A state from which one step goes on. -/
def stepsOn (s : State) : Prop := ∃ t, step s = .next t

end Sys2Proof
end

