-- ==== Sys2Proof/Certificates/Slice0/Obligations.lean ====
section
/-! DEFINITION. The statements for the provers, one definition each, with the words they are said in. -/

namespace Sys2Proof.Says

open Sys2Proof.Machine

/-- The issuing wave can issue i now: a wave is issuing, the checks of R214 pass, and no lookahead, full flag or
outstanding acquire holds it (R186, R211, R288). -/
def Issues (i : Instr) (s : State) : Prop :=
  s.cur.live = true ∧ decodeTrap i s.cur = none ∧ mayIssue i s.cur = true
/-- A wave after the issue of one instruction that leaves the registers a: the instruction has its number, the registers
before it are in the commit window, and every lookahead has counted it (R211, R370). -/
def issued (w : Wave) (a : WaveArch) : Wave :=
  { w with
    a := a, seq := w.seq + 1, window := w.window ++ [⟨w.seq + 1, w.a⟩]
    ops := w.ops.map fun o => { o with la := o.la.map (· - 1) }
    xres := [], passed := 0, mark := none, replays := if w.a.trap then w.replays else 0 }
/-- The machine after an instruction that changes registers alone: every other wave, all memory and all else is as before. -/
def after (s : State) (a : WaveArch) : State := { s with cur := issued s.cur a }
/-- Registers with the PC moved on by one word (R203). -/
def onward (a : WaveArch) : WaveArch := { a with pc := a.pc + 4 }
/-- The machine after an instruction that writes x to scalar d. -/
def scalarTo (s : State) (d : SReg) (x : Word) : State := after s (onward (writeS (isHandler s.cur) s.cur.a d x))
/-- The machine after an instruction that writes the pair at d. -/
def pairTo (s : State) (d : SReg) (x : BitVec 64) : State := after s (onward (writePair (isHandler s.cur) s.cur.a d x))
/-- The machine after an instruction that writes the triple at d. -/
def tripleTo (s : State) (d : SReg) (m : Mask) : State := after s (onward (writeTriple (isHandler s.cur) s.cur.a d.toNat m))
/-- The machine after an instruction that only moves the PC. -/
def jumpTo (s : State) (pc : Word) : State := after s { s.cur.a with pc := pc }
/-- Of all waves only w has changed, into v. -/
def Becomes (s t : State) (w : WaveId) (v : Wave) : Prop := getWave t w = some v ∧ ∀ u, u ≠ w → getWave t u = getWave s u

end Sys2Proof.Says

open Sys2Proof Sys2Proof.Machine Sys2Proof.Says

/-- R226: sums, products, logic, minima, compares, shifts and counts of scalars. -/
def Sys2Proof.Says.ScalarArithmetic : Prop := ∀ (s : State) (d a b : SReg) (i : Instr) (v : Word),
  let x := readS s.cur.a a
  let y := readS s.cur.a b
  (i, v) ∈ [
    (.sadd d a b, x + y), (.ssub d a b, x - y), (.sand d a b, x &&& y), (.sor d a b, x ||| y), (.sxor d a b, x ^^^ y),
    (.sandn d a b, x &&& ~~~y), (.smul d a b, x * y),
    (.smulhs d a b, (x.signExtend 64 * y.signExtend 64).extractLsb' 32 32),
    (.smulhu d a b, (x.setWidth 64 * y.setWidth 64).extractLsb' 32 32),
    (.smin d a b, if x.sle y then x else y), (.smax d a b, if x.sle y then y else x),
    (.sminu d a b, if x.ule y then x else y), (.smaxu d a b, if x.ule y then y else x),
    (.sslt d a b, if x.slt y then 1 else 0), (.ssltu d a b, if x.ult y then 1 else 0),
    (.sseq d a b, if x = y then 1 else 0),
    (.sshl d a b, x <<< y.toNat), (.sshr d a b, x >>> y.toNat), (.ssar d a b, x.sshiftRight y.toNat),
    (.sclz d a, x.clz), (.spopc d a, x.cpop),
    (.ssext8 d a, (x.setWidth 8).signExtend 32), (.ssext16 d a, (x.setWidth 16).signExtend 32)] →
  Issues i s → exec i s = .next (scalarTo s d v)

/-- R227: immediates are sign-extended; `slui` places its 20 bits at bit 12. -/
def Sys2Proof.Says.ScalarImmediates : Prop :=
  ∀ (s : State) (d a : SReg) (imm : BitVec 14) (hi : BitVec 20) (i : Instr) (v : Word),
  let x := readS s.cur.a a
  (i, v) ∈ [
    (.saddi d a imm, x + imm.signExtend 32), (.sandi d a imm, x &&& imm.signExtend 32),
    (.sori d a imm, x ||| imm.signExtend 32), (.sxori d a imm, x ^^^ imm.signExtend 32),
    (.slui d hi, hi.setWidth 32 <<< 12)] →
  Issues i s → exec i s = .next (scalarTo s d v)

/-- R226: the sum and the difference of pairs, low word in the even register. -/
def Sys2Proof.Says.ScalarPairs : Prop := ∀ (s : State) (d a b : SReg) (i : Instr) (v : BitVec 64),
  let x := readS s.cur.a (a + 1) ++ readS s.cur.a a
  let y := readS s.cur.a (b + 1) ++ readS s.cur.a b
  (i, v) ∈ [(.sadd64 d a b, x + y), (.ssub64 d a b, x - y)] → Issues i s → exec i s = .next (pairTo s d v)

/-- R230: operations on mask triples. -/
def Sys2Proof.Says.MaskTriples : Prop := ∀ (s : State) (d a b : SReg) (i : Instr) (v : Mask),
  let x := readTriple s.cur.a a.toNat
  let y := readTriple s.cur.a b.toNat
  (i, v) ∈ [
    (.mand d a b, x &&& y), (.mor d a b, x ||| y), (.mxor d a b, x ^^^ y), (.mandn d a b, x &&& ~~~y), (.mnot d a, ~~~x),
    (.mset d, BitVec.allOnes 96), (.mclr d, 0#96), (.mlane d a, 1#96 <<< (readS s.cur.a a).toNat)] →
  Issues i s → exec i s = .next (tripleTo s d v)

/-- R230: the count of set lanes, and the lowest set lane or 96. -/
def Sys2Proof.Says.MaskCounts : Prop := ∀ (s : State) (d a : SReg) (i : Instr) (v : Word),
  let x := readTriple s.cur.a a.toNat
  (i, v) ∈ [(.mcnt d a, x.cpop.setWidth 32), (.mfirst d a, x.ctz.setWidth 32)] →
  Issues i s → exec i s = .next (scalarTo s d v)

/-- R231 to R233: a uniform branch moves the whole wave to PC + 4·sext(OFF16) where its condition holds, else on; em, the
path stack and every other register stay. -/
def Sys2Proof.Says.Branches : Prop := ∀ (s : State) (c : SReg) (o : BitVec 16) (i : Instr) (taken : Prop),
  let x := readS s.cur.a c
  let m := readTriple s.cur.a c.toNat
  let em := s.cur.a.em
  (i, taken) ∈ [
    (.bz c o, x = 0), (.bnz c o, x ≠ 0), (.bltz c o, x.slt 0 = true), (.bgez c o, (0 : Word).sle x = true),
    (.bgtz c o, (0 : Word).slt x = true), (.blez c o, x.sle 0 = true),
    (.bany c o, ∃ l < 96, m.getLsbD l = true ∧ em.getLsbD l = true),
    (.ball c o, ∀ l < 96, em.getLsbD l = true → m.getLsbD l = true),
    (.bnone c o, ∀ l < 96, ¬(m.getLsbD l = true ∧ em.getLsbD l = true)),
    (.branch o, True)] →
  Issues i s →
    (taken → exec i s = .next (jumpTo s (s.cur.a.pc + 4 * o.signExtend 32))) ∧
    (¬taken → exec i s = .next (jumpTo s (s.cur.a.pc + 4)))

/-- R233: `call` writes the address of the next word and jumps; `ret` jumps to the address in a register, and parks with
ALIGN where that is not a multiple of 4. Rests on the model's choices of log entry 25. -/
def Sys2Proof.Says.CallAndReturn : Prop := ∀ (s : State) (r : SReg) (o : BitVec 16),
  (Issues (.call r o) s → exec (.call r o) s = .next (after s
    { writeS (isHandler s.cur) s.cur.a r (s.cur.a.pc + 4) with pc := s.cur.a.pc + 4 * o.signExtend 32 })) ∧
  (Issues (.ret r) s →
    (4 ∣ (readS s.cur.a r).toNat → exec (.ret r) s = .next (jumpTo s (readS s.cur.a r))) ∧
    (¬4 ∣ (readS s.cur.a r).toNat → exec (.ret r) s = .next (parkActive s .align 0)))

namespace Sys2Proof.Says

/-- The trap that a fetched word takes by its checks, if it takes one (R214). -/
def wordTrap (v : Wave) (w : Word) : Option Cause :=
  match decode w with
  | .ok i => decodeTrap i v
  | .error (.field i) => some ((earlyCheck i v).getD .rsvf)
  | .error _ => some .ill
/-- Bits [l + n - 1 : l] of a word as a number. -/
def fieldAt (w : Word) (l n : Nat) : Nat := (w.extractLsb' l n).toNat

end Sys2Proof.Says

/-- R226, R227: the words of the scalar ALU that trap, and which trap they take; the immediate forms never trap. -/
def Sys2Proof.Says.ScalarEncodings : Prop := ∀ (v : Wave) (w : Word),
  let fn := fieldAt w 0 8
  let pair := fun l => fieldAt w l 6 % 2 = 0 ∧ fieldAt w l 6 ≤ 54
  (fieldAt w 26 6 = 1 → wordTrap v w =
    if ¬(fn ≤ 0x16 ∨ fn = 0x20 ∨ fn = 0x21) then some .ill
    else if 0x13 ≤ fn ∧ fn ≤ 0x16 ∧ fieldAt w 8 6 ≠ 0 then some .rsvf
    else if 0x20 ≤ fn ∧ ¬(pair 20 ∧ pair 14 ∧ pair 8) then some .ill else none) ∧
  (fieldAt w 26 6 ∈ [2, 3, 4, 5, 7] → wordTrap v w = none) ∧ encode (.sadd 5 4 3) = some 0x04510300

/-- R230: the words of mask operations that trap: a field that names no triple, and a must-be-zero field. -/
def Sys2Proof.Says.MaskEncodings : Prop := ∀ (v : Wave) (w : Word), fieldAt w 26 6 = 0x0D →
  let fn := fieldAt w 0 8
  let triple := fun l => fieldAt w l 6 % 3 = 0 ∧ fieldAt w l 6 ≤ 60
  let named := (fn ∉ [7, 8] → triple 20) ∧ (fn ∈ [0, 1, 2, 3, 4, 7, 8] → triple 14) ∧ (fn ≤ 3 → triple 8)
  let zero := (4 ≤ fn → fieldAt w 8 6 = 0) ∧ (fn ∈ [5, 6] → fieldAt w 14 6 = 0)
  wordTrap v w = if 9 < fn ∨ ¬named then some .ill else if ¬zero then some .rsvf else none

/-- R231, R232: the words of uniform branches that trap. -/
def Sys2Proof.Says.BranchEncodings : Prop := ∀ (v : Wave) (w : Word),
  let cnd := fieldAt w 22 4
  let sc := fieldAt w 16 6
  (fieldAt w 26 6 = 8 → wordTrap v w = if 5 < cnd then some .ill else none) ∧
  (fieldAt w 26 6 = 9 → wordTrap v w = if 2 < cnd ∨ ¬(sc % 3 = 0 ∧ sc ≤ 60) then some .ill else none)

/-- R179, R180, R225: what a scalar reads after a write. s63 discards the write and reads 0; a write of em0 to em2 never sets
an exited lane, and only the low 32 lanes of a handler wave (R142). -/
def Obligations.ScalarReadAfterWrite : Prop := ∀ (h : Bool) (a : WaveArch) (d r : SReg) (x : Word),
  (r ≠ d → readS (writeS h a d x) r = if 60 ≤ r.toNat ∧ r.toNat < 63 ∧ 60 ≤ d.toNat ∧ d.toNat < 63
    then readS { a with em := (if h then a.em &&& 0xFFFFFFFF else a.em) &&& ~~~a.xl } r else readS a r) ∧
  (d.toNat < 60 → readS (writeS h a d x) d = x) ∧
  (∀ k < 3, d.toNat = 60 + k → readS (writeS h a d x) d =
    if h ∧ 0 < k then 0 else x &&& ~~~(a.xl.extractLsb' (32 * k) 32)) ∧
  (d.toNat = 63 → writeS h a d x = a ∧ readS a d = 0)

/-- R183, R247: `getmode` reads the selected register, `setmode` and `setmode.m` write a legal value; one that holds a
reserved value in an RW field traps RSVF and writes nothing else. -/
def Obligations.ModeRegisters : Prop := ∀ (s : State) (r m : SReg) (sel : ModeSel) (f : WaveArch → Word)
    (g : Word → WaveArch → WaveArch) (legal : Word → Option Word),
  (sel, f, g, legal) ∈ [
    (ModeSel.mode, (fun a : WaveArch => a.mode), (fun x (a : WaveArch) => { a with mode := x }), legalMode),
    (.mmode, (fun a => a.mmode), (fun x a => { a with mmode := x }), legalMmode),
    (.stat, (fun a => a.stat), (fun x a => { a with stat := x }), fun x => some (legalStat x)),
    (.seed, (fun a => a.seed), (fun x a => { a with seed := x }), some)] →
  (Issues (.getmode r sel) s → exec (.getmode r sel) s = .next (scalarTo s r (f s.cur.a))) ∧
  (Issues (.setmode r sel) s → ∀ o, legal (readS s.cur.a r) = o → exec (.setmode r sel) s = .next (match o with
    | some x => after s (onward (g x s.cur.a)) | none => trapAt s .rsvf)) ∧
  (Issues (.setmodeM r m sel) s →
    ∀ o, legal ((f s.cur.a &&& ~~~(readS s.cur.a m)) ||| (readS s.cur.a r &&& readS s.cur.a m)) = o →
    exec (.setmodeM r m sel) s = .next (match o with
      | some x => after s (onward (g x s.cur.a)) | none => trapAt s .rsvf))

/-! ## Wave control, checks, traps and privilege -/

namespace Sys2Proof.Says

/-- The machine after an instruction that waits until everything before it has committed and commits with its own effect. -/
def committed (s : State) (a : WaveArch) : State := { s with cur := { issued s.cur a with window := [] } }
/-- Of all cores only c has changed, and of it only whether a partition is stopped. -/
def PartStops (s t : State) (c : CoreId) (part : Nat) (on : Bool) : Prop :=
  (∃ x : BitVec 4, getCore t c = { getCore s c with stopped := x } ∧ x.getLsbD part = on ∧
    ∀ q, q ≠ part → x.getLsbD q = (getCore s c).stopped.getLsbD q) ∧ ∀ k, k ≠ c → getCore t k = getCore s k
/-- The 1,024 bytes of a wave's trap frame as a load of the wave reads them: under its own stores (R80, R114, R364, R366). -/
def frameAt (s : State) (t : Target) : List Byte := (List.range 1024).map fun i =>
  (opsByte (ownStores s.cur s.nextId) t.space (t.addr + i)).getD (readByte s t (t.addr + i))
/-- n bytes of a frame at an offset, as a number. -/
def frameField (fr : List Byte) (off n : Nat) : Nat := leNat ((fr.drop off).take n)

end Sys2Proof.Says

/-- R214, R211: of every instruction word, without a wave it cannot run; one that fails a check takes that check's trap;
one that passes but may not issue yet changes nothing but the wave's reason to wait. -/
def Sys2Proof.Says.WordGuards : Prop := ∀ (i : Instr) (s : State), encode i ≠ none →
  (s.cur.live = false → exec i s = .fault .noWave) ∧
  (∀ c, s.cur.live = true → decodeTrap i s.cur = some c → exec i s = .next (trapAt s c)) ∧
  (s.cur.live = true → decodeTrap i s.cur = none → mayIssue i s.cur = false → exec i s = .next (stall s))

/-- R214, R251 to R257: below privileged level the privileged words trap PRIV, and so do `sysr` and `sysw` of a register
outside the user ones; at the base privileged level `eret` traps ILL, and so does a register number that does not exist. -/
def Sys2Proof.Says.PrivilegeTraps : Prop := ∀ (s : State) (a : SReg) (n : BitVec 4) (num : BitVec 10), s.cur.live = true →
  s.cur.a.trap = false →
  (s.cur.priv = false → ∀ i ∈ [.eret, .cacheopInvx a, .cacheopWb a, .cacheopWbinv a, .dbgbrk n, .keywipeAll, .keywipeContext,
      .halt], exec i s = .next (trapAt s .priv)) ∧
  (s.cur.priv = false → num ∉ [0x010, 0x012, 0x014, 0x018, 0x01A] →
    ∀ i ∈ [.sysr a num, .sysw a num], exec i s = .next (trapAt s .priv)) ∧
  (s.cur.priv = true → exec .eret s = .next (trapAt s .ill)) ∧
  (s.cur.priv = true → num ∉ [0x010, 0x012, 0x014, 0x018, 0x01A, 0x030, 0x032, 0x034, 0x035, 0x036, 0x037, 0x040, 0x042, 0x044,
      0x046, 0x048, 0x04A] → ∀ i ∈ [.sysr a num, .sysw a num], exec i s = .next (trapAt s .ill))

/-- R361 to R364, R359, R185: taking a trap outside trap state with nothing outstanding and a frame that can be written. The
wave enters trap state at TRAPENT with TFADDR set, TSADDR and TSCR zero and the cause in FCLASS; every other register stays;
the frame is a store of the wave; the record goes to the log and the handler waits for its acknowledgement; memory and the
other waves are as before. -/
def Sys2Proof.Says.TrapEntry : Prop := ∀ (s : State) (c : Cause) (code resume pc : Word) (oaddr : BitVec 64) (plm : Mask)
    (park : Bool) (tgt : Target),
  let ad := frameAddr (getCtx s (pkgOf s.cur.id.cd) s.cur.ctx) s.cur.id
  s.cur.live = true → s.cur.a.trap = false → s.cur.handler = none → (∀ o ∈ s.cur.ops, o.flag = none) →
  s.cur.id.cd % 16 < 8 → s.cur.id.cd < 0x100000 → c ≠ .preempt →
  translate s s.cur 0b010 (ad.extractLsb' 40 24) (ad.extractLsb' 0 40).toNat 1024 = .ok tgt →
  let t := raiseTrap s c code resume pc oaddr plm park
  t.cur.a = { s.cur.a with
    stat := t.cur.a.stat, trap := true
    pc := 4 * ((getCtx s (pkgOf s.cur.id.cd) s.cur.ctx).trapdesc.extractLsb' 0 24).setWidth 32
    tfaddr := ad, tsaddr := 0, tscr := Vector.replicate 4 0 } ∧
  t.cur.a.stat = (BitVec.ofNat 8 (causeCode c) ++ s.cur.a.stat.extractLsb' 0 24) ∧
  t.cur.hold = .logWait ∧ t.waves = s.waves ∧ t.mem = s.mem ∧ t.hostMem = s.hostMem ∧ t.sectors = s.sectors ∧
  ∃ (r : FaultRec) (o : Op), t.faults = s.faults ++ [{ r with waiter := some s.cur.id }] ∧
    (r.cause, r.code, r.pc, r.oaddr, r.plm, r.park, r.kill, r.double) = (c, code, pc, oaddr, plm, park, false, false) ∧
    (r.ctx, r.core, r.part, r.slot, r.blk) =
      (s.cur.ctx, s.cur.id.core, s.cur.id.part, s.cur.id.slot, BitVec.ofNat 32 s.cur.blk.idx) ∧
    t.cur.ops = s.cur.ops ++ [o] ∧ o.kind = .frame ∧
    o.acc = piecesOf ad tgt (frameBytes { s.cur with a := { s.cur.a with stat := t.cur.a.stat } } r resume)

/-- R213, R361: with a long-latency instruction outstanding the trap waits, and TRAP_ENTRY takes it once none is. -/
def Sys2Proof.Says.TrapWaits : Prop :=
  (∀ (s : State) (c : Cause) (code resume pc : Word) (oaddr : BitVec 64) (plm : Mask) (park : Bool),
    s.cur.a.trap = false → s.cur.handler = none → (∃ o ∈ s.cur.ops, o.flag ≠ none) →
    let t := raiseTrap s c code resume pc oaddr plm park
    t.cur.a = s.cur.a ∧ t.cur.ops = s.cur.ops ∧ t.faults = s.faults ∧ t.mem = s.mem ∧
      ∃ r, t.cur.hold = .trapPending r resume ∧ (r.cause, r.code, r.pc, r.oaddr, r.plm) = (c, code, pc, oaddr, plm)) ∧
  (∀ (s : State) (w : WaveId) (v : Wave) (r : FaultRec) (resume : Word),
    getWave s w = some v → v.hold = .trapPending r resume → (∀ o ∈ v.ops, o.flag = none) → r.cause ≠ .preempt →
    v.focus = none → partitionRuns s w = true →
    exec (.trapEntry w) s = .next (enterTrap s v r resume (frameAddr (getCtx s (pkgOf w.cd) v.ctx) w) 0))

/-- R361, R367, R143: in trap state, and in a handler wave, a fault kills. The wave ends with the cause in FCLASS and no other
register written, and the record says that it was a kill. -/
def Sys2Proof.Says.FaultInTrapStateKills : Prop := ∀ (s : State) (c : Cause) (code resume pc : Word) (oaddr : BitVec 64)
    (plm : Mask) (park : Bool), s.cur.live = true → s.cur.a.trap = true ∨ s.cur.handler ≠ none →
  let t := raiseTrap s c code resume pc oaddr plm park
  t.cur.hold = .ended ∧ t.cur.window = [] ∧
  t.cur.a = { s.cur.a with stat := BitVec.ofNat 8 (causeCode c) ++ s.cur.a.stat.extractLsb' 0 24 } ∧
  ∃ r ∈ t.faults, r.cause = c ∧ r.pc = pc ∧ r.kill = true ∧ r.waiter = none ∧ r.double = s.cur.a.trap

/-- R249, R256: `trap` and, with the debug port closed, `dbgbrk` take a DBG trap (TrapEntry, TrapWaits and FaultInTrapStateKills say
what taking one does) whose code is n and whose frame continues behind them; with the port open `dbgbrk` stops its partition and
no other, reports its code, and changes nothing else, its own wave included; `halt` puts its die into debug hold; with the port
closed `halt` traps PRIV. -/
def Sys2Proof.Says.DebugWords : Prop := ∀ (s : State) (n : BitVec 4),
  let w := s.cur
  let port := (getPkg s (w.id.cd / 16)).sec.port
  (Issues (.trapW n) s → exec (.trapW n) s = .next (raiseTrap s .dbg (n.setWidth 32) (w.a.pc + 4) w.a.pc 0 0 false)) ∧
  (Issues (.dbgbrk n) s → port = false →
    exec (.dbgbrk n) s = .next (raiseTrap s .dbg (n.setWidth 32) (w.a.pc + 4) w.a.pc 0 0 false)) ∧
  (Issues (.dbgbrk n) s → port = true → w.id.part < 4 → ∃ t, exec (.dbgbrk n) s = .next t ∧
    PartStops s t ⟨w.id.cd, w.id.core⟩ w.id.part true ∧
    t = { s with cores := t.cores, hostOut := s.hostOut ++ [.debugStop ⟨w.id.cd, w.id.core⟩ w.id.part n.toNat] }) ∧
  (Issues .halt s → port = true → exec .halt s =
    .next (onCd (after s (onward w.a)) w.id.cd fun d => { d with held := true })) ∧
  (Issues .halt s → port = false → exec .halt s = .next (trapAt s .priv))

/-- R254, R366, R338, R46, R174: `eret` reads the frame at TFADDR once its wave's stores have been performed. A frame that holds a
forbidden value kills the wave; else the PC, the exited set, em without exited lanes, MODE, MMODE, STAT and the path stack with its
depth come from it; the flags count the wave's saved tile tasks; the translation registers are set again from the walks of their
addresses; the group stack holds those groups of the frame that the wave is a member of; trap state is left; and the vector,
operand, scalar and cross-lane registers stay, as do the memories and the other waves. Rests on the model's choices of log
entry 83. -/
def Obligations.ReturnFromTrap : Prop := ∀ (s s' : State) (tgt : Target) (vals : List (Nat × Nat)), Issues .eret s →
  ownReleased s.cur s.nextId = true → (s.cur.a.tsaddr ≠ 0 → scrStores s.cur = false) →
  translate s s.cur 0b001 (s.cur.a.tfaddr.extractLsb' 40 24) (s.cur.a.tfaddr.extractLsb' 0 40).toNat 1024 = .ok tgt →
  tryRead s s.cur s.nextId (piecesOf s.cur.a.tfaddr tgt (List.replicate 1024 0)) = .got vals none s' →
  let fr := frameAt s tgt
  (frameOk fr = false → exec .eret s = .next (killWave s' s.cur .rsvf s.cur.a.pc 0 true)) ∧
  (frameOk fr = true → (∀ ad ∈ frameTx fr, ∃ r ∈ s.cur.xres, (r.id, r.page) = pageOf ad) → ∃ t, exec .eret s = .next t ∧
    let a := t.cur.a
    a.pc = BitVec.ofNat 32 (frameField fr 0x40 4) ∧ a.xl = BitVec.ofNat 96 (frameField fr 0x54 12) ∧
    a.em = BitVec.ofNat 96 (frameField fr 0x48 12) &&& ~~~a.xl ∧
    a.mode = BitVec.ofNat 32 (frameField fr 0x60 4) ∧ a.mmode = BitVec.ofNat 32 (frameField fr 0x64 4) ∧
    a.stat = BitVec.ofNat 32 (frameField fr 0x68 4) &&& 0xFF0000DF ∧ a.depth = frameField fr 0x74 4 ∧
    a.stack.length = min 16 a.depth ∧
    (∀ (i : Nat) (e : PathEntry), a.stack[i]? = some e → entryBytes e = (fr.drop (0x100 + 24 * i)).take 24) ∧
    (∀ n : Fin 12, a.flags[n] = BitVec.ofNat 4 (savedTasks s s.cur n.val)) ∧
    (∀ i : Fin 7, a.tx[i] = if frameField fr (0x88 + 16 * i.val) 1 = 1
      then txOf s.cur.a.tx[i] (BitVec.ofNat 64 (frameField fr (0x80 + 16 * i.val) 8)) (walked s.cur (BitVec.ofNat 64 (frameField fr (0x80 + 16 * i.val) 8)))
      else {}) ∧
    a.trap = false ∧ a.tsaddr = 0 ∧ a.tscr = Vector.replicate 4 0 ∧
    (a.v, a.w, a.s, a.xv, a.seed, a.l0, a.l1) =
      (s.cur.a.v, s.cur.a.w, s.cur.a.s, s.cur.a.xv, s.cur.a.seed, s.cur.a.l0, s.cur.a.l1) ∧
    t.cur.groups = restoreGroups s s.cur fr ∧ t = { s' with cur := t.cur } ∧
    t.mem = s.mem ∧ t.hostMem = s.hostMem ∧ t.waves = s.waves)

/-- R245, R246, R249, R250: `nop` only moves on; `wait` issues when every named flag reads 0, else it waits; `exit` ends the
wave, which leaves each of its groups, and drains every write-combining entry of its core and every byte that waits for one; it
changes no other register, no other core, no memory and no other wave. -/
def Sys2Proof.Says.WaveControl : Prop := ∀ (s : State) (m : BitVec 12),
  (Issues .nop s → exec .nop s = .next (after s (onward s.cur.a))) ∧
  (Issues (.waitW m) s → (∀ n : Fin 12, m.getLsbD n.val = true → s.cur.a.flags[n] = 0) →
    exec (.waitW m) s = .next (after s (onward s.cur.a))) ∧
  (Issues (.waitW m) s → (∃ n : Fin 12, m.getLsbD n.val = true ∧ s.cur.a.flags[n] ≠ 0) →
    exec (.waitW m) s = .next (stall s)) ∧
  (Issues .exitW s → ∃ t, exec .exitW s = .next t ∧ t.cur = { issued s.cur (onward s.cur.a) with hold := .ended, mark := some s.nextId } ∧
    t.groupMsgs = s.groupMsgs ++ (groupsOf s s.cur).map (fun g =>
      ⟨s.cur.seq + 1, .leave s.cur.id g false ⟨s.cur.blk, s.cur.k⟩⟩) ∧
    t = { s with cur := t.cur, groupMsgs := t.groupMsgs, cores := t.cores } ∧
    let c := coreId s.cur.id
    let k := getCore s c
    getCore t c = { k with
      wc := k.wc.map fun e => { e with draining := true }, wcWait := k.wcWait.map fun b => { b with due := true } } ∧
    ∀ x, x ≠ c → getCore t x = getCore s x)

/-- R23, R248: `sleep` of 0 gives up the active place where a ready wave of the partition waits for one; a longer one holds the
wave until 16 counts of TIME for each nanosecond have passed since a sample of TIME that is not before the die's last one (which
sample is free, log entry 3). Beside the wave the sample alone changes: the TIME of the die and of its reference. -/
def Sys2Proof.Says.Sleep : Prop := ∀ (s : State) (a : SReg), Issues (.sleep a) s →
  (readS s.cur.a a = 0 → exec (.sleep a) s = .next { s with
    cur := { issued s.cur (onward s.cur.a) with active := s.cur.active && !pendingReady s s.cur } }) ∧
  (readS s.cur.a a ≠ 0 → ∃ t now, exec (.sleep a) s = .next t ∧ (timeSt s s.cur.id.cd).time.toNat ≤ now ∧
    t = { s with
      cur := { issued s.cur (onward s.cur.a) with hold := .sleep (now + 16 * (readS s.cur.a a).toNat) }
      cds := t.cds, mds := t.mds, pkgs := t.pkgs, free := t.free } ∧
    (∀ u, ∃ x, getCd t u = { getCd s u with time := x }) ∧ (∀ u, ∃ x, getMd t u = { getMd s u with time := x }) ∧
    ∀ p, ∃ x y, getPkg t p = { getPkg s p with time0 := x, time1 := y })

/-- R253, R31, R18, R67, R365, R397, R407, R408: what `sysr` reads of the registers that no clock advances, 32 bits into a
scalar, 64 into a pair. -/
def Sys2Proof.Says.SystemRegisterReads : Prop := ∀ (s : State) (a : SReg),
  let w := s.cur
  let d := getCd s w.id.cd
  let p := getPkg s (pkgOf w.id.cd)
  (∀ (num : BitVec 10) (x : Word), (num, x) ∈ [
      ((0x018 : BitVec 10), vdieWord (getCtx s (pkgOf w.id.cd) w.ctx) w.id.cd), (0x01A, 0x08202040), (0x034, w.a.tscr[0]), (0x035, w.a.tscr[1]),
      (0x036, w.a.tscr[2]), (0x037, w.a.tscr[3]), (0x040, lcstate p), (0x042, d.trace.sampctl), (0x044, d.trace.trcctl)] →
    Issues (.sysr a num) s → exec (.sysr a num) s = .next (scalarTo s a x)) ∧
  (∀ (num : BitVec 10) (x : BitVec 64), (num, x) ∈ [
      ((0x030 : BitVec 10), w.a.tfaddr), (0x032, w.a.tsaddr), (0x046, d.trace.trcbase),
      (0x048, d.trace.drop ++ d.trace.tail ++ d.trace.head), (0x04A, p.sec.devid)] →
    Issues (.sysr a num) s → exec (.sysr a num) s = .next (pairTo s a x))

namespace Sys2Proof.Says

/-- The die whose TIME is the reference of a compute die's: the pod's grandmaster under DOMAIN, and the die itself where the pod has
none; else the package's grandmaster (R24, R26). -/
def referenceOf (s : State) (cd : Nat) : Nat :=
  if (getCd s cd).time.domain = true then (match s.podRef with | some p => grandmaster s p | none => cd) else grandmaster s (cd / 16)
/-- A sample `now` of a compute die's TIME has been taken, with its reference as it stands then: neither is below its last sample, ERR
bounds their distance, and beside these two clocks only the counter of the free values has changed (R23, R26). -/
def TimeSampled (s t : State) (cd : Nat) (now : BitVec 64) : Prop := ∃ w : BitVec 64,
  let r := referenceOf s cd
  let old := (getCd s cd).time
  let s1 := onTime s r fun x => { x with time := if w.toNat < x.time.toNat then x.time else w }
  let ref := (timeSt s1 r).time
  old.time.toNat ≤ now.toNat ∧ (timeSt s r).time.toNat ≤ ref.toNat ∧ (r = cd → now = ref) ∧
  (r ≠ cd → old.err ≠ 0xFFFF →
    ref.toNat ≤ now.toNat + old.err.toNat ∧ now.toNat ≤ max old.time.toNat (ref.toNat + old.err.toNat)) ∧
  t = { onTime s1 cd (fun x => { x with time := now }) with free := s.free + 2 }
/-- TIMEERR as it reads: in holdover ERR has grown by 160 units of 1/16 ns for each millisecond of TIME, up to 0xFFFF, and LOCK is
clear once ERR passes the locked bound (R27). -/
def grownErr (t : TimeSt) : TimeSt :=
  if t.holdover then
    let e := min 0xFFFF (t.heldErr.toNat + (t.time.toNat - t.heldSince.toNat) / 100000)
    { t with err := BitVec.ofNat 16 e, lock := t.lock && decide (e ≤ if t.domain then 400 else 24) }
  else t

end Sys2Proof.Says

/-- R23, R26, R27, R30, R253: `sysr` of TIME and CYCLE gives one sample, not below the last one, and the register keeps it; beside TIME
only the TIME of the die's reference goes on, and CYCLE stands while the core clock does; `sysr` of TIMEERR samples TIME and reads the
bound as it has grown by then, in holdover or not. -/
def Sys2Proof.Says.ClockReads : Prop := ∀ (s : State) (a : SReg), s.cur.id.cd % 16 < 8 → s.cur.id.cd < 0x100000 →
  let cd := s.cur.id.cd
  (Issues (.sysr a 0x010) s → ∃ t now, TimeSampled s t cd now ∧ exec (.sysr a 0x010) s = .next { t with cur := (pairTo s a now).cur }) ∧
  (Issues (.sysr a 0x012) s → ∃ t now, TimeSampled s t cd now ∧
    let u := onTime t cd grownErr
    let e := (getCd u cd).time
    let x : Word := (0 : BitVec 12) ++ BitVec.ofBool e.domain ++ BitVec.ofBool e.holdover ++ BitVec.ofBool e.step ++ BitVec.ofBool e.lock ++ e.err
    exec (.sysr a 0x012) s = .next { u with cur := (scalarTo s a x).cur }) ∧
  (Issues (.sysr a 0x014) s →
    (clockRuns (getCd s cd) = true → ∃ x : BitVec 64, (getCd s cd).cycle.toNat ≤ x.toNat ∧ exec (.sysr a 0x014) s = .next
      { pairTo (onCd s cd fun d => { d with cycle := x }) a x with free := s.free + 1 }) ∧
    (clockRuns (getCd s cd) = false → exec (.sysr a 0x014) s = .next (pairTo s a (getCd s cd).cycle)))

/-- R253, R6, R31, R365, R407, R408: what `sysw` writes. TSCR is a register of the wave; a die's register is written once
everything before the instruction has committed (log entry 14); read-only fields and registers keep their values. -/
def Obligations.SystemRegisterWrites : Prop := ∀ (s : State) (a : SReg),
  let lo := readS s.cur.a a
  let x := readS s.cur.a (a + 1) ++ readS s.cur.a a
  let cd := s.cur.id.cd
  let done := committed s (onward s.cur.a)
  let trace := fun (f : TraceSt → TraceSt) => onCd done cd fun d => { d with trace := f d.trace }
  (∀ k : Fin 4, Issues (.sysw a (0x034 + BitVec.ofNat 10 k.val)) s →
    exec (.sysw a (0x034 + BitVec.ofNat 10 k.val)) s = .next (after s (onward { s.cur.a with tscr := s.cur.a.tscr.set k lo }))) ∧
  (s.cur.window = [] → ∀ (num : BitVec 10) (t : State), (num, t) ∈ [
      ((0x010 : BitVec 10), done), (0x014, done), (0x018, done), (0x01A, done), (0x030, done), (0x032, done), (0x040, done), (0x04A, done),
      (0x012, onTime done cd fun t => { t with step := t.step && !lo.getLsbD 17 }),
      (0x042, trace fun t => { t with sampctl := lo &&& 0x8000001F }),
      (0x044, trace fun t => { t with
        trcctl := lo &&& 0x800000FE
        last := if lo.getLsbD 31 = true ∧ t.trcctl.getLsbD 31 = false then none else t.last
        runs := if lo.getLsbD 31 = true ∧ t.trcctl.getLsbD 31 = false then t.runs + 1 else t.runs }),
      (0x046, trace fun t => { t with trcbase := x &&& 0x1FFFFFFFFFF }),
      (0x048, trace fun t => { t with tail := x.extractLsb' 24 24 })] →
    Issues (.sysw a num) s → exec (.sysw a num) s = .next t)

/-- R257, R255: `keywipe` erases the tenant keys of the package, or of the issuing context, whose streams are kept as erased with
their TAGF; a `cacheop` of a scratchpad address only moves on, one of object 0 parks, and one whose release is done starts its invalidation or write-back and holds
the wave until every die has answered; where no die is counted it moves on. A write-back reads the object's entry and extents under its
die's tokens, which it requests, and names the frames of its pages at once. Rests on the model's choices of log entries 8, 9 and 14. -/
def Obligations.KeysAndCaches : Prop := ∀ (s : State) (a : SReg), s.cur.window = [] →
  let w := s.cur
  let done := committed s (onward w.a)
  let p := pkgOf w.id.cd
  let ad := readS w.a (a + 1) ++ readS w.a a
  let id : BitVec 24 := ad.extractLsb' 40 24
  let page := (ad.extractLsb' 16 24).toNat
  let n := (readS w.a (a + 2)).toNat
  let gone := fun (c : Ctx) => match c.keys with
    | some k => k.streams.map fun t => (c.keySets, t)
    | none => []
  let wiped := fun (c : Ctx) => { c with keys := none, erased := gone c ++ c.erased }
  (Issues .keywipeAll s → exec .keywipeAll s =
    .next { done with ctxs := updWhere (fun c => c.pkg == p) wiped s.ctxs }) ∧
  (Issues .keywipeContext s → exec .keywipeContext s =
    .next { done with ctxs := updWhere (fun c => c.pkg == p && c.id == w.ctx) wiped s.ctxs }) ∧
  (∀ i ∈ [.cacheopInvx a, .cacheopWb a, .cacheopWbinv a], Issues i s →
    (id = 0 → exec i s = .next (parkActive s .bounds ad)) ∧
    (id = 0xFFFFFF → exec i s = .next (after s (onward w.a)))) ∧
  (id ≠ 0 → id ≠ 0xFFFFFF → released s w .pkg = true →
    (Issues (.cacheopInvx a) s → exec (.cacheopInvx a) s = .next (if countedDies s p = [] then done else { done with
      cur := { done.cur with hold := .inval [s.nextId] }
      nextId := s.nextId + 1
      invals := s.invals ++ [{ k := s.nextId, pkg := p, ctx := w.ctx, id := id, first := page, count := n
                               todo := countedDies s p, acks := countedDies s p, marks := [], iod := none }] })) ∧
    (∀ i inv, (i, inv) ∈ [(.cacheopWb a, false), (.cacheopWbinv a, true)] → Issues i s →
      tableNeeds s w.id.cd w.ctx id.toNat = [] → (∀ x ∈ tableSectors s w.id.cd w.ctx id.toNat, (getSec s w.id.cd x).req = none) →
      (entryAt s w.id.cd w.ctx id.toNat ≠ none → exec i s = .next (if countedDies s p = [] then done else { done with
        cur := { done.cur with hold := .writeback s.nextId }
        nextId := s.nextId + 1
        wbs := s.wbs ++ [{ k := s.nextId, pkg := p, frames := some (pageFrames s p w.ctx id.toNat page n), inv := inv
                           owed := countedDies s p, launch := none }]
        net := s.net ++ (countedDies s p).map fun d => { src := iodUnit p 0, dst := d, body := .writeback s.nextId } })) ∧
      (entryAt s w.id.cd w.ctx id.toNat = none → exec i s = .next (parkActive s .noxl ad)))) ∧
  (id ≠ 0 → id ≠ 0xFFFFFF → ∀ i ∈ [.cacheopWb a, .cacheopWbinv a], Issues i s →
    let xs := tableNeeds s w.id.cd w.ctx id.toNat
    xs ≠ [] → exec i s = .next (stall (xs.foldl (fun s x => postReq s w.id.cd x false) s)))

/-! ## Vector instructions -/

namespace Sys2Proof.Says

/-- The machine after a short vector instruction that gives each active lane i the word f i and raises the conditions fl:
inactive lanes keep theirs, the last-result file shifts (R178, R258), STAT takes the conditions, SEED moves on if the
instruction rounds under MODE.RM = SR with a lane active (R199), and older outstanding operations note the write (R212). -/
def vectorTo (s : State) (d : VSel) (f : Nat → Word) (fl : Nat) (rounds : Bool) : State :=
  let a := s.cur.a
  let new := mkLanes fun i => if a.em.getLsbD i then f i else laneOf (regLanes a d.toNat) i
  let t := after s (onward { setLanes a d.toNat new with
    l0 := new, l1 := a.l0, shifts := a.shifts + 1, stat := a.stat ||| BitVec.ofNat 32 fl
    seed := if rounds = true ∧ modeRm a.mode = 5 ∧ a.em ≠ 0 then a.seed + 1 else a.seed })
  { t with cur := { t.cur with ops := t.cur.ops.map (noteClash [d.toNat] a.em) } }
/-- The machine after an instruction that writes the triple k and raises the conditions fl. -/
def compareTo (s : State) (k : BitVec 5) (m : Mask) (fl : Nat) : State :=
  after s (onward { writeTriple (isHandler s.cur) s.cur.a (3 * k.toNat) m with stat := s.cur.a.stat ||| BitVec.ofNat 32 fl })
/-- Element e of the operand x of lane l, as its bit pattern of the element type t. -/
def elt (a : WaveArch) (t : EType) (x : VSel) (l e : Nat) : BitVec (widthOf t) :=
  BitVec.ofNat (widthOf t) ((srcWord a .typed t x l).toNat >>> (widthOf t * e))
/-- A bit pattern of an integer type as its number. -/
def num {b : Nat} (t : EType) (x : BitVec b) : Int := if isSigned t then x.toInt else x.toNat
/-- Least and greatest number of an integer type (R193). -/
def least (t : EType) (b : Nat) : Int := if isSigned t then -(2 ^ (b - 1)) else 0
def greatest (t : EType) (b : Nat) : Int := if isSigned t then 2 ^ (b - 1) - 1 else 2 ^ b - 1
/-- Element e of a lane word of the element type t. -/
def eltOf (t : EType) (x : Word) (e : Nat) : BitVec (widthOf t) := BitVec.ofNat (widthOf t) (x.toNat >>> (widthOf t * e))
/-- The lane word whose elements of the type t are f. -/
def pack (t : EType) (f : Nat → Nat) : Word := wordOfElems (widthOf t) f
/-- The conditions of every element of every active lane together. -/
def conditions (a : WaveArch) (t : EType) (f : Nat → Nat → Nat) : Nat :=
  flagsOver a.em fun l => elemFlags (32 / widthOf t) fun e => f l e

end Sys2Proof.Says

/-- R260, R270, R271, R273: the instructions on whole lane words. -/
def Sys2Proof.Says.LaneWords : Prop := ∀ (s : State) (d a b : VSel) (c : SReg) (i : Instr) (f : Nat → Word),
  let x := fun l => srcWord s.cur.a .raw .fp32 a l
  let y := fun l => srcWord s.cur.a .raw .fp32 b l
  (i, f) ∈ [
    (.vand d a b, fun l => x l &&& y l), (.vor d a b, fun l => x l ||| y l), (.vxor d a b, fun l => x l ^^^ y l),
    (.vandn d a b, fun l => x l &&& ~~~(y l)), (.vnot d a, fun l => ~~~(x l)), (.popc d a, fun l => (x l).cpop),
    (.clz d a, fun l => (x l).clz), (.brev d a, fun l => (x l).reverse), (.mov d a, x),
    (.sel d a b, fun l => if (readTriple s.cur.a (3 * modeGsel s.cur.a.mode)).getLsbD l then x l else y l),
    (.vsplat d c, fun _ => readS s.cur.a c), (.vlaneid d, fun l => BitVec.ofNat 32 l)] →
  Issues i s → exec i s = .next (vectorTo s d f 0 false)

/-- R273, R270: `vmask`, and the access to one lane, which does not look at em: `vrdl` reads 0 from a lane that does not
exist, `vwrl` writes one lane and shifts the last-result file. -/
def Sys2Proof.Says.LaneAccess : Prop := ∀ (s : State) (d a m : VSel) (r c : SReg),
  let w := s.cur
  let n := (readS w.a c).toNat
  let lanes := if w.handler = none then 96 else 32
  (Issues (.vmask d m) s → exec (.vmask d m) s =
    .next (vectorTo s d (fun l => if (readTriple w.a m.toNat).getLsbD l then 0xFFFFFFFF else 0) 0 false)) ∧
  (Issues (.vrdl r a c) s → exec (.vrdl r a c) s =
    .next (scalarTo s r (if n < lanes then srcWord w.a .raw .fp32 a n else 0))) ∧
  (Issues (.vwrl d r c) s → ∃ (new : Lanes) (m : Mask),
    (∀ l < 96, laneOf new l = if l = n ∧ n < lanes then readS w.a r else laneOf (regLanes w.a d.toNat) l) ∧
    (∀ l < 96, m.getLsbD l = decide (l = n)) ∧
    let t := after s (onward { setLanes w.a d.toNat new with l0 := new, l1 := w.a.l0, shifts := w.a.shifts + 1 })
    exec (.vwrl d r c) s = .next { t with cur := { t.cur with ops := t.cur.ops.map (noteClash [d.toNat] m) } })

/-- R260, R261, R271: a result is formed exactly from each element and wraps, or under MODE.SAT clamps to the range of the type
and raises SATF where it had to. -/
def Sys2Proof.Says.ExactIntegers : Prop := ∀ (s : State) (d a b : VSel) (t : EType) (i : Instr) (z : Nat → Nat → Int),
  let w := widthOf t
  let x := fun l e => num t (elt s.cur.a t a l e)
  let y := fun l e => num t (elt s.cur.a t b l e)
  let old := fun l e => num t (eltOf t (laneOf (regLanes s.cur.a d.toNat) l) e)
  modeEtype s.cur.a.mode = some t →
  (i, z) ∈ [
    (.iadd d a b, fun l e => x l e + y l e), (.isub d a b, fun l e => x l e - y l e), (.imul d a b, fun l e => x l e * y l e),
    (.imad d a b, fun l e => old l e + x l e * y l e), (.ineg d a, fun l e => -(x l e)),
    (.iabs d a, fun l e => (x l e).natAbs)] →
  Issues i s → ∃ f fl, exec i s = .next (vectorTo s d f fl false) ∧
    (∀ l < 96, ∀ e < 32 / w, eltOf t (f l) e = BitVec.ofInt w
      (if modeSat s.cur.a.mode then max (least t w) (min (greatest t w) (z l e)) else z l e)) ∧
    (modeSat s.cur.a.mode = true ∧ (∃ l < 96, s.cur.a.em.getLsbD l = true ∧ ∃ e < 32 / w,
        (z l e < least t w ∨ greatest t w < z l e)) → fl = 64) ∧
    (modeSat s.cur.a.mode = false ∨ (∀ l < 96, s.cur.a.em.getLsbD l = true → ∀ e < 32 / w,
        (least t w ≤ z l e ∧ z l e ≤ greatest t w)) → fl = 0)

/-- R260: the integer instructions that never saturate; a shift count is an element of VB (log entry 12). -/
def Sys2Proof.Says.ElementBits : Prop := ∀ (s : State) (d a b : VSel) (t : EType) (i : Instr)
    (r : BitVec (widthOf t) → BitVec (widthOf t) → BitVec (widthOf t)),
  let w := widthOf t
  let sg := isSigned t
  modeEtype s.cur.a.mode = some t →
  (i, r) ∈ [
    (.imulh d a b, fun x y => BitVec.ofInt w (num t x * num t y / 2 ^ w)),
    (.imin d a b, fun x y => if (if sg then x.sle y else x.ule y) then x else y),
    (.imax d a b, fun x y => if (if sg then x.sle y else x.ule y) then y else x),
    (.iabsd d a b, fun x y => BitVec.ofInt w (num t x - num t y).natAbs),
    (.shl d a b, fun x y => x <<< y.toNat), (.shr d a b, fun x y => x >>> y.toNat),
    (.sar d a b, fun x y => x.sshiftRight y.toNat), (.irot d a b, fun x y => x.rotateLeft y.toNat)] →
  Issues i s → ∃ f, exec i s = .next (vectorTo s d f 0 false) ∧
    ∀ l < 96, ∀ e < 32 / w, eltOf t (f l) e = r (elt s.cur.a t a l e) (elt s.cur.a t b l e)

/-- R262: the packed dot product into the lane's 32-bit accumulator, wrapped, or under MODE.SAT clamped as a 32-bit number with
SATF where it had to be. -/
def Sys2Proof.Says.DotProduct : Prop := ∀ (s : State) (d a b : VSel) (t : EType), modeEtype s.cur.a.mode = some t →
  let z := fun l => num t (laneOf (regLanes s.cur.a d.toNat) l) +
    ((List.range (32 / widthOf t)).map fun e => num t (elt s.cur.a t a l e) * num t (elt s.cur.a t b l e)).sum
  Issues (.idp d a b) s → ∃ f fl, exec (.idp d a b) s = .next (vectorTo s d f fl false) ∧
    (∀ l < 96, f l = BitVec.ofInt 32 (if modeSat s.cur.a.mode then max (least t 32) (min (greatest t 32) (z l)) else z l)) ∧
    (modeSat s.cur.a.mode = true ∧ (∃ l < 96, s.cur.a.em.getLsbD l = true ∧ (z l < least t 32 ∨ greatest t 32 < z l)) → fl = 64) ∧
    (modeSat s.cur.a.mode = false ∨ (∀ l < 96, s.cur.a.em.getLsbD l = true → least t 32 ≤ z l ∧ z l ≤ greatest t 32) → fl = 0)

/-- R263 to R265, R271: the float instructions, element by element, by the arithmetic of R194 to R200; those that round under
MODE.RM move SEED on. Rests on the model's choices of log entry 27. -/
def Obligations.FloatElements : Prop := ∀ (s : State) (d a b : VSel) (t : EType) (i : Instr) (rounds : Bool)
    (f : Nat → Nat → Nat × Nat),
  let w := s.cur.a
  let ftz := modeFtz w.mode
  let bx := fun l e => (elt w t a l e).toNat
  let x := fun l e => fdec t ftz (elt w t a l e).toNat
  let y := fun l e => fdec t ftz (elt w t b l e).toNat
  let z := fun l e => fdec t ftz (eltOf t (laneOf (regLanes w d.toNat) l) e).toNat
  let c := fun l e => rndOf w l e
  modeEtype w.mode = some t →
  (i, rounds, f) ∈ [
    (.fadd d a b, true, fun l e => addF t (c l e) (x l e) (y l e)),
    (.fsub d a b, true, fun l e => addF t (c l e) (x l e) (negVal (y l e))),
    (.fmul d a b, true, fun l e => mulF t (c l e) (x l e) (y l e)),
    (.ffma d a b, true, fun l e => fmaF t (c l e) false (x l e) (y l e) (z l e)),
    (.ffms d a b, true, fun l e => fmaF t (c l e) false (x l e) (y l e) (negVal (z l e))),
    (.ffnma d a b, true, fun l e => fmaF t (c l e) true (x l e) (y l e) (z l e)),
    (.ffnms d a b, true, fun l e => fmaF t (c l e) true (x l e) (y l e) (negVal (z l e))),
    (.fmin d a b, false, fun l e => minMax t ftz false false (elt w t a l e).toNat (elt w t b l e).toNat),
    (.fmax d a b, false, fun l e => minMax t ftz true false (elt w t a l e).toNat (elt w t b l e).toNat),
    (.fminp d a b, false, fun l e => minMax t ftz false true (elt w t a l e).toNat (elt w t b l e).toNat),
    (.fmaxp d a b, false, fun l e => minMax t ftz true true (elt w t a l e).toNat (elt w t b l e).toNat),
    (.fneg d a, false, fun l e => signOp t (! ·) (bx l e) (x l e)),
    (.fabs d a, false, fun l e => signOp t (fun _ => false) (bx l e) (x l e)),
    (.ffloor d a, false, fun l e => integral t 2 false (bx l e) (x l e)),
    (.fceil d a, false, fun l e => integral t 3 false (bx l e) (x l e)),
    (.ftrunc d a, false, fun l e => integral t 1 false (bx l e) (x l e)),
    (.frnd d a, false, fun l e =>
      integral t (if modeRm w.mode = 5 then 0 else modeRm w.mode) true (bx l e) (x l e))] →
  Issues i s → exec i s =
    .next (vectorTo s d (fun l => pack t fun e => (f l e).1) (conditions w t fun l e => (f l e).2) rounds)

/-- R266, R272: `fdp2` adds two products to an FP32 accumulator and rounds once; `cvt` converts the elements of one part: into
the part of a destination whose elements are no wider, the others keeping their old value, or from the part of the source; it
rounds under MODE.RM unless it widens a float or goes from integer to integer. Rests on the model's choices of log entries 26, 27. -/
def Obligations.WideFloats : Prop := ∀ (s : State) (d a b : VSel) (p : BitVec 3) (u t : EType),
  let w := s.cur.a
  let z := fun l => laneOf (regLanes w d.toNat) l
  modeEtype w.mode = some t →
  (Issues (.fdp2 d a b) s →
    let f := fun l => fdp2Lane t (rndOf w l 0) (srcWord w .typed t a l) (srcWord w .typed t b l) (z l)
    exec (.fdp2 d a b) s = .next (vectorTo s d (fun l => (f l).1) (flagsOver w.em fun l => (f l).2) true)) ∧
  (Issues (.cvt d p u a) s →
    let ns := 32 / widthOf u
    let nd := 32 / widthOf t
    let src := fun l e => ((srcWord w (.src u) u a l).toNat >>> (widthOf u * e)) % 2 ^ widthOf u
    let elem := fun l e => if ns ≤ nd then conv u t (rndOf w l (p.toNat * ns + e)) (src l e) else conv u t (rndOf w l e) (src l (p.toNat * nd + e))
    ∃ f, exec (.cvt d p u a) s = .next (vectorTo s d f
      (flagsOver w.em fun l => elemFlags (min ns nd) fun e => (elem l e).2)
      (!(isIntType u && isIntType t) && !(!isIntType u && !isIntType t && widthOf u < widthOf t))) ∧
    ∀ l < 96,
      (ns ≤ nd → (∀ e < ns, eltOf t (f l) (p.toNat * ns + e) = BitVec.ofNat (widthOf t) (elem l e).1) ∧
        ∀ k < nd, k < p.toNat * ns ∨ p.toNat * ns + ns ≤ k → eltOf t (f l) k = eltOf t (z l) k) ∧
      (nd < ns → ∀ e < nd, eltOf t (f l) e = BitVec.ofNat (widthOf t) (elem l e).1))

/-- R194, R200: rounding a number that the type can hold gives its own pattern, under every rounding mode, and raises no
condition. -/
def Sys2Proof.Says.RoundingExact : Prop := ∀ (t : EType) (c : Rnd) (n : Bool) (x m : Nat) (e : Int),
  t ∈ [.fp32, .fp16, .bf16, .e4m3, .e5m2, .e2m1] → c.ftz = false → x < 2 ^ widthOf t → m ≠ 0 →
  fdec t false x = .fin n m e → roundF t c n m e = (x, 0)

namespace Sys2Proof.Says

/-- The pattern p of a type is the magnitude k·2^g. -/
def Magnitude (t : EType) (p k : Nat) (g : Int) : Prop := ∃ m e, fdec t false p = .fin false m e ∧ g ≤ e ∧ k = m * 2 ^ (e - g).toNat
/-- An inexact number of magnitude x between the neighbouring magnitudes lo and hi becomes hi: nearest with ties to the even last
fraction bit, toward zero, down, up, nearest with ties away, and stochastic with the draw rnd (R194, R199). -/
def GoesOut (rm rnd : Nat) (neg odd : Bool) (lo x hi : Nat) : Prop :=
  match rm with
  | 0 => hi - x < x - lo ∨ (hi - x = x - lo ∧ odd = true)
  | 1 => False
  | 2 => neg = true
  | 3 => neg = false
  | 4 => hi - x ≤ x - lo
  | _ => if neg then ¬rnd < (hi - x) * 2 ^ 32 / (hi - lo) else rnd < (x - lo) * 2 ^ 32 / (hi - lo)
/-- The sign bit of a pattern. -/
def signOf (t : EType) (neg : Bool) : Nat := if neg then 2 ^ (widthOf t - 1) else 0
/-- ±m·2^e in units of 2^g. -/
def units (g : Int) (neg : Bool) (m : Nat) (e : Int) : Int := (if neg then -1 else 1) * (m * 2 ^ (e - g).toNat : Nat)

end Sys2Proof.Says

open Classical in
/-- R194 to R196, R198, R199: an inexact number between two neighbouring patterns p and p + 1 rounds to one of them by the rounding
mode, with NX, and with UF where it is tiny, or to zero under FTZ; one beyond the largest finite pattern mx rounds to it, or overflows
to infinity, NaN or that pattern by the type, the mode and SAT, with OF and NX, and SATF where it saturates. -/
def Sys2Proof.Says.RoundingInexact : Prop := ∀ (t : EType) (c : Rnd) (neg : Bool) (mx ov m : Nat) (e g : Int),
  (t, mx, ov) ∈ [(.fp32, 0x7F7FFFFF, 0x7F800000), (.fp16, 0x7BFF, 0x7C00), (.bf16, 0x7F7F, 0x7F80), (.e4m3, 0x7E, 0x7F),
    (.e5m2, 0x7B, 0x7C), (.e2m1, 7, 7)] → g ≤ e →
  let x := m * 2 ^ (e - g).toNat
  let sg := signOf t neg
  let least := 2 ^ manBits t
  let flush := c.ftz = true ∧ t ∈ [.fp32, .fp16, .bf16]
  (∀ p lo hi, p < mx → Magnitude t p lo g → Magnitude t (p + 1) hi g → lo < x → x < hi →
    let o := sg + (if GoesOut c.rm c.rnd neg (p % 2 == 1) lo x hi then p + 1 else p)
    (least ≤ p → roundF t c neg m e = (o, fNX)) ∧
    (p + 1 < least → roundF t c neg m e = if flush then (sg, fNX ||| fUF) else (o, fNX ||| fUF)) ∧
    (p + 1 = least → ¬flush → (roundF t c neg m e).1 = o)) ∧
  (∀ below lo, Magnitude t (mx - 1) below g → Magnitude t mx lo g → lo < x →
    let hi := lo + (lo - below)
    let toInf := c.rm ∉ [1, 2, 3] ∨ (c.rm = 3 ∧ neg = false) ∨ (c.rm = 2 ∧ neg = true)
    roundF t c neg m e =
      if x < hi ∧ ¬GoesOut (if 5 ≤ c.rm then 0 else c.rm) c.rnd neg (mx % 2 == 1) lo x hi then (sg + mx, fNX)
      else if t = .e2m1 ∨ (c.sat = true ∧ t ∈ [.e4m3, .e5m2]) then (sg + mx, fOF ||| fNX ||| fSATF)
      else if toInf then (if t = .e4m3 then ov else sg + ov, fOF ||| fNX) else (sg + mx, fOF ||| fNX))

/-- R194, R264, R266: a sum, a product and a fused sum of finite numbers are formed exactly and rounded once; so are both products and
the accumulator of `fdp2`. -/
def Sys2Proof.Says.ExactThenRounded : Prop :=
  (∀ (t : EType) (c : Rnd) (n1 n2 n3 : Bool) (m1 m2 m3 : Nat) (e1 e2 e3 : Int),
    let g := min 0 (min e1 e2)
    let h := min 0 (min (e1 + e2) e3)
    let sum := units g n1 m1 e1 + units g n2 m2 e2
    let fused := fun neg : Bool => units h ((n1 != n2) != neg) (m1 * m2) (e1 + e2) + units h n3 m3 e3
    (sum ≠ 0 → addF t c (.fin n1 m1 e1) (.fin n2 m2 e2) = roundF t c (decide (sum < 0)) sum.natAbs g) ∧
    mulF t c (.fin n1 m1 e1) (.fin n2 m2 e2) = roundF t c (n1 != n2) (m1 * m2) (e1 + e2) ∧
    (∀ neg, fused neg ≠ 0 → fmaF t c neg (.fin n1 m1 e1) (.fin n2 m2 e2) (.fin n3 m3 e3) =
      roundF t c (decide (fused neg < 0)) (fused neg).natAbs h)) ∧
  (∀ (t : EType) (c : Rnd) (u v z : Word) (n m : Nat → Bool × Nat × Int) (d : Bool × Nat × Int),
    (∀ k < 2, fdec t c.ftz (u.toNat / 2 ^ (16 * k) % 2 ^ 16) = .fin (n k).1 (n k).2.1 (n k).2.2) →
    (∀ k < 2, fdec t c.ftz (v.toNat / 2 ^ (16 * k) % 2 ^ 16) = .fin (m k).1 (m k).2.1 (m k).2.2) →
    fdec .fp32 c.ftz z.toNat = .fin d.1 d.2.1 d.2.2 →
    let e := fun k => (n k).2.2 + (m k).2.2
    let g := min (min (min 0 (e 0)) (e 1)) d.2.2
    let sum := units g ((n 0).1 != (m 0).1) ((n 0).2.1 * (m 0).2.1) (e 0) +
      units g ((n 1).1 != (m 1).1) ((n 1).2.1 * (m 1).2.1) (e 1) + units g d.1 d.2.1 d.2.2
    sum ≠ 0 → fdp2Lane t c u v z =
      (BitVec.ofNat 32 (roundF .fp32 c (decide (sum < 0)) sum.natAbs g).1, (roundF .fp32 c (decide (sum < 0)) sum.natAbs g).2))

open Classical in
/-- R198, R200, R272: the conversion of one element. Floats keep their value and round; an infinity or a NaN goes by the destination;
an integer becomes the rounded float; a float becomes the integer that it rounds to, clamped with SATF alone, NaN 0 with NV; an integer
that does not fit wraps, or is clamped under SAT with SATF. -/
def Sys2Proof.Says.ElementConversions : Prop := ∀ (u t : EType) (c : Rnd) (x : BitVec (widthOf u)),
  let w := widthOf t
  let clamp := fun v : Int => BitVec.ofInt w (max (least t w) (min (greatest t w) v))
  let fits := fun v : Int => least t w ≤ v ∧ v ≤ greatest t w
  let r := conv u t c x.toNat
  (isIntType u = false → isIntType t = false →
    (∀ n m e, fdec u c.ftz x.toNat = .fin n m e → r = roundF t c n m e) ∧
    (∀ n, fdec u c.ftz x.toNat = .inf n →
      ((t, infBits t n) ∈ [(EType.fp32, signOf t n + 0x7F800000), (.fp16, signOf t n + 0x7C00), (.bf16, signOf t n + 0x7F80)] ∧
          r = (infBits t n, 0)) ∨
      (t = .e5m2 ∧ r = if c.sat then (signOf t n + 0x7B, fOF ||| fNX ||| fSATF) else (signOf t n + 0x7C, 0)) ∨
      (t = .e4m3 ∧ r = if c.sat then (signOf t n + 0x7E, fOF ||| fNX ||| fSATF) else (0x7F, fOF ||| fNX)) ∨
      (t = .e2m1 ∧ r = (signOf t n + 7, fOF ||| fNX ||| fSATF))) ∧
    (∀ sig, fdec u c.ftz x.toNat = .nan sig → r.2 = (if t = .e2m1 ∨ sig = true then fNV else 0) ∧
      (t, r.1) ∈ [(EType.fp32, 0x7FC00000), (.fp16, 0x7E00), (.bf16, 0x7FC0), (.e4m3, 0x7F), (.e5m2, 0x7E), (.e2m1, 0)])) ∧
  (isIntType u = true → isIntType t = false → num u x ≠ 0 → r = roundF t c (decide (num u x < 0)) (num u x).natAbs 0) ∧
  (isIntType u = true → isIntType t = true →
    r = (if fits (num u x) then (BitVec.ofInt w (num u x), 0) else if c.sat then (clamp (num u x), fSATF)
      else (BitVec.ofInt w (num u x), 0)).map BitVec.toNat id) ∧
  (isIntType u = false → isIntType t = true →
    (∀ sig, fdec u false x.toNat = .nan sig → r = (0, fNV)) ∧
    (∀ n, fdec u false x.toNat = .inf n → r = ((BitVec.ofInt w (if n then least t w else greatest t w)).toNat, fSATF)) ∧
    (∀ n m e g, fdec u false x.toNat = .fin n m e → g ≤ e → g ≤ 0 →
      let one := 2 ^ (-g).toNat
      let a := m * 2 ^ (e - g).toNat
      let k := a / one
      let k' := if a % one ≠ 0 ∧ GoesOut c.rm c.rnd n (k % 2 == 1) (k * one) a ((k + 1) * one) then k + 1 else k
      let v : Int := if n then -(k' : Int) else k'
      r = ((clamp v).toNat, if fits v then (if a % one ≠ 0 then fNX else 0) else fSATF)))

/-- R199: the draw of an element under stochastic rounding, from SEED, the lane and the element's index. -/
def Sys2Proof.Says.StochasticDraw : Prop := ∀ (a : WaveArch) (lane e : Nat), modeRm a.mode = 5 →
  let h0 := (a.seed.toNat ^^^ (lane * 0x9E3779B9 % 2 ^ 32)) ^^^ (e * 0x85EBCA6B % 2 ^ 32)
  let h1 := (h0 ^^^ (h0 / 2 ^ 16)) * 0x7FEB352D % 2 ^ 32
  let h2 := (h1 ^^^ (h1 / 2 ^ 15)) * 0x846CA68B % 2 ^ 32
  (rndOf a lane e).rnd = h2 ^^^ (h2 / 2 ^ 16)

/-- R195, R200: a float sum and a float product do not depend on the order of the operands, conditions included. -/
def Sys2Proof.Says.FloatCommutes : Prop := ∀ (t : EType) (c : Rnd) (x y : FVal),
  addF t c x y = addF t c y x ∧ mulF t c x y = mulF t c y x

/-- R267, R268: a compare sets a lane's bit where the condition holds for every element; SUB says how it combines with the
triple's old bits, and inactive lanes' bits follow it. -/
def Obligations.Compares : Prop := ∀ (s : State) (o : CmpComb) (k : BitVec 5) (a b : VSel) (t : EType),
  let w := s.cur.a
  let old := readTriple w (3 * k.toNat)
  let combine := fun r : Mask => match o with
    | .set => w.em &&& r
    | .and => old &&& (~~~w.em ||| r)
    | .or => old ||| (w.em &&& r)
  modeEtype w.mode = some t →
  (∀ (c : IcmpCc) (rel : Int → Int → Prop), (c, rel) ∈ [
      (IcmpCc.eq, (· = ·)), (.ne, (· ≠ ·)), (.lt, (· < ·)), (.le, (· ≤ ·)), (.gt, (· > ·)), (.ge, (· ≥ ·))] →
    Issues (.icmp o c k a b) s → ∃ r : Mask, exec (.icmp o c k a b) s = .next (compareTo s k (combine r) 0) ∧
      ∀ l < 96, (r.getLsbD l = true ↔ ∀ e < 32 / widthOf t, rel (num t (elt w t a l e)) (num t (elt w t b l e)))) ∧
  (∀ c : FcmpCc, Issues (.fcmp o c k a b) s →
    let g := fun l e => fcmpBit c (fdec t (modeFtz w.mode) (elt w t a l e).toNat) (fdec t (modeFtz w.mode) (elt w t b l e).toNat)
    ∃ r : Mask, exec (.fcmp o c k a b) s = .next (compareTo s k (combine r) (conditions w t fun l e => (g l e).2)) ∧
      ∀ l < 96, (r.getLsbD l = true ↔ ∀ e < 32 / widthOf t, (g l e).1 = true))

/-- R274, R275: each active lane takes the word of the lane that the index names, if that is an active lane of its own
sub-group; else it keeps its own word and its xv bit is cleared. -/
def Sys2Proof.Says.LaneExchange : Prop := ∀ (s : State) (d a x : VSel) (i : Instr) (src : Nat → Int),
  let w := modeSgw s.cur.a.mode
  let k := fun l => srcWord s.cur.a .raw .fp32 x l
  (i, src) ∈ [
    (.vperm d a x, fun l => ((k l).toNat : Int)), (.vbcst d a x, fun l => (l / w * w + (k l).toNat : Nat)),
    (.vshf d a x, fun l => l + (k l).toInt), (.vbfly d a x, fun l => (l ^^^ (k l).toNat : Nat))] →
  Issues i s → ∃ f xv, exec i s = .next (let t := vectorTo s d f 0 false
      { t with cur := { t.cur with a := { t.cur.a with xv := xv } } }) ∧
    (∀ l < 96, s.cur.a.em.getLsbD l = false → xv.getLsbD l = false) ∧
    ∀ l < 96, s.cur.a.em.getLsbD l = true → ∀ j : Nat,
      (src l = j ∧ j < 96 ∧ j / w = l / w ∧ s.cur.a.em.getLsbD j = true →
        f l = srcWord s.cur.a .raw .fp32 a j ∧ xv.getLsbD l = true) ∧
      (src l < 0 ∨ (src l = j ∧ (96 ≤ j ∨ j / w ≠ l / w ∨ s.cur.a.em.getLsbD j = false)) →
        f l = srcWord s.cur.a .raw .fp32 a l ∧ xv.getLsbD l = false)

/-- R274: the words of the cross-lane instructions. -/
def Sys2Proof.Says.LaneExchangeWords : Prop := ∀ (w : Word), fieldAt w 26 6 = 0x2A →
  let d := w.extractLsb' 16 8
  let a := w.extractLsb' 8 8
  let x := w.extractLsb' 0 8
  decode w = .ok (if fieldAt w 24 2 = 0 then .vperm d a x else if fieldAt w 24 2 = 1 then .vbcst d a x
    else if fieldAt w 24 2 = 2 then .vshf d a x else .vbfly d a x)

/-- R274, R275: the cross-lane instructions, their words and what they do. -/
def Obligations.CrossLane : Prop := LaneExchange ∧ LaneExchangeWords

/-! ## Long-latency vector instructions -/

namespace Sys2Proof.Says

/-- The machine after the acceptance of a long-latency instruction that leaves the registers a and adds the operation o: its
flag is one up, the instruction has issued, the PC is at the next word (R186, R209, R210). -/
def acceptedTo (s : State) (a : WaveArch) (fl : FlagN) (o : Op) : State :=
  let t := after s (onward { a with flags := a.flags.setIfInBounds fl.toNat (flagOf a fl.toNat + 1) })
  { t with nextId := s.nextId + 1, cur := { t.cur with ops := t.cur.ops ++ [o] } }
/-- The registers after the issue of a long-latency vector instruction: the last-result file shifts with the destination's old
lanes (R178), and SEED moves on if it rounds under MODE.RM = SR with a lane active (R199). -/
def vlArch (a : WaveArch) (d : VSel) (rounds : Bool) : WaveArch :=
  { a with
    l0 := regLanes a d.toNat, l1 := a.l0, shifts := a.shifts + 1
    seed := if rounds = true ∧ modeRm a.mode = 5 ∧ a.em ≠ 0 then a.seed + 1 else a.seed }
/-- The operation that a long-latency vector instruction leaves outstanding (R209 to R211, R276). -/
def IsVlOp (s : State) (d : VSel) (fl : FlagN) (la : LaN) (res : Nat → Word) (stat : Nat) (o : Op) : Prop :=
  (o.id, o.seq, o.kind, o.pc, o.flag, o.dst, o.nreg, o.mask, o.shift) =
    (s.nextId, s.cur.seq + 1, .vl, s.cur.a.pc, some fl.toNat, d, 1, s.cur.a.em, s.cur.a.shifts + 1) ∧
  o.la = (if la = 15 then none else some la.toNat) ∧ o.stat = BitVec.ofNat 32 stat ∧ o.clash = [] ∧
  ∀ l < 96, s.cur.a.em.getLsbD l = true → laneOf o.res l = res l
/-- A lane's word of an operand register. -/
def wOf (a : WaveArch) (x : WReg) (l : Nat) : Word := laneOf a.w[x.toNat] l
/-- An element of it as its bit pattern. -/
def wElt (a : WaveArch) (t : EType) (x : WReg) (l e : Nat) : BitVec (widthOf t) := eltOf t (wOf a x l) e
/-- The active lanes of lane l's sub-group (R181, R280), ascending. -/
def peers (a : WaveArch) (l : Nat) : List Nat :=
  (List.range 96).filter fun j => j / modeSgw a.mode = l / modeSgw a.mode && a.em.getLsbD j

end Sys2Proof.Says

/-- R276, R277: quotient and remainder; a division by 0 gives all ones and the dividend, the one overflow wraps. -/
def Sys2Proof.Says.IntegerDivision : Prop := ∀ (s : State) (d : VSel) (a b : WReg) (fl : FlagN) (la : LaN) (t : EType) (i : Instr)
    (r : BitVec (widthOf t) → BitVec (widthOf t) → BitVec (widthOf t)),
  let sg := isSigned t
  modeEtype s.cur.a.mode = some t →
  (i, r) ∈ [
    (.idiv d a b fl la, fun x y => if y = 0 then BitVec.allOnes _ else if sg then x.sdiv y else x / y),
    (.irem d a b fl la, fun x y => if y = 0 then x else if sg then x.srem y else x % y)] →
  Issues i s → ∃ o f, exec i s = .next (acceptedTo s (vlArch s.cur.a d false) fl o) ∧ IsVlOp s d fl la f 0 o ∧
    ∀ l < 96, ∀ e < 32 / widthOf t, eltOf t (f l) e = r (wElt s.cur.a t a l e) (wElt s.cur.a t b l e)

/-- R278, R279: the divider's float operations round under MODE.RM; a special function gives one of the two neighbours of the
exact result, the same one for the same function, type and input (log entry 4). -/
def Sys2Proof.Says.FloatFunctions : Prop := ∀ (s : State) (d : VSel) (a b : WReg) (fl : FlagN) (la : LaN) (t : EType) (i : Instr)
    (rounds : Bool) (f : Nat → Nat → Nat × Nat),
  let w := s.cur.a
  let ftz := modeFtz w.mode
  let x := fun l e => fdec t ftz (wElt w t a l e).toNat
  let y := fun l e => fdec t ftz (wElt w t b l e).toNat
  let upper := fun n l e => Config.sfuUpper n (w.mode.toNat % 32) ((wElt w t a l e).setWidth 32)
  modeEtype w.mode = some t →
  (i, rounds, f) ∈ [
    (.fdiv d a b fl la, true, fun l e => divF t (rndOf w l e) (x l e) (y l e)),
    (.fsqrt d a fl la, true, fun l e => sqrtF t (rndOf w l e) (x l e)),
    (.frcp d a fl la, true, fun l e => divF t (rndOf w l e) (.fin false 1 0) (x l e)),
    (.frsq d a fl la, false, fun l e => frsqF t ftz (upper 0 l e) (x l e)),
    (.fexp2 d a fl la, false, fun l e => fexp2F t ftz (upper 1 l e) (x l e)),
    (.flog2 d a fl la, false, fun l e => flog2F t ftz (upper 2 l e) (x l e)),
    (.fsinpi d a fl la, false, fun l e => fsinpiF t ftz (upper 3 l e) (x l e)),
    (.fcospi d a fl la, false, fun l e => fcospiF t ftz (upper 4 l e) (x l e)),
    (.ftanh d a fl la, false, fun l e => ftanhF t ftz (upper 5 l e) (x l e))] →
  Issues i s → ∃ o, exec i s = .next (acceptedTo s (vlArch w d rounds) fl o) ∧
    IsVlOp s d fl la (fun l => pack t fun e => (f l e).1) (conditions w t fun l e => (f l e).2) o

/-- R280: a reduction gives every active lane of a sub-group the combination of its active lanes; an integer sum is formed exactly
and wraps, or under MODE.SAT clamps and raises SATF where it had to; a float sum is rounded once, with the rounding bits of the
sub-group's lowest active lane, and the least and the greatest float are taken in ascending lane order (log entry 26). -/
def Obligations.Reductions : Prop := ∀ (s : State) (d : VSel) (a : WReg) (fl : FlagN) (la : LaN),
  let w := s.cur.a
  let x := fun l => wOf w a l
  (∀ i f, (i, f) ∈ [
      (.rand d a fl la, fun l => ((peers w l).map x).foldr (· &&& ·) (BitVec.allOnes 32)),
      (.ror d a fl la, fun l => ((peers w l).map x).foldr (· ||| ·) 0),
      (.rxor d a fl la, fun l => ((peers w l).map x).foldr (· ^^^ ·) 0)] →
    Issues i s → ∃ o, exec i s = .next (acceptedTo s (vlArch w d false) fl o) ∧ IsVlOp s d fl la f 0 o) ∧
  (∀ t, modeEtype w.mode = some t → isIntType t = true → Issues (.rsum d a fl la) s →
    let n := widthOf t
    let z := fun l e => ((peers w l).map fun j => num t (wElt w t a j e)).sum
    ∃ o f st, exec (.rsum d a fl la) s = .next (acceptedTo s (vlArch w d false) fl o) ∧ IsVlOp s d fl la f st o ∧
      (∀ l < 96, w.em.getLsbD l = true → ∀ e < 32 / n, eltOf t (f l) e = BitVec.ofInt n
        (if modeSat w.mode then max (least t n) (min (greatest t n) (z l e)) else z l e)) ∧
      (modeSat w.mode = true ∧ (∃ l < 96, w.em.getLsbD l = true ∧ ∃ e < 32 / n, z l e < least t n ∨ greatest t n < z l e) → st = 64) ∧
      (modeSat w.mode = false ∨ (∀ l < 96, w.em.getLsbD l = true → ∀ e < 32 / n, least t n ≤ z l e ∧ z l e ≤ greatest t n) →
        st = 0)) ∧
  (∀ t, modeEtype w.mode = some t → isIntType t = true → ∀ i mx, (i, mx) ∈ [(.rmin d a fl la, false), (.rmax d a fl la, true)] →
    Issues i s → ∃ o f, exec i s = .next (acceptedTo s (vlArch w d false) fl o) ∧ IsVlOp s d fl la f 0 o ∧
      ∀ l < 96, w.em.getLsbD l = true → ∀ e < 32 / widthOf t,
        let z := num t (eltOf t (f l) e)
        (∃ j ∈ peers w l, z = num t (wElt w t a j e)) ∧
        ∀ j ∈ peers w l, if mx then num t (wElt w t a j e) ≤ z else z ≤ num t (wElt w t a j e)) ∧
  (∀ t, modeEtype w.mode = some t → isIntType t = false → ∀ (i : Instr) (rounds : Bool) (r : Nat → Nat → List Nat → Nat × Nat),
    let ftz := modeFtz w.mode
    let least := fun mx (xs : List Nat) => match xs with
      | [] => (0, 0)
      | y :: _ => xs.foldl (fun (m, k) z => ((minMax t ftz mx false m z).1, k ||| (minMax t ftz mx false m z).2)) (y, 0)
    (i, rounds, r) ∈ [
      (.rsum d a fl la, true, fun l e xs => fsumF t (rndOf w l e) (xs.map (fdec t ftz))),
      (.rmin d a fl la, false, fun _ _ xs => least false xs), (.rmax d a fl la, false, fun _ _ xs => least true xs)] →
    let of := fun l e => r ((peers w l).headD 0) e ((peers w l).map fun j => (wElt w t a j e).toNat)
    Issues i s → ∃ o, exec i s = .next (acceptedTo s (vlArch w d rounds) fl o) ∧
      IsVlOp s d fl la (fun l => pack t fun e => (of l e).1) (conditions w t fun l e => (of l e).2) o)

/-- R276, R178, R186, R212: the completion of a long-latency vector instruction. Its active lanes get their
results where no later instruction has written, the copy in the last-result file too, STAT its conditions, the flag counts
down, and the operation is no longer outstanding; a unit completes its instructions in issue order (R281).
Rests on the model's choices of log entries 10, 19, 21. -/
def Obligations.VlCompletion : Prop := ∀ (s : State) (w : WaveId) (v : Wave) (n : Nat) (o : Op) (fl : Fin 12),
  getWave s w = some v → v.hold ≠ .ended → v.ops.find? (·.id == n) = some o → o.kind = .vl → o.flag = some fl.val →
  o.clash = [] → o.dst.toNat < 200 → unitTurn s w o = true → ∃ t u, exec (.vlCompletion w n) s = .next t ∧ Becomes s t w u ∧
    let a := v.a
    let put := fun old => mergeLanes o.mask o.res old
    u.a = { setLanes a o.dst.toNat (put (regLanes a o.dst.toNat)) with
      stat := a.stat ||| o.stat
      l0 := if a.shifts = o.shift then put a.l0 else a.l0
      l1 := if a.shifts = o.shift + 1 then put a.l1 else a.l1
      flags := a.flags.set fl.val (a.flags[fl] - 1) } ∧
    (∀ p ∈ u.ops, p.id ≠ n) ∧ t = { s with cur := t.cur, waves := t.waves, free := t.free }

/-! ## Memory -/

namespace Sys2Proof.Says

/-- Only the issuing wave, the number of the next operation, of cores the TLB, the sampling counters, the engine's requests and
the drain marks of buffered bytes, and of homes the pod mark may differ: nothing has been read from or written to memory, a
scratchpad or a cache, and no other wave has changed. -/
def NothingPerformed (s t : State) : Prop :=
  t = { s with cur := t.cur, nextId := t.nextId, cores := t.cores, homes := t.homes } ∧
  (∀ c, let j := getCore t c
    let k := getCore s c
    j = { k with wc := j.wc, wcWait := j.wcWait, tlb := j.tlb, mv := j.mv, reqs := j.reqs } ∧
    (j.wc.map fun e => { e with draining := false }) = (k.wc.map fun e => { e with draining := false }) ∧
    (j.wcWait.map fun b => { b with due := false }) = (k.wcWait.map fun b => { b with due := false })) ∧
  ∀ x, ∃ pod pcg, getHome t x = { getHome s x with pod := pod, pcg := pcg }
/-- n registers of a lane from register d on, low word first, as one number. -/
def lanesNat (a : WaveArch) (d n l : Nat) : Nat :=
  ((List.range n).map fun k => (laneOf (regLanes a (d + k)) l).toNat * 2 ^ (32 * k)).sum
/-- A vector memory instruction that issues is counted for sampling (R407). -/
def countedIn (s : State) (w : Wave) : Wave := { w with counted := (s.cur.seq + 1) :: s.cur.counted }
/-- No operation of the wave before number n still has to access a byte of some accesses. -/
def noClash (w : Wave) (n : Nat) (xs : List LaneAcc) : Prop := ∀ p ∈ w.ops, p.id < n → clashesWith xs p = false
/-- The accesses of a lane: one, or the two 8-byte halves of 16 bytes of HOST memory, each with its offset (R66). -/
def laneAccs (l : Nat × BitVec 64 × Target) (sz val cmp : Nat) : List LaneAcc :=
  match l.2.2.space with
  | .host _ => if sz = 16 then
      [⟨l.1, l.2.2, l.2.1, 8, val, 0⟩, ⟨l.1, { l.2.2 with addr := l.2.2.addr + 8 }, l.2.1 + 8, 8, val / 2 ^ 64, 8⟩]
    else [⟨l.1, l.2.2, l.2.1, sz, val, cmp⟩]
  | _ => [⟨l.1, l.2.2, l.2.1, sz, val, cmp⟩]
/-- The vector memory instructions with access size, data registers read, registers of the compare value, registers written, needed
permission, kind and order (R284, R286, R290). -/
def memoryTable (d : VSel) (w : WReg) (tx : TxSel) (fl : FlagN) (la : LaN) (ar : AtomOrd) :
    List (Instr × Nat × Nat × Nat × Nat × BitVec 3 × OpKind × Order) :=
  let arO := match ar with | .acq => Order.acq | .rel => .rel | .acqrel => .acqrel
  [
    (.ld8u d w tx fl la, 1, 0, 0, 1, 0b001, .load false, .plain), (.ld8s d w tx fl la, 1, 0, 0, 1, 0b001, .load true, .plain),
    (.ld16u d w tx fl la, 2, 0, 0, 1, 0b001, .load false, .plain), (.ld16s d w tx fl la, 2, 0, 0, 1, 0b001, .load true, .plain),
    (.ld32 d w tx fl la, 4, 0, 0, 1, 0b001, .load false, .plain), (.ld64 d w tx fl la, 8, 0, 0, 2, 0b001, .load false, .plain),
    (.ld128 d w tx fl la, 16, 0, 0, 4, 0b001, .load false, .plain),
    (.ld8uAcq d w tx fl la, 1, 0, 0, 1, 0b001, .load false, .acq), (.ld8sAcq d w tx fl la, 1, 0, 0, 1, 0b001, .load true, .acq),
    (.ld16uAcq d w tx fl la, 2, 0, 0, 1, 0b001, .load false, .acq), (.ld16sAcq d w tx fl la, 2, 0, 0, 1, 0b001, .load true, .acq),
    (.ld32Acq d w tx fl la, 4, 0, 0, 1, 0b001, .load false, .acq), (.ld64Acq d w tx fl la, 8, 0, 0, 2, 0b001, .load false, .acq),
    (.ld128Acq d w tx fl la, 16, 0, 0, 4, 0b001, .load false, .acq),
    (.st8 d w tx fl la, 1, 1, 0, 0, 0b010, .store, .plain), (.st16 d w tx fl la, 2, 1, 0, 0, 0b010, .store, .plain),
    (.st32 d w tx fl la, 4, 1, 0, 0, 0b010, .store, .plain), (.st64 d w tx fl la, 8, 2, 0, 0, 0b010, .store, .plain),
    (.st128 d w tx fl la, 16, 4, 0, 0, 0b010, .store, .plain),
    (.st8Rel d w tx fl la, 1, 1, 0, 0, 0b010, .store, .rel), (.st16Rel d w tx fl la, 2, 1, 0, 0, 0b010, .store, .rel),
    (.st32Rel d w tx fl la, 4, 1, 0, 0, 0b010, .store, .rel), (.st64Rel d w tx fl la, 8, 2, 0, 0, 0b010, .store, .rel),
    (.st128Rel d w tx fl la, 16, 4, 0, 0, 0b010, .store, .rel),
    (.atomAdd d w tx fl la, 4, 1, 0, 1, 0b011, .atom .add, .relaxed), (.atomAnd d w tx fl la, 4, 1, 0, 1, 0b011, .atom .and, .relaxed),
    (.atomOr d w tx fl la, 4, 1, 0, 1, 0b011, .atom .or, .relaxed), (.atomXor d w tx fl la, 4, 1, 0, 1, 0b011, .atom .xor, .relaxed),
    (.atomMin d w tx fl la, 4, 1, 0, 1, 0b011, .atom .min, .relaxed), (.atomMax d w tx fl la, 4, 1, 0, 1, 0b011, .atom .max, .relaxed),
    (.atomMinu d w tx fl la, 4, 1, 0, 1, 0b011, .atom .minu, .relaxed),
    (.atomMaxu d w tx fl la, 4, 1, 0, 1, 0b011, .atom .maxu, .relaxed),
    (.atomSwap d w tx fl la, 4, 1, 0, 1, 0b011, .atom .swap, .relaxed),
    (.atomCas d w tx fl la, 4, 1, 1, 1, 0b011, .atom .cas, .relaxed), (.atomFadd d w tx fl la, 4, 1, 0, 1, 0b011, .atom .fadd, .relaxed),
    (.atomAdd64 d w tx fl la, 8, 2, 0, 2, 0b011, .atom .add64, .relaxed),
    (.atomSwap64 d w tx fl la, 8, 2, 0, 2, 0b011, .atom .swap64, .relaxed),
    (.atomCas64 d w tx fl la, 8, 2, 2, 2, 0b011, .atom .cas64, .relaxed), (.atomInc d w tx fl la, 4, 1, 0, 1, 0b011, .atom .inc, .relaxed),
    (.atomArAdd ar d w tx fl la, 4, 1, 0, 1, 0b011, .atom .add, arO), (.atomArSwap ar d w tx fl la, 4, 1, 0, 1, 0b011, .atom .swap, arO),
    (.atomArCas ar d w tx fl la, 4, 1, 1, 1, 0b011, .atom .cas, arO),
    (.atomArCas64 ar d w tx fl la, 8, 2, 2, 2, 0b011, .atom .cas64, arO)]
/-- The forms that apply a release (R288, R290). -/
def releases (o : Order) : Prop := o = .rel ∨ o = .acqrel

end Sys2Proof.Says

/-- R45, R209, R210, R282 to R291: a vector memory instruction whose active lanes all translate is accepted with its sources
read for every lane, and performs nothing yet: its operation carries each lane's place, size, data and compare value. A plain
store to COH = NONE memory needs a place in the write-combining buffer besides (R69). -/
def Sys2Proof.Says.VectorMemoryIssue : Prop := ∀ (s : State) (d : VSel) (w : WReg) (tx : TxSel) (fl : FlagN) (la : LaN)
    (ar : AtomOrd) (i : Instr) (sz nsrc ncmp ndst : Nat) (need : BitVec 3) (kind : OpKind) (order : Order)
    (ls : List (Nat × BitVec 64 × Target)),
  (i, sz, nsrc, ncmp, ndst, need, kind, order) ∈ memoryTable d w tx fl la ar →
  Issues i s → joint (laneTrs s s.cur need tx w sz) = .go ls → ls ≠ [] →
  (∀ l ∈ ls, isNone l.2.2 = false ∨ (getCore s (coreId s.cur.id)).wc.length < 64) →
  ∃ t o, exec i s = .next t ∧ t.cur = countedIn s (acceptedTo s s.cur.a fl o).cur ∧ t.nextId = s.nextId + 1 ∧ NothingPerformed s t ∧
    (o.id, o.seq, o.kind, o.order, o.pc, o.flag, o.dst, o.nreg, o.mask, o.scope, o.left) =
      (s.nextId, s.cur.seq + 1, kind, order, s.cur.a.pc, some fl.toNat, d, ndst, s.cur.a.em, modeScope s.cur.a.mode, false) ∧
    o.la = (if la = 15 then none else some la.toNat) ∧
    o.acc = ls.flatMap fun l => laneAccs l sz (lanesNat s.cur.a d.toNat nsrc l.1) (lanesNat s.cur.a (d.toNat + nsrc) ncmp l.1)

/-- R45, R359: one lane that fails its check parks the whole instruction, every load, store and atomic alike: nothing is accepted, and
the trap names the lowest-order check among the failing lanes, the address of a lane that fails it and all the failing lanes.
Rests on the model's choices of log entry 29. -/
def Obligations.VectorMemoryParks : Prop := ∀ (s : State) (d : VSel) (w : WReg) (tx : TxSel) (fl : FlagN) (la : LaN) (ar : AtomOrd)
    (c : Cause) (ad : BitVec 64) (plm : Mask),
  (∀ (i : Instr) (sz nsrc ncmp ndst : Nat) (need : BitVec 3) (kind : OpKind) (order : Order),
    (i, sz, nsrc, ncmp, ndst, need, kind, order) ∈ memoryTable d w tx fl la ar →
    Issues i s → joint (laneTrs s s.cur need tx w sz) = .fault c ad plm →
    s.cur.a.trap = false → s.cur.handler = none → exec i s = .next (parkAt s c ad plm)) ∧
  (∀ ls, walkPages ls = [] → joint ls = .fault c ad plm →
    (∃ x ∈ ls, ∃ k, x.out = .fault k c ∧ x.addr = ad ∧ ∀ y ∈ ls, ∀ k' c', y.out = .fault k' c' → k ≤ k') ∧
    ∀ l < 96, (plm.getLsbD l = true ↔ ∃ x ∈ ls, x.lane = l ∧ ∃ k c', x.out = .fault k c'))

/-- R289, R123: with no lane active a vector memory instruction that is no release form only moves on; its flag rises and falls at
once and nothing is left outstanding. With sampling off no trace record is made either (R407). A release form is accepted with no
access, and what its core's write-combining buffer holds starts to drain. -/
def Sys2Proof.Says.EmptyMaskMemory : Prop := ∀ (s : State) (d : VSel) (w : WReg) (tx : TxSel) (fl : FlagN) (la : LaN) (ar : AtomOrd)
    (i : Instr) (sz nsrc ncmp ndst : Nat) (need : BitVec 3) (kind : OpKind) (order : Order),
  (i, sz, nsrc, ncmp, ndst, need, kind, order) ∈ memoryTable d w tx fl la ar →
  s.cur.a.em = 0 → (getCd s s.cur.id.cd).trace.sampctl.getLsbD 31 = false → Issues i s →
  (¬releases order → ∃ t, exec i s = .next t ∧ t.cur = countedIn s (issued s.cur (onward s.cur.a)) ∧ NothingPerformed s t) ∧
  (releases order → ∃ t o, exec i s = .next t ∧ t.cur = countedIn s (acceptedTo s s.cur.a fl o).cur ∧ t.nextId = s.nextId + 1 ∧
    NothingPerformed s t ∧ (o.id, o.kind, o.order, o.flag, o.mask, o.acc, o.left) = (s.nextId, kind, order, some fl.toNat, 0, [], false) ∧
    (∀ e ∈ (getCore t (coreId s.cur.id)).wc, e.draining = true) ∧ ∀ b ∈ (getCore t (coreId s.cur.id)).wcWait, b.due = true)

/-- R289, R123: a release form with an empty mask that has left the core waits until its release has been made; then its flag falls
and nothing is left of it. No byte and no other register changes. -/
def Sys2Proof.Says.EmptyMaskReleases : Prop := ∀ (s : State) (w : WaveId) (v : Wave) (n : Nat) (o : Op) (fl : Fin 12) (i : Instr),
  getWave s w = some v → v.hold ≠ .ended → v.ops.find? (·.id == n) = some o → o.acc = [] → o.done = [] → o.lock = none →
  o.left = true → o.flag = some fl.val → o.nreg = 0 ∨ o.mask = 0 → o.sampled = none → releases o.order →
  (o.kind = .store ∧ i = .storeAcknowledgement w n) ∨ (∃ f order, o.kind = .atom f ∧ i = .atomicCompletion w n order) →
  (releasedBefore s v o.scope o.id = false → exec i s = .next s) ∧
  (releasedBefore s v o.scope o.id = true → ∃ t u, exec i s = .next t ∧ Becomes s t w u ∧ (∀ p ∈ u.ops, p.id ≠ n) ∧
    u.a = { v.a with flags := v.a.flags.set fl.val (v.a.flags[fl] - 1) } ∧ t.mem = s.mem ∧ t.hostMem = s.hostMem ∧
    t.cores = s.cores ∧ t.sectors = s.sectors)

/-- R284, R285, R186, R66, R102, R213: a load none of whose bytes is poisoned completes (log entries 10, 20). Each active lane's
destination registers take the value read, that of the pieces read before and of the rest together, extended as the instruction says
or split low word first; the other lanes keep theirs, the flag counts down, and memory and scratchpads are as before. If a lane was
lost, RLOST is set in STAT, and under MODE.RLT the trap is due at the next boundary. -/
def Sys2Proof.Says.LoadCompletes : Prop := ∀ (s s1 : State) (w : WaveId) (v : Wave) (n : Nat) (o : Op) (signed : Bool) (sz : Nat) (fl : Fin 12)
    (vals : List (Nat × Nat)) (lost : Option (BitVec 64)),
  getWave s w = some v → v.hold ≠ .ended → v.ops.find? (·.id == n) = some o → o.kind = .load signed →
  o.flag = some fl.val → o.clash = [] → o.sampled = none → o.dst.toNat + o.nreg ≤ 192 → o.acc ≠ [] →
  (∀ x ∈ o.acc ++ o.done, x.sz = sz) → tryRead s v n o.acc = .got vals lost s1 →
  ∃ t u, exec (.loadCompletion w n) s = .next t ∧ Becomes s t w u ∧ t.mem = s.mem ∧ t.hostMem = s.hostMem ∧
    (∀ c, (getCore t c).scr = (getCore s c).scr) ∧ (∀ p ∈ u.ops, p.id ≠ n) ∧
    u.a.flags = v.a.flags.set fl.val (v.a.flags[fl] - 1) ∧
    (∀ r < 192, ∀ l < 96, laneOf (regLanes u.a r) l =
      if o.dst.toNat ≤ r ∧ r < o.dst.toNat + o.nreg ∧ o.mask.getLsbD l = true then
        let y := (((doneVals o ++ vals).filter (·.1 == l)).map (·.2)).sum
        if sz < 4 then (if signed then (BitVec.ofNat (8 * sz) y).signExtend 32 else (BitVec.ofNat (8 * sz) y).setWidth 32)
        else BitVec.ofNat 32 (y >>> (32 * (r - o.dst.toNat)))
      else laneOf (regLanes v.a r) l) ∧
    (u.a.s, u.a.em, u.a.pc, u.a.l0, u.a.l1) = (v.a.s, v.a.em, v.a.pc, v.a.l0, v.a.l1) ∧
    u.a.stat = (if lost = none then v.a.stat else v.a.stat ||| 0x80) ∧
    u.rlost = v.rlost ++ (if o.rlt then (lost.map fun ad => (o.pc, ad)).toList else [])

/-- R61, R285, R367: a load that reads a poisoned byte kills its wave: no register is written but FCLASS of STAT, the record names
the load's PC, and the operation is gone. A lane whose home is lost gets all ones, and the lowest such lane's address, whichever of
its pieces is lost, is the one that is reported. -/
def Sys2Proof.Says.LoadFails : Prop := ∀ (s s1 : State) (w : WaveId) (v : Wave) (n : Nat) (o : Op),
  getWave s w = some v → v.hold ≠ .ended →
  (∀ signed ad, v.ops.find? (·.id == n) = some o → o.kind = .load signed → tryRead s v n o.acc = .poison ad s1 →
    ∃ t u, exec (.loadCompletion w n) s = .next t ∧ Becomes s t w u ∧ u.hold = .ended ∧ (∀ p ∈ u.ops, p.id ≠ n) ∧
      u.a = { v.a with stat := BitVec.ofNat 8 (causeCode .poison) ++ v.a.stat.extractLsb' 0 24 } ∧
      ∃ r ∈ t.faults, (r.cause, r.pc, r.kill, r.waiter) = (.poison, o.pc, true, none)) ∧
  (∀ x xs, (∀ y ∈ x :: xs, lostHome s (pkgOf w.cd) v.ctx y.tgt = true) → v.id = w →
    tryRead s v n (x :: xs) = .got ((x :: xs).map fun y => (y.lane, 256 ^ y.cmp * (2 ^ (8 * y.sz) - 1)))
      (some (x.oaddr - BitVec.ofNat 64 x.cmp)) s)

/-- R57, R114, R285, R65: what a load reads of one place, a piece at its offset (log entries 20, 33). With no earlier operation of the
wave on its bytes and nothing of its line in the write-combining buffer, a scratchpad or host place gives the bytes as they stand,
low byte first; a token-coherent place is not read before the die may read its sector. -/
def Sys2Proof.Says.ReadsMemory : Prop := ∀ (s : State) (w : WaveId) (v : Wave) (n : Nat) (x : LaneAcc),
  v.id = w → noClash v n [x] → lostHome s (pkgOf w.cd) v.ctx x.tgt = false →
  (∀ o ∈ v.ops, o.id < n → isStoreOp o = true → ∀ i < x.sz, lastByte o.acc x.tgt.space (x.tgt.addr + i) = none) →
  (∀ c, x.tgt.space = .scr c → (∀ k ∈ (getCore s c).scrPoison, ¬(x.tgt.addr / 8 ≤ k ∧ k ≤ (x.tgt.addr + x.sz - 1) / 8)) →
    ∃ t, tryRead s v n [x] =
      .got [(x.lane, 256 ^ x.cmp * leNat ((List.range x.sz).map fun i => memByte (getCore s c).scr (x.tgt.addr + i)))] none t ∧
      t.cur = s.cur ∧ t.waves = s.waves ∧ t.mem = s.mem ∧ t.cores = s.cores) ∧
  (∀ p, x.tgt.space = .host p → wcLine (getCore s (coreId w)) x = false → hostLocked s x.tgt = false →
    ∃ t, tryRead s v n [x] =
      .got [(x.lane, 256 ^ x.cmp * leNat ((List.range x.sz).map fun i => memByte s.hostMem (p * 2 ^ 56 + x.tgt.addr + i)))] none t ∧
      t.cur = s.cur ∧ t.waves = s.waves ∧ t.mem = s.mem ∧ t.hostMem = s.hostMem) ∧
  (x.tgt.space = .dev → x.tgt.coh ≠ .none → x.sz ≠ 0 → canRead (getSec s w.cd (x.tgt.addr / 64)) = false →
    ∃ t, tryRead s v n [x] = .notYet t ∧ t.cur = s.cur ∧ t.waves = s.waves ∧ t.mem = s.mem)

/-- R370, R286: the oldest instruction of a commit window, one that is not sampled, commits: it leaves the window, its operations may leave the core, and
the flag of a store falls. No other register, no other wave and no memory changes. -/
def Sys2Proof.Says.WindowCloses : Prop := ∀ (s : State) (w : WaveId) (v : Wave) (h : Snapshot) (rest : List Snapshot),
  getWave s w = some v → v.window = h :: rest → (∀ o ∈ v.ops, o.seq = h.seq → buffered s v o = false ∧ o.sampled = none) →
  (∀ o ∈ v.samples, o.seq ≠ h.seq) → (v.ops.map (·.id)).Nodup →
  ∃ t u, exec (.commitWindowClose w) s = .next t ∧ Becomes s t w u ∧ u.window.map (·.seq) = rest.map (·.seq) ∧
    u.ops.map (·.id) = v.ops.map (·.id) ∧ t = { s with cur := t.cur, waves := t.waves, blocks := t.blocks } ∧
    (∀ p ∈ u.ops, p.seq = h.seq → p.left = true ∧ (p.kind = .store → p.acc ≠ [] → p.flag = none)) ∧
    u.a = { v.a with flags := u.a.flags } ∧
    ∀ fl : Fin 12, ((∀ o ∈ v.ops, o.seq = h.seq → o.kind = .store → o.flag ≠ some fl.val) → u.a.flags[fl] = v.a.flags[fl]) ∧
      (v.hold ≠ .ended → ∀ o ∈ v.ops, o.seq = h.seq → o.kind = .store → o.acc ≠ [] → o.flag = some fl.val →
        (∀ p ∈ v.ops, p.seq = h.seq → p = o) → u.a.flags[fl] = v.a.flags[fl] - 1)

/-- R57, R58, R65, R114, R286, R287: a committed store to one sector, none of it performed yet, is performed where it goes: each byte
that the store covers holds the value of the last access to it, every other byte of the place is as before, and the operation is
acknowledged; a token-coherent one waits until its die may write the sector. -/
def Sys2Proof.Says.StorePerformed : Prop := ∀ (s : State) (w : WaveId) (v : Wave) (n : Nat) (o : Op) (x : LaneAcc) (sp : Space) (k : Nat),
  getWave s w = some v → v.ops.find? (·.id == n) = some o → o.kind = .store → o.left = true → o.flag = none →
  isRelease o.order = false → maintLine s v o.acc = false → x ∈ o.acc → o.done = [] →
  (∀ y ∈ o.acc, y.tgt.space = sp ∧ y.tgt.addr / 64 = k ∧ y.tgt.coh = x.tgt.coh ∧ lostHome s (pkgOf w.cd) v.ctx y.tgt = false) →
  noClash v n o.acc →
  let byte := fun a old => (lastByte o.acc sp a).getD old
  let inSector := fun a => a / 64 = k
  (∀ c, sp = .scr c → memWf (getCore s c).scr = true → ∃ t, exec (.storeAcknowledgement w n) s = .next t ∧
    (∀ a, memByte (getCore t c).scr a = if inSector a then byte a (memByte (getCore s c).scr a) else memByte (getCore s c).scr a) ∧
    (∃ u, Becomes s t w u ∧ u.a = v.a ∧ ∀ p ∈ u.ops, p.id ≠ n) ∧ t.mem = s.mem ∧ t.hostMem = s.hostMem ∧ t.sectors = s.sectors) ∧
  (∀ p, sp = .host p → memWf s.hostMem = true → (∀ y ∈ o.acc, hostLocked s y.tgt = false) → ∃ t, exec (.storeAcknowledgement w n) s = .next t ∧
    (∀ a, memByte t.hostMem (p * 2 ^ 56 + a) =
      if inSector a then byte a (memByte s.hostMem (p * 2 ^ 56 + a)) else memByte s.hostMem (p * 2 ^ 56 + a)) ∧
    (∃ u, Becomes s t w u ∧ u.a = v.a ∧ ∀ p ∈ u.ops, p.id ≠ n) ∧ t.mem = s.mem ∧ t.cores = s.cores ∧ t.sectors = s.sectors) ∧
  (sp = .dev → x.tgt.coh ≠ .none → canWrite (getSec s w.cd k) = true →
    (getSec s w.cd k).poison = false → ∃ t, exec (.storeAcknowledgement w n) s = .next t ∧
    (∀ i < 64, (getSec t w.cd k).data.extractLsb' (8 * i) 8 = byte (64 * k + i) ((getSec s w.cd k).data.extractLsb' (8 * i) 8)) ∧
    (∃ u, Becomes s t w u ∧ u.a = v.a ∧ ∀ p ∈ u.ops, p.id ≠ n) ∧ t.mem = s.mem ∧ t.hostMem = s.hostMem) ∧
  (sp = .dev → x.tgt.coh ≠ .none → canWrite (getSec s w.cd k) = false →
    ∃ t, exec (.storeAcknowledgement w n) s = .next t ∧ t.mem = s.mem ∧ getWave t w = some v)

/-- R290, R195: the new value that each atomic function stores for old value m, operand v and compare value c; `fadd` is the FP32
sum, rounded to nearest even. -/
def Sys2Proof.Says.AtomicFunctions : Prop := ∀ (m v c : Word) (m2 v2 c2 : BitVec 64),
  (∀ (f : AtomFn) (r : Word), (f, r) ∈ [
      (AtomFn.add, m + v), (.and, m &&& v), (.or, m ||| v), (.xor, m ^^^ v), (.min, if m.sle v then m else v),
      (.max, if m.sle v then v else m), (.minu, if m.ule v then m else v), (.maxu, if m.ule v then v else m), (.swap, v),
      (.cas, if m = c then v else m), (.inc, if v.ule m then 0 else m + 1)] →
    atomNew f m.toNat v.toNat c.toNat = r.toNat) ∧
  (let x := fdec .fp32 false m.toNat
   let y := fdec .fp32 false v.toNat
   atomNew .fadd m.toNat v.toNat c.toNat = (addF .fp32 { rm := 0, sat := false, ftz := false, rnd := 0 } x y).1) ∧
  (∀ (f : AtomFn) (r : BitVec 64), (f, r) ∈ [
      (AtomFn.add64, m2 + v2), (.swap64, v2), (.cas64, if m2 = c2 then v2 else m2)] →
    atomNew f m2.toNat v2.toNat c2.toNat = r.toNat)

/-- R63, R114: where an atomic writes its new value, and that no other byte of the place changes: the scratchpad; the host; the home of
COH = NONE memory and of a scope from the package up; the cache of the wave's die under a narrower scope. -/
def Sys2Proof.Says.AtomicPlaces : Prop := ∀ (s : State) (v : Wave) (sc : Scope) (x : LaneAcc) (new : Nat),
  let t := levelWrite s v sc x new
  let byte := fun a old => if x.tgt.addr ≤ a ∧ a < x.tgt.addr + x.sz then BitVec.ofNat 8 (new >>> (8 * (a - x.tgt.addr))) else old
  let wide := sc = .pkg ∨ sc = .pod ∨ sc = .sys
  let k := x.tgt.addr / 64
  (∀ c, x.tgt.space = .scr c → memWf (getCore s c).scr = true →
    (∀ a, memByte (getCore t c).scr a = byte a (memByte (getCore s c).scr a)) ∧ t = { s with cores := t.cores }) ∧
  (∀ p, x.tgt.space = .host p → memWf s.hostMem = true →
    (∀ a, memByte t.hostMem (p * 2 ^ 56 + a) = byte a (memByte s.hostMem (p * 2 ^ 56 + a))) ∧ t = { s with hostMem := t.hostMem }) ∧
  (x.tgt.space = .dev → x.tgt.coh = .none ∨ wide → memWf s.mem = true →
    (∀ a, memByte t.mem a = byte a (memByte s.mem a)) ∧ t = { s with mem := t.mem, mds := t.mds, homes := t.homes }) ∧
  (x.tgt.space = .dev → x.tgt.coh ≠ .none → ¬wide → x.tgt.addr % 64 + x.sz ≤ 64 → (getSec s v.id.cd k).poison = false →
    (∀ i < 64, (getSec t v.id.cd k).data.extractLsb' (8 * i) 8 = byte (64 * k + i) ((getSec s v.id.cd k).data.extractLsb' (8 * i) 8)) ∧
    t = { s with sectors := t.sectors })

/-- R63, R64, R65, R114, R117, R291: an atomic none of whose bytes is poisoned or lost, with all tokens where it executes, completes:
the RMWs of its lanes are made one after the other, each lane once, in an order that the device chooses; each finds its location as
those before it have left it, writes the function's value of it, and its lane gets the old value (log entry 40 says what a
poisoned word of an ended wave does). -/
def Sys2Proof.Says.AtomicCompletes : Prop := ∀ (s : State) (w : WaveId) (v : Wave) (n : Nat) (order : List Nat) (o : Op) (f : AtomFn)
    (fl : Fin 12),
  getWave s w = some v → v.hold ≠ .ended → v.ops.find? (·.id == n) = some o → o.kind = .atom f → mayAtom s v o o.acc = true →
  linesLocked s o o.acc = false → o.flag = some fl.val → o.clash = [] → o.sampled = none → o.done = [] → o.lock = none →
  (∀ y ∈ o.acc, y.sz = 4 * o.nreg ∧ y.lane < 96 ∧ o.mask.getLsbD y.lane = true ∧ lostHome s (pkgOf w.cd) v.ctx y.tgt = false ∧
    (isNone y.tgt = true → wcLine (getCore s (coreId w)) y = false)) →
  o.nreg = 1 ∨ o.nreg = 2 → o.dst.toNat + o.nreg ≤ 192 → (o.acc.map (·.lane)).Nodup →
  levelReady s v o.scope o.acc = (true, s) →
  let s1 := countDirect s w.cd (o.acc.filter fun y => isNone y.tgt)
  (∀ y ∈ o.acc, accPoison s1 [] y = false) →
  let run := runAtoms f v o.scope s1 (atomOrder order o.acc)
  (atomOrder order o.acc).Perm o.acc ∧ ∃ t u, exec (.atomicCompletion w n order) s = .next t ∧ Becomes s t w u ∧
    (∀ y ∈ o.acc, ∀ old, (y.lane, old) ∈ run.1 → ∀ k < o.nreg,
      laneOf (regLanes u.a (o.dst.toNat + k)) y.lane = BitVec.ofNat 32 (old >>> (32 * k))) ∧
    u.a.flags = v.a.flags.set fl.val (v.a.flags[fl] - 1) ∧ (∀ p ∈ u.ops, p.id ≠ n) ∧
    t.mem = run.2.mem ∧ t.hostMem = run.2.hostMem ∧ (∀ c, (getCore t c).scr = (getCore run.2 c).scr) ∧
    ∀ cd k, (getSec t cd k).data = (getSec run.2 cd k).data

/-- R117, R291: the RMWs of lanes one after the other: the first lane's old value is what its location holds, and the rest find it
written. -/
def Sys2Proof.Says.AtomicSequence : Prop := ∀ (f : AtomFn) (v : Wave) (sc : Scope) (s : State) (x : LaneAcc) (xs : List LaneAcc),
  let old := leNat ((List.range x.sz).map fun i => readByte s x.tgt (x.tgt.addr + i))
  let rest := runAtoms f v sc (levelWrite s v sc x (atomNew f old (x.val % 2 ^ (8 * x.sz)) (x.cmp % 2 ^ (8 * x.sz)))) xs
  runAtoms f v sc s [] = ([], s) ∧ runAtoms f v sc s (x :: xs) = ((x.lane, old) :: rest.1, rest.2)

/-- R228, R229: `sld` holds the wave until its word returns; `sst` is accepted at once as a store without a flag; a check that
fails parks with every lane in the PLM. -/
def Sys2Proof.Says.ScalarMemoryIssue : Prop := ∀ (s : State) (d a : SReg) (imm : BitVec 14) (tgt : Target),
  let w := s.cur
  let ad := (readS w.a (a + 1) ++ readS w.a a) + imm.signExtend 64
  (Issues (.sld d a imm) s → translateAddr s w 0b001 ad 4 = .ok tgt → ∃ t x, exec (.sld d a imm) s = .next t ∧
    t.cur = { issued w (onward w.a) with hold := .sld d x } ∧ (x.tgt, x.oaddr, x.sz) = (tgt, ad, 4) ∧ NothingPerformed s t) ∧
  (Issues (.sst d a imm) s → translateAddr s w 0b010 ad 4 = .ok tgt →
    (isNone tgt = false ∨ (getCore s (coreId w.id)).wc.length < 64) → ∃ t o x, exec (.sst d a imm) s = .next t ∧
    t.cur = { issued w (onward w.a) with ops := (issued w w.a).ops ++ [o] } ∧ t.nextId = s.nextId + 1 ∧
    (o.id, o.kind, o.flag, o.acc) = (s.nextId, .store, none, [x]) ∧
    (x.tgt, x.oaddr, x.sz, x.val) = (tgt, ad, 4, (readS w.a d).toNat) ∧ NothingPerformed s t) ∧
  (∀ c k i need, (i, need) ∈ [(.sld d a imm, 0b001#3), (.sst d a imm, 0b010#3)] → Issues i s →
    translateAddr s w need ad 4 = .fault k c → exec i s = .next (parkAt s c ad (BitVec.allOnes 96)))

/-- R229: the word of an `sld` returns: it is written and the wave is ready again, at the instruction behind the `sld`. -/
def Sys2Proof.Says.ScalarLoadReturns : Prop := ∀ (s s1 : State) (w : WaveId) (v : Wave) (d : SReg) (x : LaneAcc) (y : Nat),
  getWave s w = some v → v.hold = .sld d x → tryRead s v s.nextId [x] = .got [(x.lane, y)] none s1 →
  ∃ t, exec (.scalarLoadReturn w) s = .next t ∧ t.mem = s.mem ∧ t.hostMem = s.hostMem ∧
    Becomes s t w { v with hold := .ready, a := writeS (isHandler v) v.a d (BitVec.ofNat 32 y) }

/-- R65, R69, R70: an entry of the write-combining buffer that reaches its age drains; its bytes go to their place when the drain is
acknowledged, shown for host memory, and the entry is free; marked bytes wait while an atomic on their sector is under way
(log entries 35, 109). -/
def Sys2Proof.Says.BufferDrains : Prop := ∀ (s : State) (c : CoreId) (n : Nat) (e : WcEntry),
  (getCore s c).wc[n]? = some e → (∃ k ∈ s.cores, k.id = c) →
  (∃ t, exec (.wcAgeDrain c n) s = .next t ∧ (getCore t c).wc[n]? = some { e with draining := true } ∧
    (∀ m, m ≠ n → (getCore t c).wc[m]? = (getCore s c).wc[m]?) ∧ t = { s with cores := t.cores }) ∧
  (∀ p, e.draining = true → e.space = .host p → (∀ f ∈ (getCore s c).wc.take n, ¬(f.space = e.space ∧ f.line = e.line)) →
    (∀ h ∈ [128 * e.line, 128 * e.line + 64], hostLocked s ⟨.host p, h, .host, .none⟩ = false) →
    (e.pois = 0 ∨ ∀ k ∈ [2 * e.line, 2 * e.line + 1], atomOpen s e.space k = false) →
    (getCore s c).wcWait = [] → drainLost s c e = false → memWf s.hostMem = true →
    ∃ t, exec (.wcDrainAck c n) s = .next t ∧ (getCore t c).wc = (getCore s c).wc.eraseIdx n ∧ t.mem = s.mem ∧
      ∀ a, memByte t.hostMem (p * 2 ^ 56 + a) = if a / 128 = e.line ∧ e.mask.getLsbD (a % 128) = true
        then e.data.extractLsb' (8 * (a % 128)) 8 else memByte s.hostMem (p * 2 ^ 56 + a))

/-! ## Divergence, synchronisation and groups -/

namespace Sys2Proof.Says

/-- The machine after a divergence instruction whose path stack stays in hardware. -/
def pathTo (s : State) (st : List PathEntry) (em xl : Mask) (pc : Word) : State :=
  after s { s.cur.a with stack := st, depth := st.length, em := em, xl := xl, pc := pc }
/-- The wave holds its whole path stack in hardware, with room for n entries more (R187). -/
def InHardware (s : State) (n : Nat) : Prop := s.cur.a.depth = s.cur.a.stack.length ∧ s.cur.a.stack.length + n ≤ 16
/-- The lanes of the triple c that run. -/
def takenLanes (s : State) (c : SReg) : Mask := s.cur.a.em &&& readTriple s.cur.a c.toNat
/-- An entry that loses lanes. -/
def without (b : Mask) (e : PathEntry) : PathEntry := { e with mask := e.mask &&& ~~~b }
/-- What `breakv`, `contv` and `exitv` make of the path stack and the exited set, before other paths resume (R239 to R241). -/
def Leaves (s : State) (c : SReg) (o : BitVec 16) (i : Instr) (st : List PathEntry) (xl : Mask) : Prop :=
  let a := s.cur.a
  let b := takenLanes s c
  let L := a.pc + 4 * o.signExtend 32
  (i = .exitv c ∧ st = a.stack.map (without b) ∧ xl = a.xl ||| b) ∨
  (i = .breakv c o ∧ xl = a.xl ∧ ∃ up k low, a.stack = up ++ k :: low ∧ k.kind = .brk ∧ k.pc = L ∧
    (∀ e ∈ up, ¬(e.kind = .brk ∧ e.pc = L)) ∧ st = up.map (without b) ++ { k with mask := k.mask ||| b } :: low) ∨
  (i = .contv c o ∧ xl = a.xl ∧ ∃ up k e low, a.stack = up ++ k :: e :: low ∧ k.kind = .cont ∧ e.kind = .brk ∧
    (∀ e ∈ up, e.kind ≠ .brk) ∧ st = up.map (without b) ++ { k with mask := k.mask ||| b, pc := L } :: e :: low)
/-- The machine after an instruction that sends a group event and waits for its answer (R165). -/
def sentTo (s : State) (e : GroupEv) (h : Hold) : State :=
  { after s (onward s.cur.a) with
    cur := { issued s.cur (onward s.cur.a) with hold := h }
    groupMsgs := s.groupMsgs ++ [⟨s.cur.seq + 1, e⟩] }
/-- The condition of a `waita` with operand x on a word y (R309). -/
def Meets (c : WaitCond) (x y : Word) : Prop :=
  match c with
  | .eq => y = x
  | .ne => y ≠ x
  | .geu => x.ule y = true
  | .ges => x.sle y = true
  | .anyBit => y &&& x ≠ 0
/-- All of memory, and what caches and homes hold of it, is as before. -/
def SameMemory (s t : State) : Prop :=
  t.mem = s.mem ∧ t.hostMem = s.hostMem ∧ t.homes = s.homes ∧ t.sectors = s.sectors ∧ t.cores = s.cores ∧ t.net = s.net

end Sys2Proof.Says

/-- R187, R234 to R242: the divergence instructions on a path stack in hardware. `split`, once its die may read the word that it
checks, to an `else` starts the then-path
over an else and a merge entry, `else` starts the else-path and leaves the merge entry with its address, `merge` collects the
lanes, `breakv.open` opens a loop, and `breakv`, `contv` and `exitv` take lanes out and run on with the others. Nothing else
changes. -/
def Obligations.Divergence : Prop := ∀ (s : State) (c : SReg) (o : BitVec 16), InHardware s 2 →
  let a := s.cur.a
  let st := a.stack
  let b := takenLanes s c
  let L := a.pc + 4 * o.signExtend 32
  (∀ tgt, Issues (.split c o) s → fetchOut s s.cur L = .ok tgt → fetchNeeds s s.cur tgt = none →
    isElse (fetchWord s s.cur tgt).toNat = true → exec (.split c o) s = .next (pathTo (fetched s s.cur L tgt) (⟨.els, a.em &&& ~~~readTriple a c.toNat, L, L + 4⟩ :: ⟨.merge, a.em, 0, 0⟩ :: st) b a.xl
      (if b = 0 then L else a.pc + 4))) ∧
  (∀ e m rest, Issues (.elseW o) s → st = e :: m :: rest → e.kind = .els → e.rpc = a.pc → m.kind = .merge →
    exec (.elseW o) s = .next (pathTo s ({ m with pc := L + 4, rpc := L } :: rest) (e.mask &&& ~~~a.xl) a.xl
      (if e.mask &&& ~~~a.xl = 0 then L else a.pc + 4))) ∧
  (∀ e rest, Issues .merge s → st = e :: rest →
    (e.kind = .merge → exec .merge s = .next (pathTo s rest (e.mask &&& ~~~a.xl) a.xl (a.pc + 4))) ∧
    (e.kind = .cont → exec .merge s =
      .next (pathTo s ({ e with mask := 0 } :: rest) ((a.em ||| e.mask) &&& ~~~a.xl) a.xl (a.pc + 4)))) ∧
  (Issues (.breakvOpen o) s → exec (.breakvOpen o) s =
    .next (pathTo s (⟨.cont, 0, a.pc, 0⟩ :: ⟨.brk, 0, a.pc, L⟩ :: st) a.em a.xl (a.pc + 4))) ∧
  (∀ i st' xl, Issues i s → Leaves s c o i st' xl → a.em &&& ~~~b ≠ 0 →
    exec i s = .next (pathTo s st' (a.em &&& ~~~b) xl (a.pc + 4)))

/-- R242, R187, R243, R244: where no lane runs on, the first entry with a lane that has not exited resumes, a continue entry
staying without its lanes, and a merge entry that no `else` has given an address trapping PSTACK; with no such entry the wave ends.
A stack that does not fit the instruction, a continue entry missing above the loop of a `contv` among them, and a push that has no
place, trap PSTACK and change nothing but what the fetch of the word at a `split`'s target leaves; entries that no longer fit in hardware are stored to the spill area, low entries first.
No transfer is made past an outstanding acquire (R123).
Rests on the model's choices of log entry 50. -/
def Sys2Proof.Says.PathsInHardware : Prop := ∀ (s : State) (c : SReg) (o : BitVec 16), InHardware s 0 →
  let a := s.cur.a
  let st := a.stack
  let L := a.pc + 4 * o.signExtend 32
  (∀ i st' xl, Issues i s → Leaves s c o i st' xl → a.em &&& ~~~takenLanes s c = 0 →
    (∀ gone e rest, st' = gone ++ e :: rest → (∀ g ∈ gone, g.mask &&& ~~~xl = 0) → e.mask &&& ~~~xl ≠ 0 →
      (e.kind = .merge → e.pc ≠ 0) →
      exec i s = .next (pathTo s (if e.kind = .cont then { e with mask := 0 } :: rest else rest) (e.mask &&& ~~~xl) xl e.pc)) ∧
    (∀ gone e rest, st' = gone ++ e :: rest → (∀ g ∈ gone, g.mask &&& ~~~xl = 0) → e.mask &&& ~~~xl ≠ 0 →
      e.kind = .merge → e.pc = 0 → exec i s = .next (trapAt s .pstack)) ∧
    ((∀ g ∈ st', g.mask &&& ~~~xl = 0) → ∃ t, exec i s = .next t ∧ t.cur.hold = .ended ∧ t.cur.a.stack = [] ∧
      t.cur.a.xl = xl ∧ t.cur.a.em = 0 ∧ t.mem = s.mem ∧ t.waves = s.waves)) ∧
  (∀ i, Issues i s →
    ((i = .elseW o ∧ ¬∃ e m rest, st = e :: m :: rest ∧ e.kind = .els ∧ e.rpc = a.pc ∧ m.kind = .merge) ∨
     (i = .merge ∧ ¬∃ e rest, st = e :: rest ∧ (e.kind = .merge ∨ e.kind = .cont)) ∨
     (i = .breakv c o ∧ ∀ e ∈ st, ¬(e.kind = .brk ∧ e.pc = L)) ∨ (i = .contv c o ∧ ∀ e ∈ st, e.kind ≠ .brk) ∨
     (i = .contv c o ∧ ∃ up e low, st = up ++ e :: low ∧ (∀ k ∈ up, k.kind ≠ .brk) ∧ e.kind = .brk ∧
       ∀ k, up.getLast? = some k → k.kind ≠ .cont) ∨
     (i = .breakvOpen o ∧ st.length > 14 ∧ spillAddr s s.cur 0 = none)) →
    exec i s = .next (trapAt s .pstack)) ∧
  (∀ tgt, Issues (.split c o) s → fetchOut s s.cur L = .ok tgt → fetchNeeds s s.cur tgt = none →
    isElse (fetchWord s s.cur tgt).toNat = false ∨ (st.length > 14 ∧ spillAddr s s.cur 0 = none) →
    exec (.split c o) s = .next (trapAt (fetched s s.cur L tgt) .pstack)) ∧
  (∀ (ad : Nat → BitVec 24 × Nat) (ts : Nat → List Target), Issues (.breakvOpen o) s → st.length = 16 →
    (∀ k, k ≤ 1 → spillAddr s s.cur k = some (ad k) ∧ spillPieces s s.cur 0b010 (ad k) = .ok (ts k)) →
    (acquirePending s.cur = true → exec (.breakvOpen o) s = .next (stall s)) ∧
    (acquirePending s.cur = false → ∃ t p, exec (.breakvOpen o) s = .next t ∧ t.cur.a.stack = ⟨.cont, 0, a.pc, 0⟩ :: ⟨.brk, 0, a.pc, L⟩ :: st.take 14 ∧
      t.cur.a.depth = 18 ∧ t.cur.a.pc = a.pc + 4 ∧ t.cur.ops = (issued s.cur s.cur.a).ops ++ [p] ∧ p.kind = .frame ∧ p.flag = none ∧
      p.acc.map (fun x => (x.tgt, x.sz, x.val)) = ([1, 0] : List Nat).flatMap fun k => (ts k).zipIdx.map fun (t, j) =>
        (t, 8, leNat (((entryBytes (st.getD (15 - k) ⟨.els, 0, 0, 0⟩)).drop (8 * j)).take 8))))

/-- R187, R243: a push beyond 256 entries traps PSTACK, whatever part of the stack is spilled. -/
def Sys2Proof.Says.PathsFull : Prop := ∀ (s : State) (c : SReg) (o : BitVec 16),
  s.cur.a.stack.length ≤ s.cur.a.depth → 255 ≤ s.cur.a.depth →
  (Issues (.breakvOpen o) s → exec (.breakvOpen o) s = .next (trapAt s .pstack)) ∧
  (∀ tgt, Issues (.split c o) s → fetchOut s s.cur (s.cur.a.pc + 4 * o.signExtend 32) = .ok tgt → fetchNeeds s s.cur tgt = none →
    exec (.split c o) s = .next (trapAt (fetched s s.cur (s.cur.a.pc + 4 * o.signExtend 32) tgt) .pstack))
/-- The path stack in hardware, its spill, and its end (R187, R242 to R244). Rests on the model's choice of log entry 50. -/
def Obligations.PathStack : Prop := PathsInHardware ∧ PathsFull

/-- R304, R311, R123: a fence only moves on once what it orders is done, and waits before that with the buffer draining;
`dist` gives the hop distance of two bound dies, and all ones where one is not bound.
Rests on the model's choices of log entry 23. -/
def Sys2Proof.Says.FencesAndDistance : Prop := ∀ (s : State) (sc : Scope) (a d : SReg),
  (∀ i k, (i, k) ∈ [(.fenceAcq sc, Scope.wave), (.fenceRel sc, sc), (.fenceAr sc, sc), (.fenceSc sc, sc)] → Issues i s →
    exec i s = .next (if released s s.cur k then after s (onward s.cur.a) else waitRelease s)) ∧
  (Issues (.dist a d) s →
    let c := getCtx s (pkgOf s.cur.id.cd) s.cur.ctx
    let x := (readS s.cur.a a).toNat
    (∀ p q, physDie c (x % 256) = some p → physDie c (x / 256 % 256) = some q → exec (.dist a d) s = .next (scalarTo s d
      (BitVec.ofNat 32 (((p % 8 / 4 : Nat) - (q % 8 / 4 : Nat) : Int).natAbs + ((p % 4 : Nat) - (q % 4 : Nat) : Int).natAbs)))) ∧
    (physDie c (x % 256) = none ∨ physDie c (x / 256 % 256) = none →
      exec (.dist a d) s = .next (scalarTo s d 0xFFFFFFFF)))

/-- R114, R309, R310: `waita`, once no earlier operation of the wave but a store still has to access its word, completes at once with
the word where the condition holds, else the wave sleeps on it; `mwait`
completes with 2 where the word is not token-coherent, with 0 where it no longer has the expected value, with 2 where the die's 512
monitors are in use, else the wave sleeps on a monitor of its sector; where the home of the word is lost, its data is all ones and
RLOST is set (R102). A write, a timeout or the monitor ends the sleep with the word, 1 or 0 in the register; a timeout comes when TIME
has gone on by 16 counts for each of its nanoseconds. Rests on the model's choices of log entries 3, 14, 28, 102. -/
def Sys2Proof.Says.WaitsOnWords : Prop := ∀ (s : State) (a d : SReg) (c : WaitCond),
  let w := s.cur
  let b := blockOf s w
  let off := (readS w.a a).toNat
  let x := readS w.a (a + 1)
  let acc : LaneAcc := ⟨0, ⟨.scr b.core, b.base + off, .dev, .none⟩, BitVec.ofNat 64 off, 4, 0, 0⟩
  let y : Word := BitVec.ofNat 32 (viewNat s w acc.tgt 4)
  (Issues (.waita a d c) s →
    (off % 4 ≠ 0 → exec (.waita a d c) s = .next (parkActive s .align 0)) ∧
    (off % 4 = 0 → b.size < off + 4 → exec (.waita a d c) s = .next (parkActive s .bounds 0)) ∧
    (off % 4 = 0 → off + 4 ≤ b.size → scrBusy w b.core (b.base + off) 4 = false → viewPoison s w acc.tgt 4 = false →
      (Meets c x y → exec (.waita a d c) s = .next (scalarTo s d y)) ∧
      (¬Meets c x y → ∃ t till, exec (.waita a d c) s = .next t ∧ SameMemory s t ∧ t.waves = s.waves ∧
        t.cur = { issued w (onward w.a) with hold := .waita d acc x c till } ∧
        (readS w.a (a + 2) = 0 → till = none) ∧
        (readS w.a (a + 2) ≠ 0 → ∃ now, till = some (now + 16 * (readS w.a (a + 2)).toNat) ∧
          (timeSt s w.id.cd).time.toNat ≤ now)))) ∧
  (Issues (.mwait a d) s →
    let ad := readS w.a (a + 1) ++ readS w.a a
    (ad.toNat % 4 ≠ 0 → exec (.mwait a d) s = .next (parkActive s .align ad)) ∧
    (ad.toNat % 4 = 0 → ad.extractLsb' 40 24 = clusterId → exec (.mwait a d) s = .next (scalarTo s d 2)) ∧
    (∀ tgt, ad.toNat % 4 = 0 → ad.extractLsb' 40 24 ≠ clusterId →
      translate s w 0b001 (ad.extractLsb' 40 24) (ad.extractLsb' 0 40).toNat 4 = .ok tgt →
      let k := tgt.addr / 64
      let e := getSec s w.id.cd k
      let s' := copyTlbAt s w ad
      let s2 := markPod s' (pkgOf w.id.cd) w.ctx k tgt.coh
      let sleeps := fun (t : State) (till : Option Nat) => (getSec t w.id.cd k).monitor = true ∧ t.mem = s.mem ∧ t.waves = s.waves ∧
        (readS w.a (a + 3) = 0 → till = none) ∧
        (readS w.a (a + 3) ≠ 0 → ∃ now, till = some (now + 16 * (readS w.a (a + 3)).toNat) ∧ (timeSt s w.id.cd).time.toNat ≤ now)
      (isCoherent tgt = false → exec (.mwait a d) s = .next (scalarTo s' d 2)) ∧
      (isCoherent tgt = true → lostHome s (pkgOf w.id.cd) w.ctx tgt = false → canRead e = true →
        e.wakeDue = false → e.poison = false → (∀ r, e.req = some r → r.trump = false) →
        (devNat s tgt.addr 4 ≠ (readS w.a (a + 2)).toNat → exec (.mwait a d) s = .next (scalarTo s2 d 0)) ∧
        (devNat s tgt.addr 4 = (readS w.a (a + 2)).toNat → 512 ≤ monitorsUsed s w.id.cd →
          exec (.mwait a d) s = .next (scalarTo s2 d 2)) ∧
        (devNat s tgt.addr 4 = (readS w.a (a + 2)).toNat → monitorsUsed s w.id.cd < 512 →
          ∃ t till, exec (.mwait a d) s = .next t ∧ t.cur = { issued w (onward w.a) with hold := .mwait d k till } ∧ sleeps t till)) ∧
      (isCoherent tgt = true → lostHome s (pkgOf w.id.cd) w.ctx tgt = true → w.window = [] → w.hold = .ready →
        ∃ t, exec (.mwait a d) s = .next t ∧
          t.cur.rlost = w.rlost ++ (if modeRlt w.a.mode then [(w.a.pc, ad)] else []) ∧
          let ends := fun (x : Word) => t.cur.hold = .ready ∧
            t.cur.a = { onward (writeS (isHandler w) w.a d x) with stat := w.a.stat ||| 0x80 }
          (readS w.a (a + 2) ≠ 0xFFFFFFFF → ends 0) ∧
          (readS w.a (a + 2) = 0xFFFFFFFF → 512 ≤ monitorsUsed s w.id.cd → ends 2) ∧
          (readS w.a (a + 2) = 0xFFFFFFFF → monitorsUsed s w.id.cd < 512 → ∃ till, t.cur.hold = .mwait d k till ∧
            t.cur.a = { onward w.a with stat := w.a.stat ||| 0x80 } ∧ sleeps t till)))) ∧
  (∀ (u : WaveId) (v : Wave) (acc : LaneAcc) (x : Word) (till : Option Nat), getWave s u = some v → viewPoison s v acc.tgt 4 = false →
    v.hold = .waita d acc x c till →
    let y : Word := BitVec.ofNat 32 (viewNat s v acc.tgt 4)
    let v' := { v with hold := .ready, a := writeS (isHandler v) v.a d y }
    (Meets c x y → ∃ t, exec (.waitaReread u) s = .next t ∧ Becomes s t u v' ∧ SameMemory s t) ∧
    (¬Meets c x y → exec (.waitaReread u) s = .next s) ∧
    (∀ n, till = some n → ∃ t, exec (.waitaTimeout u) s = .next t ∧ Becomes s t u v' ∧ SameMemory s t ∧
      (n < 2 ^ 64 → u.cd % 16 < 8 → u.cd < 0x100000 → (∃ e ∈ s.cds, e.unit = u.cd) → n ≤ (timeSt t u.cd).time.toNat))) ∧
  (∀ (u : WaveId) (v : Wave) (k n : Nat), getWave s u = some v → v.hold = .mwait d k (some n) →
    ∃ t, exec (.mwaitTimeout u) s = .next t ∧
      Becomes s t u { v with hold := .ready, a := writeS (isHandler v) v.a d 1 } ∧ t.mem = s.mem ∧ t.cores = s.cores ∧
      (n < 2 ^ 64 → u.cd % 16 < 8 → u.cd < 0x100000 → (∃ e ∈ s.cds, e.unit = u.cd) → n ≤ (timeSt t u.cd).time.toNat)) ∧
  (∀ (u : WaveId) (v : Wave) (k : Nat) (till : Option Nat), getWave s u = some v → v.hold = .mwait d k till →
    (getSec s u.cd k).wakeDue = true → ∃ t, exec (.monitorWake u.cd k) s = .next t ∧
      getWave t u = some { v with hold := .ready, a := writeS (isHandler v) v.a d 0 } ∧
      (getSec t u.cd k).monitor = false ∧ (getSec t u.cd k).wakeDue = false ∧ t.mem = s.mem) ∧
  (∀ (u : WaveId) (v : Wave) (n : Nat), getWave s u = some v → v.hold = .sleep n → n < 2 ^ 64 → u.cd % 16 < 8 → u.cd < 0x100000 →
    (∃ e ∈ s.cds, e.unit = u.cd) → ∃ t, exec (.sleepExpiry u) s = .next t ∧ Becomes s t u { v with hold := .ready } ∧
      n ≤ (timeSt t u.cd).time.toNat ∧ SameMemory s t)

/-- R312, R346: `lnch` puts a record from the scratchpad into the tail slot of a launch queue of its context and moves the
tail; a queue of another context answers 2, a full one 1, and nothing is put. Rests on the model's choices of log entry 14. -/
def Sys2Proof.Says.Launches : Prop := ∀ (s : State) (a d : SReg), Issues (.lnch a d) s → released s s.cur .sys = true →
  let b := blockOf s s.cur
  let n := (readS s.cur.a a).toNat
  let off := (readS s.cur.a (a + 1)).toNat
  let q := getQueue s (pkgOf s.cur.id.cd) n
  let tail := q.tail.toNat % ringSize q
  let at_ := slotAddr q tail
  off % 64 = 0 → off + 128 ≤ b.size → scrPois (getCore s b.core) (b.base + off) 128 = false →
  (n > 255 ∨ (q.qbase.extractLsb' 48 16).toNat ≠ s.cur.ctx → exec (.lnch a d) s = .next (scalarTo s d 2)) ∧
  (n ≤ 255 → (q.qbase.extractLsb' 48 16).toNat = s.cur.ctx →
    ((tail + 1) % ringSize q = q.head.toNat % ringSize q → exec (.lnch a d) s = .next (scalarTo s d 1)) ∧
    ((tail + 1) % ringSize q ≠ q.head.toNat % ringSize q → s.cur.window = [] →
      (∀ k ∈ [at_ / 64, at_ / 64 + 1], homeReady s k = true) → memWf s.mem = true →
      ∃ t, exec (.lnch a d) s = .next t ∧ t.cur = (committed s (onward (writeS (isHandler s.cur) s.cur.a d 0))).cur ∧
        (getQueue t (pkgOf s.cur.id.cd) n).tail = BitVec.ofNat 16 ((tail + 1) % ringSize q) ∧
        (getQueue t (pkgOf s.cur.id.cd) n).head = q.head ∧
        (∀ i < 128, memByte t.mem (at_ + i) = scrByte (getCore s b.core) (b.base + off + i)) ∧
        (∀ x, x / 128 ≠ at_ / 128 → memByte t.mem x = memByte s.mem x) ∧ t.cores = s.cores ∧ t.hostMem = s.hostMem))

/-- R305 to R308, R163, R164: `bar` and `barr`, once their release is done, send their arrival and wait; `gjoin` and `gleave`
send the join or the leave and wait, or answer at once where there is nothing to send, but a join that would tie a block to a
pre-emption already chosen is held (R171; log entry 84), and a join of the current group answers its count whatever the number of joined
groups (log entry 103); `ginfo` reads the current group's members, key and marks, none once the group that a handler was born with
has dissolved. -/
def Sys2Proof.Says.GroupWords : Prop := ∀ (s : State) (a d : SReg) (n : Bar4) (sc : GScope),
  let w := s.cur
  let b := blockOf s w
  let g := match w.handler with
    | some h => h.group
    | none => (w.groups.getLast?).getD (.block w.blk)
  let k := readS w.a a
  let moved := after s (onward w.a)
  (Issues (.bar a d n) s → exec (.bar a d n) s = .next (
    if released s w (match g with | .cluster .. => .cluster | _ => .group)
    then sentTo s (.arrive w.id g n (k.toNat % 256)) (.bar g n d false) else waitRelease s)) ∧
  (Issues (.barr a n) s →
    (b.csize ≤ k.toNat → exec (.barr a n) s = .next (parkActive s .mcrange 0)) ∧
    (k.toNat < b.csize → released s w .cluster = false → exec (.barr a n) s = .next (waitRelease s)) ∧
    (k.toNat < b.csize → released s w .cluster = true → exec (.barr a n) s = .next (match clusterMember s w.blk k.toNat with
      | some m => if m.state = .retired then moved else sentTo s (.remote w.id (.block m.id) n) .barr
      | none => moved))) ∧
  (Issues (.gjoin a d sc) s →
    let r := match sc with
      | .core => GroupRef.core w.ctx (coreId w.id) k
      | .cluster => .cluster w.ctx w.blk.launch (w.blk.idx / b.csize) k
    exec (.gjoin a d sc) s = .next (
      if joinWaits s w r then stallBy .leave s
      else if g = r then scalarTo s d (BitVec.ofNat 32 (memberCount s r))
      else if r ∈ joinedGroups s w ∨ 3 ≤ (joinedGroups s w).length then scalarTo s d 0xFFFFFFFF
      else sentTo s (.join w.id r d) (.join d))) ∧
  (Issues .gleave s →
    (w.groups = [] → exec .gleave s = .next moved) ∧
    (∀ gs h, w.groups = gs ++ [h] → exec .gleave s = .next (sentTo s (.leave w.id h true ⟨w.blk, w.k⟩) .leave))) ∧
  (∀ sel, Issues (.ginfo d sel) s → ∃ v, exec (.ginfo d sel) s = .next (scalarTo s d v) ∧
    let stands := fun y : Group => getGroup s g = some y ∧ ∀ h, w.handler = some h → h.born = y.born
    let joined := match w.handler with
      | some h => h.joined
      | none => w.groups.length
    (sel = .count → (∀ y, stands y → v = BitVec.ofNat 32 y.members.length) ∧ ((∀ y, ¬stands y) → v = 0)) ∧
    (sel = .key → v = match g with
      | .block _ => 0
      | .core _ _ key => key
      | .cluster _ _ _ key => key) ∧
    (sel = .info → (v.getLsbD 0 = true ↔ ∃ y, stands y ∧ y.abandoned = true) ∧
      (v.getLsbD 1 = true ↔ ∃ ctx launch cl key, g = .cluster ctx launch cl key) ∧ (v.getLsbD 2 = true ↔ g = .block w.blk) ∧
      (joined ≤ 3 → (v.extractLsb' 3 29).toNat = joined)))

/-- R163 to R167: a group event at the group's home. An arrival joins the waiting ones; the event that completes a phase, an arrival, a
leave or a remote arrival, ends every wait with 0 and carries the surplus of remote arrivals over; at an abandoned group an arrival ends
with 1. A join makes the wave a member of its group, the innermost of its groups, and fails for a member and where a core has no entry
left; a leave takes it out; a kill takes it out, abandons the group and ends its waits with 1.
Rests on the model's choices of log entry 22. -/
def Sys2Proof.Says.GroupEvents : Prop := ∀ (s : State) (i : Nat) (m : GroupMsg) (x : Group), s.groupMsgs[i]? = some m →
  groupMsgReady s m = true → getGroup s x.ref = some x →
  ∃ t, (remoteWaits s m.ev = false → exec (.groupEventArrival i) s = .next t ∧ t.groupMsgs = dropAt i s.groupMsgs ∧ SameMemory s t) ∧
  (∀ w v n q d p, m.ev = .arrive w x.ref n q → getWave s w = some v → v.hold = .bar x.ref n d p →
    (∀ k : Fin 4, k ≠ barNum n → w ∉ x.bars[k].arrived) →
    let b := x.bars[barNum n]
    let full := 1 ≤ x.members.length ∧ x.members.length ≤ b.arrived.length + 1 ∧ Nat.max b.q q ≤ b.r
    (x.abandoned = true → Becomes s t w { v with hold := .ready, a := writeS (isHandler v) v.a d 1 } ∧ t.groups = s.groups) ∧
    (x.abandoned = false → full → getWave t w = some { v with hold := .ready, a := writeS (isHandler v) v.a d 0 } ∧
      (∀ u v' d' p', u ∈ b.arrived → getWave s u = some v' → v'.hold = .bar x.ref n d' p' →
        getWave t u = some { v' with hold := .ready, a := writeS (isHandler v') v'.a d' 0 }) ∧
      ∃ y, getGroup t x.ref = some y ∧ y.members = x.members ∧ y.bars[barNum n] = ⟨[], 0, b.r - Nat.max b.q q⟩) ∧
    (x.abandoned = false → ¬full → getWave t w = some { v with hold := .bar x.ref n d true } ∧
      ∃ y, getGroup t x.ref = some y ∧ y.members = x.members ∧ y.bars[barNum n] = ⟨b.arrived ++ [w], Nat.max b.q q, b.r⟩)) ∧
  (∀ w v d, m.ev = .join w x.ref d → getWave s w = some v → v.hold = .join d →
    (∀ k : Fin 4, w ∉ x.bars[k].arrived) → v.id = w →
    ((∀ c ∈ newEntries s x.ref (coreId v.id), groupEntries s c < 16) → ⟨v.blk, v.k⟩ ∉ x.members →
      getWave t w = some { v with
        hold := .ready, groups := v.groups ++ [x.ref], a := writeS (isHandler v) v.a d (BitVec.ofNat 32 (x.members.length + 1)) } ∧
      ∃ y, getGroup t x.ref = some y ∧ y.members = x.members ++ [⟨v.blk, v.k⟩]) ∧
    ((∃ c ∈ newEntries s x.ref (coreId v.id), 16 ≤ groupEntries s c) ∨ ⟨v.blk, v.k⟩ ∈ x.members →
      getWave t w = some { v with hold := .ready, a := writeS (isHandler v) v.a d 0xFFFFFFFF } ∧ t.groups = s.groups)) ∧
  (∀ w v mb, m.ev = .leave w x.ref true mb → getWave s w = some v → (∀ k : Fin 4, w ∉ x.bars[k].arrived) → v.hold = .leave →
    getWave t w = some { v with hold := .ready, groups := v.groups.filter (· != x.ref) } ∧
    ∀ y, getGroup t x.ref = some y → y.members = x.members.filter (· != mb)) ∧
  (∀ w mb resume n, m.ev = .leave w x.ref resume mb →
    let b := x.bars[barNum n]
    let ms := x.members.filter (· != mb)
    1 ≤ ms.length → ms.length ≤ b.arrived.length → b.q ≤ b.r →
    (∀ u v d p, u ∈ b.arrived → getWave s u = some v → v.hold = .bar x.ref n d p →
      getWave t u = some { v with hold := .ready, a := writeS (isHandler v) v.a d 0 }) ∧
    ∃ y, getGroup t x.ref = some y ∧ y.members = ms ∧ y.bars[barNum n] = ⟨[], 0, b.r - b.q⟩) ∧
  (∀ w n, m.ev = .remote w x.ref n → remoteWaits s m.ev = false →
    let b := x.bars[barNum n]
    1 ≤ x.members.length → x.members.length ≤ b.arrived.length → b.q ≤ b.r + 1 →
    (∀ u v d p, u ∈ b.arrived → getWave s u = some v → v.hold = .bar x.ref n d p →
      getWave t u = some { v with hold := .ready, a := writeS (isHandler v) v.a d 0 }) ∧
    ∃ y, getGroup t x.ref = some y ∧ y.members = x.members ∧ y.bars[barNum n] = ⟨[], 0, b.r + 1 - b.q⟩) ∧
  (∀ w v n, m.ev = .remote w x.ref n → getWave s w = some v → v.hold = .barr → remoteWaits s m.ev = false →
    (∀ k : Fin 4, w ∉ x.bars[k].arrived) → getWave t w = some { v with hold := .ready } ∧
    ∃ y, getGroup t x.ref = some y ∧ y.members = x.members ∧
      (x.members = [] ∨ x.bars[barNum n].arrived = [] → y.bars[barNum n] = { x.bars[barNum n] with r := x.bars[barNum n].r + 1 })) ∧
  (∀ mb u v n d (k : Fin 4), m.ev = .kill mb [x.ref] → u ∈ x.bars[k].arrived → getWave s u = some v → v.hold = .bar x.ref n d true →
    getWave t u = some { v with hold := .ready, a := writeS (isHandler v) v.a d 1 } ∧
    ∀ y, getGroup t x.ref = some y → y.abandoned = true ∧ y.members = x.members.filter (· != mb))

/-! ## Translation -/

namespace Sys2Proof.Says

/-- The machine after `xlat` has set a translation register. -/
def txTo (s : State) (n : TxN) (x : TxReg) : State := after s (onward { s.cur.a with tx := s.cur.a.tx.set (txNum n) x })
/-- The home of each sector has gathered all its tokens (R92). -/
def Gathers (s : State) (xs : List Nat) : Prop := ∀ x ∈ xs, homeReady s x = true
/-- Memory outside some sectors is as before. -/
def OnlySectors (s t : State) (xs : List Nat) : Prop := ∀ a, a / 64 ∉ xs → memByte t.mem a = memByte s.mem a

end Sys2Proof.Says

/-- R38, R39, R293: `xlat` sets a translation register and never faults: an empty window for object 0 and the cluster window,
what the walk of the page found where the wave has that result, and otherwise the wave waits for the walk. The window that a
walk gives starts with the page's run, ends with the run, the object, installed memory or 4 GiB on, and is empty without a frame. -/
def Sys2Proof.Says.TranslationRegisters : Prop := ∀ (s : State) (a : SReg) (n : TxN),
  let w := s.cur
  let ad := readS w.a (a + 1) ++ readS w.a a
  let id : BitVec 24 := ad.extractLsb' 40 24
  let base : BitVec 40 := ad.extractLsb' 0 40
  let page := base.toNat / 65536
  let old := w.a.tx[txNum n]
  let plain : TxReg := { old with v := true, cl := id == clusterId, id := id, base := base, lo := base, hi := base.setWidth 41 }
  (Issues (.xlat a n) s →
    (id = 0 ∨ id = clusterId → exec (.xlat a n) s = .next (txTo s n plain)) ∧
    (id ≠ 0 → id ≠ clusterId → ∀ r, w.xres.find? (fun r => r.id == id && r.page == page) = some r →
      exec (.xlat a n) s = .next (txTo s n (txOf old ad r.out))) ∧
    (id ≠ 0 → id ≠ clusterId → (∀ r ∈ w.xres, ¬(r.id = id ∧ r.page = page)) → (getCd s w.id.cd).walks.length < 16 →
      ∃ t, exec (.xlat a n) s = .next t ∧ t.cur = { w with hold := .walk [(id, page)] } ∧ t.mem = s.mem ∧ t.waves = s.waves ∧ t.cores = s.cores)) ∧
  (id ≠ 0 → id ≠ clusterId → txOf old ad .absent = plain ∧
    ∀ (len : Nat) (perm : BitVec 3) (sh : Bool) (k : Kind) (c : Coh) (lo hi : Nat) (f : BitVec 40),
      let g := { plain with perm := if sh then 0 else perm, kind := k, coh := c }
      txOf old ad (.found len perm sh k c .hole lo hi) = g ∧ txOf old ad (.found len perm sh k c .moving lo hi) = g ∧
      (len ≤ base.toNat → txOf old ad (.found len perm sh k c (.frame f) lo hi) = g) ∧
      (base.toNat < len → 65536 ∣ lo → lo ≤ base.toNat → page - lo / 65536 ≤ f.toNat → len ≤ 2 ^ 40 →
        let t := txOf old ad (.found len perm sh k c (.frame f) lo hi)
        let first := f.toNat - (page - lo / 65536)
        let installed := match k with
          | .dev => lo + (0x1800000 - first) * 65536
          | .pod => lo + (0x1800000 - first % 2 ^ 28) * 65536
          | .host => hi
        (t.v, t.cl, t.id, t.base, t.perm, t.kind, t.coh) = (true, false, id, base, g.perm, k, c) ∧ t.lo.toNat = lo ∧
        t.frame.toNat = first ∧ t.hi.toNat = min (min hi installed) (min len (base.toNat + 2 ^ 32))))

/-- R51, R134, R135, R293, R294, R34: `layreg` registers a record under the lowest free handle and counts a pin of its object;
it answers all ones where eight records of the block or 32 of the core are in use, parks where a check fails, and waits for the walks
of pages that neither TLB holds; `layrel` gives the handle back and takes the pin off, and only moves on for a handle not in use.
Rests on the model's choices of log entries 8, 9, 14, 29. -/
def Sys2Proof.Says.LayoutRecords : Prop := ∀ (s : State) (a d : SReg),
  let w := s.cur
  let p := pkgOf w.id.cd
  let b := blockOf s w
  let x := (readS w.a a).toNat
  let pin := fun l : LayRec => entryAddr (getCtx s p w.ctx) (l.addr.extractLsb' 40 24).toNat + 16
  (Issues (.layreg a d) s →
    (x % 32 ≠ 0 → exec (.layreg a d) s = .next (parkActive s .align 0)) ∧
    (x % 32 = 0 → b.size < x + 32 → exec (.layreg a d) s = .next (parkActive s .bounds 0)) ∧
    (x % 32 = 0 → x + 32 ≤ b.size → scrBusy w b.core (b.base + x) 32 = false → scrViewPois s w b.core (b.base + x) 32 = false →
      let reg := register (pageView s w) p (BitVec.ofNat 256 (scrView s w b.core (b.base + x) 32))
      (∀ c ad, reg = .fault c ad → exec (.layreg a d) s = .next (parkActive s c ad)) ∧
      (∀ ps, reg = .walks ps → exec (.layreg a d) s = .next (waitWalks s ps)) ∧
      (∀ l, reg = .ok l → b.recs.length ≥ 8 ∨ coreRecords s b.core ≥ 32 → ∃ t, exec (.layreg a d) s = .next (scalarTo t d 0xFFFFFFFF) ∧
        t = { s with cores := t.cores } ∧ ∀ c, ∃ tlb, getCore t c = { getCore s c with tlb := tlb }) ∧
      (∀ l, reg = .ok l → b.recs.length < 8 → coreRecords s b.core < 32 → b.unreg = [] → w.window = [] → getBlock s w.blk = some b →
        Gathers s [pin l / 64] → memWf s.mem = true →
        ∃ t h, exec (.layreg a d) s = .next t ∧ t.cur = (committed s (onward (writeS (isHandler w) w.a d (BitVec.ofNat 32 h)))).cur ∧
          h < 8 ∧ (∀ r ∈ b.recs, r.1 ≠ h) ∧ (∀ k < h, ∃ r ∈ b.recs, r.1 = k) ∧
          getBlock t w.blk = some { b with recs := b.recs ++ [(h, l)] } ∧
          memNat t.mem (pin l) 2 = (memNat s.mem (pin l) 2 + 1) % 65536 ∧ OnlySectors s t [pin l / 64] ∧
          ∀ c, ∃ tlb, getCore t c = { getCore s c with tlb := tlb }))) ∧
  (Issues (.layrel a) s →
    ((∀ r ∈ b.recs, r.1 ≠ x) → exec (.layrel a) s = .next (after s (onward w.a))) ∧
    (∀ l, b.recs.find? (·.1 == x) = some (x, l) → w.window = [] → getBlock s w.blk = some b →
      (∀ q ∈ (getCore s b.core).reqs, ¬(q.blk = b.id ∧ q.handle = x)) → Gathers s [pin l / 64] → memWf s.mem = true →
      ∃ t, exec (.layrel a) s = .next t ∧ t.cur = (committed s (onward w.a)).cur ∧
        getBlock t w.blk = some { b with recs := b.recs.filter (·.1 != x) } ∧
        memNat t.mem (pin l) 2 = (memNat s.mem (pin l) 2 + 65535) % 65536 ∧ OnlySectors s t [pin l / 64] ∧ t.cores = s.cores))

/-- R130, R295: `publ` parks where a check fails; else, after its release, it swaps the extent lists of the two entries, starts
the invalidation of both objects and holds the wave until both have ended. Rests on the model's choices of log entries 8, 9, 14. -/
def Sys2Proof.Says.Publish : Prop := ∀ (s : State) (a b : SReg), Issues (.publ a b) s →
  let w := s.cur
  let p := pkgOf w.id.cd
  let x := readS w.a (a + 1) ++ readS w.a a
  let y := readS w.a (b + 1) ++ readS w.a b
  let o : BitVec 24 := x.extractLsb' 40 24
  let h : BitVec 24 := y.extractLsb' 40 24
  let po := entryAddr (getCtx s p w.ctx) o.toNat
  let ph := entryAddr (getCtx s p w.ctx) h.toNat
  (∀ c sh, publCheck s p w.ctx o h = .fault c sh → exec (.publ a b) s = .next (parkActive s c (if sh then y else x))) ∧
  (o = 0 ∨ o = clusterId → publCheck s p w.ctx o h = .fault .bounds false) ∧
  (o ≠ 0 → o ≠ clusterId → h ≠ 0 → h ≠ clusterId → validEntry s (getCtx s p w.ctx) o.toNat = none →
    publCheck s p w.ctx o h = .fault .noxl false) ∧
  (∀ eo es, publCheck s p w.ctx o h = .ok eo es → released s w .sys = false → exec (.publ a b) s = .next (waitRelease s)) ∧
  (∀ eo es, publCheck s p w.ctx o h = .ok eo es → released s w .sys = true → w.window = [] → Gathers s [po / 64, ph / 64] →
    memWf s.mem = true →
    ∃ t, exec (.publ a b) s = .next t ∧
      t.cur = { (committed s (onward w.a)).cur with hold := .inval [s.nextId, s.nextId + 1] } ∧
      t.invals.map (fun i => (i.k, i.pkg, i.ctx, i.id, i.count)) = s.invals.map (fun i => (i.k, i.pkg, i.ctx, i.id, i.count)) ++
        [(s.nextId, p, w.ctx, o, 0), (s.nextId + 1, p, w.ctx, h, 0)] ∧
      memNat t.mem po 32 = withExtents eo es ∧ memNat t.mem ph 32 = withExtents es eo ∧
      OnlySectors s t [po / 64, ph / 64] ∧ t.waves = s.waves ∧ t.hostMem = s.hostMem)

/-- R33 to R37, R41: what a walk of a page finds. The table entry stands at 32 times the object's number from the table on; it is absent
where the number is 0 or beyond the table, its reserved fields are not 0, MIG is 2 or 3, or KIND and COH are no permitted pair.
Run j of the extent list covers the pages after those of the runs before it, and an entry of 0 pages ends the list. A page
in no run, in an invalid run, in a hole or without installed memory is a hole; in a run that moves, under MIG = 1, it is moving; else
it has a frame. Rests on the model's choices of log entry 78. -/
def Sys2Proof.Says.WalksFind : Prop := ∀ (s : State) (p ctx id page : Nat),
  let c := getCtx s p ctx
  let e : BitVec 256 := BitVec.ofNat 256 (devNat s (c.pkg * 2 ^ 44 + c.otbase.toNat * 65536 + 32 * id) 32)
  let kindCoh := (e.extractLsb' 44 2, e.extractLsb' 46 2)
  let n := (e.extractLsb' 112 16).toNat
  let x := fun j : Nat => BitVec.ofNat 64 (devNat s (p * 2 ^ 44 + (e.extractLsb' 70 35).toNat * 64 + 8 * j) 8)
  let pages := fun j : Nat => ((x j).extractLsb' 40 22).toNat
  let first := fun j : Nat => ((List.range j).map pages).sum
  let inRun := fun j : Nat => j < n ∧ (∀ i ≤ j, pages i ≠ 0) ∧ first j ≤ page ∧ page < first (j + 1)
  let valid := id ≠ 0 ∧ id < c.otlen.toNat ∧ e.getLsbD 50 = true ∧ e.getLsbD 49 = false ∧ e.extractLsb' 144 48 = 0 ∧
    e.extractLsb' 105 7 = 0 ∧ e.extractLsb' 51 19 = 0 ∧
    kindCoh ∈ [(0#2, 0#2), (0#2, 1#2), (0#2, 2#2), (1#2, 1#2), (1#2, 2#2), (2#2, 2#2)]
  (¬valid → walkPage s p ctx id page = .absent) ∧
  (∀ k h, valid → (e.extractLsb' 44 2, k) ∈ [(0#2, Kind.dev), (1#2, .pod), (2#2, .host)] →
    (e.extractLsb' 46 2, h) ∈ [(0#2, Coh.pkg), (1#2, .pod), (2#2, .none)] →
    let found := WalkOut.found (e.extractLsb' 0 40).toNat (e.extractLsb' 40 3) (e.getLsbD 43) k h
    ((∀ j, ¬inRun j) → walkPage s p ctx id page = found .hole 0 0) ∧
    ∀ j, inRun j → walkPage s p ctx id page = found
      (let f := ((x j).extractLsb' 0 40).toNat
       let i := page - first j
       if (x j).getLsbD 62 = true ∨ f = 2 ^ 40 - 1 ∨ (k = .dev ∧ 0x1800000 ≤ f + i) ∨ (k = .pod ∧ 0x1800000 ≤ f % 2 ^ 28 + i) then .hole
       else if e.getLsbD 48 = true ∧ (x j).getLsbD 63 = true then .moving else .frame (BitVec.ofNat 40 (f + i)))
      (first j * 65536) (first (j + 1) * 65536))

/-- R34 to R36, R41, R45, R47 to R49, R82, R255, R379, R391: a walk whose sectors its die may read ends with what they hold, which is kept for the
waves that wait for it, and they go on with their last one; a migration wait ends, and nothing kept of a walk is used again; a die that receives an invalidation holds no translation of its pages any more; the last
acknowledgement ends the invalidation and the waves that waited for it go on; a write of INVRNG at either I/O die starts one, or is
refused, if the I/O dies run; a write-back gives the tokens and data of the die's sectors back to their homes, with the die's copies
gone, or the owner token and data of those modified.
Rests on the model's choices of log entries 36, 43, 81, 94. -/
def Sys2Proof.Says.TranslationEvents : Prop := ∀ (s : State),
  (∀ cd n k w v, (getCd s cd).walks[n]? = some k → (k.entry, k.pos, k.lo) = (none, 0, 0) → getWave s w = some v → w.cd = cd →
    v.ctx = k.ctx → v.hold = .walk [(k.id, k.page)] →
    let at_ := entryAddr (getCtx s (pkgOf cd) k.ctx) k.id.toNat
    let e := devNat s at_ 32
    (∀ x, (x = at_ / 64 ∨ ∃ j < (e >>> 112) % 65536, x = extentAddr (pkgOf cd) e j / 64) →
      walkLost s cd x = false ∧ canRead (getSec s cd x) = true) → ∃ t, exec (.tableWalkCompletion cd n) s = .next t ∧
      getWave t w = some { v with
        hold := .ready, xres := v.xres ++ [⟨k.id, k.page, walkPage s (pkgOf cd) k.ctx k.id.toNat k.page⟩] } ∧
      t.mem = s.mem ∧ t.hostMem = s.hostMem ∧ ∀ u x, ∃ r, getSec t u x = { getSec s u x with req := r }) ∧
  (∀ w v id, getWave s w = some v → v.hold = .migration id →
    ∃ t, exec (.migrationWaitRetry w) s = .next t ∧ Becomes s t w { v with hold := .ready, xres := [] } ∧ SameMemory s t) ∧
  (∀ cd i, s.invals.find? (·.k == i.k) = some i → cd ∈ i.todo → ∃ t, exec (.translationInvalidation i.k cd) s = .next t ∧
    let named := fun page => i.count = 0 ∨ (i.first ≤ page ∧ page < i.first + i.count)
    (∀ e ∈ (getCd t cd).dtlb, ¬(e.ctx = i.ctx ∧ e.id = i.id ∧ named e.page)) ∧
    (∀ c ∈ t.cores, c.id.cd = cd → ∀ e ∈ c.tlb, ¬(e.ctx = i.ctx ∧ e.id = i.id ∧ named e.page)) ∧
    (∀ v ∈ allWaves t, v.id.cd = cd → v.ctx = i.ctx → (∀ r ∈ v.xres, r.id ≠ i.id) ∧ v.hold ≠ .migration i.id ∧
      ∀ x ∈ v.a.tx.toList, x.v = true → x.cl = false → x.id = i.id → x.hi.toNat = x.lo.toNat) ∧
    (∀ j, t.invals.find? (·.k == i.k) = some j → cd ∉ j.todo ∧ j.acks = i.acks) ∧ t.mem = s.mem ∧ t.sectors = s.sectors) ∧
  (∀ cd i m w v, s.invals.find? (·.k == i.k) = some i → i.acks = [cd] → i.marks.find? (·.1 == cd) = some (cd, m) →
    openAccess s i cd m = false → getWave s w = some v → v.hold = .inval [i.k] → pkgOf w.cd = i.pkg →
    ∃ t, exec (.invalidationAck i.k cd) s = .next t ∧ getWave t w = some { v with hold := .ready } ∧
      (∀ j ∈ t.invals, j.k ≠ i.k) ∧ SameMemory s t) ∧
  (∀ pkg iod rng q, s.pkgs.find? (·.id == pkg) = some q → iod < 2 →
    let obj := if iod = 0 then q.invobj0 else q.invobj1
    let idle := (∀ j ∈ s.invals, ¬(j.pkg = pkg ∧ j.iod = some iod)) ∧ ∀ j ∈ s.invals, j.k ≠ s.nextId
    (iodRuns s pkg = false → exec (.driverInvalidation pkg iod rng) s = .next s) ∧
    (iodRuns s pkg = true → (∃ j ∈ s.invals, j.pkg = pkg ∧ j.iod = some iod) → ∃ t, exec (.driverInvalidation pkg iod rng) s = .next t ∧
      (if iod = 0 then (getPkg t pkg).invRej0 else (getPkg t pkg).invRej1) = true ∧ t.invals = s.invals ∧ SameMemory s t) ∧
    (iodRuns s pkg = true → idle → countedDies s pkg ≠ [] →
      exec (.driverInvalidation pkg iod rng) s = .next { s with
        nextId := s.nextId + 1
        invals := s.invals ++ [{ k := s.nextId, pkg := pkg, ctx := (obj.extractLsb' 48 16).toNat
                                 id := obj.extractLsb' 24 24, first := (rng.extractLsb' 0 24).toNat
                                 count := (rng.extractLsb' 24 24).toNat, todo := countedDies s pkg
                                 acks := countedDies s pkg, marks := [], iod := some iod }] }) ∧
    (iodRuns s pkg = true → idle → countedDies s pkg = [] → ∃ t, exec (.driverInvalidation pkg iod rng) s = .next t ∧ t.invals = s.invals ∧
      (if iod = 0 then (getPkg t pkg).invDone0 = q.invDone0 + 1 else (getPkg t pkg).invDone1 = q.invDone1 + 1) ∧ SameMemory s t)) ∧
  (∀ n m k b w v, s.net[n]? = some m → m.body = .writeback k → s.wbs.find? (·.k == k) = some b → b.owed = [m.dst] →
    (∀ x ∈ wbSectors s m.dst b, (getSec s m.dst x).frozen = false ∧ (getSec s m.dst x).req = none) → getWave s w = some v → v.hold = .writeback k →
    ∃ t, exec (.writebackRequest n) s = .next t ∧ getWave t w = some { v with hold := .ready } ∧ (∀ c ∈ t.wbs, c.k ≠ k) ∧
      t.hostMem = s.hostMem ∧ t.cores = s.cores ∧
      ((∀ y ∈ wbSectors s m.dst b, (getHome s y).trump = none ∧ (getMd s (homeUnit y)).flip = none ∧
          (getSec s m.dst y).serial = (getHome s y).serial) → memWf s.mem = true →
        ∀ x ∈ wbSectors s m.dst b,
        let e := getSec s m.dst x
        let f := getSec t m.dst x
        let h := getHome t x
        let data := fun (g : Home) => g.poison = e.poison ∧ (e.poison = false → homeData t x = e.data)
        (b.inv = true → e.tokens ≠ 0 → (f.tokens, f.own, f.valid, f.modified, f.l1) = (0, false, false, false, []) ∧
          h.tokens = (getHome s x).tokens + e.tokens ∧ (e.own = true → h.own = true ∧ data h)) ∧
        (b.inv = false → e.modified = true → e.own = true → 1 < e.tokens →
          f = { e with tokens := e.tokens - 1, own := false, modified := false } ∧
          h.tokens = (getHome s x).tokens + 1 ∧ h.own = true ∧ data h) ∧
        (b.inv = false → e.modified = false → f = e ∧ h.tokens = (getHome s x).tokens)))

/-! ## Collective operations, engine requests, near-memory operations and tile tasks -/

namespace Sys2Proof.Says

/-- The outstanding operation of a wave that has not ended, with its flag, behind no earlier one on its bytes. -/
def Pending (s : State) (w : WaveId) (v : Wave) (n : Nat) (o : Op) (fl : Fin 12) : Prop :=
  getWave s w = some v ∧ v.hold ≠ .ended ∧ v.ops.find? (·.id == n) = some o ∧ o.left = true ∧ o.flag = some fl.val ∧
  noClash v n o.acc
/-- The operation n of wave w is complete and its flag counts down; no register but the flag has changed. -/
def Finished (t : State) (w : WaveId) (v : Wave) (n : Nat) (fl : Fin 12) : Prop :=
  ∃ u, getWave t w = some u ∧ u.a = { v.a with flags := v.a.flags.set fl (v.a.flags[fl] - 1) } ∧ u.hold = v.hold ∧ ∀ p ∈ u.ops, p.id ≠ n
/-- Scalar k of the block that starts at a, as a number. -/
def scalarNat (s : State) (a : SReg) (k : Nat) : Nat := (readS s.cur.a (a + BitVec.ofNat 6 k)).toNat
/-- A wave's core or die holds in its TLB every page of n bytes of an object from an address on, with the permissions needed (R41,
R42). -/
def HeldRange (s : State) (w : Wave) (need : BitVec 3) (n : Nat) (ad : BitVec 64) : Prop :=
  let id : BitVec 24 := ad.extractLsb' 40 24
  let off := (ad.extractLsb' 0 40).toNat
  id ≠ 0 ∧ id ≠ clusterId ∧ ∃ len ≤ 2 ^ 40, off + n ≤ len ∧ ∀ p, off / 65536 ≤ p → p ≤ (off + n - 1) / 65536 → ∃ e, tlbFind s w id p = some e ∧
    e.len = len ∧ e.sh = false ∧ e.perm &&& need = need ∧ (e.kind = .host → confidential s (pkgOf w.id.cd) w.ctx = false)
/-- The words of `mcst` and `redst`. -/
def CollectiveIssue : Prop := ∀ (s : State) (a : SReg) (r : RedOp) (fl : FlagN) (la : LaN) (i : Instr) (red : Option RedOp)
    (need : BitVec 3),
  let w := s.cur
  let b := blockOf s w
  let src := scalarNat s a 0
  let n := scalarNat s a 1
  let list := scalarNat s a 2
  let k := scalarNat s a 3
  let near := min k ((b.size - list) / 8)
  let ads := (List.range k).map fun j => BitVec.ofNat 64 (scrView s w b.core (b.base + list + 8 * j) 8)
  let placed := src % 4 = 0 ∧ list % 8 = 0
  let aligned := placed ∧ ∀ ad ∈ ads.take near, ad.toNat % 4 = 0
  let sized := 4 ≤ n ∧ n ≤ 4096 ∧ n % 4 = 0 ∧ 1 ≤ k ∧ k ≤ 16
  let inside := src + n ≤ b.size ∧ list + 8 * k ≤ b.size
  (i, red, need) ∈ [(.mcst a fl la, none, 0b010#3), (.redst a r fl la, some r, 0b011#3)] → Issues i s →
  scrBusy w b.core (b.base + src) n = false → scrBusy w b.core (b.base + list) (8 * near) = false →
  (¬placed → exec i s = .next (parkActive s .align 0)) ∧
  (placed → ∀ pre ad post, ads.take near = pre ++ ad :: post → (∀ x ∈ pre, x.toNat % 4 = 0) → ad.toNat % 4 ≠ 0 →
    exec i s = .next (parkActive s .align ad)) ∧
  (aligned → ¬sized → exec i s = .next (parkActive s .rsvf 0)) ∧
  (aligned → sized → ¬inside → exec i s = .next (parkActive s .bounds 0)) ∧
  (aligned → sized → inside →
    (∀ c ad, destOut s w need ads n = .fault c ad → exec i s = .next (parkActive s c ad)) ∧
    (∀ ps, destOut s w need ads n = .walks ps → exec i s = .next (waitWalks s ps)) ∧
    ((∃ ds, destOut s w need ads n = .ok ds) ∨ (∀ ad ∈ ads, HeldRange s w need n ad) → ∃ t o, exec i s = .next t ∧
      t.cur = (acceptedTo s w.a fl o).cur ∧
      NothingPerformed s t ∧ (o.id, o.kind, o.order, o.flag, o.left) = (s.nextId, .coll red, .relaxed, some fl.toNat, false) ∧
      ∀ j < k, ∀ m < n / 4, ∃ x ∈ o.acc, x.lane = j ∧ x.oaddr = ads.getD j 0 + BitVec.ofNat 64 (4 * m) ∧ x.sz = 4 ∧
        x.val = scrView s w b.core (b.base + src + 4 * m) 4))
/-- A collective operation: its multicast flit goes first, where there is a tree for it; with one unpoisoned word to go that the flit
has reached, an `mcst` writes the word at the place, a die's cache, the home of COH = NONE memory or the host, and a `redst` makes
its RMW as an atomic does, and the operation is complete. -/
def CollectiveEnd : Prop := ∀ (s : State) (w : WaveId) (v : Wave) (n : Nat) (o : Op) (fl : Fin 12) (red : Option RedOp),
  Pending s w v n o fl → o.kind = .coll red →
  (collUnsent s v o = true → ∃ t u, exec (.collectiveCompletion w n) s = .next t ∧ Becomes s t w u ∧ u.a = v.a ∧
    u.ops = updWhere (·.id == n) (fun p => { p with carried := some [] }) v.ops ∧ t.mem = s.mem ∧ t.hostMem = s.hostMem ∧
    t.cores = s.cores ∧ t.sectors = s.sectors) ∧
  (∀ x, o.acc = [x] → collUnsent s v o = false → reached s v o x = true → x.sz = 4 → x.tgt.addr % 4 = 0 → x.cmp = 0 →
    lostHome s (pkgOf w.cd) v.ctx x.tgt = false → hostLocked s x.tgt = false →
    (isNone x.tgt = true → wcLine (getCore s (coreId w)) x = false) →
    let k := x.tgt.addr / 64
    let byte := fun a old => if x.tgt.addr ≤ a ∧ a < x.tgt.addr + 4 then BitVec.ofNat 8 (x.val >>> (8 * (a - x.tgt.addr))) else old
    (red = none → isCoherent x.tgt = true → canWrite (getSec s w.cd k) = true → (getSec s w.cd k).poison = false →
      ∃ t, exec (.collectiveCompletion w n) s = .next t ∧ Finished t w v n fl ∧ t.mem = s.mem ∧ t.hostMem = s.hostMem ∧
      ∀ i < 64, (getSec t w.cd k).data.extractLsb' (8 * i) 8 = byte (64 * k + i) ((getSec s w.cd k).data.extractLsb' (8 * i) 8)) ∧
    (red = none → x.tgt.space = .dev → x.tgt.coh = .none → memWf s.mem = true →
      ∃ t, exec (.collectiveCompletion w n) s = .next t ∧ Finished t w v n fl ∧ t.hostMem = s.hostMem ∧
      ∀ a, memByte t.mem a = byte a (memByte s.mem a)) ∧
    (∀ p, red = none → x.tgt.space = .host p → memWf s.hostMem = true →
      ∃ t, exec (.collectiveCompletion w n) s = .next t ∧ Finished t w v n fl ∧ t.mem = s.mem ∧
      ∀ a, memByte t.hostMem (p * 2 ^ 56 + a) = byte a (memByte s.hostMem (p * 2 ^ 56 + a))) ∧
    (∀ r, red = some r → levelReady s v o.scope [x] = (true, s) → accPoison s [] x = false →
      let old := leNat ((List.range 4).map fun i => readByte s x.tgt (x.tgt.addr + i))
      let done := levelWrite (countDirect s w.cd ([x].filter fun y => isNone y.tgt)) v o.scope x (redWord r old x.val)
      ∃ t, exec (.collectiveCompletion w n) s = .next t ∧ Finished t w v n fl ∧ t.mem = done.mem ∧ t.hostMem = done.hostMem ∧
      ∀ cd j, (getSec t cd j).data = (getSec done cd j).data))

end Sys2Proof.Says

/-- R296: the functions of `redst` on 4-byte words. -/
def Sys2Proof.Says.ReductionWords : Prop := ∀ (m v : Word),
  let near : Rnd := { rm := 0, sat := false, ftz := false, rnd := 0 }
  let sum := fun (t : EType) (x y : Nat) => (addF t near (fdec t false x) (fdec t false y)).1
  redWord .i32 m.toNat v.toNat = (m + v).toNat ∧ redWord .f32 m.toNat v.toNat = sum .fp32 m.toNat v.toNat ∧
  redWord .bf16 m.toNat v.toNat = sum .bf16 (m.toNat % 65536) (v.toNat % 65536) + 65536 * sum .bf16 (m.toNat / 65536) (v.toNat / 65536) ∧
  redWord .maxf32 m.toNat v.toNat = (minMax .fp32 false true false m.toNat v.toNat).1

/-- R298, R299, R296, R111, R388: `mcst` and `redst` park on the first check that fails, with the address of the destination that fails
it, wait for walks, or are accepted with the source and the list of destinations copied; of a list that does not lie in the allocation the
entries that do are checked for alignment first. A completed one has stored or reduced its words, and its flag counts down.
Rests on the model's choices of log entries 29, 95, 96. -/
def Obligations.Collectives : Prop := CollectiveIssue ∧ CollectiveEnd ∧ ReductionWords

/-- R138 to R140, R152, R297, R401, R436: an engine request takes the first check of its operands that fails, in their order, with the
member of a `copymc` that fails in the record; else it is accepted with a tag that no other request of the core has. A copy into an
outbound stream that is closed or whose key is gone fails its permission. Rests on the model's choices of log entries 6, 14, 30, 97. -/
def Sys2Proof.Says.EngineIssue : Prop := ∀ (s : State) (a b : SReg) (fl : FlagN) (la : LaN) (i : Instr) (kind : EngKind),
  (i, kind) ∈ [(.bulkrd a b fl la, .bulkrd), (.copy a b fl la, .copy), (.copymc a b fl la, .copymc)] → Issues i s →
  let w := s.cur
  let ctl := readS w.a a
  let field := fun l n => (ctl.extractLsb' l n).toNat
  let x := scalarNat s a
  let sb := (readS w.a b).toNat
  let gather := ctl.getLsbD 8 = true
  let out := ctl.getLsbD 9 = true
  let mc := kind = .copymc
  let blk := blockOf s w
  let found := blk.recs.find? (·.1 == field 0 3)
  let ctx := getCtx s (pkgOf w.id.cd) w.ctx
  let c1 := x 6 % 8 ≠ 0 ∨ (gather ∧ ¬mc ∧ sb % 4 ≠ 0)
  let c2 := field 10 6 ≠ 0 ∨ ctl.getLsbD 3 = true ∨ x 3 < 1 ∨ 65536 < x 3 ∨ x 4 < 1 ∨ 65536 < x 4 ∨
    (kind = .bulkrd ∧ (field 16 16 ≠ 0 ∨ out ∨ (handlersOf s w).length ≤ field 4 4)) ∨ (kind ≠ .bulkrd ∧ field 4 4 ≠ 0) ∨
    (mc ∧ (out ∨ gather ∨ 65536 ≤ sb))
  let c3 := mc ∧ ∃ r, sb.testBit r = true ∧ blk.csize ≤ r
  let c5 := fun l : LayRec => (¬out ∧ l.rd = false) ∨ (out ∧ (l.wr = false ∨ l.sh = false)) ∨
    (out ∧ ∃ k, boundTo ctx (l.addr.extractLsb' 40 24) true = some k ∧ ∀ t, liveStream ctx k = some t → 2 ^ 32 ≤ t.written)
  let c6 := fun (l : LayRec) (size : Nat) =>
    let row := x 3 * 2 ^ l.esz
    size < x 6 + 8 ∨ (kind ≠ .bulkrd ∧ size < x 5 + (x 4 - 1) * (if field 16 16 = 0 then row else 16 * field 16 16) + row) ∨
    (gather ∧ ¬mc ∧ size < sb + 4 * x 4)
  let member := fun r m => r < 16 ∧ sb.testBit r = true ∧ clusterMember s blk.id r = some m
  let parks := fun (k : Cause) (ad : BitVec 64) (at_ : BlockId) =>
    exec i s = .next (raiseTrapFor (countReplay s) at_.idx k 0 w.a.pc w.a.pc ad w.a.em true)
  (c1 → parks .align 0 blk.id) ∧ (¬c1 → c2 → parks .rsvf 0 blk.id) ∧ (¬c1 → ¬c2 → c3 → parks .mcrange 0 blk.id) ∧
  (¬c1 → ¬c2 → ¬c3 → found = none → parks .noxl 0 blk.id) ∧
  (∀ h l, ¬c1 → ¬c2 → ¬c3 → found = some (h, l) →
    (c5 l → parks .perm l.addr blk.id) ∧
    (¬c5 l → ¬mc → c6 l blk.size → parks .bounds 0 blk.id) ∧
    (∀ r m, ¬c5 l → mc → member r m → c6 l m.size → (∀ r' m', r' < r → member r' m' → ¬c6 l m'.size) → parks .bounds 0 m.id) ∧
    (¬c5 l → (¬mc → ¬c6 l blk.size) → (mc → ∀ r m, member r m → ¬c6 l m.size) →
      let core := coreId w.id
      (w.preempt = true ∨ 512 ≤ (getCore s core).reqs.length → exec i s = .next (stallBy .leave s)) ∧
      (w.preempt = false → (getCore s core).reqs.length < 512 → ∃ t o q, exec i s = .next t ∧
        t.cur = (acceptedTo s w.a fl o).cur ∧ NothingPerformed s t ∧ o.kind = .engine q.tag ∧
        (getCore t core).reqs = (getCore s core).reqs ++ [q] ∧ (∀ r ∈ (getCore s core).reqs, r.tag ≠ q.tag) ∧ q.tag < 512 ∧
        (q.op, q.kind, q.issuer, q.lay, q.dir, q.gather) = (s.nextId, kind, w.id, l, ctl.getLsbD 9, ctl.getLsbD 8) ∧
        (q.x0, q.y0, q.width, q.height) = ((readS w.a (a + 1)).toInt, (readS w.a (a + 2)).toInt, x 3, x 4) ∧
        (q.data, q.recOff, q.value.toNat) = (x 5, x 6, x 7))))
/-- R136, R137, R61, R102, R151: the bytes of a burst or transfer unit. Byte i of unit u belongs to element x of the tensor's row; it
is read at the element that x and the row give when they are clamped into the tensor, all ones where it is poisoned or its home is lost;
a copy to the tensor writes the elements that lie in it, at their own places, and no other. -/
def Sys2Proof.Says.EngineBytes : Prop := ∀ (s : State) (pkg u i : Nat) (q : EngReq) (row : Int), q.lay.esz ≤ 3 →
  let e := 2 ^ q.lay.esz
  let c := u % ((q.width * e + 127) / 128)
  let n := min 128 ((q.width - c * 128 / e) * e)
  let x := q.x0 + (c * 128 / e : Nat) + (i / e : Nat)
  let clamp := fun (v : Int) (dim : Nat) => (max 0 (min v ((dim : Int) - 1))).toNat
  let place := fun cx cy : Nat => recTarget pkg q.lay ((q.lay.addr.extractLsb' 0 40).toNat + cy * q.lay.pitch + cx * e + i % e)
  i < n →
  (q.dir = false → q.bound = none →
    let t := place (clamp x q.lay.dimx) (clamp row q.lay.dimy)
    engBytes s pkg q u row [i] = [(i, if lostHome s pkg q.ctx t then ⟨0xFF, false, true⟩
      else if readPoison s t t.addr then ⟨0xFF, true, false⟩ else ⟨readByte s t t.addr, false, false⟩)]) ∧
  (q.dir = true → q.kind = .copy → ∀ j t, (j, i, t) ∈ destPlaces pkg q u row ↔
    j = 0 ∧ 0 ≤ x ∧ x < q.lay.dimx ∧ 0 ≤ row ∧ row < q.lay.dimy ∧ t = place x.toNat row.toNat)
/-- R140, R142, R147, R149, R151: the bursts or units of a request go out in ascending order, request after request in turn by tag; a
unit of a copy lands in the scratchpad; a burst that the die may read comes back as a handler wave, born with the registers that the
spec gives; behind the last of them the status and completion words are written and the flag counts down.
Rests on the model's choices of log entries 3, 6, 9, 85, 97. -/
def Sys2Proof.Says.EngineWork : Prop := ∀ (s : State) (c : CoreId) (tag : Nat),
  (∀ q, findReq s c tag = some q →
    (q.gather = false → q.nextB < q.total → (q.kind = .bulkrd → burstsOut s c < 64) →
      (q.nextB = 0 → engineMayStart s q.issuer q.op = true) → servedNext s c tag = true → ∃ t row, exec (.engineBurstIssue c tag) s = .next t ∧
      row = (if q.nextB % q.perRow = 0 then q.y0 + (q.nextB / q.perRow : Nat) else q.row) ∧ t = { s with cores := t.cores } ∧
      findReq t c tag = some { q with row := row, nextB := q.nextB + 1, flying := q.flying ++ [(q.nextB, row)] }) ∧
    (∀ u row d base, q.kind ≠ .bulkrd → q.dir = false → q.flying.find? (·.1 == u) = some (u, row) → q.dests = [(d, base)] →
      q.got = [] → q.put = [] → memWf (getCore s d).scr = true →
      let bs := (engBytes s (pkgOf c.cd) q u row (List.range (unitSize q u))).map (·.2)
      engReady s c.cd (engPlaces s (pkgOf c.cd) q (srcPlaces (pkgOf c.cd) q u row)) = (true, s) →
      (∀ x ∈ bs, x.pois = false ∧ x.lost = false) → ∃ t, exec (.transferUnitReturn c tag u) s = .next t ∧
      (∀ a, memByte (getCore t d).scr a = if base + unitOff q u ≤ a ∧ a < base + unitOff q u + bs.length
        then (bs.map (·.val)).getD (a - (base + unitOff q u)) 0 else memByte (getCore s d).scr a) ∧
      findReq t c tag = some { q with flying := q.flying.filter (·.1 != u) } ∧ t.mem = s.mem ∧ t.hostMem = s.hostMem) ∧
    (∀ b row id iss, q.kind = .bulkrd → q.flying.find? (·.1 == b) = some (b, row) → handlerSlot s c q.issuer.part = some id →
      getWave s q.issuer = some iss → q.issuer ≠ id → (getCore s c).bursts = [] → q.got = [] →
      engReady s c.cd (engPlaces s (pkgOf c.cd) q (srcPlaces (pkgOf c.cd) q b row)) = (true, s) → ∃ t v, exec (.burstReturn c tag b) s = .next t ∧ getWave t id = some v ∧
      v.handler.isSome = true ∧ v.hold = .ready ∧ (v.a.pc, v.a.mode, v.blk, v.code) = (q.entry, q.mode, q.blk, iss.code) ∧
      let e := 2 ^ q.lay.esz
      let k := b % ((q.width * e + 127) / 128)
      let n := min 128 (q.width * e - 128 * k)
      let bs := (engBytes s (pkgOf c.cd) q b row (List.range n)).map (·.2)
      let lost := ∃ x ∈ bs, x.lost = true
      let pois := ∃ x ∈ bs, x.pois = true
      v.a = { WaveArch.zero with v := v.a.v, s := v.a.s, em := v.a.em, mode := q.mode, pc := q.entry } ∧
      (v.a.s[0], v.a.s[1], v.a.s[2], v.a.s[3], v.a.s[4], v.a.s[6]) = (BitVec.ofNat 32 b, BitVec.ofInt 32 (q.x0 + (k * 128 / e : Nat)),
        BitVec.ofInt 32 row, BitVec.ofNat 32 n, BitVec.ofNat 32 tag, q.arg) ∧
      (lost → v.a.s[5] = 2) ∧ (¬lost → pois → v.a.s[5] = 1) ∧ (¬lost → ¬pois → v.a.s[5] = 0) ∧
      (c.cd % 16 < 8 → c.cd < 0x100000 → (∃ d ∈ s.cds, d.unit = c.cd) → v.a.s[7] = (timeSt t c.cd).time.extractLsb' 0 32 ∧
        (timeSt s c.cd).time.toNat ≤ (timeSt t c.cd).time.toNat) ∧
      (∀ j : Fin 57, 8 ≤ j.val → v.a.s[j] = 0) ∧ (∀ l < 96, v.a.em.getLsbD l = decide (l < 32 ∧ 4 * l < n)) ∧
      (∀ r < 192, ∀ l < 96, laneOf (regLanes v.a r) l = if r ≠ 0 ∨ 32 ≤ l then 0 else if bs.any fun x => x.lost || x.pois then 0xFFFFFFFF
        else BitVec.ofNat 32 (leNat (((bs.map (·.val)).drop (4 * l)).take 4))) ∧ t.mem = s.mem ∧ t.hostMem = s.hostMem) ∧
    (∀ d base v o fl, q.nextB = q.total → q.flying = [] → (∀ x ∈ (getCore s c).bursts, x.tag ≠ tag) → handlersDone s c tag = true →
      q.wrote = 0 → (q.dir = true → reqStream s (pkgOf c.cd) q = none) → q.dests = [(d, base)] →
      Pending s q.issuer v q.op o fl → v.handler = none → memWf (getCore s d).scr = true →
      ∃ t, exec (.lastBurstEvent c tag) s = .next t ∧ Finished t q.issuer v q.op fl ∧ findReq t c tag = none ∧
      (∀ a, memByte (getCore t d).scr a = if base + q.recOff ≤ a ∧ a < base + q.recOff + 4 then
          q.value.extractLsb' (8 * (a - (base + q.recOff))) 8
        else if base + q.recOff + 4 ≤ a ∧ a < base + q.recOff + 8 then
          (statusWord q).extractLsb' (8 * (a - (base + q.recOff + 4))) 8 else memByte (getCore s d).scr a) ∧
      t.mem = s.mem ∧ t.hostMem = s.hostMem)) ∧
  (∀ w v, getWave s w = some v → v.handler.isSome = true → v.hold ≠ .ended → (blockOf s v).state = .stopping →
    exec (.handlerDrainLimit w) s = .next (killWave s v .drain v.a.pc 0 false))
/-- The copy and bulk engine (R136 to R152). Rests on the model's choices of log entries 3, 6, 9, 14, 30, 85, 97. -/
def Obligations.EngineRequests : Prop := EngineIssue ∧ EngineBytes ∧ EngineWork

/-- R300 to R302, R72, R61: an `nmop` parks on the first check that fails or waits for the walks of its pages, else it is accepted and its pieces go to the memory-side
dies; a piece of a fill none of which has been processed leaves the pattern in its sectors at their home and nowhere else; one of a copy
or a reduction, whose sectors' owner tokens are home, leaves there the source's words or the reduced ones, all ones and a mark where a
sector read is poisoned; one of a comparison changes no memory and brings the result down to the lowest difference; each counts the
poisoned sectors it reads; once every piece is acknowledged the
result record is written and the flag counts down. Rests on the model's choices of log entries 8, 9, 14, 29. -/
def Obligations.NearMemory : Prop := ∀ (s : State),
  (∀ (a : SReg) (r : RedOp) (fl : FlagN) (la : LaN) (i : Instr) (fn : NmFn) (need : BitVec 3) (shadow : Bool),
    let w := s.cur
    let p := pkgOf w.id.cd
    let b := blockOf s w
    let ad := readS w.a (a + 1) ++ readS w.a a
    let sd := readS w.a (a + 3) ++ readS w.a (a + 2)
    let n := scalarNat s a 4
    let rec_ := scalarNat s a 5
    let aligned := ad.toNat % 64 = 0 ∧ (fn ≠ .fill → sd.toNat % 64 = 0) ∧ rec_ % 8 = 0
    let sized := n ≠ 0 ∧ n % 64 = 0 ∧ n ≤ 2 ^ 31
    (i, fn, need, shadow) ∈ [(.nmopFill a fl la, NmFn.fill, 0b010#3, true), (.nmopCopy a fl la, .copy, 0b010, true),
      (.nmopCmp a fl la, .cmp, 0b001, false), (.nmopRed a r fl la, .red r, 0b011, false)] → Issues i s →
    (¬aligned → exec i s = .next (parkActive s .align 0)) ∧ (aligned → ¬sized → exec i s = .next (parkActive s .rsvf 0)) ∧
    (aligned → sized → b.size < rec_ + 8 → exec i s = .next (parkActive s .bounds 0)) ∧
    (aligned → sized → rec_ + 8 ≤ b.size →
      let range := fun need shadow ad => nmRange (pageView s w) p (confidential s p w.ctx) need shadow ad n
      let dest := range need shadow ad
      let source := range 0b001 false sd
      (∀ c x, dest = .fault c x → exec i s = .next (parkActive s c x)) ∧
      (∀ id, dest = .wait id → exec i s = .next (holdMigration s id)) ∧
      (∀ ps, dest = .walks ps → exec i s = .next (waitWalks s ps)) ∧
      (∀ dp sh, dest = .ok dp sh →
        (∀ c x, fn ≠ .fill → source = .fault c x → exec i s = .next (parkActive s c x)) ∧
        (∀ id, fn ≠ .fill → source = .wait id → exec i s = .next (holdMigration s id)) ∧
        (∀ ps, fn ≠ .fill → source = .walks ps → exec i s = .next (waitWalks s ps)) ∧
        (fn = .fill ∨ (∃ sp sh', source = .ok sp sh') → ∃ t o q, exec i s = .next t ∧
          t.cur = (acceptedTo s w.a fl o).cur ∧ t.mem = s.mem ∧ t.sectors = s.sectors ∧ t.homes = s.homes ∧ o.kind = .nmop ∧
          (getCore t (coreId w.id)).nm = (getCore s (coreId w.id)).nm ++ [q] ∧
          (q.op, q.wave, q.fn, q.recAddr, q.result) =
            (s.nextId, w.id, nmCode fn, b.base + rec_, if fn = .cmp then 0xFFFFFFFF else 0))))) ∧
  (∀ md p rest q, (getMd s md).pieces = p :: rest → findNm s p.core p.op = some q → engineMayStart s q.wave p.op = true →
    q.fn = 0 → (getMd s md).unreachable = false → (∀ x ∈ span (sectorOf p.dst) (p.len / 64), (getMd s (homeUnit x)).unreachable = false) →
    p.src = none → p.done = [] → 64 ∣ p.len → Gathers s (span (sectorOf p.dst) (p.len / 64)) →
    memWf s.mem = true → ∃ t, exec (.nmopPiece md) s = .next t ∧ OnlySectors s t (span (sectorOf p.dst) (p.len / 64)) ∧
      (∀ k ∈ span (sectorOf p.dst) (p.len / 64), ∀ i < 64, memByte t.mem (64 * k + i) = q.pattern.extractLsb' (8 * (i % 8)) 8) ∧
      findNm t p.core p.op = some { q with left := q.left - 1 } ∧ t.cur = s.cur ∧ t.waves = s.waves ∧ t.hostMem = s.hostMem) ∧
  (∀ md p rest q a, (getMd s md).pieces = p :: rest → findNm s p.core p.op = some q → engineMayStart s q.wave p.op = true →
    (getMd s md).unreachable = false → p.src = some a → p.done = [] → 64 ∣ p.len → memWf s.mem = true →
    let n := p.len / 64
    let D := span (p.dst / 64) n
    let S := span (a / 64) n
    let home := fun x => (getMd s (homeUnit x)).unreachable = false ∧ (getHome s x).own = true ∧ hostFree s x = true
    let poisoned := fun xs : List Nat => (xs.filter fun x => (getHome s x).poison).length
    let word := fun (x k : Nat) => (homeData s x).extractLsb' (32 * k) 32
    let ends := fun (t : State) (r : Word) (np : Nat) => findNm t p.core p.op = some { q with left := q.left - 1, result := r, npois := q.npois + np } ∧
      t.cur = s.cur ∧ t.waves = s.waves ∧ t.hostMem = s.hostMem
    (∀ x ∈ D, home x) → (∀ x ∈ S, home x) →
    (q.fn = 2 → ∃ t r, exec (.nmopPiece md) s = .next t ∧ t.mem = s.mem ∧ ends t r (poisoned D + poisoned S) ∧
      let differs := fun j => word (p.dst / 64 + j / 16) (j % 16) ≠ word (a / 64 + j / 16) (j % 16)
      ((∀ j < 16 * n, ¬differs j) → r = q.result) ∧
      (∀ j < 16 * n, differs j → (∀ i < j, ¬differs i) → r.toNat = min q.result.toNat (p.rel + 4 * j))) ∧
    (q.fn = 1 ∨ q.fn = 3 → Gathers s D → (∀ x ∈ D, x ∉ S) → ∃ t, exec (.nmopPiece md) s = .next t ∧ OnlySectors s t D ∧
      ends t q.result (if q.fn = 1 then poisoned S else poisoned D + poisoned S) ∧
      ∀ i < n, let d := p.dst / 64 + i
        let x := a / 64 + i
        let pois := (getHome s x).poison || (q.fn == 3 && (getHome s d).poison)
        (getHome t d).poison = pois ∧ ∀ k < 16, (homeData t d).extractLsb' (32 * k) 32 = if pois then 0xFFFFFFFF
          else if q.fn = 1 then word x k else BitVec.ofNat 32 (redWord q.red (word d k).toNat (word x k).toNat))) ∧
  (∀ c n q v o fl, findNm s c n = some q → q.left = 0 → Pending s q.wave v n o fl → (getBlock s q.blk).map (·.core) = some c →
    memWf (getCore s c).scr = true → ∃ t, exec (.nmopCompletion c n) s = .next t ∧ Finished t q.wave v n fl ∧
      findNm t c n = none ∧ t.mem = s.mem ∧ t.hostMem = s.hostMem ∧
      ∀ a, memByte (getCore t c).scr a = if q.recAddr ≤ a ∧ a < q.recAddr + 4 then q.result.extractLsb' (8 * (a - q.recAddr)) 8
        else if q.recAddr + 4 ≤ a ∧ a < q.recAddr + 8 then (BitVec.ofNat 32 (min 255 q.npois * 2 ^ 24)).extractLsb' (8 * (a - (q.recAddr + 4))) 8
        else memByte (getCore s c).scr a)

namespace Sys2Proof.Says

/-- A check of a tile instruction in its order: alignment, reserved values, then the ranges. -/
def tileChecks (aligned sized : Bool) (b : Block) (ranges : List (Nat × Nat)) : TileChk :=
  if !aligned then .fault .align 0 else if !sized then .fault .rsvf 0
  else if ranges.all fun r => r.1 + r.2 ≤ b.size then .ok [] else .fault .bounds 0
/-- The words of the tile queue. -/
def TileIssue : Prop := ∀ (s : State) (a : SReg) (c : BitVec 4) (p : BitVec 2) (k : BitVec 3) (fl : FlagN) (la : LaN) (i : Instr)
    (fn : Nat) (ct : BitVec 4) (pl : BitVec 2) (n : Nat) (out : TileChk),
  let w := s.cur
  let b := blockOf s w
  let core := getCore s (coreId w.id)
  let x := scalarNat s a
  let mm := w.a.mmode
  let chk := fun fn => storeChk fn s w b ((List.range 7).map x)
  (i, fn, ct, pl, n, out) ∈ [
    (.mcb k a fl la, 1, k.setWidth 4, 0#2, 1, tileChecks (x 0 % 32 == 0) true b [(x 0, 32)]),
    (.mld a p fl la, 2, 0, p, 2, tileChecks (x 0 % 16 == 0 && x 1 % 16 == 0) (mldRow mm ≤ x 1) b
      [(x 0, (mldRows mm - 1) * x 1 + mldRow mm)]),
    (.mldsw a p fl la, 3, 0, p, 1, tileChecks (x 0 % 4 == 0) true b [(x 0, 64)]),
    (.mldsa a p fl la, 4, 0, p, 1, tileChecks (x 0 % 4 == 0) true b [(x 0, 64)]),
    (.mldc c a p fl la, 5, c, p, 1, tileChecks true (x 0 ≤ 1) b []),
    (.mstc c a p fl la, 6, c, p, 3, tileChecks (x 0 % 16 == 0 && x 1 % 16 == 0)
      (mstcRow mm ≤ x 1 && projected core p == (true, mmWfmt mm, mmCplx mm)) b [(x 0, 63 * x 1 + mstcRow mm)]),
    (.mzero c fl la, 7, c, 0, 0, .ok []), (.mstr c a fl la, 8, c, 0, 7, chk 8), (.mstrs c a fl la, 9, c, 0, 7, chk 9),
    (.mstrx c a fl la, 10, c, 0, 7, chk 10),
    (.mrdc c a fl la, 11, c, 0, 5, tileChecks (x 0 % 4 == 0 && x 1 % 4 == 0 && x 3 % 4 == 0)
      (4 ≤ x 2 && x 2 ≤ 16384 && x 2 % 4 == 0 && x 0 + x 2 ≤ 16384) b [(x 1, x 2), (x 3, 4)]),
    (.mwrc c a fl la, 12, c, 0, 3, tileChecks (x 0 % 4 == 0 && x 1 % 4 == 0)
      (4 ≤ x 2 && x 2 ≤ 16384 && x 2 % 4 == 0 && x 0 + x 2 ≤ 16384) b [(x 1, x 2)]),
    (.msync fl la, 13, 0, 0, 0, .ok [])] →
  Issues i s → w.preempt = false →
  (64 ≤ core.tiles.length → exec i s = .next (stall s)) ∧
  (core.tiles.length < 64 →
    (∀ cause ad, out = .fault cause ad → exec i s = .next (parkActive s cause ad)) ∧
    (∀ id, out = .wait id → exec i s = .next (holdMigration s id)) ∧ (∀ ps, out = .walks ps → exec i s = .next (waitWalks s ps)) ∧
    (∀ dest, out = .ok dest → ∃ t o q tlb, exec i s = .next t ∧ t.cur = (acceptedTo s w.a fl o).cur ∧ o.kind = .tile ∧
      t.mem = s.mem ∧ t.hostMem = s.hostMem ∧ t.waves = s.waves ∧
      getCore t (coreId w.id) = { core with tiles := core.tiles ++ [q], tlb := tlb } ∧ (dest = [] → tlb = core.tlb) ∧
      (q.op, q.wave, q.blk, q.flag, q.mmode, q.base, q.pc) = (s.nextId, w.id, w.blk, fl.toNat, mm, b.base, w.a.pc) ∧
      (q.fn.toNat, q.ct, q.pl, q.dest, q.started) = (fn, ct, pl, dest, false) ∧ q.scal.map (·.toNat) = (List.range n).map x))
/-- `msetm`. -/
def TileMode : Prop := ∀ (s : State) (a : SReg) (fl : FlagN) (la : LaN), Issues (.msetm a fl la) s → s.cur.preempt = false →
  (getCore s (coreId s.cur.id)).tiles.length < 64 → ∀ o, legalMmode (readS s.cur.a a) = o →
  (o = none ∨ (∃ m, o = some m ∧ mmodePass m = false) → exec (.msetm a fl la) s = .next (trapAt s .rsvf)) ∧
  (∀ m, o = some m → mmodePass m = true → ∃ t, exec (.msetm a fl la) s = .next t ∧
    t.cur = (after s (onward { s.cur.a with mmode := m })).cur ∧ t.mem = s.mem ∧ t.cores = s.cores ∧ t.waves = s.waves)
/-- The row of bytes, as a number, that a tile store makes of row m of a tile, and the scale bytes of its two blocks (R331, R332). -/
def outRow (k : Core) (q : TileTask) (m : Nat) : Nat × List Nat :=
  let f := stFmt q.sc
  let word := fun e => memNat k.acc (0x4000 * q.ct.toNat + 256 * m + 4 * e) 4
  let value := fun e => fdec .fp32 false (word e)
  let block := fun j => mxBlock f ((List.range 32).map fun e => value (32 * j + e))
  if q.fn = 8 then (packRow 32 ((List.range 64).map word), [])
  else if q.fn = 9 then (packRow (outWidth f) ((List.range 64).map fun e => outElem f (scaleVal (value e) (stExp q.sc))), [])
  else (packRow (outWidth f) ((block 0).2 ++ (block 1).2), [(block 0).1, (block 1).1])
/-- A store task as the checks of its instruction leave it. -/
def StoreTask (q : TileTask) : Prop :=
  8 ≤ q.fn.toNat ∧ q.fn.toNat ≤ 10 ∧ stRow q.sc ≤ stPitch q.sc ∧ (q.fn = 8 → stFmt q.sc = 0)
/-- A tile store to an object, once its die may write every sector: each row goes to the place of its offset, and so do the scales. -/
def TileObjectStore : Prop := ∀ (s u : State) (c : CoreId) (n : Nat) (q : TileTask),
  let k := getCore s c
  let rows := (List.range 64).flatMap fun m => (stOff q.sc + m * stPitch q.sc, bytesOf (stRow q.sc) (outRow k q m).1) ::
    (if q.fn = 10 then [(stOff q.sc + stZ q.sc + 2 * m, (outRow k q m).2.map (BitVec.ofNat 8))] else [])
  let places := rows.flatMap fun r => r.2.zipIdx.map fun b => (destPlace q.dest (r.1 + b.2), b.1, false)
  findTask s c n = some q → q.started = false → enginesRun s c q = true → taskChosen s k q = true → q.saved = false → q.put = [] →
  StoreTask q → stObj q.sc = true → k.accPoison.getLsbD q.ct.toNat = false →
  (∀ p ∈ places, ∀ ctx, lostHome s (pkgOf c.cd) ctx p.1 = false) → engWrite s c.cd places = (true, u) →
  ∃ t e, exec (.tileTaskStart c n) s = .next t ∧ engineFor k q = some e ∧ findTask t c n = some { q with started := true, engine := e } ∧
    t.mem = u.mem ∧ t.hostMem = u.hostMem ∧ (∀ cd j, getSec t cd j = getSec u cd j) ∧ t.cur = u.cur ∧ (getCore t c).scr = k.scr
/-- What a task does to the core when it starts. -/
def TileStart : Prop := ∀ (s : State) (c : CoreId) (n : Nat) (q : TileTask),
  let k := getCore s c
  findTask s c n = some q → q.started = false → enginesRun s c q = true → taskChosen s k q = true → q.saved = false → q.got = [] → q.put = [] →
  memWf k.scr = true → memWf k.acc = true →
  let at_ := 0x4000 * q.ct.toNat
  let x := fun j => (q.scal.getD j 0).toNat
  (q.fn.toNat ∈ [5, 8, 9, 10, 11] → k.accPoison.getLsbD q.ct.toNat = false) → (8 ≤ q.fn.toNat ∧ q.fn.toNat ≤ 10 → stObj q.sc = false) →
  q.fn ≠ 6 → ∃ t, exec (.tileTaskStart c n) s = .next t ∧ t.cur = s.cur ∧ t.waves = s.waves ∧ t.mem = s.mem ∧ t.hostMem = s.hostMem ∧
    (∃ e, engineFor k q = some e ∧ findTask t c n = some { q with started := true, engine := e }) ∧
    (q.fn = 7 → ∀ a, memByte (getCore t c).acc a = if at_ ≤ a ∧ a < at_ + 0x4000 then 0 else memByte k.acc a) ∧
    (q.fn = 12 → ∀ a, memByte (getCore t c).acc a =
      if at_ + x 0 ≤ a ∧ a < at_ + x 0 + x 2 then scrByte k (q.base + x 1 + (a - (at_ + x 0))) else memByte k.acc a) ∧
    (q.fn = 11 → ∀ a, memByte (getCore t c).scr a =
      if q.base + x 1 ≤ a ∧ a < q.base + x 1 + x 2 then memByte k.acc (at_ + x 0 + (a - (q.base + x 1))) else memByte k.scr a) ∧
    (q.fn = 1 → ∀ (e : Fin 8), e.val = q.ct.toNat % 8 →
      (getCore t c).cbs[e].toNat = leNat ((List.range 32).map fun i => scrByte k (q.base + x 0 + i))) ∧
    (∀ (e : Fin 4), e.val = q.pl.toNat →
      (q.fn = 3 → (getCore t c).planes[e].ws.toNat = leNat ((List.range 64).map fun i => scrByte k (q.base + x 0 + i))) ∧
      (q.fn = 4 → (getCore t c).planes[e].as.toNat = leNat ((List.range 64).map fun i => scrByte k (q.base + x 0 + i))) ∧
      (q.fn = 2 ∨ q.fn = 5 → (getCore t c).planes[e].v = true ∧ (getCore t c).planes[e].wfmt.toNat = mmWfmt q.mmode ∧
        (getCore t c).planes[e].cplx = mmCplx q.mmode ∧ (getCore t c).planes[e].ws = scaleOnes ∧ (getCore t c).planes[e].as = scaleOnes) ∧
      (q.fn = 5 → ∀ ty, mmFloat (mmWfmt q.mmode) = some ty → ∀ r : Fin 32, (getCore t c).planes[e].rows[r].toNat =
        packRow (mmWidth (mmWfmt q.mmode)) ((List.range 64).map fun j =>
          tileCvt ty (fdec .fp32 false (memNat k.acc (at_ + 256 * (32 * x 0 + r.val) + 4 * j) 4))) % 2 ^ 1024) ∧
      (q.fn = 2 → ∀ (r : Fin 32), r.val < mldRows q.mmode →
        (getCore t c).planes[e].rows[r].toNat = leNat ((List.range (mldRow q.mmode)).map fun i => scrByte k (q.base + x 0 + r.val * x 1 + i)))) ∧
    (StoreTask q → (q.fn = 10 → 63 * stPitch q.sc + stRow q.sc ≤ stZ q.sc) → ∀ a,
      (∀ m < 64, ∀ i < stRow q.sc, a = q.base + stOff q.sc + m * stPitch q.sc + i →
        memByte (getCore t c).scr a = BitVec.ofNat 8 ((outRow k q m).1 >>> (8 * i))) ∧
      (q.fn = 10 → ∀ m < 64, ∀ i < 2, a = q.base + stOff q.sc + stZ q.sc + 2 * m + i →
        memByte (getCore t c).scr a = BitVec.ofNat 8 ((outRow k q m).2.getD i 0)) ∧
      ((∀ m < 64, ∀ i < stRow q.sc, a ≠ q.base + stOff q.sc + m * stPitch q.sc + i) →
        (q.fn = 10 → ∀ i < 128, a ≠ q.base + stOff q.sc + stZ q.sc + i) → memByte (getCore t c).scr a = memByte k.scr a))
/-- A pass, row group by row group. -/
def TilePass : Prop := ∀ (s : State) (c : CoreId) (n : Nat) (q : TileTask),
  let k := getCore s c
  findTask s c n = some q → q.fn = 6 → enginesRun s c q = true → memWf k.acc = true → q.progress < 8 → q.got = [] →
  (q.started = true ∧ (∀ b, getBlock s q.blk = some b → b.state ≠ .stopping)) ∨ (q.started = false ∧ taskChosen s k q = true ∧ q.saved = false) →
  ∃ t, exec (.tileTaskStart c n) s = .next t ∧ t.cur = s.cur ∧ t.waves = s.waves ∧ t.mem = s.mem ∧
    (∃ e, (if q.started then e = q.engine else engineFor k q = some e) ∧
      findTask t c n = some { q with started := true, engine := e, progress := q.progress + 1 }) ∧ (getCore t c).scr = k.scr ∧
    let args : PassArgs := ⟨q.mmode, k.planes.toArray.getD q.pl.toNat {}, k.cbs.toArray.getD (mmKslot q.mmode) 0⟩
    ∀ m < 64, ∀ e < 64,
      let old := memNat k.acc (0x4000 * q.ct.toNat + 256 * m + 4 * e) 4
      memNat (getCore t c).acc (0x4000 * q.ct.toNat + 256 * m + 4 * e) 4 = if m / 8 = q.progress
        then args.element m (scrNat k (q.base + q.x 0 + m * q.x 1) (mstcRow q.mmode)) (liveSlice q q.progress) old e % 2 ^ 32 else old
/-- The completion of a task. -/
def TileEnd : Prop := ∀ (s : State) (c : CoreId) (n : Nat) (q : TileTask) (v : Wave) (o : Op) (fl : Fin 12),
  findTask s c n = some q → q.started = true → (q.fn = 6 → 8 ≤ q.progress) → Pending s q.wave v n o fl →
  memWf (getCore s c).scr = true →
  let word := fun j => (q.scal.getD j 0).toNat
  let wr : Option (Nat × Nat) := if q.fn.toNat ∈ [8, 9, 10] then some (word 5, word 6) else if q.fn = 11 then some (word 3, word 4) else none
  ∃ t, exec (.tileTaskCompletion c n) s = .next t ∧ Finished t q.wave v n fl ∧ findTask t c n = none ∧ t.mem = s.mem ∧
    (getCore t c).acc = (getCore s c).acc ∧ ∀ a, memByte (getCore t c).scr a = match wr with
      | some (off, x) => if q.base + off ≤ a ∧ a < q.base + off + 4 then BitVec.ofNat 8 (x >>> (8 * (a - (q.base + off))))
        else memByte (getCore s c).scr a
      | none => memByte (getCore s c).scr a

end Sys2Proof.Says

/-- R316 to R318, R321 to R326, R329, R330, R333, R325: a tile instruction waits for a place in the queue, parks on the first
check that fails, waits for walks and for a moving page, else its task joins the queue with its scalars as they stand; `msetm` sets MMODE at once.
Rests on the model's choices of log entry 39. -/
def Sys2Proof.Says.TileInstructions : Prop := TileIssue ∧ TileMode
/-- R321 to R332, R318, R320, R128: what tile tasks do to tiles, planes, slots, the scratchpad and objects as they start, each element
of a pass, and the completion that writes the word, frees the queue entry and counts the flag down.
Rests on the model's choices of log entries 3, 38. -/
def Sys2Proof.Says.TileTasks : Prop := TileStart ∧ TileObjectStore ∧ TilePass ∧ TileEnd

/-- R202, R327: a new element of a pass, where all that enters is finite: the old element and the products of the K-slices that are
not skipped, with their scales, or in complex mode the four products of each pair, are summed exactly and rounded once to FP32, to
nearest even; an exact zero is −0 only where every term is. A NaN in the old element stays. -/
def Sys2Proof.Says.PassElement : Prop := ∀ (p : PassArgs) (m row acc n : Nat) (live : Nat → Bool) (x : Nat → Bool × Nat × Int)
    (y : Nat → Nat → Bool × Nat × Int) (z : Bool × Nat × Int),
  let near : Rnd := { rm := 0, sat := false, ftz := false, rnd := 0 }
  let val := fun v : Bool × Nat × Int => FVal.fin v.1 v.2.1 v.2.2
  let f := mmAfmt p.mm
  let scaleExp := fun (on : Bool) (r : BitVec 512) (j : Nat) => if on then ((r.extractLsb' (8 * j) 8).toNat : Int) - 127 else 0
  let scaled := fun (on : Bool) (r : BitVec 512) (j : Nat) => on = true → (r.extractLsb' (8 * j) 8).toNat ≠ 255
  let sa := mmAscl p.mm == 1
  let sw := mmWscl p.mm == 1
  let times := fun (s : Int) (a b : Bool × Nat × Int) => (a.1 != b.1, a.2.1 * b.2.1, a.2.2 + b.2.2 + s)
  let minus := fun a : Bool × Nat × Int => (!a.1, a.2.1, a.2.2)
  let rounds := fun terms : List (Bool × Nat × Int) =>
    let g := terms.foldl (fun e t => min e t.2.2) (min 0 z.2.2)
    let sum := units g z.1 z.2.1 z.2.2 + (terms.map fun t => units g t.1 t.2.1 t.2.2).sum
    (sum ≠ 0 → p.element m row live acc n = (roundF .fp32 near (decide (sum < 0)) sum.natAbs g).1) ∧
    (sum = 0 → p.element m row live acc n = if (z :: terms).all fun t => t.1 && t.2.1 == 0 then 0x80000000 else 0)
  (∀ sig, fdec .fp32 false acc = .nan sig → p.element m row live acc n = 0x7FC00000) ∧
  (fdec .fp32 false acc = val z → (∀ j < 32, live (j / 8) = true → mmElem f 0 (row / 2 ^ (mmWidth f * j) % 2 ^ mmWidth f) = val (x j)) →
    (mmCplx p.mm = false → scaled sa p.plane.as m → scaled sw p.plane.ws n →
      (∀ j < 32, live (j / 8) = true → p.weight j n = val (y j 0)) →
      rounds (((List.range 32).filter fun j => live (j / 8)).map fun j =>
        times (scaleExp sa p.plane.as m + scaleExp sw p.plane.ws n) (x j) (y j 0))) ∧
    (mmCplx p.mm = true →
      (∀ k < 16, live (2 * k / 8) = true → ∀ c < 2, p.weight k (2 * (n / 2) + c) = val (y k c)) →
      rounds (((List.range 16).filter fun k => live (2 * k / 8)).flatMap fun k =>
        if n % 2 = 0 then [times 0 (x (2 * k)) (y k 0), minus (times 0 (x (2 * k + 1)) (y k 1))]
        else [times 0 (x (2 * k)) (y k 1), times 0 (x (2 * k + 1)) (y k 0)])))

/-! ## Token coherence -/

namespace Sys2Proof.Says

/-- Message n of the network is m, it has come to the package of its destination, and that takes it: a compute die that runs, or a
memory-side die that serves (R83, R105, R387). -/
def Arrives (s : State) (n : Nat) (m : Msg) : Prop :=
  s.net[n]? = some m ∧ m.dst < 0x100000 ∧ arrived m = true ∧ fromRemoved s m = false ∧
  (isCd m.dst = true → (getCd s m.dst).power = .run ∧ (getCd s m.dst).unreachable = false) ∧
  (isCd m.dst = false → mdUp s m.dst = true)
/-- The network after message n has been taken and others have been sent. -/
def netTo (s : State) (n : Nat) (ms : List Msg) : List Msg := dropAt n s.net ++ ms
/-- The data that a die's sector answers with. -/
def secData (e : DieSector) : BitVec 512 := if e.poison then ones512 else e.data
/-- The message that carries all that a die's sector holds. -/
def wholeTok (e : DieSector) (src dst x : Nat) (tag : BitVec 12) (win : Bool) : Msg :=
  { src := src, dst := dst, body := .tok x e.serial e.tokens e.own (if e.own then some (secData e) else none) (e.own && e.modified)
      (e.own && e.poison) tag win }
/-- Waves, memory of the host and scratchpads are as before. -/
def OnlyCoherence (s t : State) : Prop :=
  t.cur = s.cur ∧ t.waves = s.waves ∧ t.hostMem = s.hostMem ∧ t.cores = s.cores ∧ t.blocks = s.blocks ∧ t.ctxs = s.ctxs
/-- A die answers requests for a sector: it holds tokens, no census and no trump request holds them back (R86, R91, R93). -/
def Serves (e : DieSector) : Prop := e.frozen = false ∧ e.act = none ∧ e.tokens ≠ 0
/-- The host holds nothing of a sector, nor has it to be asked first: its page has device bias and is in no flip (R381, R384). -/
def NoHost (s : State) (x : Nat) : Prop :=
  inFlip s x = false ∧ hostBiased s x = false ∧ (getHome s x).biOwed = 0 ∧ (getHome s x).hostHeld = false
/-- A request reaches a die, or the sector's home. -/
def TokenRequests : Prop := ∀ (s : State) (n : Nat) (m : Msg) (x req : Nat) (tag : BitVec 12), Arrives s n m → req ≠ m.dst →
  let e := getSec s m.dst x
  let h := getHome s x
  let u := homeUnit x
  let give := wholeTok e m.dst req x tag false
  let homeGive : Msg := { src := u, dst := req, body := (.tok x h.serial h.tokens h.own (if h.own then some (homeData s x) else none)
      false (h.own && h.poison) tag false) }
  let atHome := m.dst = u ∧ isCd m.dst = false ∧ NoHost s x ∧ h.trump = none ∧
    h.frozen = false ∧ h.pod = false ∧ h.tokens ≠ 0
  (m.body = .rdreq x req tag → isCd m.dst = true → Serves e → e.own = true → ∃ t, exec (.rdreq n) s = .next t ∧ OnlyCoherence s t ∧
    t.mem = s.mem ∧
    (1 < e.tokens → getSec t m.dst x = { e with tokens := e.tokens - 1 } ∧ t.net = netTo s n
      [{ src := m.dst, dst := req, body := .tok x e.serial 1 false (some (secData e)) false e.poison tag false }]) ∧
    (e.tokens = 1 → (getSec t m.dst x).tokens = 0 ∧ (getSec t m.dst x).valid = false ∧ t.net = netTo s n [give])) ∧
  (m.body = .rdreq x req tag → isCd m.dst = true → Serves e → e.own = false → ∃ t, exec (.rdreq n) s = .next t ∧
    OnlyCoherence s t ∧ t.mem = s.mem ∧ t.sectors = s.sectors ∧ t.net = netTo s n []) ∧
  (m.body = .wrreq x req tag → isCd m.dst = true → Serves e → ∃ t, exec (.wrreq n) s = .next t ∧ OnlyCoherence s t ∧ t.mem = s.mem ∧
    (getSec t m.dst x).tokens = 0 ∧ (getSec t m.dst x).own = false ∧ (getSec t m.dst x).valid = false ∧ t.net = netTo s n [give]) ∧
  (m.body = .rdreq x req tag → atHome → h.own = true → 1 < h.tokens → ∃ t, exec (.rdreq n) s = .next t ∧ OnlyCoherence s t ∧
    t.mem = s.mem ∧ getHome t x = { h with tokens := h.tokens - 1 } ∧ t.net = netTo s n
      [{ src := u, dst := req, body := .tok x h.serial 1 false (some (homeData s x)) false h.poison tag false }]) ∧
  (m.body = .wrreq x req tag → atHome → ∃ t, exec (.wrreq n) s = .next t ∧ OnlyCoherence s t ∧ t.mem = s.mem ∧
    getHome t x = { h with tokens := 0, own := false } ∧ t.net = netTo s n [homeGive])
/-- Tokens reach a die, or the sector's home. -/
def TokenArrivals : Prop := ∀ (s : State) (n : Nat) (m : Msg) (x c : Nat) (ser : BitVec 16) (own md p win : Bool)
    (d : Option (BitVec 512)) (tag : BitVec 12), Arrives s n m → m.body = .tok x ser c own d md p tag win →
  let e := getSec s m.dst x
  let h := getHome s x
  let asked := win = true ∨ ∃ r, e.req = some r ∧ r.tag = tag
  let stale := ∃ o, e.newest = some o ∧ newer o ser = true
  ∃ t, exec (.tok n) s = .next t ∧ t.cur = s.cur ∧ t.waves = s.waves ∧ t.hostMem = s.hostMem ∧
  (isCd m.dst = true → ¬asked →
    t.net = netTo s n [{ src := m.dst, dst := homeUnit x, body := m.body }] ∧ t.mem = s.mem ∧
    getSec t m.dst x = { e with newest := some (match e.newest with
      | some o => if newer ser o then ser else o
      | none => ser) } ∧
    ∀ cd y, (cd, y) ≠ (m.dst, x) → getSec t cd y = getSec s cd y) ∧
  (isCd m.dst = true → asked → stale → t.net = netTo s n [] ∧ t.sectors = s.sectors ∧ t.mem = s.mem ∧
    ((∃ q ∈ s.cds, q.unit = m.dst) → (getCd t m.dst).stale.toNat = min 0xFFFF ((getCd s m.dst).stale.toNat + c))) ∧
  (isCd m.dst = true → asked → ¬stale → e.frozen = false → e.act = none → (e.tokens = 0 ∨ newer ser e.serial = false) →
    let e' := getSec t m.dst x
    e'.tokens = e.tokens + c ∧ e'.own = (e.own || own) ∧ e'.serial = ser ∧ e'.newest = some ser ∧
    (∀ v, d = some v → e'.data = v ∧ e'.valid = true ∧ e'.poison = p) ∧ t.mem = s.mem ∧ t.net = netTo s n [] ∧
    (∀ r, e.req = some r → r.trump = false → ((if r.wr then canWrite e' else canRead e') = true → e'.req = none) ∧
      ((if r.wr then canWrite e' else canRead e') = false → e'.req = some r))) ∧
  (isCd m.dst = false → ser ≠ h.serial → t.net = netTo s n [] ∧ t.homes = s.homes ∧ t.sectors = s.sectors ∧ t.mem = s.mem ∧
    (∀ q ∈ s.mds, m.dst = homeUnit x → q.unit = m.dst → m.dst < 0x100000 →
      (getMd t m.dst).stale.toNat = min 0xFFFF ((getMd s m.dst).stale.toNat + c))) ∧
  (isCd m.dst = false → m.dst = homeUnit x → ser = h.serial → h.frozen = false → h.trump = none → (getMd s m.dst).flip = none →
    (getHome t x).tokens = h.tokens + c ∧ (getHome t x).own = (h.own || own) ∧ t.sectors = s.sectors ∧
    (∀ v, d = some v → own = true → memWf s.mem = true → memNat t.mem (64 * x) 64 = v.toNat ∧ (getHome t x).poison = p ∧
      OnlySectors s t [x]) ∧ (own = false → t.mem = s.mem))
/-- What the messages of a trump request do at a die. -/
def TrumpAtDie : Prop := ∀ (s : State) (n : Nat) (m : Msg) (x w : Nat) (ser : BitVec 16), Arrives s n m → isCd m.dst = true →
  let e := getSec s m.dst x
  let ack : Msg := { src := m.dst, body := .ack x m.dst
                     dst := if pkgOf m.dst = pkgOf (homeUnit x) ∧ (getHome s x).pod = false then homeUnit x
                       else iodUnit (pkgOf m.dst) 0 }
  (m.body = .act x w ser → w ≠ m.dst → ∃ t, exec (.act n) s = .next t ∧ OnlyCoherence s t ∧ t.mem = s.mem ∧
    (getSec t m.dst x).act = some w ∧ (getSec t m.dst x).tokens = 0 ∧
    t.net = netTo s n ((if e.tokens = 0 then [] else [wholeTok e m.dst w x 0 true]) ++ [ack])) ∧
  (m.body = .deact x w ser → ∃ t, exec (.deact n) s = .next t ∧ OnlyCoherence s t ∧ t.mem = s.mem ∧
    (getSec t m.dst x).act = none ∧ (getSec t m.dst x).tokens = e.tokens ∧ t.net = netTo s n [ack]) ∧
  (m.body = .census x ser → ∃ t, exec (.census n) s = .next t ∧ OnlyCoherence s t ∧ t.mem = s.mem ∧
    (getSec t m.dst x).frozen = true ∧ (getSec t m.dst x).tokens = e.tokens ∧
    (e.serial = ser → e.tokens ≠ 0 → t.net = netTo s n [
      { src := m.dst, dst := homeUnit x, body := (.report x m.dst ser e.tokens e.own e.valid (if e.own then secData e else 0)
        (e.own && e.poison)) }, ack]) ∧
    (e.serial ≠ ser ∨ e.tokens = 0 → t.net = netTo s n
      [{ src := m.dst, dst := homeUnit x, body := .report x m.dst ser 0 false false 0 false }, ack])) ∧
  (m.body = .rebuild x ser → e.heldReqs = [] → ∃ t, exec (.rebuild n) s = .next t ∧ OnlyCoherence s t ∧
    t.mem = s.mem ∧ (getSec t m.dst x).frozen = false ∧
    let k := if e.serial = ser then e.tokens else 0
    let gathered := fun r : DieReq => ({ src := m.dst, dst := homeUnit x, body := .gathered x m.dst r.tag } : Msg)
    let release := fun r : DieReq => ({ src := m.dst, dst := homeUnit x, body := .release x m.dst r.tag } : Msg)
    (e.act = none → (getSec t m.dst x).tokens = k ∧ t.net = netTo s n [ack]) ∧
    (∀ v, e.act = some v → v ≠ m.dst → (getSec t m.dst x).tokens = 0 ∧
      t.net = netTo s n ((if k = 0 then [] else [wholeTok e m.dst v x 0 true]) ++ [ack])) ∧
    (e.act = some m.dst → (getSec t m.dst x).tokens = k ∧
      (e.req = none ∨ k ≠ 64 → t.net = netTo s n [ack]) ∧
      ∀ r, e.req = some r → k = 64 →
        (r.trump = false → t.net = netTo s n [ack]) ∧
        (r.trump = true → r.done = false → t.net = netTo s n [gathered r, ack]) ∧
        (r.trump = true → r.done = true → t.net = netTo s n [gathered r, release r, ack] ∧ (getSec t m.dst x).req = none))) ∧
  (∀ r, e.req = some r →
    (m.body = .wakepend x → ∃ t, exec (.wakepend n) s = .next t ∧ OnlyCoherence s t ∧ t.net = netTo s n [] ∧ t.mem = s.mem ∧
      getSec t m.dst x = { e with req := some { r with wakes := if m.src ∈ r.wakes ∨ m.src ∈ r.spent then r.wakes else r.wakes ++ [m.src] } }) ∧
    (m.body = .holdreply x → ∃ t, exec (.holdreply n) s = .next t ∧ OnlyCoherence s t ∧ t.net = netTo s n [] ∧ t.mem = s.mem ∧
      getSec t m.dst x = if stillHolds s m.src x then { e with req := some { r with hold := true } } else e)) ∧
  (∀ q, m.body = .dataReq x ser → (getHome s x).trump = some q → q.phase = .fetch m.dst → memWf s.mem = true → ∃ t, exec (.reshuffleDataRequest n) s = .next t ∧ OnlyCoherence s t ∧
      (getHome t x).serial = (getHome s x).serial + 1 ∧ (getHome t x).tokens = 64 ∧ (getHome t x).own = true ∧
      memNat t.mem (64 * x) 64 = (secData e).toNat ∧ (getHome t x).poison = e.poison ∧ OnlySectors s t [x])
/-- What they do at the home. -/
def TrumpAtHome : Prop := ∀ (s : State) (n : Nat) (m : Msg) (x w : Nat) (tag : BitVec 12), Arrives s n m → isCd m.dst = false →
  let h := getHome s x
  let ds := groupDies s x
  (m.body = .trumpreq x w tag → NoHost s x → h.trump = none → h.waiting = [] → h.round = [] → h.pod = false → w ≠ homeUnit x → h.tokens = 0 → ds ≠ [] →
    ∃ t, exec (.trumpreq n) s = .next t ∧ OnlyCoherence s t ∧ t.mem = s.mem ∧ (∃ q, (getHome t x).trump = some q ∧
      (q.winner, q.tag, q.phase, q.owed, q.gathered, q.released) = (w, tag, .act, ds, false, false)) ∧
      t.net = netTo s n (ds.map fun d => { src := homeUnit x, dst := d, body := .act x w h.serial })) ∧
  (m.body = .trumpreq x w tag → NoHost s x → h.trump ≠ none → ∃ t, exec (.trumpreq n) s = .next t ∧ OnlyCoherence s t ∧ t.mem = s.mem ∧
    (getHome t x).trump = h.trump ∧ (w, tag) ∈ (getHome t x).waiting ∧ t.net = netTo s n []) ∧
  (∀ q, h.trump = some q →
    (m.body = .gathered x w tag → ∃ t, exec (.gathered n) s = .next t ∧ OnlyCoherence s t ∧ t.mem = s.mem ∧
      (getHome t x).trump = some (if q.winner = w ∧ q.tag = tag then { q with gathered := true } else q) ∧ t.net = netTo s n []) ∧
    (m.body = .release x w tag → q.winner = w → q.tag = tag → q.phase = .gather → h.pod = false → ds ≠ [] → ∃ t, exec (.release n) s = .next t ∧
      OnlyCoherence s t ∧ t.mem = s.mem ∧ (getHome t x).trump = some { q with phase := .deact, owed := ds } ∧
      t.net = netTo s n (ds.map fun d => { src := homeUnit x, dst := d, body := .deact x w h.serial })) ∧
    (∀ die, m.body = .ack x die → q.owed.filter (· != die) ≠ [] → (getMd s (homeUnit x)).flip = none →
      ∃ t, exec (.coherenceAck n) s = .next t ∧ OnlyCoherence s t ∧ t.mem = s.mem ∧ t.net = netTo s n [] ∧
      (die ∈ q.owed → (getHome t x).trump = some { q with owed := q.owed.filter (· != die) })) ∧
    (∀ die, m.body = .ack x die → q.owed = [die] → q.phase = .act → q.released = false → (getMd s (homeUnit x)).flip = none →
      ∃ t, exec (.coherenceAck n) s = .next t ∧ OnlyCoherence s t ∧ t.mem = s.mem ∧ t.net = netTo s n [] ∧
      (getHome t x).trump = some { q with phase := .gather, owed := [] }) ∧
    (∀ die ser c own valid d p, m.body = .report x die ser c own valid d p → q.phase = .census → die ∈ q.due → q.owed ≠ [] →
      ∃ t, exec (.report n) s = .next t ∧ OnlyCoherence s t ∧ t.mem = s.mem ∧ t.net = netTo s n [] ∧ (getHome t x).trump =
        some { q with due := q.due.filter (· != die), reports := q.reports ++ [⟨die, c, own, valid, d, p⟩] }) ∧
    (∀ die c own valid d p, m.body = .late x die h.serial c own valid d p → q.phase = .settle →
      ∃ t, exec (.late n) s = .next t ∧ OnlyCoherence s t ∧ t.mem = s.mem ∧ t.net = netTo s n [] ∧
      (getHome t x).trump = some { q with reports := q.reports ++ [⟨die, c, own, valid, d, p⟩] }))
/-- The data with which a settled home reshuffles a sector, its poison, and whether the data is lost: its own under the owner token,
else that of a report with the owner token; where no report is of valid data at a die that can still be reached the sector is lost (R94, R95). -/
def Settles (s : State) (x : Nat) (q : Trump) (d : BitVec 512) (p lost : Bool) : Prop :=
  let h := getHome s x
  (h.own = true ∧ d = homeData s x ∧ p = h.poison ∧ lost = false) ∨
  (h.own = false ∧ (∃ r, q.reports.find? (·.own) = some r ∧ d = r.data ∧ p = r.poison) ∧ lost = false) ∨
  (h.own = false ∧ (∀ r ∈ q.reports, r.own = false ∧ (r.valid = false ∨ winnerReachable s x r.die = false)) ∧ d = ones512 ∧ p = true ∧ lost = true)
/-- A failed flit is retried 8 times inside a package and 16 times on a fabric link; then it is dropped, tokens it carried are in a
loss log, and the link that dropped it has it in its log and retrains (R85, R385). -/
def FlitFailures : Prop := ∀ (s : State) (n : Nat) (m : Msg), s.net[n]? = some m →
  let p := msgPkg m
  (m.retries < (if arrived m then 8 else 16) → arrived m = true ∨ (unroutable s m = false ∧ hopsOf s m ≠ []) →
    exec (.flitCrcFailure n) s = .next { s with net := s.net.set n { m with retries := m.retries + 1 } }) ∧
  (arrived m = true → 8 ≤ m.retries → ∃ t, exec (.flitCrcFailure n) s = .next t ∧ t.net = dropAt n s.net ∧ OnlyCoherence s t ∧
    t.mem = s.mem ∧ ∀ y ser c own d md po tag w, m.body = .tok y ser c own d md po tag w → m.pos = none → isCd m.src = true →
      (∃ q ∈ s.cds, q.unit = m.src) → (getCd t m.src).lossLog = (getCd s m.src).lossLog ++ [y]) ∧
  (arrived m = false → unroutable s m = false → hopsOf s m ≠ [] → 16 ≤ m.retries → (∃ q ∈ s.pkgs, q.id = p) →
    ∃ t l, exec (.flitCrcFailure n) s = .next t ∧ t.net = dropAt n s.net ∧ OnlyCoherence s t ∧ t.mem = s.mem ∧
      (∃ e, (l, e) ∈ hopsOf s m) ∧ (getPkg t p).linkLog = (getPkg s p).linkLog ++ [l] ∧
      (∀ k ∈ (getPkg t p).links, k.id = l → k.training = k.up) ∧
      ∀ y ser c own d md po tag w, m.body = .tok y ser c own d md po tag w →
        (getPkg t p).lossLog = (getPkg s p).lossLog ++ [y])
/-- What the timers of requests, censuses and links do. -/
def CoherenceTimers : Prop := ∀ (s : State) (cd x : Nat),
  let e := getSec s cd x
  let h := getHome s x
  let ds := groupDies s x
  (∀ r, e.req = some r → r.wakes = [] → r.hold = false → r.trump = false →
    (r.reissues < 2 → ∃ t, exec (.reissueTimerExpiry cd x) s = .next t ∧ OnlyCoherence s t ∧ t.mem = s.mem ∧
      getSec t cd x = { e with req := some { r with reissues := r.reissues + 1 } } ∧
      (∃ q ∈ t.net.drop s.net.length, q.src = cd ∧ q.dst = homeUnit x ∧
        q.body = if r.wr then .wrreq x cd r.tag else .rdreq x cd r.tag)) ∧
    (2 ≤ r.reissues → ∃ t, exec (.reissueTimerExpiry cd x) s = .next t ∧ OnlyCoherence s t ∧ t.mem = s.mem ∧
      getSec t cd x = { e with req := some { r with trump := true } } ∧
      t.net = s.net ++ [{ src := cd, dst := homeUnit x, body := .trumpreq x cd r.tag }])) ∧
  (∀ r u us, e.req = some r → r.wakes = u :: us → ∃ t, exec (.wakeBudgetExpiry cd x) s = .next t ∧ OnlyCoherence s t ∧ t.mem = s.mem ∧
    getSec t cd x = { e with req := some { r with wakes := us, spent := u :: r.spent } } ∧ t.net = s.net ∧
    ((∃ q ∈ s.cds, q.unit = cd) → (getCd t cd).stall.toNat = min 0xFFFF ((getCd s cd).stall.toNat + 1))) ∧
  (∀ q, h.trump = some q → q.phase = .gather → q.gathered = false → q.hold = false → q.winner ≠ homeUnit x →
    h.hostHeld = false → h.biOwed = 0 → inFlip s x = false → h.pod = false → ds ≠ [] → ∃ t, exec (.censusTimeExpiry x) s = .next t ∧ OnlyCoherence s t ∧ t.mem = s.mem ∧ getHome t x = { h with
      frozen := true, trump := some { q with phase := .census, owed := ds, due := ds, reports := [] } } ∧
      t.net = s.net ++ ds.map fun d => { src := homeUnit x, dst := d, body := .census x h.serial }) ∧
  (∀ q, h.trump = some q → q.phase = .settle → h.pod = false → ds = countedDies s (pkgOf (homeUnit x)) → memWf s.mem = true →
    ∃ t, exec (.settleTimeExpiry x) s = .next t ∧ OnlyCoherence s t ∧
    (h.tokens + (q.reports.map (·.tokens)).sum = 64 → t.mem = s.mem ∧ (getHome t x).serial = h.serial ∧ (getHome t x).frozen = false ∧
      t.net = s.net ++ ds.map fun d => { src := homeUnit x, dst := d, body := .rebuild x h.serial }) ∧
    (h.tokens + (q.reports.map (·.tokens)).sum ≠ 64 → h.own = false → (∀ r ∈ q.reports, r.own = false) →
      ∀ r, leastReport (q.reports.filter fun r => r.valid && winnerReachable s x r.die) = some r → t.mem = s.mem ∧ t.sectors = s.sectors ∧
      getHome t x = { h with trump := some { q with phase := .fetch r.die } } ∧
      t.net = s.net ++ [{ src := homeUnit x, dst := r.die, body := .dataReq x h.serial }]) ∧
    (∀ d p lost, h.tokens + (q.reports.map (·.tokens)).sum ≠ 64 → Settles s x q d p lost →
      memNat t.mem (64 * x) 64 = d.toNat ∧ (getHome t x).poison = p ∧ (∀ k ∉ ds, (getSec t k x).tokens = 0) ∧
      ((∃ m ∈ s.mds, m.unit = homeUnit x) → (getMd t (homeUnit x)).poisoned.toNat =
        min 0xFFFF ((getMd s (homeUnit x)).poisoned.toNat + if lost then 1 else 0)) ∧
      (getHome t x).serial = h.serial + 1 ∧ (getHome t x).tokens = 64 ∧ (getHome t x).own = true ∧ (getHome t x).frozen = false ∧
      OnlySectors s t [x] ∧ t.net = s.net ++ ds.map fun d => { src := homeUnit x, dst := d, body := .rebuild x (h.serial + 1) })) ∧
  (∀ n m, s.net[n]? = some m →
    (∀ y ser c own d md p tag w, m.body = .tok y ser c own d md p tag w → ∃ t, exec (.messageBufferTimeout n) s = .next t ∧
      t.net = dropAt n s.net ∧ OnlyCoherence s t ∧ t.mem = s.mem)) ∧
  (∀ waiter, pkgOf waiter = pkgOf cd → waiter ≠ cd → isCd cd = true → (getCd s cd).present = true → (getCd s cd).unreachable = false →
    (getCd s cd).power = .run → (getCd s cd).held = false → ∃ t, exec (.linkResponseTimeout waiter cd) s = .next t ∧ (getCd t cd).unreachable = true ∧
      (getCd t cd).power = .reset ∧ (∀ w ∈ allWaves t, w.id.cd ≠ cd) ∧ (∀ q ∈ t.sectors, q.cd ≠ cd) ∧ t.hostMem = s.hostMem ∧
      ∃ r ∈ t.faults, r.cause = .unreach ∧ r.vdie = cd % 16 ∧ r.kill = false) ∧
  (∀ q ∈ s.cds, q.unit = cd → (getCd s cd).present = true → (getCd s cd).power = .reset → cd % 16 < 8 → cd < 0x100000 →
    iodRuns s (pkgOf cd) = true → FwTarget.compute ∈ (getPkg s (pkgOf cd)).sec.verified → ∃ t, exec (.dieAdmission cd) s = .next t ∧
      (getCd t cd).power = .run ∧ (getCd t cd).unreachable = false ∧ (getCd t cd).time.step = true ∧ (getCd t cd).time.lock = false ∧
      (getCd s cd).time.time.toNat ≤ (getCd t cd).time.time.toNat ∧ OnlyCoherence s t ∧ t.mem = s.mem) ∧
  (∀ q ∈ s.mds, q.unit = cd → 8 ≤ cd % 16 → cd < 0x100000 → (getMd s cd).unreachable = true → iodRuns s (pkgOf cd) = true →
    FwTarget.memside ∈ (getPkg s (pkgOf cd)).sec.verified → memWf s.mem = true → ∃ t, exec (.dieAdmission cd) s = .next t ∧ mdUp t cd = true ∧
      (getMd t cd).time.step = true ∧ (getMd t cd).time.lock = false ∧ OnlyCoherence s t ∧
      (∀ a, memByte t.mem a = if homeUnit (a / 64) = cd then 0 else memByte s.mem a) ∧
      (∀ y, homeUnit y ≠ cd → getHome t y = getHome s y ∧ ∀ k, getSec t k y = getSec s k y) ∧
      ∀ y, homeUnit y = cd → ((getHome t y).tokens, (getHome t y).own, (getHome t y).serial, (getHome t y).poison) = (64, true, 0, false) ∧
        ∀ k, (getSec t k y).tokens = 0)

end Sys2Proof.Says

/-- R84, R86: a die or a home that is asked for a sector answers with a token and the data to a read, with all its tokens to a
write, the data with the owner token; tokens are accepted where they were asked for, go on to the home where not, even where a census freezes the sector (the model's
choice of log entry 108), and are destroyed where their serial is old. -/
def Obligations.TokenMessages : Prop := TokenRequests ∧ TokenArrivals
/-- R83, R90, R91, R93, R94, R101, R106, R381, R406: the messages of trump requests, of censuses and of reshuffles, at dies and at homes.
Rests on the model's choices of log entries 32, 36. -/
def Obligations.TrumpMessages : Prop := TrumpAtDie ∧ TrumpAtHome
/-- R85, R89, R93, R94, R98, R105, R106, R373: requests are reissued twice and then raised; a census freezes the sector; the
settled home rebuilds or reshuffles; flits are retried and then dropped; a die that gives no response is declared unreachable
with everything it held lost, and comes back only with its firmware verified, a memory-side die with its stack initialised (R60).
Rests on the model's choices of log entries 1, 41, 61, 62, 63, 86, 94. -/
def Obligations.CoherenceTime : Prop := CoherenceTimers ∧ FlitFailures

/-! ## From a launch record to the launch's end, pre-emption, contexts and the loader -/

namespace Sys2Proof.Says

/-- Memory of the pod and the host, the caches and the waves are as before. -/
def OnlyPlatform (s t : State) : Prop :=
  t.cur = s.cur ∧ t.waves = s.waves ∧ t.mem = s.mem ∧ t.hostMem = s.hostMem ∧ t.sectors = s.sectors ∧ t.homes = s.homes ∧ t.cores = s.cores
/-- The loaded image that a record's handle names for a context: its slot, with reserved bits 0 and the context above (R344, R348). -/
def recImage (s : State) (pkg ctx r : Nat) : Option Image :=
  if recField r 1 1 = 0 ∧ recField r 2 2 = ctx then
    (getPkg s pkg).images.find? (fun i => i.slot == recField r 0 1 && i.ctx == ctx) else none
/-- The conditions under which a launch record fails: a reserved byte, its image, its kernel, a limit of R155, MODE, a
dependence count or condition, SWAP, PFLAGS, SPILL, or a word that it names (R155, R348). -/
def RecordFails (s : State) (pkg ctx r : Nat) : Prop :=
  let f := recField r
  let g := f 8 2 * f 10 2 * f 12 2
  let deps := f 15 1 / 16
  let bad := fun (need : BitVec 3) (wave : Bool) (a : Nat) => a % 4 ≠ 0 ∨ ∃ c ad, translateNow s pkg ctx need wave (BitVec.ofNat 64 a) 4 = .fault c ad
  (f 21 3 ≠ 0 ∨ f 52 4 ≠ 0 ∨ f 120 8 ≠ 0 ∨ 2 ≤ f 20 1) ∨
  recImage s pkg ctx r = none ∨
  (∃ i, recImage s pkg ctx r = some i ∧ i.kernels[f 4 2]? = none) ∨
  (∃ i k, recImage s pkg ctx r = some i ∧ i.kernels[f 4 2]? = some k ∧ 512 < (f 6 1 + 3) / 4 * k.regs) ∨
  ¬(1 ≤ f 6 1 ∧ f 6 1 ≤ 16) ∨ ¬(1 ≤ f 7 1 ∧ f 7 1 ≤ 16) ∨ ¬(1 ≤ g ∧ g < 2 ^ 32) ∨ g % f 7 1 ≠ 0 ∨
  (∀ v < 8, f 14 1 / 2 ^ v % 2 = 1 → physDie (getCtx s pkg ctx) v = none) ∨
  legalMode (BitVec.ofNat 32 (f 16 4)) ≠ some (BitVec.ofNat 32 (f 16 4)) ∨
  4 < deps ∨ (∃ i < deps, 2 < f (68 + 16 * i) 4) ∨ f 15 1 / 2 % 4 = 3 ∨ f 32 8 % 2 ^ 40 ≠ 0 ∨
  (∃ i < deps, bad 0b001 false (f (56 + 16 * i) 8)) ∨ (f 32 8 ≠ 0 ∧ bad 0b011 true (f 32 8)) ∨ (f 40 8 ≠ 0 ∧ bad 0b010 false (f 40 8))
/-- Queues, records and the start of a launch. Rests on the model's choices of log entries 44, 47, 49, 94. -/
def LaunchStart : Prop := ∀ (s : State) (pkg n : Nat),
  let q := getQueue s pkg n
  let r := headRecord s q
  let ctx := qCtx q
  (∀ tail, iodRuns s pkg = true → ∃ t, exec (.qptrDoorbell pkg n tail) s = .next t ∧ getQueue t pkg n = { q with tail := tail } ∧
    (∀ p m, (p, m) ≠ (pkg, n) → getQueue t p m = getQueue s p m) ∧ t = { s with queues := t.queues }) ∧
  (∀ tail, iodRuns s pkg = false → exec (.qptrDoorbell pkg n tail) s = .next s) ∧
  (slotPending s pkg q = true → exec (.recordTake pkg n) s = .next s) ∧
  (recordOut s pkg ctx r = .fail ↔ RecordFails s pkg ctx r) ∧
  ((∃ l ∈ queueLaunches s pkg n, launchWaits s l = true) → ∃ t, exec (.priorityAging pkg n) s = .next t ∧
    t = { s with queues := t.queues } ∧
    (getQueue t pkg n).eff = if q.eff < max (qPrio q) (qCeil q) then q.eff + 1 else q.eff) ∧
  (mayTake s pkg q = true → serHolds s pkg q r = false →
    (recordOut s pkg ctx r = .fail → ∃ t, exec (.recordTake pkg n) s = .next t ∧ t.launches = s.launches ∧ t.mem = s.mem ∧
      t.cur = s.cur ∧ t.waves = s.waves ∧ (getQueue t pkg n).head = BitVec.ofNat 16 ((q.head.toNat + 1) % ringSize q) ∧
      (getQueue t pkg n).qctl.getLsbD 30 = true ∧ ∃ f, t.faults = s.faults ++ [f] ∧ f.cause = .launch ∧ f.ctx = ctx) ∧
    (∀ i k, recordOut s pkg ctx r = .sound → q.met = some r ∨ (∀ d ∈ recDeps r, depMet s pkg ctx d = true) →
      confidential s pkg ctx = false → recKernel s pkg ctx r = some (i, k) → ∃ t l, exec (.recordTake pkg n) s = .next t ∧
      OnlyPlatform s t ∧ t.launches = s.launches ++ [l] ∧
      (getQueue t pkg n).head = BitVec.ofNat 16 ((q.head.toNat + 1) % ringSize q) ∧
      (l.tag, l.pkg, l.queue, l.ctx, l.code, l.kernel, l.placed, l.retired) = (s.nextId, pkg, q.q, ctx, i.code, k, 0, 0) ∧
      (l.nwaves, l.csize, l.gx, l.gy, l.gz) = (recField r 6 1, recField r 7 1, recField r 8 2, recField r 10 2, recField r 12 2) ∧
      (l.args.toNat, l.signal.toNat, l.sigval.toNat) = (recField r 24 8, recField r 40 8, recField r 48 4))) ∧
  (mayTake s pkg q = true → recordOut s pkg ctx r = .sound → (∀ d ∈ recDeps r, depMet s pkg ctx d = true) →
    ∃ t, exec (.dependenceReread pkg n) s = .next t ∧ getQueue t pkg n = { q with met := some r } ∧ t = { s with queues := t.queues })
/-- The trace of a die is off (R408). -/
def NoTrace (s : State) (cd : Nat) : Prop := (getCd s cd).trace.trcctl.getLsbD 31 = false
/-- The placement of a block that is a cluster of its own, and its waves at birth (R156, R158, R159). -/
def PlacesBlocks : Prop := ∀ (s : State) (l : Launch) (cd c p0 p : Nat), getLaunch s l.tag = some l → l.csize = 1 →
  l.placed < launchSize l → dieOffers s l cd = true → offered s l cd = true → canResume s l cd = false →
  findCores s l cd [(false, 0)] [] = some [c] → accepts s l ⟨cd, c⟩ p0 false 0 = some p → NoTrace s cd →
  ∃ t b, exec (.blockPlacement l.tag cd [c] p0) s = .next t ∧ t.mem = s.mem ∧ t.hostMem = s.hostMem ∧ t.blocks = s.blocks ++ [b] ∧
    (b.id, b.core, b.ctx, b.size, b.vregs, b.nwaves, b.state) =
      (⟨l.tag, l.placed⟩, ⟨cd, c⟩, l.ctx, l.kernel.scratch, l.kernel.regs, l.nwaves, .resident) ∧
    firstFit s ⟨cd, c⟩ l.kernel.scratch = some b.base ∧ (getLaunch t l.tag).map (·.placed) = some (l.placed + 1) ∧
    ∀ k < l.nwaves, ∃ id v, getWave t id = some v ∧ coreId id = ⟨cd, c⟩ ∧ id.part = (p + k) % 4 ∧ id.slot < 16 ∧ v.blk = b.id ∧
      v.k = k ∧ v.hold = .ready ∧ v.handler = none ∧ (v.a.pc, v.a.mode, v.a.em, v.a.xl) = (l.kernel.entry, l.mode, BitVec.allOnes 96, 0) ∧
      (v.a.s[0], v.a.s[1], v.a.s[2]) = (BitVec.ofNat 32 (l.placed % l.gx), BitVec.ofNat 32 (l.placed / l.gx % l.gy),
        BitVec.ofNat 32 (l.placed / (l.gx * l.gy))) ∧
      (v.a.s[3], v.a.s[4], v.a.s[5]) = (BitVec.ofNat 32 (l.nwaves * 65536 + k), 65536, BitVec.ofNat 32 l.placed) ∧
      (v.a.s[6], v.a.s[7]) = (l.args.extractLsb' 0 32, l.args.extractLsb' 32 32)
/-- Retirement of a block without layout records, its counter, and the end of a launch (R169, R170). -/
def LaunchFinish : Prop := ∀ (s : State),
  (∀ (b : BlockId) (x : Block), getBlock s b = some x → x.state = .resident → blockDone s x = true → x.recs = [] →
    NoTrace s x.core.cd → confidential s x.pkg x.ctx = false → ∃ t iod, exec (.blockRetirement b) s = .next t ∧ t.mem = s.mem ∧
      t.hostMem = s.hostMem ∧ (∀ w v, getWave t w = some v → v.blk ≠ b) ∧
      (∀ w v, getWave s w = some v → v.blk ≠ b → getWave t w = some v) ∧
      (∀ y, getBlock t b = some y → y.state = .retired) ∧
      t.net = s.net ++ [{ src := x.core.cd, dst := iodUnit x.pkg iod, body := .retired b.launch }]) ∧
  (∀ (n l : Nat) (m : Msg) (x : Launch), s.net[n]? = some m → m.body = .retired l → getLaunch s l = some x →
    let ds := (maskDies s x.pkg x.ctx x.dmask.toNat).filter fun d => (countedDies s x.pkg).contains d
    ∃ t, exec (.retirementMessage n) s = .next t ∧ OnlyPlatform s t ∧
    (x.retired + 1 < launchSize x → getLaunch t l = some { x with retired := x.retired + 1 } ∧ t.net = dropAt n s.net ∧ t.wbs = s.wbs) ∧
    (launchSize x ≤ x.retired + 1 → x.owed = none → ds ≠ [] → ∃ k,
      getLaunch t l = some { x with retired := x.retired + 1, owed := some k } ∧
      (∃ b ∈ t.wbs, (b.k, b.pkg, b.frames, b.inv, b.owed) = (k, x.pkg, none, false, ds)) ∧
      t.net = dropAt n s.net ++ ds.map fun d => { src := iodUnit x.pkg 0, dst := d, body := .writeback k })) ∧
  (∀ (l k : Nat) (x : Launch), getLaunch s l = some x → x.owed = some k → (∀ b ∈ s.wbs, b.k ≠ k) →
    let word := recWord s x.pkg x.ctx 0b010 false x.signal
    (x.signal = 0 → ∃ t, exec (.launchEnd l) s = .next t ∧ OnlyPlatform s t ∧ getLaunch t l = none ∧
      ∀ b ∈ t.blocks, b.id.launch ≠ l) ∧
    (∀ y, x.signal ≠ 0 → word = .ok y → y.space = .dev → y.addr % 4 = 0 → lostHome s x.pkg x.ctx y = false →
      Gathers s [y.addr / 64] → memWf s.mem = true → ∃ t, exec (.launchEnd l) s = .next t ∧ t.cur = s.cur ∧ t.waves = s.waves ∧
        t.hostMem = s.hostMem ∧ getLaunch t l = none ∧ OnlySectors s t [y.addr / 64] ∧
        ∀ i < 4, memByte t.mem (y.addr + i) = x.sigval.extractLsb' (8 * i) 8) ∧
    (∀ y p, x.signal ≠ 0 → word = .ok y → y.space = .host p → lostHome s x.pkg x.ctx y = false → hostLocked s y = false → memWf s.hostMem = true →
      ∃ t, exec (.launchEnd l) s = .next t ∧ t.cur = s.cur ∧ t.waves = s.waves ∧ t.mem = s.mem ∧ getLaunch t l = none ∧
        ∀ a, memByte t.hostMem a = if hostKey p y.addr ≤ a ∧ a < hostKey p y.addr + 4
          then x.sigval.extractLsb' (8 * (a - hostKey p y.addr)) 8 else memByte s.hostMem a) ∧
    (∀ c ad, x.signal ≠ 0 → word = .fault c ad → ∃ t f, exec (.launchEnd l) s = .next t ∧ t.mem = s.mem ∧ t.cur = s.cur ∧
      t.waves = s.waves ∧ getLaunch t l = none ∧ t.faults = s.faults ++ [f] ∧ (f.cause, f.ctx, f.oaddr) = (.launch, x.ctx, x.signal)))

end Sys2Proof.Says

/-- R155 to R159, R169, R170: the placement of a block, its waves at birth, its retirement, the count of retired blocks with the
write-back at G, and the signal word at the launch's end. Rests on the model's choices of log entries 8, 9, 42, 47. -/
def Obligations.Blocks : Prop := PlacesBlocks ∧ LaunchFinish

/-! ## Pre-emption, resumption, and the events of a wave -/

namespace Sys2Proof.Says

/-- The choice of a victim that is a set of its own, and its PREEMPT traps (R171, R172, R353, R368). -/
def Preempts : Prop := ∀ (s : State),
  (∀ (pkg q cd p a : Nat) (l : Launch) (b : BlockId) (x : Block) (as : List Nat),
    raisesFor s pkg q cd = some l → lowestPrio s cd = some p → bits (schctl s pkg q) 19 12 ≠ 0 →
    p + pgap (schctl s pkg q) ≤ (getQueue s pkg q).eff →
    newestVictim s cd p = some b → closedSet s .resident [b] = [b] → getBlock s b = some x → x.erets = 0 →
    freeAreas s x.pkg x.ctx = a :: as → roomAfter (stopBlock s a b) l cd = true →
    ∃ t, exec (.preemptionRaise pkg q cd) s = .next t ∧ SameMemory s t ∧
      getBlock t b = some { x with state := .stopping, area := a, oldArea := none, written := false, liveW := [] } ∧
      (∀ c, c ≠ b → getBlock t c = getBlock s c) ∧
      ∀ w v, getWave s w = some v → getWave t w = some { v with preempt := v.preempt || (v.blk == b && v.handler.isNone) }) ∧
  (∀ (w : WaveId) (v : Wave) (b : Block) (y : Target),
    let c := getCtx s b.pkg b.ctx
    getWave s w = some v → getBlock s v.blk = some b → b.state = .stopping → v.k ∉ b.liveW → v.a.trap = false →
    v.handler = none → v.rlost = [] → pendingLongNoTile v = false → partitionRuns s w = true → v.focus = none →
    drained s b = true → v.hold = .ready →
    translateNow s (pkgOf w.cd) v.ctx 0b010 true (saveFrameAddr c b.area v.k) 1024 = .ok y →
    ∃ t u f, exec (.preemptTrap w) s = .next t ∧ getWave t w = some u ∧ t.mem = s.mem ∧ t.hostMem = s.hostMem ∧
      u.hold = .logWait ∧ u.a = { v.a with
        trap := true, pc := trapEntryPc (getCtx s (pkgOf w.cd) v.ctx), tfaddr := saveFrameAddr c b.area v.k
        tsaddr := objAddr (saveObj c) (b.area * saveSize c), tscr := Vector.replicate 4 0 } ∧
      t.faults = s.faults ++ [f] ∧ (f.cause, f.kill, f.pc, f.waiter) = (.preempt, false, v.a.pc, some w) ∧
      (∃ o, u.ops = v.ops ++ [o] ∧ o.kind = .frame ∧ o.flag = none ∧
        ∀ x ∈ o.acc, y.addr ≤ x.tgt.addr ∧ x.tgt.addr + x.sz ≤ y.addr + 1024) ∧
      (getBlock t v.blk).map (·.liveW) = some (b.liveW ++ [v.k])) ∧
  (∀ (b : BlockId) (x : Block), getBlock s b = some x → x.state = .stopping → x.written = true → blockDone s x = true →
    x.recs = [] → ∃ t, exec (.blockFree b) s = .next t ∧ t.mem = s.mem ∧ t.hostMem = s.hostMem ∧ t.net = s.net ∧
      getBlock t b = some { x with state := .saved, oldArea := none } ∧ (∀ w v, getWave t w = some v → v.blk ≠ b) ∧
      (∀ w v, getWave s w = some v → v.blk ≠ b → getWave t w = some v)) ∧
  (∀ (b : BlockId) (x : Block), getBlock s b = some x → x.state = .stopping → x.written = true ∨ x.liveW ≠ [] →
    exec (.blockRetirement b) s = .next s)
/-- A saved block without records and without a matrix mark, placed again: its waves start at the resume entry in trap state
(R173, R174). -/
def Resumes : Prop := ∀ (s : State) (b : BlockId) (l : Launch) (x : Block) (cd core p0 p : Nat),
  let c := getCtx s x.pkg x.ctx
  let r := savedRecord s x
  let live := (recWaves r l.nwaves).filter x.liveW.contains
  getLaunch s b.launch = some l → (savedSets s l).find? (fun set => set.any (·.id == b)) = some [x] → areaWaits s x = false →
  Gathers s (areaSectors s x) → registerAll s x.pkg x.ctx (recImages r) = ([], []) → bitOf (recField r 6 1) 0 = false →
  dieOffers s l cd = true → offered s l cd = true → findCores s l cd [savedNeed x] [] = some [core] →
  accepts s l ⟨cd, core⟩ p0 (savedNeed x).1 (savedNeed x).2 = some p → NoTrace s cd →
  ∃ t, exec (.blockResumption b cd [core] p0) s = .next t ∧ t.mem = s.mem ∧ t.hostMem = s.hostMem ∧
    (∀ g ∈ t.groups, g.members = [] → ∃ y, g.ref = .block y) ∧
    (∃ y, getBlock t b = some y ∧ (y.core, y.state, y.erets, y.liveW, y.recs, y.unreg, y.size, y.area) =
      (⟨cd, core⟩, .resident, live.length, [], [], [], x.size, x.area) ∧ y.base = (firstFit s ⟨cd, core⟩ x.size).getD 0) ∧
    ∀ k ∈ live, ∃ id v, getWave t id = some v ∧ coreId id = ⟨cd, core⟩ ∧ id.part = (p + k) % 4 ∧ v.blk = b ∧ v.k = k ∧
      v.hold = .ready ∧ (v.a.pc, v.a.trap, v.a.em) = (resumeEntry c, true, BitVec.allOnes 96) ∧
      v.a.tfaddr = saveFrameAddr c x.area k ∧ v.a.tsaddr = objAddr (saveObj c) (x.area * saveSize c)
/-- A wave event: the active set, a kill, a strike (R161, R162, R367, R371, R372). -/
def WaveEvents : Prop := ∀ (s : State) (w : WaveId) (v : Wave),
  let peers := (allWaves s).filter fun x => samePart x.id w && x.active && !isHandler x
  let pending := fun x : Wave => samePart x.id w = true ∧ x.active = false ∧ isHandler x = false ∧ x.hold = .ready
  let since := fun x : Wave => x.readyAt.getD s.tick
  let entered := { v with active := true, since := s.tick, readyAt := none }
  (v ∈ allWaves s → pending v → getWave s v.id = some v →
    (∀ x ∈ allWaves s, pending x → x ≠ v → since v < since x ∨ (since v = since x ∧ v.id.slot < x.id.slot)) →
    (peers.length < 8 → ∃ t, exec (.waveSwap w) s = .next t ∧ Becomes s t v.id entered ∧ SameMemory s t) ∧
    (∀ x, 8 ≤ peers.length → peers.find? (fun x => longStall x && decide (swapOf s x < 2)) = some x → x.id ≠ v.id →
      getWave s x.id = some x → ∃ t, exec (.waveSwap w) s = .next t ∧ getWave t v.id = some entered ∧
        getWave t x.id = some { x with active := false } ∧ SameMemory s t ∧
        ∀ u, u ≠ v.id → u ≠ x.id → getWave t u = getWave s u) ∧
    (8 ≤ peers.length → (∀ x ∈ peers, longStall x = true → 2 ≤ swapOf s x) → exec (.waveSwap w) s = .next s)) ∧
  ((∀ x ∈ allWaves s, ¬pending x) → exec (.waveSwap w) s = .next s) ∧
  (∀ cause, getWave s w = some v → v.hold ≠ .ended → v.handler = none → NoTrace s w.cd → ∃ t u f,
    exec (.waveKill w cause) s = .next t ∧ Becomes s t w u ∧ t.mem = s.mem ∧ t.hostMem = s.hostMem ∧
    u.hold = .ended ∧ u.window = [] ∧ u.a = { v.a with stat := withFclass v.a.stat cause } ∧ (∀ o ∈ u.ops, o.left = true) ∧
    t.groupMsgs = s.groupMsgs ++ [⟨0, .kill (memberOf v) (groupsOf s v)⟩] ∧ t.faults.getLast? = some f ∧
    (f.cause, f.kill, f.double, f.pc, f.waiter) = (cause, true, v.a.trap, v.a.pc, none)) ∧
  (∀ cd region, region < 16 → (getCd s cd).present = true → ((allWaves s).map (·.id)).Nodup → ∃ t,
    exec (.strikeReport cd region) s = .next t ∧ t.mem = s.mem ∧ t.hostMem = s.hostMem ∧
    (getCd t cd).strikes = sat16 (getCd s cd).strikes ∧
    (getWave s w = some v → w.cd = cd → w.core / 6 = region → ∀ p ps, v.window = p :: ps → ∃ u, getWave t w = some u ∧
      u.a = p.a ∧ u.window = [] ∧ u.seq = p.seq - 1 ∧ u.hold = .ready ∧
      u.ops = (v.ops.filter fun o => o.seq < p.seq).map (fun o => { o with landed := o.landed.map (Nat.min (p.seq - 1)) })) ∧
    (getWave s w = some v → ¬(w.cd = cd ∧ w.core / 6 = region) → getWave t w = some v))
/-- A record reaches the log (R75, R358, R360). -/
def FaultLog : Prop := ∀ (s : State) (n : Nat) (r : FaultRec), s.faults[n]? = some r → recCommitted s r = true →
  (∀ w, r.waiter = some w → NoTrace s w.cd) →
  let p := getPkg s r.pkg
  let m := bits p.flogbase.toNat 11 0
  let h := p.flogHead.toNat % m
  let at_ := r.pkg * 2 ^ 44 + bits p.flogbase.toNat 40 12 * 4096 + 64 * h
  m ≠ 0 → ∃ t, ((h + 1) % m = p.flogTail.toNat % m → exec (.faultLogAppend n) s = .next t ∧ t.mem = s.mem ∧
      (getPkg t r.pkg).flogHead = p.flogHead ∧ (getPkg t r.pkg).flogDrop.toNat = min 15 (p.flogDrop.toNat + 1)) ∧
    ((h + 1) % m ≠ p.flogTail.toNat % m → Gathers s [at_ / 64] → memWf s.mem = true →
      exec (.faultLogAppend n) s = .next t ∧ OnlySectors s t [at_ / 64] ∧
      (∀ i < 64, memByte t.mem (at_ + i) = (recBytes r true).getD i 0) ∧ (getPkg t r.pkg).flogHead.toNat = (h + 1) % m) ∧
    ((h + 1) % m = p.flogTail.toNat % m ∨ Gathers s [at_ / 64] → t.faults = dropAt n s.faults ∧ t.hostMem = s.hostMem ∧
      ∀ w v, r.waiter = some w → getWave s w = some v → v.hold = .logWait → r.cause ≠ .preempt → Becomes s t w { v with hold := .ready })

end Sys2Proof.Says

/-- R171 to R174, R336 to R338, R353, R368, R369: pre-emption marks the newest block of the lowest priority, whose waves take
the PREEMPT trap into the save area; the block is freed as saved; a saved block is placed again with its waves at the resume
entry in trap state. Rests on the model's choices of log entries 9, 24, 42, 45, 46, 58, 59, 99, 106. -/
def Obligations.Preemption : Prop := Preempts ∧ Resumes
/-- R161, R162, R358 to R360, R367, R370 to R372: the active set, a kill, the rollback of a quartz strike, and the fault log.
Rests on the model's choices of log entries 3, 8, 10, 22, 71, 80. -/
def Obligations.WavesAndLog : Prop := WaveEvents ∧ FaultLog

/-! ## Contexts, the loader, the host and the fabric -/

namespace Sys2Proof.Says

/-- The package exists. -/
def HasPkg (s : State) (pkg : Nat) : Prop := ∃ p ∈ s.pkgs, p.id = pkg
/-- Only registers of packages have changed. -/
def OnlyPkgs (s t : State) : Prop := t = { s with pkgs := t.pkgs }
/-- A refused context command (R340). -/
def RefusesCtx (s t : State) (pkg : Nat) (cause : BitVec 8) : Prop :=
  OnlyPkgs s t ∧ (getPkg t pkg).ctxRej = true ∧ (getPkg t pkg).ctxCause = cause ∧ (getPkg t pkg).ctxDone = (getPkg s pkg).ctxDone
/-- The fields of a context that its descriptor, x as a number, gives (R33, R341). -/
def Describes (c : Ctx) (x : Nat) : Prop :=
  (c.otbase.toNat, c.otlen.toNat, c.vdt.toNat, c.cflags.toNat, c.pcg.toNat, c.trapdesc.toNat, c.ctrace.toNat) =
    (x / 2 ^ 16 % 2 ^ 25, x / 2 ^ 64 % 2 ^ 24, x / 2 ^ 128 % 2 ^ 32, x / 2 ^ 192 % 2 ^ 32, x / 2 ^ 224 % 2 ^ 8,
      x / 2 ^ 256 % 2 ^ 128, x / 2 ^ 384 % 2 ^ 64)
/-- The three context commands, the acknowledgement of a die, and what a command does once every die has acknowledged it: a context
that comes to be confidential where the lifecycle no longer permits one is failed, and an activation finds nothing of an older trace
(R340 to R342, R397, R399, R408, R409). -/
def ContextCommands : Prop := ∀ (s : State) (pkg ctx : Nat), ctx < 4096 → iodRuns s pkg = true →
  let c := getCtx s pkg ctx
  let x := descriptor s pkg ctx
  let first : Bool → BitVec 8 := fun active =>
    if (getPkg s pkg).ctxCmd ≠ none ∨ (ctxtbl (getPkg s pkg)).getLsbD 0 = false then 1
    else if ctx = 0 then 2 else if c.active = active then 0 else 3
  let busy := ∃ b ∈ s.blocks, b.pkg = pkg ∧ b.ctx = ctx ∧ (b.state = .resident ∨ b.state = .stopping)
  let kept := ∃ b ∈ s.blocks, b.pkg = pkg ∧ b.ctx = ctx ∧ b.state = .saved
  let banned := fun (desc : Nat) => desc / 2 ^ 196 % 2 = 1 ∧ (getPkg s pkg).sec.lifecycle ≠ .prod
  let starts := fun (t : State) (op : CtxOp) (desc : Nat) (dies : List Nat) => OnlyPkgs s t ∧
    (getPkg t pkg).ctxCmd = some ⟨op, ctx, desc, dies⟩ ∧ (getPkg t pkg).ctxDone = (getPkg s pkg).ctxDone
  (∃ t, exec (.ctxActivate pkg ctx) s = .next t ∧
    (first false ≠ 0 → RefusesCtx s t pkg (first false)) ∧
    (first false = 0 → descriptorOk s pkg ctx x = false → RefusesCtx s t pkg 4) ∧
    (first false = 0 → descriptorOk s pkg ctx x = true → starts t .activate x (ctxDies s pkg))) ∧
  (∃ t, exec (.ctxUpdate pkg ctx) s = .next t ∧
    (first true ≠ 0 → RefusesCtx s t pkg (first true)) ∧
    (first true = 0 → descriptorOk s pkg ctx x = false → RefusesCtx s t pkg 4) ∧
    (first true = 0 → descriptorOk s pkg ctx x = true → busy → RefusesCtx s t pkg 5) ∧
    (first true = 0 → descriptorOk s pkg ctx x = true → kept → (ctxOf c x).trapdesc ≠ c.trapdesc → RefusesCtx s t pkg 5) ∧
    (first true = 0 → descriptorOk s pkg ctx x = true → ¬busy → ¬kept ∨ (ctxOf c x).trapdesc = c.trapdesc →
      starts t .update x (ctxDies s pkg))) ∧
  (∃ t, exec (.ctxRetire pkg ctx) s = .next t ∧
    (first true ≠ 0 → RefusesCtx s t pkg (first true)) ∧
    (first true = 0 → busy ∨ kept → RefusesCtx s t pkg 5) ∧
    (first true = 0 → ¬busy → ¬kept → (∃ q ∈ s.queues, q.pkg = pkg ∧ qEn q = true ∧ qCtx q = ctx) → RefusesCtx s t pkg 6) ∧
    (first true = 0 → ¬busy → ¬kept → (∀ q ∈ s.queues, q.pkg = pkg → qEn q = true → qCtx q ≠ ctx) →
      starts t .retire 0 (countedDies s pkg))) ∧
  (∀ k, (getPkg s pkg).ctxCmd = some k → k.ctx = ctx →
    (∀ die ∈ k.owed, ∃ t, ctxAck pkg die s = .next t ∧ (getPkg t pkg).ctxCmd = some { k with owed := k.owed.filter (· != die) } ∧
      t.mem = s.mem ∧ t.ctxs = s.ctxs ∧ t.cur = s.cur ∧ t.waves = s.waves ∧
      (k.op ≠ .retire → OnlyPkgs s t) ∧
      (k.op = .retire → (∀ d ∈ t.cds, d.unit = die → ∀ e ∈ d.dtlb, e.ctx ≠ ctx) ∧
        ∀ q ∈ t.cores, q.id.cd = die → ∀ e ∈ q.tlb, e.ctx ≠ ctx)) ∧
    (k.owed = [] → ∃ t, ctxDone pkg s = .next t ∧ t = { s with pkgs := t.pkgs, ctxs := t.ctxs, cds := t.cds } ∧
      (getPkg t pkg).ctxCmd = none ∧ (k.op ≠ .activate → t.cds = s.cds) ∧
      (getPkg t pkg).ctxDone = (getPkg s pkg).ctxDone + 1 ∧ (∀ p j, (p, j) ≠ (pkg, ctx) → getCtx t p j = getCtx s p j) ∧
      (k.op = .activate → Describes (getCtx t pkg ctx) k.desc ∧ (getCtx t pkg ctx).active = true ∧
        ((getCtx t pkg ctx).failed = true ↔ banned k.desc) ∧ (getCtx t pkg ctx).erased = [] ∧
        t.cds.map (fun d => { d with pend := [], trace := {} }) = s.cds.map (fun d => { d with pend := [], trace := {} }) ∧
        ∀ d ∈ t.cds, pkgOf d.unit = pkg → (∀ rs, TraceWrite.page ctx rs ∉ d.pend) ∧ ∀ z ∈ d.trace.confLast, z.1 ≠ ctx) ∧
      (k.op = .update → Describes (getCtx t pkg ctx) k.desc ∧ (getCtx t pkg ctx).active = c.active ∧
        ((getCtx t pkg ctx).failed = true ↔ c.failed = true ∨ banned k.desc)) ∧
      (k.op = .retire → (getCtx t pkg ctx).active = false ∧ ∀ i ∈ (getPkg t pkg).images, i.ctx ≠ ctx)))
/-- A load that ends with a result and changes nothing else but DONE, SEG and BUSY (R343). -/
def LoadEnds (s t : State) (pkg : Nat) (result : BitVec 3) (seg : Nat) : Prop :=
  (getPkg t pkg).ldrResult = result ∧ (getPkg t pkg).ldrSeg = BitVec.ofNat 4 seg ∧ (getPkg t pkg).ldrDone = (getPkg s pkg).ldrDone + 1 ∧
  (getPkg t pkg).load = none
/-- A load that goes on to a phase. -/
def LoadGoes (s t : State) (pkg : Nat) (l : Load) (ph : LoadPhase) : Prop :=
  (getPkg t pkg).load = some { l with phase := ph } ∧ (getPkg t pkg).ldrDone = (getPkg s pkg).ldrDone ∧
  t.cur = s.cur ∧ t.waves = s.waves ∧ t.hostMem = s.hostMem
/-- The places of an object's pages lie apart from each other and from its entry. -/
def Apart (entry : Nat) (ps : List (Nat × Nat × Target)) : Prop :=
  (∀ p ∈ ps, p.2.2.addr + p.2.1 ≤ entry ∨ entry + 32 ≤ p.2.2.addr) ∧
  ∀ p ∈ ps, ∀ q ∈ ps, p ≠ q → p.2.2.addr + p.2.1 ≤ q.2.2.addr ∨ q.2.2.addr + q.2.1 ≤ p.2.2.addr
/-- Loads as they start and end at once, and unloads (R220, R343, R344). -/
def LoadStarts : Prop := ∀ (s : State) (pkg : Nat), iodRuns s pkg = true →
  let p := getPkg s pkg
  let ctx := bits p.ldrobja.toNat 63 48
  (∃ t, exec (.ldrLoad pkg) s = .next t ∧ OnlyPkgs s t ∧
    (p.load ≠ none → (getPkg t pkg).ldrResult = 6 ∧ (getPkg t pkg).load = p.load ∧ (getPkg t pkg).ldrDone = p.ldrDone) ∧
    (p.load = none → freeImage p = none ∨ (getCtx s pkg ctx).active = false → LoadEnds s t pkg 5 0) ∧
    (∀ slot, p.load = none → freeImage p = some slot → (getCtx s pkg ctx).active = true →
      (headerOk s pkg = false → LoadEnds s t pkg 1 0) ∧
      (headerOk s pkg = true → (getPkg t pkg).load = some ⟨slot, ctx, imgSegs s pkg, .objects⟩ ∧ (getPkg t pkg).ldrDone = p.ldrDone))) ∧
  (∀ slot, let used := ∃ l ∈ s.launches, l.pkg = pkg ∧ l.image = slot ∧ ∃ b ∈ s.blocks, b.id.launch = l.tag ∧ b.state ≠ .retired
    ∃ t, exec (.ldrUnload pkg slot) s = .next t ∧ OnlyPkgs s t ∧
    (p.load ≠ none ∨ used → (getPkg t pkg).ldrResult = 6 ∧ (getPkg t pkg).images = p.images ∧ (getPkg t pkg).load = p.load) ∧
    (p.load = none → ¬used → LoadEnds s t pkg 0 0 ∧ (getPkg t pkg).images = p.images.filter (·.slot != slot)))
/-- What a load in progress does next while its I/O die runs: in SCRAP its rejection, else the check of the objects; each segment with its measurement, its bytes and zero fill in its
object, the permissions and the invalidation; the revocation of X after a rejected one; the kernel table and the slot
(R221 to R224, R344, R395, R397). -/
def LoadSteps : Prop := ∀ (s : State) (pkg : Nat) (l : Load), (getPkg s pkg).load = some l → memWf s.mem = true →
  iodRuns s pkg = true →
  let p := getPkg s pkg
  let sound := fun i g => segEntryOk p l.segs i g = true ∧ segSigned s pkg l.ctx i g = true
  let entry := fun (id : BitVec 24) => entryAddr (getCtx s pkg l.ctx) id.toNat
  ((getCtx s pkg l.ctx).active = false → ∃ t, loaderStep pkg s = .next t ∧ OnlyPkgs s t ∧ LoadEnds s t pkg 5 0) ∧
  ((getCtx s pkg l.ctx).active = true → (getPkg s pkg).sec.lifecycle = .scrap →
    (l.phase = .objects → ∃ t, loaderStep pkg s = .next t ∧ OnlyPkgs s t ∧ LoadEnds s t pkg 1 0) ∧
    ∀ i, l.phase = .seg i ∨ (∃ k, l.phase = .inval i k) → ∃ t, loaderStep pkg s = .next t ∧ OnlyPkgs s t ∧
      LoadGoes s t pkg l (.revoke i (imageObjects s pkg l.segs) none)) ∧
  ((getCtx s pkg l.ctx).active = true → (getPkg s pkg).sec.lifecycle ≠ .scrap ∨ (∃ i ids k, l.phase = .revoke i ids k) →
    (l.phase = .objects → ∃ t, loaderStep pkg s = .next t ∧ OnlyPkgs s t ∧
      (objectsOut s pkg l.ctx l.segs = .bad → LoadEnds s t pkg 4 0) ∧ (objectsOut s pkg l.ctx l.segs = .wait → t = s) ∧
      (objectsOut s pkg l.ctx l.segs = .good → LoadGoes s t pkg l (.seg 0))) ∧
    (∀ i g, l.phase = .seg i → l.segs[i]? = some g →
      (¬sound i g → ∃ t, loaderStep pkg s = .next t ∧ OnlyPkgs s t ∧
        LoadGoes s t pkg l (.revoke i (imageObjects s pkg l.segs) none)) ∧
      (sound i g → segObject p g.ty = none → ∃ t, loaderStep pkg s = .next t ∧ LoadGoes s t pkg l (.seg (i + 1)) ∧ t.mem = s.mem ∧
        (getCtx t pkg l.ctx).cmr = Config.shake256 ((getCtx s pkg l.ctx).cmr ++ Config.shake256 (segMessage s pkg i g) 32) 32) ∧
      (∀ id ps sh, sound i g → segObject p g.ty = some id → segPlaces s pkg l.ctx id g.memsize = .ok ps sh →
        Gathers s (objectSectors s pkg l.ctx id ps) → Apart (entry id) ps → ∃ t k, loaderStep pkg s = .next t ∧
        LoadGoes s t pkg l (.inval i k) ∧ (∃ v ∈ t.invals, (v.k, v.pkg, v.ctx, v.id, v.count) = (k, pkg, l.ctx, id, 0)) ∧
        (getCtx t pkg l.ctx).cmr = Config.shake256 ((getCtx s pkg l.ctx).cmr ++ Config.shake256 (segMessage s pkg i g) 32) 32 ∧
        memNat t.mem (entry id) 32 = setBits (devNat s (entry id) 32) 43 40 (if g.ty = 1 then 4 else if g.ty = 2 then 1 else 3) ∧
        (∀ q ∈ ps, ∀ o, q.1 ≤ o → o < q.1 + q.2.1 → o < g.memsize → memByte t.mem (q.2.2.addr + (o - q.1)) =
          if o < g.size then (imgBytes s pkg (g.off + o) 1).headD 0 else 0) ∧
        ∀ a, (a < entry id ∨ entry id + 32 ≤ a) → (∀ q ∈ ps, a < q.2.2.addr ∨ q.2.2.addr + q.2.1 ≤ a) → memByte t.mem a = memByte s.mem a)) ∧
    (∀ i, l.phase = .seg i → l.segs[i]? = none → ∃ t, loaderStep pkg s = .next t ∧ OnlyPkgs s t ∧
      (kernelTable s pkg l.segs = none → LoadEnds s t pkg 3 0 ∧ (getPkg t pkg).images = p.images) ∧
      (∀ ks, kernelTable s pkg l.segs = some ks → LoadEnds s t pkg 0 0 ∧ (getPkg t pkg).ldrHandle = BitVec.ofNat 32 (l.ctx * 65536 + l.slot) ∧
        ∃ v, (getPkg t pkg).images = p.images ++ [v] ∧ (v.slot, v.ctx, v.code, v.kernels) = (l.slot, l.ctx, p.ldrobja.extractLsb' 24 24, ks))) ∧
    (∀ i k, l.phase = .inval i k → (∀ v ∈ s.invals, v.k = k → v.acks = []) →
      ∃ t, loaderStep pkg s = .next t ∧ OnlyPkgs s t ∧ LoadGoes s t pkg l (.seg (i + 1))) ∧
    (∀ i, l.phase = .revoke i [] none → ∃ t, loaderStep pkg s = .next t ∧ OnlyPkgs s t ∧ LoadEnds s t pkg 2 i) ∧
    (∀ i id ids, l.phase = .revoke i (id :: ids) none → (validEntry s (getCtx s pkg l.ctx) id.toNat).isSome = true →
      Gathers s [entry id / 64] → ∃ t k, loaderStep pkg s = .next t ∧ LoadGoes s t pkg l (.revoke i ids (some k)) ∧
        (∃ v ∈ t.invals, (v.k, v.pkg, v.ctx, v.id, v.count) = (k, pkg, l.ctx, id, 0)) ∧
        memNat t.mem (entry id) 32 = setBits (devNat s (entry id) 32) 42 42 0 ∧ OnlySectors s t [entry id / 64]))
/-- The loader engine (R219 to R224, R343, R344). -/
def Loads : Prop := LoadStarts ∧ LoadSteps

end Sys2Proof.Says

/-- R340 to R342, R219 to R224, R343, R344: the context commands with their causes in order, and the loader's results.
Rests on the model's choices of log entries 8, 9, 51, 52, 53, 55, 94, 113. -/
def Obligations.ContextsAndLoader : Prop := ContextCommands ∧ Loads

namespace Sys2Proof.Says

/-- Memory-side die md is one of the machine's. -/
def HasMd (s : State) (md : Nat) : Prop := md < 0x100000 ∧ 8 ≤ md % 16 ∧ ∃ d ∈ s.mds, d.unit = md
/-- Only memory-side dies have changed. -/
def OnlyMds (s t : State) : Prop := t = { s with mds := t.mds }
/-- HOTCTL, the record of an interval, and the predictor (R74 to R76, R108). -/
def Hotness : Prop := ∀ (s : State) (md : Nat), HasMd s md → mdUp s md = true →
  let d := getMd s md
  let n := bits d.hotbuf.toNat 11 4
  let h := d.hotHead.toNat % n
  let on := d.hotctl.getLsbD 0 = true ∧ bits d.hotctl.toNat 29 16 ≠ 0
  (∀ v : Word, iodRuns s (pkgOf md) = true → ∃ t, exec (.hotctlEnable md v) s = .next t ∧ OnlyMds s t ∧ (getMd t md).hotctl = (v ||| 1) &&& 0x3FFFFFF3 ∧
    (d.hotctl.getLsbD 0 = false → (getMd t md).sketch = [] ∧ (getMd t md).cands = [] ∧ (getMd t md).hotDrop = 0 ∧ (getMd t md).hotSeq = 0) ∧
    (d.hotctl.getLsbD 0 = true → (getMd t md).sketch = d.sketch ∧ (getMd t md).cands = d.cands)) ∧
  (on → n ≠ 0 → ∃ t, exec (.hotnessIntervalEnd md) s = .next t ∧
    ((h + 1) % n = d.hotTail.toNat % n → OnlyMds s t ∧ (getMd t md).hotDrop.toNat = min 255 (d.hotDrop.toNat + 1) ∧
      (getMd t md).hotHead = d.hotHead) ∧
    ((h + 1) % n ≠ d.hotTail.toNat % n → memWf s.mem = true →
      let at_ := md / 16 * 2 ^ 44 + bits d.hotbuf.toNat 40 12 * 4096 + 1024 * h
      Gathers s (sectorsOf at_ (hotRecord d 0).length) → (getMd t md).hotHead.toNat = (h + 1) % n ∧
        OnlySectors s t (sectorsOf at_ (hotRecord d 0).length) ∧ ∃ now, d.time.time.toNat ≤ now.toNat ∧
        ∀ i < (hotRecord d now).length, memByte t.mem (at_ + i) = (hotRecord d now).getD i 0) ∧
    ((h + 1) % n = d.hotTail.toNat % n ∨ Gathers s (sectorsOf (md / 16 * 2 ^ 44 + bits d.hotbuf.toNat 40 12 * 4096 + 1024 * h)
        (hotRecord d 0).length) →
      (getMd t md).cands = [] ∧ (getMd t md).hotSeq = d.hotSeq + 1 ∧ t.waves = s.waves ∧ t.cur = s.cur ∧ t.hostMem = s.hostMem ∧
      (d.hotctl.getLsbD 1 = false → (getMd t md).sketch = []))) ∧
  (∀ cd, iodRuns s (pkgOf cd) = true → ∃ t, exec (.cohctlPclr cd) s = .next t ∧ t = { s with cds := t.cds } ∧ (getCd t cd).pred = []) ∧
  (∀ cd, iodRuns s (pkgOf cd) = false → exec (.cohctlPclr cd) s = .next s) ∧
  (∀ v : Word, iodRuns s (pkgOf md) = false → exec (.hotctlEnable md v) s = .next s)
/-- Moves of a frame (R77, R78). -/
def Moves : Prop := ∀ (s : State) (md : Nat), HasMd s md → mdUp s md = true →
  let d := getMd s md
  (∀ v : BitVec 64,
    let dst := bits v.toNat 56 32
    let src := bits v.toNat 24 0
    (iodRuns s (pkgOf md) = false → exec (.migcmdMove md v) s = .next s) ∧
    (iodRuns s (pkgOf md) = true → ∃ t, exec (.migcmdMove md v) s = .next t ∧ OnlyMds s t ∧
    (d.move ≠ none ∨ src ≥ 0x1800000 ∨ dst ≥ 0x1800000 ∨ src % 8 ≠ md % 16 - 8 ∨ dst = src →
      getMd t md = { d with migRej := true }) ∧
    (d.move = none → src < 0x1800000 → dst < 0x1800000 → src % 8 = md % 16 - 8 → dst ≠ src →
      getMd t md = { d with move := some ⟨dst, src, 0⟩ }))) ∧
  (∀ m, d.move = some m →
    let x := md / 16 * 2 ^ 38 + m.src * 1024 + m.next
    let y := md / 16 * 2 ^ 38 + m.dst * 1024 + m.next
    x ≠ y → Gathers s [x] → (getHome s x).trump = none → memWf s.mem = true →
    ∃ t, exec (.migrationSectorMoved md) s = .next t ∧ t.cur = s.cur ∧ t.waves = s.waves ∧ t.hostMem = s.hostMem ∧
      OnlySectors s t [x, y] ∧ memNat t.mem (64 * y) 64 = (homeData s x).toNat ∧
      ((getHome t y).serial, (getHome t y).tokens, (getHome t y).own, (getHome t y).poison) =
        ((getHome s y).serial + 1, 64, true, (getHome s x).poison) ∧
      ((getHome t x).serial, (getHome t x).tokens, (getHome t x).own) = ((getHome s x).serial + 1, 64, true) ∧
      (m.next = 1023 → (getMd t md).move = none ∧ (getMd t md).migDone = d.migDone + 1) ∧
      (m.next ≠ 1023 → (getMd t md).move = some { m with next := m.next + 1 }))
/-- Bias flips, which begin to snoop the host once every token of the page is at home and the host requests that waited for them have
been served, and the host's answers to their snoops (R381 to R383). -/
def BiasFlips : Prop := ∀ (s : State) (md : Nat), HasMd s md → mdUp s md = true →
  let d := getMd s md
  let ends := fun (t : State) (key : Nat) (toHost : Bool) =>
    let n := ((pageLines key).map fun x => (coveringLinks s x).length).sum
    if n = 0 then (getMd t md).flip = none ∧ (getMd t md).biasDone = d.biasDone + 1 ∧ (getMd t md).biasLast = toHost ∧
      (getMd t md).hostBias = (if toHost then key :: d.hostBias else d.hostBias.filter (· != key))
    else (getMd t md).flip = some ⟨key, toHost, true, n⟩ ∧ (getMd t md).hostBias = d.hostBias
  let home := fun (key : Nat) => (∀ x ∈ pageLines key, homeHas s x = true) ∧
    ∀ q ∈ (getPkg s (pkgOf (homeUnit (key * 64)))).hostReqs, q.sector / 64 ≠ key
  (∀ v : BitVec 64, iodRuns s (pkgOf md) = false →
    exec (.biasFlipToHost md v) s = .next s ∧ exec (.biasFlipToDevice md v) s = .next s) ∧
  (∀ v : BitVec 64, iodRuns s (pkgOf md) = true →
    let page := bits v.toNat 28 0
    let key := md / 16 * 2 ^ 32 + page
    let here := page / 16 < 0x1800000 ∧ page / 16 % 8 = md % 16 - 8
    (∃ t, exec (.biasFlipToHost md v) s = .next t ∧
      (d.flip ≠ none ∨ ¬here ∨ key ∈ d.hostBias → OnlyMds s t ∧ getMd t md = { d with biasRej := true }) ∧
      (d.flip = none → here → key ∉ d.hostBias → t.mem = s.mem ∧ t.waves = s.waves ∧ t.cur = s.cur ∧ t.hostMem = s.hostMem ∧
        (home key → ends t key true) ∧
        (¬home key → (getMd t md).flip = some ⟨key, true, false, 0⟩ ∧ (getMd t md).hostBias = d.hostBias))) ∧
    (∃ t, exec (.biasFlipToDevice md v) s = .next t ∧
      (d.flip ≠ none ∨ ¬here ∨ key ∉ d.hostBias → OnlyMds s t ∧ getMd t md = { d with biasRej := true }) ∧
      (d.flip = none → here → key ∈ d.hostBias → ends t key false ∧ t.mem = s.mem ∧ t.waves = s.waves ∧ t.cur = s.cur))) ∧
  (∀ f, d.flip = some f → f.toHost = true → f.snooping = false → home f.page → ∃ t, flipStep md s = .next t ∧ ends t f.page true ∧
    t.mem = s.mem ∧ t.waves = s.waves ∧ t.cur = s.cur ∧ t.hostMem = s.hostMem) ∧
  (∀ (n x l : Nat) (m : Msg) (inv fl : Bool), s.net[n]? = some m → m.body = .biSnp l x inv fl → homeUnit x = md → writeHeld s x l = false →
    let h := getHome s x
    (d.flip = none → h.trump = none → ∃ t, exec (.birsp n none) s = .next t ∧ t = { s with net := dropAt n s.net, homes := t.homes } ∧
      getHome t x = { h with biOwed := h.biOwed - 1, hostHeld := h.hostHeld && h.biOwed > 1 }) ∧
    (∀ f, d.flip = some f → f.page = x / 64 → f.snooping = true → ∃ t, exec (.birsp n none) s = .next t ∧ t.mem = s.mem ∧
      (fl = false → (getMd t md).flip = some f) ∧
      (fl = true → 1 < f.owed → (getMd t md).flip = some { f with owed := f.owed - 1 }) ∧
      (fl = true → f.owed ≤ 1 → (getMd t md).flip = none ∧ (getMd t md).biasDone = d.biasDone + 1 ∧
        (getMd t md).hostBias = if f.toHost then f.page :: d.hostBias else d.hostBias.filter (· != f.page))) ∧
    (∀ v, d.flip = none → h.tokens = 64 → h.own = true → h.frozen = false →
      memWf s.mem = true → ∃ t, exec (.birsp n (some v)) s = .next t ∧ OnlySectors s t [x] ∧ t.hostMem = s.hostMem ∧
        memNat t.mem (64 * x) 64 = v.toNat ∧ t.waves = s.waves ∧ t.cur = s.cur))
/-- The host's reads, writes and AtomicOps of a line (R376, R378, R381, R384, R400). -/
def HostRequests : Prop := ∀ (s : State) (pkg link ad o : Nat), linkUp s pkg link = true →
  hdmOffset (getPkg s pkg) link ad = some o →
  let x := pkg * 2 ^ 38 + o / 64
  let h := getHome s x
  let out := fun (t : State) r => t.hostOut = s.hostOut ++ [r] ∧ t.waves = s.waves ∧ t.cur = s.cur ∧ t.hostMem = s.hostMem
  let conf := confFrame s (pkg * 2 ^ 28 + o / 65536)
  let reaches := o < 0x18000000000 ∧ conf = false
  let first := ∀ q ∈ (getPkg s pkg).hostReqs, q.sector ≠ x
  let served := reaches ∧ first ∧ mdUp s (homeUnit x) = true ∧ (inFlip s x = true → h.own = true)
  let whole := h.tokens = 64 ∧ h.own = true ∧ h.frozen = false
  (∀ req mv, (req, mv) ∈ [(CxlReq.none, MetaValue.i), (.shared, .s), (.exclusive, .a)] → ∃ t, exec (.cxlMemrd pkg link ad req) s = .next t ∧
    (0x18000000000 ≤ o → out t (.data ad ones512 true .i) ∧ t.mem = s.mem) ∧
    (o < 0x18000000000 → conf = true → out t (.data ad ones512 false .i) ∧ t.mem = s.mem) ∧
    (reaches → ¬first ∨ (inFlip s x = true ∧ h.own = false) → t.hostOut = s.hostOut ∧ OnlyPkgs s t ∧
      (getPkg t pkg).hostReqs = (getPkg s pkg).hostReqs ++ [⟨link, ad, x, .read req (o % 64)⟩]) ∧
    (served → hostRules s x = false ∨ req = .none ∨ h.hostHeld = true → let mv := if hostRules s x then mv else .i
      (h.own = true → out t (.data ad (homeData s x) h.poison mv) ∧ t.mem = s.mem ∧ t.sectors = s.sectors ∧
        (h.trump = none → t.homes = s.homes ∧ t.net = s.net)) ∧
      (∀ cd, h.own = false → ownerDie s x = some cd → let e := getSec s cd x
        h.trump = none → h.frozen = false → e.act = none → e.frozen = false →
        out t (.data ad (if e.poison then ones512 else e.data) e.poison mv) ∧ (getHome t x).tokens = h.tokens + 1 ∧ t.net = s.net ∧
        (1 < e.tokens → t.mem = s.mem ∧ (getHome t x).own = false ∧ getSec t cd x = { e with tokens := e.tokens - 1 }) ∧
        (e.tokens = 1 → (getHome t x).own = true ∧ (getSec t cd x).tokens = 0 ∧ (getSec t cd x).own = false ∧
          (memWf s.mem = true → memNat t.mem (64 * x) 64 = (if e.poison then ones512 else e.data).toNat)))) ∧
    (served → hostRules s x = true → req ≠ .none → h.hostHeld = false → h.biOwed = 0 → whole → h.trump = none →
      out t (.data ad (homeData s x) h.poison mv) ∧ (getHome t x).hostHeld = true ∧ (getHome t x).tokens = 64 ∧ t.mem = s.mem ∧
      ∀ y, y ≠ x → getHome t y = getHome s y)) ∧
  (∀ v, ∃ t, exec (.cxlMemwr pkg link ad v) s = .next t ∧
    (0x18000000000 ≤ o ∨ conf = true → out t (.written ad) ∧ t.mem = s.mem) ∧
    (served → whole → memWf s.mem = true →
      out t (.written ad) ∧ OnlySectors s t [x] ∧ memNat t.mem (64 * x) 64 = v.toNat ∧
      (h.trump = none → (getHome t x).poison = false ∧ (getHome t x).hostHeld = h.hostHeld))) ∧
  (∀ wide v w, let n := if wide then 8 else 4
    let old : BitVec 64 := BitVec.ofNat 64 (memNat s.mem (64 * x + o % 64) n)
    served → whole → h.hostHeld = false → h.biOwed = 0 → h.trump = none → h.poison = false → memWf s.mem = true → (o % 64) % n = 0 →
    ∀ req new, (req, new) ∈ [(CxlReq.fetchAdd wide v, old + v), (.swap wide v, v),
      (.cas wide v w, if old.toNat % 256 ^ n = v.toNat % 256 ^ n then w else old)] →
    ∃ t, exec (.cxlMemrd pkg link ad req) s = .next t ∧ out t (.atomic ad old) ∧
      memNat t.mem (64 * x + o % 64) n = new.toNat % 256 ^ n ∧
      ∀ a, (a < 64 * x + o % 64 ∨ 64 * x + o % 64 + n ≤ a) → memByte t.mem a = memByte s.mem a) ∧
  (∀ (n : Nat) (q : HostReq) (off : Nat), (getPkg s pkg).hostReqs[n]? = some q → q.op = .read .none off →
    (∀ r ∈ (getPkg s pkg).hostReqs.take n, r.sector ≠ q.sector) → mdUp s (homeUnit q.sector) = true → (getHome s q.sector).own = true →
    ∃ t, hostServe pkg n s = .next t ∧ out t (.data q.addr (homeData s q.sector) (getHome s q.sector).poison .i) ∧ t.mem = s.mem ∧
      (getPkg t pkg).hostReqs = dropAt n (getPkg s pkg).hostReqs)
/-- Accesses of an operation that go to a lost place, turned to no place at all (R71, R377, R389). -/
def Loses (lost : Target → Bool) (v u : Wave) : Prop :=
  u.a = v.a ∧ u.ops = v.ops.map (fun o => { o with acc := o.acc.map fun x => if lost x.tgt then { x with tgt := lostPlace } else x })
/-- Host links, and the removal of a package (R71, R102, R377, R389). -/
def LinksAndRemoval : Prop := ∀ (s : State) (pkg : Nat), HasPkg s pkg →
  (∀ link, ∃ t, exec (.hostLinkDown pkg link) s = .next t ∧ t.mem = s.mem ∧ t.hostMem = s.hostMem ∧ linkUp t pkg link = false ∧
    (∀ q ∈ (getPkg t pkg).hostReqs, q.link ≠ link) ∧
    (∀ w v, getWave s w = some v → pkgOf w.cd = pkg → ctxLink s pkg v.ctx = link → ∃ u, getWave t w = some u ∧
      Loses (fun x => x.space == .host pkg) v u) ∧
    (∀ w v, getWave s w = some v → ¬(pkgOf w.cd = pkg ∧ ctxLink s pkg v.ctx = link) → getWave t w = some v)) ∧
  (∀ link, ∃ t, exec (.hostLinkUp pkg link) s = .next t ∧ OnlyPkgs s t ∧ linkUp t pkg link = iodRuns s pkg) ∧
  (∀ far, pkg ≠ far → isRemoved s pkg far = false → ∃ t, exec (.removalNotice pkg far) s = .next t ∧
    ((∀ h ∈ s.homes, ∀ q d, h.trump = some q → q.phase ≠ .fetch d) → t.mem = s.mem) ∧
    t.hostMem = s.hostMem ∧ (getPkg t pkg).removed = (getPkg s pkg).removed ++ [far] ∧
    ((∀ p ∈ s.pkgs, far ∉ p.removed) → (∀ w v, getWave t w = some v → pkgOf w.cd ≠ far) ∧ (∀ l ∈ t.launches, l.pkg ≠ far) ∧
      ∀ b ∈ t.blocks, b.pkg ≠ far) ∧
    (∀ w v, getWave s w = some v → pkgOf w.cd = pkg → ∃ u, getWave t w = some u ∧
      Loses (fun x => x.space == .dev && pkgOf (homeUnit (x.addr / 64)) == far) v u) ∧
    (∀ cd x, (pkgOf cd = pkg ∧ pkgOf (homeUnit x) = far) ∨ (pkgOf cd = far ∧ pkgOf (homeUnit x) = pkg) →
      (getSec t cd x).tokens = 0) ∧
    (∀ cd x, ¬(pkgOf cd = pkg ∧ pkgOf (homeUnit x) = far) → ¬(pkgOf cd = far ∧ pkgOf (homeUnit x) = pkg) →
      (∀ h ∈ s.homes, ∀ q d, h.trump = some q → q.phase ≠ .fetch d) → (getSec t cd x).tokens = (getSec s cd x).tokens)) ∧
  (∀ far, isRemoved s pkg far = true → exec (.removalNotice pkg far) s = .next s)
/-- Multicast at a router, the lanes of a link at both its ends, and a hop of a message (R386 to R388, R390). -/
def RouterAndLinks : Prop := ∀ (s : State) (pkg : Nat), HasPkg s pkg → iodRuns s pkg = true →
  let p := getPkg s pkg
  (∀ n f, p.mcIn[n]? = some f →
    let bs := branches p f
    let blocked := bs.filter fun l => !carries s l
    let here := f.via ≠ none ∧ (mcEntry p f.group).getLsbD 32 = true
    (512 < p.mcHeld.length + blocked.length → exec (.multicastFlit pkg n) s = .next s) ∧
    (p.mcHeld.length + blocked.length ≤ 512 → ∃ t, exec (.multicastFlit pkg n) s = .next t ∧ t.mem = s.mem ∧
      (getPkg t pkg).mcHeld = p.mcHeld ++ blocked.map (fun l => (l.id, f)) ∧
      (¬here → t.net = s.net ∧ t.waves = s.waves) ∧
      (here → (∀ k, f.body ≠ .coll k) → t.waves = s.waves ∧
        t.net = s.net ++ (countedDies s pkg).map fun d => { src := f.src, dst := d, body := f.body, pos := some pkg }) ∧
      (∀ k, here → f.body = .coll k → t.net = s.net ∧ ∀ w v, getWave s w = some v → getWave t w = some { v with
        ops := v.ops.map fun o => if o.id == k then { o with carried := o.carried.map (pkg :: ·) } else o }) ∧
      (∀ l ∈ bs, ∀ q, carries s l = true → l.far = some q → q ≠ pkg → isRemoved s pkg q = false → HasPkg s q →
        { f with via := some pkg } ∈ (getPkg t q).mcIn))) ∧
  (∀ link l, getLink s pkg link = some l →
    let farLinks := fun (t : State) (l : Link) (p : Link → Prop) =>
      ∀ q, l.far = some q → ∀ y ∈ (getPkg t q).links, y.id = l.port → y.far = some pkg → p y
    let flows := fun (t : State) (m : Link) => getLink t pkg link = some m ∧ (carries s m = true →
      (∀ h ∈ (getPkg t pkg).mcHeld, h.1 ≠ link) ∧ ∀ h ∈ p.mcHeld, h.1 = link → ∀ q, l.far = some q → isRemoved s pkg q = false →
        HasPkg s q → { h.2 with via := some pkg } ∈ (getPkg t q).mcIn)
    (∃ t, exec (.multicastCreditReturn pkg link) s = .next t ∧ OnlyPkgs s t ∧ flows t { l with credit := true }) ∧
    (∃ t, exec (.linkRetrainDone pkg link) s = .next t ∧ OnlyPkgs s t ∧ flows t { l with training := false } ∧
      farLinks t l fun y => y.training = false) ∧
    (∃ t, exec (.laneSparing pkg link) s = .next t ∧ OnlyPkgs s t ∧ getLink t pkg link =
      some (if l.up && !l.spareUsed then { l with spareUsed := true, training := true } else l) ∧
      ∀ q y, l.far = some q → getLink s q l.port = some y → y.far = some pkg → y.up = true → y.spareUsed = false →
        getLink t q l.port = some { y with spareUsed := true, training := true }) ∧
    (l.up = true → l.spareUsed = true → ∃ t, exec (.linkTeardown pkg link) s = .next t ∧
      getLink t pkg link = some { l with up := false, training := false } ∧ (∃ ls, (getPkg t pkg).linkLog = p.linkLog ++ link :: ls) ∧
      (farLinks t l fun y => y.up = false ∧ y.training = false) ∧
      (∀ m ∈ t.net, m ∈ s.net) ∧
      (∀ m ∈ s.net, crossTok pkg m = false → (∀ q, l.far = some q → crossTok q m = false) → m ∈ t.net) ∧
      t.mem = s.mem ∧ t.waves = s.waves)) ∧
  (∀ n m link l q esc, s.net[n]? = some m → msgPkg m = pkg → arrived m = false → getLink s pkg link = some l → l.far = some q →
    let e := route p (unitPkg m.dst)
    carries s l = true → unitPkg m.dst ∉ p.removed → q ∉ p.removed → e.getLsbD 12 = true →
    (if esc then bits e.toNat 4 0 = link ∧ m.hops < 6 else m.esc = false ∧ e.getLsbD (32 + link) = true) →
    hop n link esc s = .next { s with net := s.net.set n { m with pos := some q, hops := m.hops + 1, esc := m.esc || esc, retries := 0 } })

end Sys2Proof.Says

/-- R73 to R78, R108: hotness intervals and their records, the predictor, and moves of a frame sector by sector.
Rests on the model's choices of log entries 3, 8, 94. -/
def Obligations.HotnessAndMoves : Prop := Hotness ∧ Moves
/-- R376, R378, R380 to R384, R400: bias flips, back-invalidate answers, and the host's reads, writes and AtomicOps of a line, one
that must wait being held. Rests on the model's choices of log entries 8, 9, 18, 93, 94. -/
def Obligations.HostAccess : Prop := BiasFlips ∧ HostRequests
/-- R71, R102, R377, R385 to R390: host links, the removal of a package, multicast, the lanes of a link and a hop of a message.
Rests on the model's choices of log entries 2, 3, 13, 64, 94, 107. -/
def Obligations.Fabric : Prop := LinksAndRemoval ∧ RouterAndLinks

/-! ## The platform: time, clocks, power, security, debug and trace -/

namespace Sys2Proof.Says

/-- The time base of a listed die runs (R28, R391). -/
def Clocked (s : State) (die : Nat) : Prop :=
  hasTime s die = true ∧ (die < 0x100000 → 8 ≤ die % 16 → ∃ d ∈ s.mds, d.unit = die)
/-- Memory, waves, cores, blocks and queues are as before: only dies and packages have changed. -/
def OnlyDies (s t : State) : Prop :=
  t = { s with cds := t.cds, mds := t.mds, pkgs := t.pkgs, free := t.free }
/-- The distance of two TIMEs. -/
def timesApart (a b : BitVec 64) : Nat := Nat.max a.toNat b.toNat - Nat.min a.toNat b.toNat
/-- TIME after an exchange with a partner (R25 to R27): it steps forward where it is more than 1 µs behind, is else left to
slew, and never runs backward; ERR takes in the partner's own bound and bounds the distance from the reference r. -/
def Exchanged (s t : State) (die partner r : Nat) (reference : BitVec 64) (err : BitVec 16) (domain : Bool) : Prop :=
  let a := timeSt s die
  let b := timeSt t die
  let p := timeSt t partner
  a.time.toNat ≤ b.time.toNat ∧ min 0xFFFF (err.toNat + p.err.toNat) ≤ b.err.toNat ∧
  b.lock = decide (b.err.toNat ≤ lockBound domain) ∧ b.holdover = false ∧
  b.domain = domain ∧ (b.step = true ∨ b.step = a.step) ∧ (b.step = false → p.time.toNat ≤ b.time.toNat + 16000) ∧
  (timeSt s partner).time.toNat ≤ p.time.toNat ∧ (timeRef s partner = partner → reference.toNat ≤ p.time.toNat) ∧
  (b.err = 0xFFFF ∨ timesApart b.time (timeSt t r).time ≤ b.err.toNat)
/-- The pod has a reference package whose grandmaster's time base runs. -/
def PodClocked (s : State) (q : Nat) : Prop := s.podRef = some q ∧ Clocked s (grandmaster s q)
/-- A package that was the reference of its pod is so no more: the pod has none, and no die of another package has a bound against
it (R24, R26). -/
def NoBound (s t : State) (pkg : Nat) : Prop := s.podRef = some pkg → t.podRef = none ∧
  ∀ u, Clocked s u → timePkg u ≠ pkg → timeRef s u = grandmaster s pkg → (timeSt t u).err = 0xFFFF
/-- The time base (R23 to R28). -/
def TimeBase : Prop := ∀ (s : State) (die pkg q : Nat) (reference : BitVec 64) (err : BitVec 16),
  let p := getPkg s pkg
  (Clocked s die → timePkg die = pkg →
    (die ≠ grandmaster s pkg → Clocked s (grandmaster s pkg) → p.inPod = false →
      ∃ t, exec (.syncExchange die reference err) s = .next t ∧ OnlyDies s t ∧
      Exchanged s t die (grandmaster s pkg) (grandmaster s pkg) reference err false) ∧
    (die ≠ grandmaster s pkg → p.inPod = true → PodClocked s q →
      ∃ t, exec (.syncExchange die reference err) s = .next t ∧ OnlyDies s t ∧
      Exchanged s t die (grandmaster s pkg) (grandmaster s q) reference err true) ∧
    (die ≠ grandmaster s pkg ∨ (p.inPod = true ∧ s.podRef ≠ some pkg) → ∃ t, exec (.holdoverTimeout die) s = .next t ∧ OnlyDies s t ∧
      let a := timeSt s die
      let b := timeSt t die
      a.time.toNat ≤ b.time.toNat ∧ (b.step, b.domain, b.holdover) = (a.step, a.domain, true) ∧
      (a.holdover = false → (b.err, b.heldErr, b.heldSince) = (a.err, a.err, b.time)) ∧
      (a.holdover = true → (b.heldErr, b.heldSince) = (a.heldErr, a.heldSince) ∧ b.err = heldErr b) ∧
      b.lock = (a.lock && decide (b.err.toNat ≤ lockBound a.domain)))) ∧
  (Clocked s (grandmaster s pkg) → p.inPod = true → PodClocked s q → q ≠ pkg → nearerPkgs s pkg q ≠ [] →
    (∀ n ∈ nearerPkgs s pkg q, n ≠ pkg ∧ Clocked s (grandmaster s n)) →
    ∃ t, ∃ n ∈ nearerPkgs s pkg q, exec (.podExchange pkg reference err) s = .next t ∧ OnlyDies s t ∧
    Exchanged s t (grandmaster s pkg) (grandmaster s n) (grandmaster s q) reference err true) ∧
  (p.inPod = true → s.podRef = some q → q = pkg ∨ nearerPkgs s pkg q = [] →
    exec (.podExchange pkg reference err) s = .next s) ∧
  (HasPkg s pkg → p.iod1 = false → p.cold = false → ∃ t, exec (.grandmasterFailover pkg) s = .next t ∧ OnlyDies s t ∧
    let a := timeSt s (iodUnit pkg 1)
    let b := timeSt t (iodUnit pkg 1)
    grandmaster t pkg = iodUnit pkg 1 ∧ a.time.toNat ≤ b.time.toNat ∧
    (p.inPod = false ∨ s.podRef = some pkg → (b.lock, b.err, b.holdover) = (true, 0, false)) ∧
    (timeSt t (iodUnit pkg 0)).holdover = true ∧
    (∀ u, Clocked s u → timeRef s u = iodUnit pkg 0 → u ≠ iodUnit pkg 0 → u ≠ iodUnit pkg 1 → (timeSt s u).holdover = false →
      a.holdover = false → min 0xFFFF ((timeSt s u).err.toNat + a.err.toNat) ≤ (timeSt t u).err.toNat) ∧
    ∀ u, 16 * pkg ≤ u → u < 16 * pkg + 16 → u < 0x100000 → Clocked s u → (timeSt t u).holdover = true) ∧
  (HasPkg s pkg → p.inPod = false → p.cold = false → (∀ b ∈ s.blocks, b.pkg = pkg → b.state ≠ .resident ∧ b.state ≠ .stopping) →
    ∃ t, exec (.podJoin pkg reference) s = .next t ∧ t = { s with cds := t.cds, mds := t.mds, pkgs := t.pkgs } ∧
    (getPkg t pkg).inPod = true ∧ (∀ q ∈ t.pkgs, pkg ∉ q.removed) ∧
    ∀ u, u = iodUnit pkg 0 ∨ u = iodUnit pkg 1 ∨ (16 * pkg ≤ u ∧ u < 16 * pkg + 16 ∧ u < 0x100000) → Clocked s u →
      (s.podRef = none → timeSt t u = joinedTime reference false) ∧
      (s.podRef = some pkg → timeSt t u = joinedTime reference (u == grandmaster s pkg)) ∧
      (PodClocked s q → q ≠ pkg → timeSt t u = joinedTime (timeSt t (grandmaster s q)).time false ∧
        reference.toNat ≤ (timeSt t (grandmaster s q)).time.toNat)) ∧
  (HasPkg s pkg → p.cold = false → s.podRef = none → ∃ t, nameReference pkg s = .next t ∧
    t = { s with pkgs := t.pkgs, podRef := some pkg } ∧ (∀ k, k ≠ pkg → getPkg t k = getPkg s k) ∧
    let b := timeSt t (grandmaster s pkg)
    (b.time, b.lock, b.err, b.holdover) = ((timeSt s (grandmaster s pkg)).time, true, 0, false)) ∧
  (s.podRef ≠ none → nameReference pkg s = .next s) ∧
  (∀ far, pkg ≠ far → isRemoved s pkg far = false → (getPkg s far).inPod = true → ∃ t, exec (.removalNotice pkg far) s = .next t ∧
    NoBound s t far)
/-- TIME as it is sampled (R23, R26, R29): never below the last sample, on the reference the reference's own TIME, and elsewhere
within ERR of the reference's TIME at the same moment, wherever the last sample was. -/
def TimeSamples : Prop := ∀ (s : State) (die : Nat), Clocked s die → Clocked s (timeRef s die) →
  let r := timeRef s die
  let e := (timeSt s die).err
  let x := sampleTime s die
  let now := (timeSt x.2 r).time
  (timeSt x.2 die).time = x.1 ∧ (timeSt s die).time.toNat ≤ x.1.toNat ∧ (timeSt s r).time.toNat ≤ now.toNat ∧ (r = die → x.1 = now) ∧
  (r ≠ die → e ≠ 0xFFFF → (timeSt s die).time.toNat ≤ now.toNat + e.toNat → timesApart x.1 now ≤ e.toNat)
/-- Only compute die cd has changed, into d. -/
def CdBecomes (s t : State) (cd : Nat) (d : CDie) : Prop :=
  t = { s with cds := t.cds } ∧ (∀ u, u ≠ cd → getCd t u = getCd s u) ∧ getCd t cd = d
/-- The core clock of a die whose trace is off, and its thermal control (R19, R20, R391, R393). A thermal stop samples TIME for its
record, whose die number is the physical one (log entry 91). -/
def Clocks : Prop := ∀ (s : State) (cd mhz : Nat), NoTrace s cd → isCd cd = true →
  let d := getCd s cd
  d.present = true → d.unreachable = false →
  (d.power = .run → d.thermal = false → 1000 ≤ mhz → mhz ≤ 3200 → ∃ t, exec (.coreFrequencyChange cd mhz) s = .next t ∧
    CdBecomes s t cd { d with mhz := mhz }) ∧
  (d.power = .run → d.thermal = false → 1000 ≤ mhz → mhz < d.mhz → ∃ t, exec (.thermalThrottle cd mhz) s = .next t ∧
    CdBecomes s t cd { d with mhz := mhz }) ∧
  (d.power = .run → ∃ t c, exec (.coreClockStop cd) s = .next t ∧ t = { s with cds := t.cds, free := t.free } ∧
    (∀ u, u ≠ cd → getCd t u = getCd s u) ∧ getCd t cd = { d with power := .coreStop, cycle := c } ∧
    d.cycle.toNat ≤ c.toNat ∧ (d.thermal = true → c = d.cycle)) ∧
  (d.power = .coreStop → ∃ t, exec (.coreClockRestart cd) s = .next t ∧ CdBecomes s t cd { d with power := .run }) ∧
  (d.power = .run ∨ d.power = .coreStop → d.thermal = false → ∃ t f, exec (.thermalStop cd) s = .next t ∧
    t = { s with cds := t.cds, pkgs := t.pkgs, free := t.free, faults := s.faults ++ [f] } ∧ f.cause = .therm ∧ f.vdie = cd % 16 ∧
    (∃ x c, getCd t cd = { d with thermal := true, time := x, cycle := c } ∧ d.cycle.toNat ≤ c.toNat) ∧ (∀ u, u ≠ cd → getCd t u = getCd s u) ∧
    ∀ p, ∃ x y, getPkg t p = { getPkg s p with time0 := x, time1 := y }) ∧
  (d.thermal = true → ∃ t, exec (.thermalRestart cd) s = .next t ∧ CdBecomes s t cd { d with thermal := false, mhz := 1000 })
/-- The power states of a die (R20, R28, R49, R391, R392). -/
def PowerStates : Prop := ∀ (s : State) (cd : Nat),
  let d := getCd s cd
  (d.present = true → d.unreachable = false → uncoreIdle s cd = true →
    (d.power = .coreStop → ∃ t, exec (.uncoreGate cd) s = .next t ∧ (getCd t cd).power = .gated ∧ (getCd t cd).dtlb = [] ∧
      (∀ x, (getSec t cd x).tokens = 0) ∧ (∀ k ∈ t.cores, k.id.cd = cd → k.tlb = []) ∧ t.hostMem = s.hostMem) ∧
    (d.power = .run ∨ d.power = .coreStop → dieBlocks s cd = [] →
      (∀ m ∈ s.net, m.dst = cd → ∀ x ser c own v md p tag w, m.body ≠ .tok x ser c own v md p tag w) →
      ∃ t, exec (.dieOff cd) s = .next t ∧ (getCd t cd).power = .off ∧ cd ∉ countedDies t (pkgOf cd) ∧
        FwTarget.compute ∉ (getPkg t (pkgOf cd)).sec.verified ∧ (∀ e ∈ t.sectors, e.cd ≠ cd) ∧
        (∀ k ∈ t.cores, k.id.cd ≠ cd) ∧ t.hostMem = s.hostMem)) ∧
  (d.power = .gated → (∃ e ∈ s.cds, e.unit = cd) → ∃ t, exec (.uncoreWake cd) s = .next t ∧ (getCd t cd).power = .coreStop ∧
    t.mem = s.mem ∧ t.waves = s.waves ∧ ∀ e ∈ t.sectors, ∀ r, e.req = some r → cd ∉ r.wakes) ∧
  (d.power = .off → FwTarget.compute ∈ (getPkg s (pkgOf cd)).sec.verified → cd % 16 < 8 → cd < 0x100000 → (∃ e ∈ s.cds, e.unit = cd) →
    ∃ t, exec (.dieReturn cd) s = .next t ∧ (getCd t cd).power = .run ∧ (getCd t cd).time.step = true ∧ (getCd t cd).time.lock = false ∧
      d.time.time.toNat ≤ (getCd t cd).time.time.toNat ∧ t.mem = s.mem ∧ t.waves = s.waves)
/-- A package is as reset leaves it, but for its lifecycle state and its device identifier (R60, R391). -/
def IsReset (s t : State) (pkg : Nat) : Prop :=
  (∀ w ∈ allWaves t, pkgOf w.id.cd ≠ pkg) ∧ (∀ b ∈ t.blocks, b.pkg ≠ pkg) ∧ (∀ c ∈ t.ctxs, c.pkg ≠ pkg) ∧
  (∀ q ∈ t.queues, q.pkg ≠ pkg) ∧ (∀ k ∈ t.cores, pkgOf k.id.cd ≠ pkg) ∧ (∀ e ∈ t.sectors, pkgOf e.cd ≠ pkg) ∧
  (∀ d ∈ t.cds, pkgOf d.unit = pkg → d.power = .reset ∧ d.unreachable = false) ∧ (∀ x, x * 64 / 2 ^ 44 = pkg → getHome t x = { sector := x }) ∧
  (∀ p k, p ≠ pkg → getCtx t p k = getCtx s p k) ∧ t.hostMem = s.hostMem ∧ t.podRef ≠ some pkg ∧ NoBound s t pkg ∧
  (∀ d ∈ t.mds, pkgOf d.unit = pkg → d.inReset = true) ∧ t.hostOut = s.hostOut ++ [.nonce pkg (getPkg t pkg).sec.nonce] ∧
  let a := getPkg s pkg
  let b := getPkg t pkg
  (b.sec.lifecycle, b.sec.devid, b.sec.leaf, b.sec.verified) = (a.sec.lifecycle, a.sec.devid, a.sec.leaf, []) ∧
  (b.ctxtbl0, b.ctxtbl1, b.images, b.flogbase, b.time0.lock, b.time0.err) = (0, 0, [], 0, true, 0)
/-- A package reset, and D3cold (R60, R391). -/
def PackageResets : Prop := ∀ (s : State) (pkg : Nat), HasPkg s pkg →
  (∃ t, exec (.packageD3cold pkg) s = .next t ∧ IsReset s t pkg ∧ (getPkg t pkg).cold = true ∧ (getPkg t pkg).sec.held = false) ∧
  ((getPkg s pkg).sec.held = false → ∃ t, exec (.packageReset pkg) s = .next t ∧ IsReset s t pkg ∧ (getPkg t pkg).cold = false ∧
    (memWf s.mem = true → ∀ a, memByte t.mem a = if a / 2 ^ 44 = pkg then 0 else memByte s.mem a)) ∧
  ((getPkg s pkg).sec.held = true → exec (.packageReset pkg) s = .next s)

end Sys2Proof.Says

/-- R23 to R28: exchanges, holdover, the failover of the grandmaster, and joining a pod.
Rests on the model's choices of log entries 3, 16, 77. -/
def Obligations.TimeAndPods : Prop := TimeBase ∧ TimeSamples
/-- R19, R20, R49, R60, R391 to R393: core clocks, thermal control, power states, reset and D3cold.
Rests on the model's choices of log entries 2, 3, 41, 65, 66, 77, 91, 94. -/
def Obligations.PowerAndReset : Prop := Clocks ∧ PowerStates ∧ PackageResets

namespace Sys2Proof.Says

/-- A measurement register extended with the digest of a message (R395). -/
def Extends (new old msg : List Byte) : Prop := new = Config.shake256 (old ++ Config.shake256 msg 32) 32
/-- The patrol scrub, and the alarms (R59, R60, R375, R394). -/
def ScrubAndAlarms : Prop := ∀ (s : State) (pkg md : Nat) (cls : AlarmClass) (k : Fin 5),
  (∃ t, exec (.patrolScrub md) s = .next t ∧ t = { s with homes := t.homes } ∧ ∀ x,
    let h := getHome s x
    getHome t x = if homeUnit x = md ∧ atomOpen s .dev x = false ∧ (64 < h.tokens ∨ (h.own = true ∧ h.tokens = 0)) then { h with poison := true } else h) ∧
  (securityRuns s pkg = true → (cls, k) ∈ [(AlarmClass.volt, 0), (.clk, 1), (.temp, 2), (.light, 3), (.mesh, 4)] →
    let a := (getPkg s pkg).sec.almctl[k]
    ∃ t, exec (.alarm pkg cls) s = .next t ∧
      (a ≠ 2 → t.mem = s.mem ∧ t.waves = s.waves ∧ (getPkg t pkg).sec.almHit = (getPkg s pkg).sec.almHit ||| (1#5 <<< k.val) ∧
        (∃ f, t.faults = s.faults ++ [f] ∧ f.cause = .alarm ∧ f.code = 1#32 <<< k.val) ∧
        (a = 1 → ∀ c ∈ t.ctxs, c.pkg = pkg → c.keys = none) ∧ (a ≠ 1 → t.ctxs = s.ctxs)) ∧
      (a = 2 → IsReset s t pkg ∧ (getPkg t pkg).sec.held = true)) ∧
  (securityRuns s pkg = false → exec (.alarm pkg cls) s = .next s)
/-- Firmware and measurements (R373, R393 to R396). -/
def Firmware : Prop := ∀ (s : State) (pkg : Nat), pkgRuns s pkg = true →
  let x := (getPkg s pkg).sec
  (∀ (target : FwTarget) (k : Fin 8) (image sig : List Byte),
    (target, k) ∈ [(FwTarget.security, 0), (.iod, 1), (.compute, 2), (.memside, 3)] →
    (target ≠ .security → FwTarget.security ∉ x.verified → exec (.firmwareVerify pkg target image sig) s = .next s) ∧
    (target = .security ∨ FwTarget.security ∈ x.verified → ∃ t, exec (.firmwareVerify pkg target image sig) s = .next t ∧
      let y := (getPkg t pkg).sec
      (Config.xmssVerify Config.fwKey image sig = true → (target ≠ .memside → t = { s with pkgs := t.pkgs, cds := t.cds }) ∧
        target ∈ y.verified ∧ Extends y.mr[k] x.mr[k] image ∧ (∀ j : Fin 8, j ≠ k → y.mr[j] = x.mr[j]) ∧
        (target = .compute → ∀ d ∈ t.cds, pkgOf d.unit = pkg → d.present = true → d.unreachable = false → d.power ≠ .reset) ∧
        (target = .memside → (∀ d ∈ t.mds, pkgOf d.unit = pkg → d.unreachable = false → d.inReset = false) ∧
          t = { s with pkgs := t.pkgs, mds := t.mds, mem := t.mem, homes := t.homes, sectors := t.sectors, net := t.net } ∧
          (memWf s.mem = true → ∀ a, memByte t.mem a = if ∃ d ∈ s.mds, d.unit = homeUnit (a / 64) ∧ pkgOf d.unit = pkg ∧
            d.inReset = true ∧ d.unreachable = false then 0 else memByte s.mem a))) ∧
      (Config.xmssVerify Config.fwKey image sig = false → target ∉ y.verified ∧ y.mr = x.mr ∧
        (∃ fs f, t.faults = fs ++ [f] ∧ f.pkg = pkg ∧ f.cause = .alarm ∧ f.code = 0) ∧
        (target ≠ .compute → t = { s with pkgs := t.pkgs, mds := t.mds, faults := t.faults, free := t.free }) ∧
        (target = .compute → ∀ u, pkgOf u = pkg → (getCd s u).present = true → (getCd s u).power ≠ .off →
          (getCd t u).power = .reset ∧ ((getCd s u).power ≠ .reset → dieBlocks t u = [])) ∧
        (target = .memside → ∀ d ∈ t.mds, pkgOf d.unit = pkg → d.inReset = true)))) ∧
  (FwTarget.security ∉ x.verified → ∀ (image sig : List Byte) (tdi : Option Nat),
    exec (.firmwareUpdate pkg image sig) s = .next s ∧ exec (.getMeasurements pkg tdi) s = .next s) ∧
  (FwTarget.security ∈ x.verified → ∀ (image sig : List Byte) (k : Fin 8), k.val = 4 + x.updates % 3 →
    (Config.xmssVerify Config.fwKey image sig = true → ∃ t, exec (.firmwareUpdate pkg image sig) s = .next t ∧ OnlyPkgs s t ∧
      Extends (getPkg t pkg).sec.mr[k] x.mr[k] image ∧ (∀ j : Fin 8, j ≠ k → (getPkg t pkg).sec.mr[j] = x.mr[j]) ∧
      (getPkg t pkg).sec.updates = x.updates + 1) ∧
    (Config.xmssVerify Config.fwKey image sig = false → exec (.firmwareUpdate pkg image sig) s = .next s)) ∧
  (FwTarget.security ∈ x.verified → ∀ tdi : Option Nat, ∃ t r, exec (.getMeasurements pkg tdi) s = .next t ∧ t.hostOut = s.hostOut ++ [r] ∧
    t = { s with pkgs := t.pkgs, hostOut := t.hostOut } ∧
    let body := x.mr.toList.flatten ++ (match tdi with
      | some c => (getCtx s pkg c).cmr
      | none => [])
    (x.lifecycle = .test ∨ 2 ^ 20 ≤ x.leaf → r = .spdmError ∧ t.pkgs = s.pkgs) ∧
    (x.lifecycle ≠ .test → x.leaf < 2 ^ 20 → r = .measurement body (Config.xmssSign x.leaf body) ∧
      (getPkg t pkg).sec = { x with leaf := x.leaf + 1 }))
/-- The fields of a debug-unlock token, its signature included (R398). -/
def TokenFor (x : Security) (tok : List Byte) : Prop :=
  let n := fun off len => leNat ((tok.drop off).take len)
  tok.length = 2852 ∧ n 0 4 = 0x4B4E4C55 ∧ n 4 1 = lifecycleCode x.lifecycle ∧ n 5 3 = 0 ∧ n 8 8 = x.devid.toNat ∧
  n 16 8 = x.nonce.toNat ∧ n 24 8 = 0 ∧ Config.xmssVerify Config.dbgKey (tok.take 32) (tok.drop 32) = true
/-- Lifecycle transitions, debug unlock and tenant keys (R397 to R401). -/
def LifecycleAndKeys : Prop := ∀ (s : State) (pkg : Nat), securityRuns s pkg = true →
  let x := (getPkg s pkg).sec
  (∀ (target : Lifecycle) (cmd sig : List Byte),
    let next := (x.lifecycle, target) ∈ [(.test, .prod), (.prod, .rma), (.rma, .scrap)]
    (next → Config.xmssVerify Config.dbgKey cmd sig = true → ∃ t, exec (.lifecycleTransition pkg target cmd sig) s = .next t ∧
      (target = .prod → OnlyPkgs s t) ∧ (getPkg t pkg).sec.lifecycle = target ∧
      Extends (getPkg t pkg).sec.mr[7] x.mr[7] cmd ∧ (target ≠ .rma → (getPkg t pkg).sec.port = false) ∧
      (target ≠ .prod → ∀ c ∈ t.ctxs, c.pkg = pkg → c.keys = none ∧ (c.cflags.getLsbD 4 = true → c.failed = true))) ∧
    (¬next ∨ Config.xmssVerify Config.dbgKey cmd sig = false → exec (.lifecycleTransition pkg target cmd sig) s = .next s)) ∧
  (∀ tok, ∃ t, exec (.debugUnlock pkg tok) s = .next t ∧
    (TokenFor x tok → x.lifecycle ≠ .scrap → (getPkg t pkg).sec.port = true ∧ Extends (getPkg t pkg).sec.mr[7] x.mr[7] tok ∧
      (∀ c ∈ t.ctxs, c.pkg = pkg → c.keys = none ∧ (c.cflags.getLsbD 4 = true → c.failed = true))) ∧
    (¬TokenFor x tok ∨ x.lifecycle = .scrap → ∃ n, t = { s with
        pkgs := t.pkgs, free := s.free + 1, hostOut := s.hostOut ++ [.nonce pkg n] } ∧
      (getPkg t pkg).sec = { x with nonce := n })) ∧
  (∀ ctx (keys : TenantKeys), 1 ≤ ctx → ctx < 4096 → keys.streams.length ≤ 16 →
    (x.lifecycle = .prod → ∃ t, exec (.tenantKeySetup pkg ctx keys) s = .next t ∧ t = { s with ctxs := t.ctxs } ∧
      getCtx t pkg ctx = { getCtx s pkg ctx with
        keys := some { keys with streams := keys.streams.map fun m => { m with written := 0, tagf := false } }
        erased := erasedNow (getCtx s pkg ctx), keySets := (getCtx s pkg ctx).keySets + 1 } ∧
      ∀ p k, (p, k) ≠ (pkg, ctx) → getCtx t p k = getCtx s p k) ∧
    (x.lifecycle ≠ .prod → exec (.tenantKeySetup pkg ctx keys) s = .next s))
/-- Debug stops, and registers of stopped waves (R339, R404, R406; log entry 67). -/
def DebugStops : Prop := ∀ (s : State) (c : CoreId) (part cd : Nat) (w : WaveId) (v : Wave) (x : Word), portIsOpen s (pkgOf c.cd) = true →
  (part < 4 → ∃ t, exec (.debugStopRequest c part) s = .next t ∧ t = { s with cores := t.cores } ∧
    PartStops s t c part true) ∧
  (part < 4 → ∃ t, exec (.debugResume c part) s = .next t ∧ t = { s with cores := t.cores } ∧
    PartStops s t c part false) ∧
  (pkgOf cd = pkgOf c.cd → ∃ t, exec (.debugHoldRelease cd) s = .next t ∧
    t = { s with cds := t.cds, sectors := t.sectors, homes := t.homes } ∧
    (∀ e x, (getSec t e x).tokens = (getSec s e x).tokens ∧ (getHome t x).tokens = (getHome s x).tokens) ∧
    (∀ x, heldOwes s cd x = true → (∃ d ∈ s.sectors, d.cd = cd ∧ d.sector = x) → ∀ r, (getHome t x).trump = some r → r.hold = false) ∧
    ((∃ e ∈ s.cds, e.unit = cd) → getCd t cd = { getCd s cd with held := false })) ∧
  (getWave s w = some v → coreId w = c → inStop s w = true → v.window = [] →
    (confidential s (pkgOf c.cd) v.ctx = true → ∀ r, debugRead s w r = none) ∧
    (confidential s (pkgOf c.cd) v.ctx = false → ∀ (r : DbgReg) (y : Word),
      (r, y) ∈ [(.pc, v.a.pc), (.mode, v.a.mode), (.mmode, v.a.mmode), (.stat, v.a.stat), (.seed, v.a.seed),
        (.depth, BitVec.ofNat 32 v.a.depth)] ∨ (∃ d : SReg, r = .s d.toNat ∧ y = readS v.a d) ∨
        (∃ n l, n < 192 ∧ l < 96 ∧ r = .v n l ∧ y = laneOf (regLanes v.a n) l) ∨
        (∃ n k : Nat, ∃ e : PathEntry, v.a.stack[n]? = some e ∧ k < 6 ∧ r = .path n k ∧
          y.toNat = leNat (((entryBytes e).drop (4 * k)).take 4)) → debugRead s w r = some y)) ∧
  (getWave s w = some v → coreId w = c → inStop s w = true → v.window = [] → ∀ (r : DbgReg) (a : WaveArch),
    (r, a) ∈ [(.pc, { v.a with pc := x }), (.mode, { v.a with mode := (legalMode x).getD v.a.mode }),
      (.mmode, { v.a with mmode := (legalMmode x).getD v.a.mmode }), (.stat, { v.a with stat := x &&& 0xFF0000DF }),
      (.seed, { v.a with seed := x })] ∨ (∃ d : SReg, r = .s d.toNat ∧ a = writeS v.handler.isSome v.a d x) ∨
      (∃ n l, n < 192 ∧ l < 96 ∧ r = .v n l ∧ a = setLanes v.a n (setLane (regLanes v.a n) l x)) ∨
      (∃ n : Fin 12, r = .flag n.val ∧ a = { v.a with flags := v.a.flags.set n (x.setWidth 4) }) ∨
      (∃ n e, v.a.stack[n]? = some e ∧ r = .path n 1 ∧ a = { v.a with stack := v.a.stack.set n { e with pc := x } }) →
    ∃ t, exec (.debugRegisterAccess w r x) s = .next t ∧ Becomes s t w { v with a := a } ∧ SameMemory s t)
/-- The instruction's format is VB, VU or VX, by its major opcode (R205, R208). -/
def VectorFormat (i : Instr) : Prop := ∃ c, encode i = some c ∧
  let m := c.toNat / 2 ^ 26
  (0x10 ≤ m ∧ m ≤ 0x1B) ∨ (0x1E ≤ m ∧ m ≤ 0x2B)
/-- Lane focus (R405). A step fetches as every instruction does: it may first wait for a moving page, a walk or the tokens of the word. -/
def LaneFocus : Prop := ∀ (s : State) (w : WaveId) (v : Wave) (lane : Nat), getWave s w = some v → inStop s w = true →
  let one : Mask := 1#96 <<< lane
  let f0 : Focus := { lane := lane, n := 0, pc := v.a.pc, mask := v.a.em &&& ~~~one, rest := none }
  (portIsOpen s (pkgOf w.cd) = true → v.window = [] → v.focus = none → lane < 96 → v.a.em.getLsbD lane = true → v.hold = .ready →
    v.a.depth = v.a.stack.length → v.a.stack.length < 16 → ∃ t, exec (.laneFocusEnter w lane) s = .next t ∧
      Becomes s t w { v with focus := some f0, a := { v.a with
        em := one, stack := ⟨.els, v.a.em &&& ~~~one, 0xFFFFFFFC, v.a.pc⟩ :: v.a.stack, depth := v.a.depth + 1 } } ∧ SameMemory s t) ∧
  (∀ f, v.focus = some f → f.rest = none →
    let y := focusOn s v
    let refused := exec (.laneFocusStep w) s = .next { s with hostOut := s.hostOut ++ [.focusRefused w] }
    let word := fetchOut y y.cur y.cur.a.pc
    (∀ k c, word = .fault k c → refused) ∧
    (∀ id, word = .wait id → exec (.laneFocusStep w) s = .next (holdMigration y id)) ∧
    (∀ id page, word = .walk id page → exec (.laneFocusStep w) s = .next (waitWalks y [(id, page)])) ∧
    (∀ p x, word = .ok p → fetchNeeds y y.cur p = some x → exec (.laneFocusStep w) s = .next (awaitSector y x)) ∧
    (∀ p, word = .ok p → fetchNeeds y y.cur p = none → let z := fetched y y.cur y.cur.a.pc p
      ((∀ i, decode (fetchWord y y.cur p) ≠ .ok i) → refused) ∧
      ∀ i, decode (fetchWord y y.cur p) = .ok i → (¬VectorFormat i ∨ decodeTrap i z.cur ≠ none → refused) ∧
        (VectorFormat i → decodeTrap i z.cur = none → ∃ u, exec i z = .next u ∧
          (mayIssue i z.cur = false → u.cur.seq = v.seq ∧ exec (.laneFocusStep w) s = .next u) ∧
          (mayIssue i z.cur = true → u.cur.seq = v.seq + 1 ∧ exec (.laneFocusStep w) s =
            .next { u with cur := { u.cur with hold := .ready, focus := some { f with n := f.n + 1 } } }))) ∧
    (∀ e st, f.n = 0 → v.window = [] → v.a.stack = e :: st → v.a.depth = st.length + 1 → st.length < 16 →
      ∃ t, exec (.laneFocusLeave w) s = .next t ∧ SameMemory s t ∧ ∃ u, getWave t w = some u ∧ u.focus = none ∧
        u.a = { v.a with em := (f.mask ||| (1#96 <<< f.lane)) &&& ~~~v.a.xl, pc := f.pc, stack := st, depth := st.length }))
/-- The sealing of an open trace page, under the tokens of its ring, whose pages HEAD and TAIL number from 1; a number that names no
page counts as 1, and a record that the page has no room for goes into the next one, both the model's choice (R75, R80, R409; log entry
15). -/
def TracePages : Prop := ∀ (s : State) (cd ctx : Nat),
  let p := pkgOf cd
  let c := getCtx s p ctx
  let n := bits c.ctrace.toNat 11 0 - 1
  let base := p * 2 ^ 44 + bits c.ctrace.toNat 40 12 * 4096
  let page := fun x : Nat => if 1 ≤ x ∧ x ≤ n then x else 1
  let h := page (devNat s base 8)
  let next := if h = n then 1 else h + 1
  let full := next = page (devNat s (base + 8) 8)
  let room := base / 64 :: (List.range 64).map fun k => (base + 4096 * h) / 64 + k
  let left := ∀ k, c.sealed.find? (·.1 == cd) = some k → k.2 + 1 < 2 ^ 56
  let rs := openRecs c cd
  let ws := pageWords (lastSealed (getCd s cd).trace ctx) rs
  rs ≠ [] → (∃ e ∈ s.cds, e.unit = cd) → (getCd s cd).pend = [] →
  ∃ t, exec (.tracePageSeal cd ctx) s = .next t ∧ t.waves = s.waves ∧ t.cur = s.cur ∧ t.hostMem = s.hostMem ∧ t.mem = s.mem ∧
    (508 < ws.length → c.keys ≠ none → 1 ≤ n → left → (getCd t cd).pend = [.page ctx rs.dropLast] ∧
      openRecs (getCtx t p ctx) cd = rs.drop (rs.length - 1) ∧ (getCd t cd).trace.drop = (getCd s cd).trace.drop) ∧
    (ws.length ≤ 508 → openRecs (getCtx t p ctx) cd = [] ∧
    (c.keys = none ∨ (canRead (getSec s cd (base / 64)) = true ∧ full) →
      (getCd t cd).trace.drop.toNat = min 0xFFFF ((getCd s cd).trace.drop.toNat + 1)) ∧
    (c.keys ≠ none → 1 ≤ n → ¬full → (∀ x ∈ room, canWrite (getSec s cd x) = true) → (getSec s cd (base / 64)).poison = false → left →
      (getSec t cd (base / 64)).data.toNat % 2 ^ 64 = next ∧ (getCd t cd).pend = [] ∧
        ((getCtx t p ctx).sealed.find? (·.1 == cd)).map (·.2) =
          some (((c.sealed.find? (·.1 == cd)).map (·.2)).getD 0 + 1)) ∧
    (c.keys ≠ none → 1 ≤ n → canRead (getSec s cd (base / 64)) = false → (getSec s cd (base / 64)).req = none → left →
      (∃ r, (getSec t cd (base / 64)).req = some r ∧ r.wr = false) ∧ (getCd t cd).pend = [.page ctx rs]))
/-- Writes of registers, which an I/O die that does not run does not take (R6, R7, R394). -/
def RegisterWrites : Prop := ∀ (s : State) (pkg u : Nat) (x : BitVec 64),
  (iodRuns s pkg = false → ∀ r : MmioReg, regPkg r = pkg → exec (.registerWrite r x) s = .next s) ∧
  (iodRuns s pkg = true → pkgOf u = pkg →
  let lo : Word := x.extractLsb' 0 32
  let w1 := fun (b : Bool) k => b && !x.getLsbD k
  (∀ r ∈ ([.lcstate pkg, .devid pkg, .ldrstat pkg, .ldrhandle pkg, .cycle u, .vdie u, .atomsz u, .cohcnt u, .errcnt u] : List MmioReg),
    exec (.registerWrite r x) s = .next s) ∧
  (∀ (r : MmioReg) (q : Pkg),
    let p := getPkg s pkg
    (r, q) ∈ [(.ldrsrc pkg, { p with ldrsrc := x &&& 0x1FFFFFFFFC0 }), (.ldrlen pkg, { p with ldrlen := lo }),
      (.ldrobja pkg, { p with ldrobja := x }), (.ldrobjb pkg, { p with ldrobjb := x &&& 0xFFFFFF }),
      (.ctxstat pkg, { p with ctxRej := w1 p.ctxRej 30 }), (.flogbase pkg, { p with flogbase := x &&& 0x1FFFFFFFFFF }),
      (.flogidx pkg, { p with flogTail := x.extractLsb' 12 12 }), (.schctl pkg 0, { p with schctl0 := lo &&& 0x3FFFF0F8 }),
      (.schctl pkg 1, { p with schctl1 := lo &&& 0x3FFFF0F8 }), (.invobj pkg 0, { p with invobj0 := x &&& 0xFFFFFFFFFF000000 }),
      (.invstat pkg 0, { p with invRej0 := w1 p.invRej0 30 }),
      (.almstat pkg, { p with sec := { p.sec with almHit := p.sec.almHit &&& ~~~(x.extractLsb' 0 5) } })] →
    ∃ t, exec (.registerWrite r x) s = .next t ∧ OnlyPkgs s t ∧ getPkg t pkg = q ∧ ∀ k, k ≠ pkg → getPkg t k = getPkg s k) ∧
  (∃ t, exec (.registerWrite (.ctxtbl pkg 0) x) s = .next t ∧ OnlyPkgs s t ∧
    let old := (getPkg s pkg).ctxtbl0
    (getPkg t pkg).ctxtbl0 = if (∃ c ∈ s.ctxs, c.pkg = pkg ∧ c.active = true) ∧ (x &&& 0x1FFFFF00000) >>> 20 ≠ old >>> 20
      then old else x &&& 0x1FFFFF00001) ∧
  (HasMd s u → ∀ (r : MmioReg) (e : MDie),
    let d := getMd s u
    (r, e) ∈ [(.hotbuf u, { d with hotbuf := x &&& 0x1FFFFFFFFF0 }), (.hotidx u, { d with hotTail := x.extractLsb' 8 8 }),
      (.migstat u, { d with migRej := w1 d.migRej 30 }), (.biasstat u, { d with biasRej := w1 d.biasRej 30 })] →
    ∃ t, exec (.registerWrite r x) s = .next t ∧ OnlyMds s t ∧ getMd t u = e) ∧
  ((∃ e ∈ s.cds, e.unit = u) → ∀ (r : MmioReg) (e : CDie),
    let d := getCd s u
    (r, e) ∈ [(.cohctl u, { d with dsp := x.extractLsb' 0 2, pred := if x.getLsbD 2 then [] else d.pred }),
      (.sampctl u, { d with trace := { d.trace with sampctl := lo &&& 0x8000001F } }),
      (.trcbase u, { d with trace := { d.trace with trcbase := x &&& 0x1FFFFFFFFFF } }),
      (.trcidx u, { d with trace := { d.trace with tail := x.extractLsb' 24 24 } }),
      (.trcctl u, { d with trace := { d.trace with
        trcctl := lo &&& 0x800000FE, last := if x.getLsbD 31 && !d.trace.trcctl.getLsbD 31 then none else d.trace.last
        runs := if x.getLsbD 31 && !d.trace.trcctl.getLsbD 31 then d.trace.runs + 1 else d.trace.runs } })] →
    ∃ t, exec (.registerWrite r x) s = .next t ∧ t = { s with cds := t.cds } ∧ getCd t u = e) ∧
  (∀ n, n < 256 → ∃ t, exec (.registerWrite (.qbase pkg n) x) s = .next t ∧ t = { s with queues := t.queues } ∧
    getQueue t pkg n = { getQueue s pkg n with qbase := x &&& 0xFFFF01FFFFFFFF80, met := none }))
/-- Reads of registers: each field as it stands, write-only and reserved ones 0 (R6). -/
def RegisterReads : Prop := ∀ (s : State) (pkg u n : Nat) (r : MmioReg) (x : Nat),
  let p := getPkg s pkg
  let q := getQueue s pkg n
  let d := getCd s u
  let m := getMd s u
  let flag := fun (b : Bool) (k : Nat) => if b then 2 ^ k else 0
  let invBusy := fun i : Nat => s.invals.any fun v => v.pkg == pkg && v.iod == some i
  (r, x) ∈ [(.devid pkg, p.sec.devid.toNat), (.lcstate pkg, (lcstate p).toNat), (.ctxtbl pkg 0, p.ctxtbl0.toNat),
      (.ctxtbl pkg 1, p.ctxtbl1.toNat), (.ctxstat pkg, flag p.ctxCmd.isSome 31 + flag p.ctxRej 30 + p.ctxCause.toNat * 2 ^ 16 + p.ctxDone.toNat),
      (.ldrsrc pkg, p.ldrsrc.toNat), (.ldrlen pkg, p.ldrlen.toNat), (.ldrobja pkg, p.ldrobja.toNat), (.ldrobjb pkg, p.ldrobjb.toNat),
      (.ldrstat pkg, flag p.load.isSome 31 + p.ldrResult.toNat * 2 ^ 28 + p.ldrSeg.toNat * 2 ^ 24 + p.ldrDone.toNat), (.ldrhandle pkg, p.ldrHandle.toNat),
      (.qbase pkg n, q.qbase.toNat), (.qctl pkg n, q.qctl.toNat), (.schctl pkg 0, p.schctl0.toNat), (.schctl pkg 1, p.schctl1.toNat),
      (.flogbase pkg, p.flogbase.toNat), (.flogidx pkg, p.flogDrop.toNat * 2 ^ 24 + p.flogTail.toNat * 2 ^ 12 + p.flogHead.toNat),
      (.almstat pkg, p.sec.almHit.toNat), (.invobj pkg 0, p.invobj0.toNat), (.invobj pkg 1, p.invobj1.toNat),
      (.invstat pkg 0, flag (invBusy 0) 31 + flag p.invRej0 30 + p.invDone0.toNat),
      (.invstat pkg 1, flag (invBusy 1) 31 + flag p.invRej1 30 + p.invDone1.toNat),
      (.hotctl u, m.hotctl.toNat), (.hotbuf u, m.hotbuf.toNat),
      (.hotidx u, m.hotDrop.toNat * 2 ^ 16 + m.hotTail.toNat * 2 ^ 8 + m.hotHead.toNat),
      (.migstat u, flag m.move.isSome 31 + flag m.migRej 30 + m.migDone.toNat),
      (.biasstat u, flag m.flip.isSome 31 + flag m.biasRej 30 + flag m.biasLast 16 + m.biasDone.toNat), (.cohctl u, d.dsp.toNat),
      (.cohcnt u, if u % 16 < 8
        then d.stall.toNat * 2 ^ 48 + d.unreachCnt.toNat * 2 ^ 32 + d.stale.toNat * 2 ^ 16 + d.trumps.toNat
        else m.census.toNat * 2 ^ 48 + m.reshuf.toNat * 2 ^ 32 + m.poisoned.toNat * 2 ^ 16 + m.stale.toNat),
      (.errcnt u, d.strikes.toNat * 2 ^ 48 + d.rollbk.toNat * 2 ^ 32 + d.corr.toNat * 2 ^ 16 + d.uncorr.toNat),
      (.sampctl u, d.trace.sampctl.toNat), (.trcctl u, d.trace.trcctl.toNat), (.trcbase u, d.trace.trcbase.toNat),
      (.trcidx u, d.trace.drop.toNat * 2 ^ 48 + d.trace.tail.toNat * 2 ^ 24 + d.trace.head.toNat)] →
  (readRegister s r).1.toNat = x ∧ (readRegister s r).2 = s ∧ readDriver s (.reg r) = readRegister s r ∧
  (readDriver s (.qptr pkg n)).1.toNat = q.tail.toNat * 2 ^ 16 + q.head.toNat ∧
  ∀ o ∈ ([.ctxcmd pkg, .ldrcmd pkg, .migcmd u, .biascmd u, .invrng pkg n] : List DriverReg), (readDriver s o).1 = 0

end Sys2Proof.Says

/-- R59, R60, R375, R393 to R401: the patrol scrub, alarms, firmware and its measurements, lifecycle, debug unlock and tenant
keys. Rests on the model's choices of log entries 3, 5, 17, 70, 72, 77, 94, 109. -/
def Obligations.Security : Prop := ScrubAndAlarms ∧ Firmware ∧ LifecycleAndKeys
/-- R339, R404 to R406, R409, R6, R7: debug stops, lane focus, the sealing of a trace page, and writes and reads of registers.
Rests on the model's choices of log entries 8, 9, 15, 67, 68, 94, 101, 115. -/
def Obligations.DebugAndRegisters : Prop := DebugStops ∧ LaneFocus ∧ TracePages ∧ RegisterWrites ∧ RegisterReads

/-! ## Words, steps, memory and reset -/

/-- The decoder reads every well-formed instruction back from its word, whatever its operands are. -/
def Obligations.DecodeEncode : Prop := ∀ (i : Instr) (w : Word), wellFormed i = true → encode i = some w → decode w = .ok i
/-- R203 to R208, R214: a word that the decoder accepts is the word of the instruction that it gives: no two words have one
meaning, and no bit of a word is dropped. -/
def Obligations.OneMeaning : Prop := ∀ (w : Word) (i : Instr), decode w = .ok i → encode i = some w
/-- R203, R208, R214, R316 and the worked words of files 09 to 13: each decodes to the instruction that the spec gives it, and
words of an unallocated opcode or function, with a reserved bit, or with an operand that is not allowed are turned away. -/
def Obligations.SpecWords : Prop :=
  (∀ p ∈ ([(0x08513FFD, .saddi 5 4 (-3)), (0x1C612345, .slui 6 0x12345), (0x10618678, .sori 6 6 0x678), (0x04510300, .sadd 5 4 3),
      (0x28FF000F, .breakvOpen 15), (0x280C0003, .split 12 3), (0x28CF0007, .breakv 15 7), (0x28400002, .elseW 2), (0x28800000, .merge),
      (0x2C00FFF3, .branch (-13)), (0x30020000, .exitW), (0xA4040100, .vlaneid 4), (0xA4050016, .vsplat 5 22), (0x40040405, .iadd 4 4 5),
      (0x780908F6, .fadd 9 8 0xF6), (0xAA0604D1, .vshf 6 4 0xD1), (0xACC10400, .mov 0xC1 4), (0xB601C810, .rsum 7 1 1 0),
      (0xC1021123, .ld32 8 2 1 2 3), (0xC9025130, .st32 9 2 1 3 0), (0xC9031F50, .st32 12 3 7 5 0), (0xF0030003, .fenceSc .pkg),
      (0xF0102CA1, .bar 11 10 .b1), (0xF440A214, .mld 20 1 1 4), (0xF4C6C021, .mstc 3 24 0 2 1), (0xF4E6003F, .mzero 3 3 15),
      (0xF5A00040, .msync 4 0)] : List (Word × Instr)), decode p.1 = .ok p.2 ∧ wellFormed p.2 = true) ∧
  (∀ w ∈ ([0x00000000, 0x3C000000, 0xF440A314, 0xF5C00000] : List Word), ∀ i, decode w ≠ .ok i) ∧
  (∀ w ∈ ([0x70140102, 0xB00000C0, 0xC0340000] : List Word), ∀ i, decode w = .ok i → wellFormed i = false)
/-- R80, R161, R203, R214, R372: on an even tick with an empty agenda, the step runs the word at the PC of the picked wave, once the
wave's die may read it (log entry 115): exec of the instruction that it decodes to, with the pick noted, or the trap of R214 for a word that decodes to none. An event at the head
of the agenda is run by exec as well, and the active set is settled behind either (R162). Which wave and which event come next is the model's own choice (log entry 1). -/
def Obligations.StepRuns : Prop := ∀ (s t : State) (w : Wave) (tgt : Target) (i e : Instr) (es : List Instr),
  let s1 := { s with tick := s.tick + 1 }
  let y := focusOn s1 w
  let z := fetched y y.cur y.cur.a.pc tgt
  let word := fetchWord y y.cur tgt
  let woken := fun (u : State) => mapWaves u fun w => if isStalled w then { w with hold := .ready } else w
  (s.agenda = [] → s.tick % 2 = 0 → pickWave s1 = some w → y.cur.rlost = [] → fetchOut y y.cur y.cur.a.pc = .ok tgt →
    fetchNeeds y y.cur tgt = none →
    (decode word = .ok i → exec i z = .next t → isStalled t.cur = false →
      step s = .next (activeSet exec (notePick exec s1 w t))) ∧
    (decode word = .error .major ∨ decode word = .error .function → isStalled (trapAt z .ill).cur = false →
      step s = .next (activeSet exec (notePick exec s1 w (trapAt z .ill))))) ∧
  (s.agenda = e :: es → exec e { s with agenda := es } = .next t → step s = .next (activeSet exec (woken t)))
/-- Every step keeps device memory and host memory in canonical form: addresses strictly rising, and no byte listed that reads as
an unlisted one does. Rests on the model's choices of log entry 6. -/
def Obligations.MemoryKept : Prop := ∀ (s t : State), memoryWf s = true → step s = .next t → memoryWf t = true
/-- Device memory and host memory are in canonical form after reset. Rests on the model's choices of log entry 6. -/
def Obligations.ResetMemory : Prop := memoryWf State.reset = true
/-- R60, R26, R75, R353, R375, R407, R108, R340, R345, R355: what reset leaves: memory of zeros with every token and the owner
token at its home under serial 0, no wave, no context, no queue enabled, and the registers at the values of their Reset columns.
Rests on the model's choices of log entries 2, 6, 7, 41. -/
def Obligations.ResetState : Prop :=
  let r := State.reset
  (∀ a, memByte r.mem a = 0) ∧
  (∀ x, let h := getHome r x; (h.serial, h.poison, h.own, h.tokens, h.trump) = (0, false, true, 64, none)) ∧
  (∀ cd x, (getSec r cd x).tokens = 0 ∧ (getSec r cd x).own = false) ∧ allWaves r = [] ∧ r.blocks = [] ∧ r.launches = [] ∧ r.net = [] ∧
  (∀ p k, (getCtx r p k).active = false) ∧ (∀ p n, qEn (getQueue r p n) = false ∧ (getQueue r p n).head = 0 ∧ (getQueue r p n).tail = 0) ∧
  (∀ d ∈ r.cds, d.power = .reset ∧ d.cycle = 0 ∧ d.dtlb = [] ∧ (d.time.err, d.time.lock, d.time.step) = (0xFFFF, false, true) ∧
    d.dsp = 0 ∧ d.pred = [] ∧ (d.trace.sampctl, d.trace.trcctl, d.trace.trcbase) = (12, 0, 0)) ∧
  (∀ d ∈ r.mds, d.hotctl = BitVec.ofNat 32 (1000 * 2 ^ 16 + 16 * 2 ^ 4) ∧ (d.hotbuf, d.hotDrop, d.move, d.flip) = (0, 0, none, none) ∧
    d.hostBias = []) ∧
  (∀ p ∈ r.pkgs, (p.ctxtbl0, p.ctxRej, p.ctxCause, p.ctxDone, p.flogbase) = (0, false, 0, 0, 0) ∧
    p.schctl0 = BitVec.ofNat 32 (100 * 2 ^ 20 + 10 * 2 ^ 12 + 4 * 2 ^ 3) ∧ p.schctl1 = p.schctl0 ∧
    (p.sec.almLock, p.sec.almHit) = (false, 0) ∧ (∀ k : Fin 5, p.sec.almctl[k] = 1) ∧ ∀ k : Fin 8, p.sec.mr[k] = List.replicate 32 0)

/-! ## The statements that join several parts -/

/-- R226, R227: scalar arithmetic, immediates and pairs, and the words that trap. -/
def Obligations.Scalars : Prop := ScalarArithmetic ∧ ScalarImmediates ∧ ScalarPairs ∧ ScalarEncodings
/-- R230: operations on mask triples, their counts, and the words that trap. -/
def Obligations.Masks : Prop := MaskTriples ∧ MaskCounts ∧ MaskEncodings
/-- R231 to R233: uniform branches with the words that trap, calls and returns. Rests on the model's choices of log entry 25. -/
def Obligations.ControlFlow : Prop := Branches ∧ BranchEncodings ∧ CallAndReturn
/-- R213, R254, R357 to R363, R367: what taking an exception does, when it waits, and the kill in trap state. -/
def Obligations.TrapTaking : Prop := TrapEntry ∧ TrapWaits ∧ FaultInTrapStateKills
/-- R245, R248 to R250, R256: what ends, holds or stops a wave. Rests on the model's choices of log entry 3. -/
def Obligations.WaveAndDebugWords : Prop := WaveControl ∧ Sleep ∧ DebugWords
/-- R26, R27, R253: what `sysr` reads. Rests on the model's choices of log entries 3 and 77. -/
def Obligations.SystemReads : Prop := SystemRegisterReads ∧ ClockReads
/-- Scalar loads and stores. -/
def Obligations.ScalarMemory : Prop := ScalarMemoryIssue ∧ ScalarLoadReturns
/-- R290, R291: the functions of atomics, and their performance. Rests on the model's choices of log entry 40. -/
def Obligations.Atomics : Prop := AtomicFunctions ∧ AtomicPlaces ∧ AtomicSequence ∧ AtomicCompletes
/-- R69, R284: what loads read, and their completion. Rests on the model's choices of log entries 10, 20, 33. -/
def Obligations.Loads : Prop := LoadCompletes ∧ LoadFails ∧ ReadsMemory
/-- The acceptance of vector memory instructions. -/
def Obligations.VectorMemory : Prop := VectorMemoryIssue ∧ EmptyMaskMemory ∧ EmptyMaskReleases
/-- R304, R309 to R311: fences, distances and waits on words. Rests on the model's choices of log entries 3, 14, 23, 28, 102. -/
def Obligations.OrderingAndWaits : Prop := FencesAndDistance ∧ WaitsOnWords
/-- R163 to R167, R305 to R308: groups and barriers. Rests on the model's choices of log entries 22, 84, 103. -/
def Obligations.Groups : Prop := GroupWords ∧ GroupEvents
/-- R293 to R295: layout records and publication. Rests on the model's choices of log entries 8, 9, 14, 29. -/
def Obligations.LayoutsAndPublication : Prop := LayoutRecords ∧ Publish
/-- R194 to R200: the rounding of exact and of inexact values under every mode, what is formed exactly before it, the conversions of an
element, the draw of stochastic rounding, and the symmetry of sums and products. -/
def Obligations.FloatAlgebra : Prop := RoundingExact ∧ RoundingInexact ∧ ExactThenRounded ∧ ElementConversions ∧ StochasticDraw ∧ FloatCommutes
/-- R214, R211, R251: what a word that cannot issue does. -/
def Obligations.Guards : Prop := WordGuards ∧ PrivilegeTraps
/-- R316 to R333: tile instructions and their tasks. Rests on the model's choices of log entries 3, 38, 39. -/
def Obligations.Tiles : Prop := TileInstructions ∧ TileTasks ∧ PassElement
/-- R276 to R281: divisions, roots and special functions. Rests on the model's choices of log entry 4. -/
def Obligations.LongLatencyFunctions : Prop := IntegerDivision ∧ FloatFunctions
/-- R259 to R262: integer elements. Rests on the model's choices of log entry 12. -/
def Obligations.IntegerLanes : Prop := ExactIntegers ∧ DotProduct ∧ ElementBits
/-- R263, R268 to R270: words of lanes. -/
def Obligations.Lanes : Prop := LaneWords ∧ LaneAccess
/-- R38 to R49, R255, R293: translation registers, walks and invalidations. Rests on the model's choices of log entries 36, 43, 78, 81, 94. -/
def Obligations.Translation : Prop := TranslationRegisters ∧ WalksFind ∧ TranslationEvents
/-- R69 to R71, R370: a store's way to memory. Rests on the model's choices of log entries 35, 109. -/
def Obligations.StoresLeave : Prop := WindowCloses ∧ StorePerformed ∧ BufferDrains
/-- R155, R312, R345 to R351: launch queues, and the conditions under which a record fails. Rests on the model's choices of log
entries 14, 44, 47, 49, 94. -/
def Obligations.LaunchQueues : Prop := Launches ∧ LaunchStart
end

