-- ==== Sys2Proof/Laws/Encoding.lean ====
section
/-! SUPPORT. Encoding: the fields of a word that is laid out as an append, for each layout of the encoder, and the
must-be-zero fields of such a word. -/

namespace Sys2Proof.Laws
open Sys2Proof BitVec

/-- A field of the high part of an append. -/
theorem field_high {v w s l : Nat} (x : BitVec v) (y : BitVec w) {r : BitVec l} (h : x.extractLsb' s l = r) :
    (x ++ y).extractLsb' (s + w) l = r := by
  rw [extractLsb'_append_eq_of_le (by omega)]
  simpa using h
/-- A field of the low part of an append. -/
theorem field_low {v w s l : Nat} (x : BitVec v) (y : BitVec w) {r : BitVec l} (h : y.extractLsb' s l = r)
    (hl : s + l ≤ w) : (x ++ y).extractLsb' s l = r := (extractLsb'_append_eq_of_add_le hl).trans h
/-- A word whose field is zero has zero bits under the field's mask. -/
theorem mask_of_field (w : Word) (s l : Nat) (h : w.extractLsb' s l = 0#l) : w &&& ((allOnes l).setWidth 32 <<< s) = 0#32 := by
  ext i hi
  have hz := congrArg (fun x : BitVec l => x.getLsbD (i - s)) h
  simp only [getLsbD_extractLsb', getLsbD_zero, Bool.and_eq_false_imp, decide_eq_true_eq] at hz
  simp only [getElem_and, getElem_shiftLeft, getElem_zero, Bool.and_eq_false_imp, Bool.not_eq_true']
  intro h1
  by_cases hs : i < s
  · simp [hs]
  · by_cases hl : i - s < l
    · have := hz hl
      rw [show s + (i - s) = i by omega, getLsbD_eq_getElem hi, h1] at this
      cases this
    · simp [hl]
/-- A must-be-zero field that is zero lets its instruction through. -/
theorem zeroIn_field {w m : Word} {i : Instr} (s l : Nat) (hm : (allOnes l).setWidth 32 <<< s = m)
    (h : w.extractLsb' s l = 0#l) : zeroIn w m i = .ok i := by
  subst hm
  simp [zeroIn, mask_of_field w s l h]
/-- The same for two fields. -/
theorem zeroIn_fields {w m : Word} {i : Instr} (s l s' l' : Nat)
    (hm : ((allOnes l).setWidth 32 <<< s ||| (allOnes l').setWidth 32 <<< s') = m)
    (h : w.extractLsb' s l = 0#l) (h' : w.extractLsb' s' l' = 0#l') : zeroIn w m i = .ok i := by
  subst hm
  simp only [zeroIn]
  rw [if_pos]
  rw [show w &&& _ = (w &&& ((allOnes l).setWidth 32 <<< s)) ||| (w &&& ((allOnes l').setWidth 32 <<< s')) from by
    ext i hi; simp [Bool.and_or_distrib_left], mask_of_field w s l h, mask_of_field w s' l' h']
  rfl

@[simp] theorem field_6_2_2_8_3_3_4_4_at_26_6 (p0 : BitVec 6) (p1 : BitVec 2) (p2 : BitVec 2) (p3 : BitVec 8) (p4 : BitVec 3) (p5 : BitVec 3) (p6 : BitVec 4) (p7 : BitVec 4) :
    (p0 ++ p1 ++ p2 ++ p3 ++ p4 ++ p5 ++ p6 ++ p7 : Word).extractLsb' 26 6 = p0 := field_high _ _ (field_high _ _ (field_high _ _ (field_high _ _ (field_high _ _ (field_high _ _ (field_high _ _ extractLsb'_eq_self))))))
@[simp] theorem field_6_2_2_8_3_3_4_4_at_24_2 (p0 : BitVec 6) (p1 : BitVec 2) (p2 : BitVec 2) (p3 : BitVec 8) (p4 : BitVec 3) (p5 : BitVec 3) (p6 : BitVec 4) (p7 : BitVec 4) :
    (p0 ++ p1 ++ p2 ++ p3 ++ p4 ++ p5 ++ p6 ++ p7 : Word).extractLsb' 24 2 = p1 := field_high _ _ (field_high _ _ (field_high _ _ (field_high _ _ (field_high _ _ (field_high _ _ (field_low _ _ extractLsb'_eq_self (by decide)))))))
@[simp] theorem field_6_2_2_8_3_3_4_4_at_22_2 (p0 : BitVec 6) (p1 : BitVec 2) (p2 : BitVec 2) (p3 : BitVec 8) (p4 : BitVec 3) (p5 : BitVec 3) (p6 : BitVec 4) (p7 : BitVec 4) :
    (p0 ++ p1 ++ p2 ++ p3 ++ p4 ++ p5 ++ p6 ++ p7 : Word).extractLsb' 22 2 = p2 := field_high _ _ (field_high _ _ (field_high _ _ (field_high _ _ (field_high _ _ (field_low _ _ extractLsb'_eq_self (by decide))))))
@[simp] theorem field_6_2_2_8_3_3_4_4_at_14_8 (p0 : BitVec 6) (p1 : BitVec 2) (p2 : BitVec 2) (p3 : BitVec 8) (p4 : BitVec 3) (p5 : BitVec 3) (p6 : BitVec 4) (p7 : BitVec 4) :
    (p0 ++ p1 ++ p2 ++ p3 ++ p4 ++ p5 ++ p6 ++ p7 : Word).extractLsb' 14 8 = p3 := field_high _ _ (field_high _ _ (field_high _ _ (field_high _ _ (field_low _ _ extractLsb'_eq_self (by decide)))))
@[simp] theorem field_6_2_2_8_3_3_4_4_at_11_3 (p0 : BitVec 6) (p1 : BitVec 2) (p2 : BitVec 2) (p3 : BitVec 8) (p4 : BitVec 3) (p5 : BitVec 3) (p6 : BitVec 4) (p7 : BitVec 4) :
    (p0 ++ p1 ++ p2 ++ p3 ++ p4 ++ p5 ++ p6 ++ p7 : Word).extractLsb' 11 3 = p4 := field_high _ _ (field_high _ _ (field_high _ _ (field_low _ _ extractLsb'_eq_self (by decide))))
@[simp] theorem field_6_2_2_8_3_3_4_4_at_8_3 (p0 : BitVec 6) (p1 : BitVec 2) (p2 : BitVec 2) (p3 : BitVec 8) (p4 : BitVec 3) (p5 : BitVec 3) (p6 : BitVec 4) (p7 : BitVec 4) :
    (p0 ++ p1 ++ p2 ++ p3 ++ p4 ++ p5 ++ p6 ++ p7 : Word).extractLsb' 8 3 = p5 := field_high _ _ (field_high _ _ (field_low _ _ extractLsb'_eq_self (by decide)))
@[simp] theorem field_6_2_2_8_3_3_4_4_at_4_4 (p0 : BitVec 6) (p1 : BitVec 2) (p2 : BitVec 2) (p3 : BitVec 8) (p4 : BitVec 3) (p5 : BitVec 3) (p6 : BitVec 4) (p7 : BitVec 4) :
    (p0 ++ p1 ++ p2 ++ p3 ++ p4 ++ p5 ++ p6 ++ p7 : Word).extractLsb' 4 4 = p6 := field_high _ _ (field_low _ _ extractLsb'_eq_self (by decide))
@[simp] theorem field_6_2_2_8_3_3_4_4_at_0_4 (p0 : BitVec 6) (p1 : BitVec 2) (p2 : BitVec 2) (p3 : BitVec 8) (p4 : BitVec 3) (p5 : BitVec 3) (p6 : BitVec 4) (p7 : BitVec 4) :
    (p0 ++ p1 ++ p2 ++ p3 ++ p4 ++ p5 ++ p6 ++ p7 : Word).extractLsb' 0 4 = p7 := field_low _ _ extractLsb'_eq_self (by decide)
@[simp] theorem field_6_2_3_5_8_8_at_26_6 (p0 : BitVec 6) (p1 : BitVec 2) (p2 : BitVec 3) (p3 : BitVec 5) (p4 : BitVec 8) (p5 : BitVec 8) :
    (p0 ++ p1 ++ p2 ++ p3 ++ p4 ++ p5 : Word).extractLsb' 26 6 = p0 := field_high _ _ (field_high _ _ (field_high _ _ (field_high _ _ (field_high _ _ extractLsb'_eq_self))))
@[simp] theorem field_6_2_3_5_8_8_at_24_2 (p0 : BitVec 6) (p1 : BitVec 2) (p2 : BitVec 3) (p3 : BitVec 5) (p4 : BitVec 8) (p5 : BitVec 8) :
    (p0 ++ p1 ++ p2 ++ p3 ++ p4 ++ p5 : Word).extractLsb' 24 2 = p1 := field_high _ _ (field_high _ _ (field_high _ _ (field_high _ _ (field_low _ _ extractLsb'_eq_self (by decide)))))
@[simp] theorem field_6_2_3_5_8_8_at_21_3 (p0 : BitVec 6) (p1 : BitVec 2) (p2 : BitVec 3) (p3 : BitVec 5) (p4 : BitVec 8) (p5 : BitVec 8) :
    (p0 ++ p1 ++ p2 ++ p3 ++ p4 ++ p5 : Word).extractLsb' 21 3 = p2 := field_high _ _ (field_high _ _ (field_high _ _ (field_low _ _ extractLsb'_eq_self (by decide))))
@[simp] theorem field_6_2_3_5_8_8_at_16_5 (p0 : BitVec 6) (p1 : BitVec 2) (p2 : BitVec 3) (p3 : BitVec 5) (p4 : BitVec 8) (p5 : BitVec 8) :
    (p0 ++ p1 ++ p2 ++ p3 ++ p4 ++ p5 : Word).extractLsb' 16 5 = p3 := field_high _ _ (field_high _ _ (field_low _ _ extractLsb'_eq_self (by decide)))
@[simp] theorem field_6_2_3_5_8_8_at_8_8 (p0 : BitVec 6) (p1 : BitVec 2) (p2 : BitVec 3) (p3 : BitVec 5) (p4 : BitVec 8) (p5 : BitVec 8) :
    (p0 ++ p1 ++ p2 ++ p3 ++ p4 ++ p5 : Word).extractLsb' 8 8 = p4 := field_high _ _ (field_low _ _ extractLsb'_eq_self (by decide))
@[simp] theorem field_6_2_3_5_8_8_at_0_8 (p0 : BitVec 6) (p1 : BitVec 2) (p2 : BitVec 3) (p3 : BitVec 5) (p4 : BitVec 8) (p5 : BitVec 8) :
    (p0 ++ p1 ++ p2 ++ p3 ++ p4 ++ p5 : Word).extractLsb' 0 8 = p5 := field_low _ _ extractLsb'_eq_self (by decide)
@[simp] theorem field_6_2_8_2_6_2_6_at_26_6 (p0 : BitVec 6) (p1 : BitVec 2) (p2 : BitVec 8) (p3 : BitVec 2) (p4 : BitVec 6) (p5 : BitVec 2) (p6 : BitVec 6) :
    (p0 ++ p1 ++ p2 ++ p3 ++ p4 ++ p5 ++ p6 : Word).extractLsb' 26 6 = p0 := field_high _ _ (field_high _ _ (field_high _ _ (field_high _ _ (field_high _ _ (field_high _ _ extractLsb'_eq_self)))))
@[simp] theorem field_6_2_8_2_6_2_6_at_24_2 (p0 : BitVec 6) (p1 : BitVec 2) (p2 : BitVec 8) (p3 : BitVec 2) (p4 : BitVec 6) (p5 : BitVec 2) (p6 : BitVec 6) :
    (p0 ++ p1 ++ p2 ++ p3 ++ p4 ++ p5 ++ p6 : Word).extractLsb' 24 2 = p1 := field_high _ _ (field_high _ _ (field_high _ _ (field_high _ _ (field_high _ _ (field_low _ _ extractLsb'_eq_self (by decide))))))
@[simp] theorem field_6_2_8_2_6_2_6_at_16_8 (p0 : BitVec 6) (p1 : BitVec 2) (p2 : BitVec 8) (p3 : BitVec 2) (p4 : BitVec 6) (p5 : BitVec 2) (p6 : BitVec 6) :
    (p0 ++ p1 ++ p2 ++ p3 ++ p4 ++ p5 ++ p6 : Word).extractLsb' 16 8 = p2 := field_high _ _ (field_high _ _ (field_high _ _ (field_high _ _ (field_low _ _ extractLsb'_eq_self (by decide)))))
@[simp] theorem field_6_2_8_2_6_2_6_at_14_2 (p0 : BitVec 6) (p1 : BitVec 2) (p2 : BitVec 8) (p3 : BitVec 2) (p4 : BitVec 6) (p5 : BitVec 2) (p6 : BitVec 6) :
    (p0 ++ p1 ++ p2 ++ p3 ++ p4 ++ p5 ++ p6 : Word).extractLsb' 14 2 = p3 := field_high _ _ (field_high _ _ (field_high _ _ (field_low _ _ extractLsb'_eq_self (by decide))))
@[simp] theorem field_6_2_8_2_6_2_6_at_8_6 (p0 : BitVec 6) (p1 : BitVec 2) (p2 : BitVec 8) (p3 : BitVec 2) (p4 : BitVec 6) (p5 : BitVec 2) (p6 : BitVec 6) :
    (p0 ++ p1 ++ p2 ++ p3 ++ p4 ++ p5 ++ p6 : Word).extractLsb' 8 6 = p4 := field_high _ _ (field_high _ _ (field_low _ _ extractLsb'_eq_self (by decide)))
@[simp] theorem field_6_2_8_2_6_2_6_at_6_2 (p0 : BitVec 6) (p1 : BitVec 2) (p2 : BitVec 8) (p3 : BitVec 2) (p4 : BitVec 6) (p5 : BitVec 2) (p6 : BitVec 6) :
    (p0 ++ p1 ++ p2 ++ p3 ++ p4 ++ p5 ++ p6 : Word).extractLsb' 6 2 = p5 := field_high _ _ (field_low _ _ extractLsb'_eq_self (by decide))
@[simp] theorem field_6_2_8_2_6_2_6_at_0_6 (p0 : BitVec 6) (p1 : BitVec 2) (p2 : BitVec 8) (p3 : BitVec 2) (p4 : BitVec 6) (p5 : BitVec 2) (p6 : BitVec 6) :
    (p0 ++ p1 ++ p2 ++ p3 ++ p4 ++ p5 ++ p6 : Word).extractLsb' 0 6 = p6 := field_low _ _ extractLsb'_eq_self (by decide)
@[simp] theorem field_6_2_8_3_5_8_at_26_6 (p0 : BitVec 6) (p1 : BitVec 2) (p2 : BitVec 8) (p3 : BitVec 3) (p4 : BitVec 5) (p5 : BitVec 8) :
    (p0 ++ p1 ++ p2 ++ p3 ++ p4 ++ p5 : Word).extractLsb' 26 6 = p0 := field_high _ _ (field_high _ _ (field_high _ _ (field_high _ _ (field_high _ _ extractLsb'_eq_self))))
@[simp] theorem field_6_2_8_3_5_8_at_24_2 (p0 : BitVec 6) (p1 : BitVec 2) (p2 : BitVec 8) (p3 : BitVec 3) (p4 : BitVec 5) (p5 : BitVec 8) :
    (p0 ++ p1 ++ p2 ++ p3 ++ p4 ++ p5 : Word).extractLsb' 24 2 = p1 := field_high _ _ (field_high _ _ (field_high _ _ (field_high _ _ (field_low _ _ extractLsb'_eq_self (by decide)))))
@[simp] theorem field_6_2_8_3_5_8_at_16_8 (p0 : BitVec 6) (p1 : BitVec 2) (p2 : BitVec 8) (p3 : BitVec 3) (p4 : BitVec 5) (p5 : BitVec 8) :
    (p0 ++ p1 ++ p2 ++ p3 ++ p4 ++ p5 : Word).extractLsb' 16 8 = p2 := field_high _ _ (field_high _ _ (field_high _ _ (field_low _ _ extractLsb'_eq_self (by decide))))
@[simp] theorem field_6_2_8_3_5_8_at_13_3 (p0 : BitVec 6) (p1 : BitVec 2) (p2 : BitVec 8) (p3 : BitVec 3) (p4 : BitVec 5) (p5 : BitVec 8) :
    (p0 ++ p1 ++ p2 ++ p3 ++ p4 ++ p5 : Word).extractLsb' 13 3 = p3 := field_high _ _ (field_high _ _ (field_low _ _ extractLsb'_eq_self (by decide)))
@[simp] theorem field_6_2_8_3_5_8_at_8_5 (p0 : BitVec 6) (p1 : BitVec 2) (p2 : BitVec 8) (p3 : BitVec 3) (p4 : BitVec 5) (p5 : BitVec 8) :
    (p0 ++ p1 ++ p2 ++ p3 ++ p4 ++ p5 : Word).extractLsb' 8 5 = p4 := field_high _ _ (field_low _ _ extractLsb'_eq_self (by decide))
@[simp] theorem field_6_2_8_3_5_8_at_0_8 (p0 : BitVec 6) (p1 : BitVec 2) (p2 : BitVec 8) (p3 : BitVec 3) (p4 : BitVec 5) (p5 : BitVec 8) :
    (p0 ++ p1 ++ p2 ++ p3 ++ p4 ++ p5 : Word).extractLsb' 0 8 = p5 := field_low _ _ extractLsb'_eq_self (by decide)
@[simp] theorem field_6_2_8_8_8_at_26_6 (p0 : BitVec 6) (p1 : BitVec 2) (p2 : BitVec 8) (p3 : BitVec 8) (p4 : BitVec 8) :
    (p0 ++ p1 ++ p2 ++ p3 ++ p4 : Word).extractLsb' 26 6 = p0 := field_high _ _ (field_high _ _ (field_high _ _ (field_high _ _ extractLsb'_eq_self)))
@[simp] theorem field_6_2_8_8_8_at_24_2 (p0 : BitVec 6) (p1 : BitVec 2) (p2 : BitVec 8) (p3 : BitVec 8) (p4 : BitVec 8) :
    (p0 ++ p1 ++ p2 ++ p3 ++ p4 : Word).extractLsb' 24 2 = p1 := field_high _ _ (field_high _ _ (field_high _ _ (field_low _ _ extractLsb'_eq_self (by decide))))
@[simp] theorem field_6_2_8_8_8_at_16_8 (p0 : BitVec 6) (p1 : BitVec 2) (p2 : BitVec 8) (p3 : BitVec 8) (p4 : BitVec 8) :
    (p0 ++ p1 ++ p2 ++ p3 ++ p4 : Word).extractLsb' 16 8 = p2 := field_high _ _ (field_high _ _ (field_low _ _ extractLsb'_eq_self (by decide)))
@[simp] theorem field_6_2_8_8_8_at_8_8 (p0 : BitVec 6) (p1 : BitVec 2) (p2 : BitVec 8) (p3 : BitVec 8) (p4 : BitVec 8) :
    (p0 ++ p1 ++ p2 ++ p3 ++ p4 : Word).extractLsb' 8 8 = p3 := field_high _ _ (field_low _ _ extractLsb'_eq_self (by decide))
@[simp] theorem field_6_2_8_8_8_at_0_8 (p0 : BitVec 6) (p1 : BitVec 2) (p2 : BitVec 8) (p3 : BitVec 8) (p4 : BitVec 8) :
    (p0 ++ p1 ++ p2 ++ p3 ++ p4 : Word).extractLsb' 0 8 = p4 := field_low _ _ extractLsb'_eq_self (by decide)
@[simp] theorem field_6_2_8_10_6_at_26_6 (p0 : BitVec 6) (p1 : BitVec 2) (p2 : BitVec 8) (p3 : BitVec 10) (p4 : BitVec 6) :
    (p0 ++ p1 ++ p2 ++ p3 ++ p4 : Word).extractLsb' 26 6 = p0 := field_high _ _ (field_high _ _ (field_high _ _ (field_high _ _ extractLsb'_eq_self)))
@[simp] theorem field_6_2_8_10_6_at_24_2 (p0 : BitVec 6) (p1 : BitVec 2) (p2 : BitVec 8) (p3 : BitVec 10) (p4 : BitVec 6) :
    (p0 ++ p1 ++ p2 ++ p3 ++ p4 : Word).extractLsb' 24 2 = p1 := field_high _ _ (field_high _ _ (field_high _ _ (field_low _ _ extractLsb'_eq_self (by decide))))
@[simp] theorem field_6_2_8_10_6_at_16_8 (p0 : BitVec 6) (p1 : BitVec 2) (p2 : BitVec 8) (p3 : BitVec 10) (p4 : BitVec 6) :
    (p0 ++ p1 ++ p2 ++ p3 ++ p4 : Word).extractLsb' 16 8 = p2 := field_high _ _ (field_high _ _ (field_low _ _ extractLsb'_eq_self (by decide)))
@[simp] theorem field_6_2_8_10_6_at_8_8 (p0 : BitVec 6) (p1 : BitVec 2) (p2 : BitVec 8) (p3 : BitVec 10) (p4 : BitVec 6) :
    (p0 ++ p1 ++ p2 ++ p3 ++ p4 : Word).extractLsb' 8 8 = p3.extractLsb' 2 8 := field_high _ _ (field_low _ _ rfl (by decide))
@[simp] theorem field_6_2_8_10_6_at_6_2 (p0 : BitVec 6) (p1 : BitVec 2) (p2 : BitVec 8) (p3 : BitVec 10) (p4 : BitVec 6) :
    (p0 ++ p1 ++ p2 ++ p3 ++ p4 : Word).extractLsb' 6 2 = p3.extractLsb' 0 2 := field_high _ _ (field_low _ _ rfl (by decide))
@[simp] theorem field_6_2_8_10_6_at_0_6 (p0 : BitVec 6) (p1 : BitVec 2) (p2 : BitVec 8) (p3 : BitVec 10) (p4 : BitVec 6) :
    (p0 ++ p1 ++ p2 ++ p3 ++ p4 : Word).extractLsb' 0 6 = p4 := field_low _ _ extractLsb'_eq_self (by decide)
@[simp] theorem field_6_2_8_16_at_26_6 (p0 : BitVec 6) (p1 : BitVec 2) (p2 : BitVec 8) (p3 : BitVec 16) :
    (p0 ++ p1 ++ p2 ++ p3 : Word).extractLsb' 26 6 = p0 := field_high _ _ (field_high _ _ (field_high _ _ extractLsb'_eq_self))
@[simp] theorem field_6_2_8_16_at_24_2 (p0 : BitVec 6) (p1 : BitVec 2) (p2 : BitVec 8) (p3 : BitVec 16) :
    (p0 ++ p1 ++ p2 ++ p3 : Word).extractLsb' 24 2 = p1 := field_high _ _ (field_high _ _ (field_low _ _ extractLsb'_eq_self (by decide)))
@[simp] theorem field_6_2_8_16_at_16_8 (p0 : BitVec 6) (p1 : BitVec 2) (p2 : BitVec 8) (p3 : BitVec 16) :
    (p0 ++ p1 ++ p2 ++ p3 : Word).extractLsb' 16 8 = p2 := field_high _ _ (field_low _ _ extractLsb'_eq_self (by decide))
@[simp] theorem field_6_2_8_16_at_8_8 (p0 : BitVec 6) (p1 : BitVec 2) (p2 : BitVec 8) (p3 : BitVec 16) :
    (p0 ++ p1 ++ p2 ++ p3 : Word).extractLsb' 8 8 = p3.extractLsb' 8 8 := field_low _ _ rfl (by decide)
@[simp] theorem field_6_2_8_16_at_0_8 (p0 : BitVec 6) (p1 : BitVec 2) (p2 : BitVec 8) (p3 : BitVec 16) :
    (p0 ++ p1 ++ p2 ++ p3 : Word).extractLsb' 0 8 = p3.extractLsb' 0 8 := field_low _ _ rfl (by decide)
@[simp] theorem field_6_4_6_6_2_4_4_at_26_6 (p0 : BitVec 6) (p1 : BitVec 4) (p2 : BitVec 6) (p3 : BitVec 6) (p4 : BitVec 2) (p5 : BitVec 4) (p6 : BitVec 4) :
    (p0 ++ p1 ++ p2 ++ p3 ++ p4 ++ p5 ++ p6 : Word).extractLsb' 26 6 = p0 := field_high _ _ (field_high _ _ (field_high _ _ (field_high _ _ (field_high _ _ (field_high _ _ extractLsb'_eq_self)))))
@[simp] theorem field_6_4_6_6_2_4_4_at_22_4 (p0 : BitVec 6) (p1 : BitVec 4) (p2 : BitVec 6) (p3 : BitVec 6) (p4 : BitVec 2) (p5 : BitVec 4) (p6 : BitVec 4) :
    (p0 ++ p1 ++ p2 ++ p3 ++ p4 ++ p5 ++ p6 : Word).extractLsb' 22 4 = p1 := field_high _ _ (field_high _ _ (field_high _ _ (field_high _ _ (field_high _ _ (field_low _ _ extractLsb'_eq_self (by decide))))))
@[simp] theorem field_6_4_6_6_2_4_4_at_16_6 (p0 : BitVec 6) (p1 : BitVec 4) (p2 : BitVec 6) (p3 : BitVec 6) (p4 : BitVec 2) (p5 : BitVec 4) (p6 : BitVec 4) :
    (p0 ++ p1 ++ p2 ++ p3 ++ p4 ++ p5 ++ p6 : Word).extractLsb' 16 6 = p2 := field_high _ _ (field_high _ _ (field_high _ _ (field_high _ _ (field_low _ _ extractLsb'_eq_self (by decide)))))
@[simp] theorem field_6_4_6_6_2_4_4_at_10_6 (p0 : BitVec 6) (p1 : BitVec 4) (p2 : BitVec 6) (p3 : BitVec 6) (p4 : BitVec 2) (p5 : BitVec 4) (p6 : BitVec 4) :
    (p0 ++ p1 ++ p2 ++ p3 ++ p4 ++ p5 ++ p6 : Word).extractLsb' 10 6 = p3 := field_high _ _ (field_high _ _ (field_high _ _ (field_low _ _ extractLsb'_eq_self (by decide))))
@[simp] theorem field_6_4_6_6_2_4_4_at_8_2 (p0 : BitVec 6) (p1 : BitVec 4) (p2 : BitVec 6) (p3 : BitVec 6) (p4 : BitVec 2) (p5 : BitVec 4) (p6 : BitVec 4) :
    (p0 ++ p1 ++ p2 ++ p3 ++ p4 ++ p5 ++ p6 : Word).extractLsb' 8 2 = p4 := field_high _ _ (field_high _ _ (field_low _ _ extractLsb'_eq_self (by decide)))
@[simp] theorem field_6_4_6_6_2_4_4_at_4_4 (p0 : BitVec 6) (p1 : BitVec 4) (p2 : BitVec 6) (p3 : BitVec 6) (p4 : BitVec 2) (p5 : BitVec 4) (p6 : BitVec 4) :
    (p0 ++ p1 ++ p2 ++ p3 ++ p4 ++ p5 ++ p6 : Word).extractLsb' 4 4 = p5 := field_high _ _ (field_low _ _ extractLsb'_eq_self (by decide))
@[simp] theorem field_6_4_6_6_2_4_4_at_0_4 (p0 : BitVec 6) (p1 : BitVec 4) (p2 : BitVec 6) (p3 : BitVec 6) (p4 : BitVec 2) (p5 : BitVec 4) (p6 : BitVec 4) :
    (p0 ++ p1 ++ p2 ++ p3 ++ p4 ++ p5 ++ p6 : Word).extractLsb' 0 4 = p6 := field_low _ _ extractLsb'_eq_self (by decide)
@[simp] theorem field_6_4_6_8_2_6_at_26_6 (p0 : BitVec 6) (p1 : BitVec 4) (p2 : BitVec 6) (p3 : BitVec 8) (p4 : BitVec 2) (p5 : BitVec 6) :
    (p0 ++ p1 ++ p2 ++ p3 ++ p4 ++ p5 : Word).extractLsb' 26 6 = p0 := field_high _ _ (field_high _ _ (field_high _ _ (field_high _ _ (field_high _ _ extractLsb'_eq_self))))
@[simp] theorem field_6_4_6_8_2_6_at_24_2 (p0 : BitVec 6) (p1 : BitVec 4) (p2 : BitVec 6) (p3 : BitVec 8) (p4 : BitVec 2) (p5 : BitVec 6) :
    (p0 ++ p1 ++ p2 ++ p3 ++ p4 ++ p5 : Word).extractLsb' 24 2 = p1.extractLsb' 2 2 := field_high _ _ (field_high _ _ (field_high _ _ (field_high _ _ (field_low _ _ rfl (by decide)))))
@[simp] theorem field_6_4_6_8_2_6_at_22_2 (p0 : BitVec 6) (p1 : BitVec 4) (p2 : BitVec 6) (p3 : BitVec 8) (p4 : BitVec 2) (p5 : BitVec 6) :
    (p0 ++ p1 ++ p2 ++ p3 ++ p4 ++ p5 : Word).extractLsb' 22 2 = p1.extractLsb' 0 2 := field_high _ _ (field_high _ _ (field_high _ _ (field_high _ _ (field_low _ _ rfl (by decide)))))
@[simp] theorem field_6_4_6_8_2_6_at_16_6 (p0 : BitVec 6) (p1 : BitVec 4) (p2 : BitVec 6) (p3 : BitVec 8) (p4 : BitVec 2) (p5 : BitVec 6) :
    (p0 ++ p1 ++ p2 ++ p3 ++ p4 ++ p5 : Word).extractLsb' 16 6 = p2 := field_high _ _ (field_high _ _ (field_high _ _ (field_low _ _ extractLsb'_eq_self (by decide))))
@[simp] theorem field_6_4_6_8_2_6_at_8_8 (p0 : BitVec 6) (p1 : BitVec 4) (p2 : BitVec 6) (p3 : BitVec 8) (p4 : BitVec 2) (p5 : BitVec 6) :
    (p0 ++ p1 ++ p2 ++ p3 ++ p4 ++ p5 : Word).extractLsb' 8 8 = p3 := field_high _ _ (field_high _ _ (field_low _ _ extractLsb'_eq_self (by decide)))
@[simp] theorem field_6_4_6_8_2_6_at_6_2 (p0 : BitVec 6) (p1 : BitVec 4) (p2 : BitVec 6) (p3 : BitVec 8) (p4 : BitVec 2) (p5 : BitVec 6) :
    (p0 ++ p1 ++ p2 ++ p3 ++ p4 ++ p5 : Word).extractLsb' 6 2 = p4 := field_high _ _ (field_low _ _ extractLsb'_eq_self (by decide))
@[simp] theorem field_6_4_6_8_2_6_at_0_6 (p0 : BitVec 6) (p1 : BitVec 4) (p2 : BitVec 6) (p3 : BitVec 8) (p4 : BitVec 2) (p5 : BitVec 6) :
    (p0 ++ p1 ++ p2 ++ p3 ++ p4 ++ p5 : Word).extractLsb' 0 6 = p5 := field_low _ _ extractLsb'_eq_self (by decide)
@[simp] theorem field_6_4_6_8_4_4_at_26_6 (p0 : BitVec 6) (p1 : BitVec 4) (p2 : BitVec 6) (p3 : BitVec 8) (p4 : BitVec 4) (p5 : BitVec 4) :
    (p0 ++ p1 ++ p2 ++ p3 ++ p4 ++ p5 : Word).extractLsb' 26 6 = p0 := field_high _ _ (field_high _ _ (field_high _ _ (field_high _ _ (field_high _ _ extractLsb'_eq_self))))
@[simp] theorem field_6_4_6_8_4_4_at_22_4 (p0 : BitVec 6) (p1 : BitVec 4) (p2 : BitVec 6) (p3 : BitVec 8) (p4 : BitVec 4) (p5 : BitVec 4) :
    (p0 ++ p1 ++ p2 ++ p3 ++ p4 ++ p5 : Word).extractLsb' 22 4 = p1 := field_high _ _ (field_high _ _ (field_high _ _ (field_high _ _ (field_low _ _ extractLsb'_eq_self (by decide)))))
@[simp] theorem field_6_4_6_8_4_4_at_16_6 (p0 : BitVec 6) (p1 : BitVec 4) (p2 : BitVec 6) (p3 : BitVec 8) (p4 : BitVec 4) (p5 : BitVec 4) :
    (p0 ++ p1 ++ p2 ++ p3 ++ p4 ++ p5 : Word).extractLsb' 16 6 = p2 := field_high _ _ (field_high _ _ (field_high _ _ (field_low _ _ extractLsb'_eq_self (by decide))))
@[simp] theorem field_6_4_6_8_4_4_at_8_8 (p0 : BitVec 6) (p1 : BitVec 4) (p2 : BitVec 6) (p3 : BitVec 8) (p4 : BitVec 4) (p5 : BitVec 4) :
    (p0 ++ p1 ++ p2 ++ p3 ++ p4 ++ p5 : Word).extractLsb' 8 8 = p3 := field_high _ _ (field_high _ _ (field_low _ _ extractLsb'_eq_self (by decide)))
@[simp] theorem field_6_4_6_8_4_4_at_4_4 (p0 : BitVec 6) (p1 : BitVec 4) (p2 : BitVec 6) (p3 : BitVec 8) (p4 : BitVec 4) (p5 : BitVec 4) :
    (p0 ++ p1 ++ p2 ++ p3 ++ p4 ++ p5 : Word).extractLsb' 4 4 = p4 := field_high _ _ (field_low _ _ extractLsb'_eq_self (by decide))
@[simp] theorem field_6_4_6_8_4_4_at_0_4 (p0 : BitVec 6) (p1 : BitVec 4) (p2 : BitVec 6) (p3 : BitVec 8) (p4 : BitVec 4) (p5 : BitVec 4) :
    (p0 ++ p1 ++ p2 ++ p3 ++ p4 ++ p5 : Word).extractLsb' 0 4 = p5 := field_low _ _ extractLsb'_eq_self (by decide)
@[simp] theorem field_6_4_6_16_at_26_6 (p0 : BitVec 6) (p1 : BitVec 4) (p2 : BitVec 6) (p3 : BitVec 16) :
    (p0 ++ p1 ++ p2 ++ p3 : Word).extractLsb' 26 6 = p0 := field_high _ _ (field_high _ _ (field_high _ _ extractLsb'_eq_self))
@[simp] theorem field_6_4_6_16_at_22_4 (p0 : BitVec 6) (p1 : BitVec 4) (p2 : BitVec 6) (p3 : BitVec 16) :
    (p0 ++ p1 ++ p2 ++ p3 : Word).extractLsb' 22 4 = p1 := field_high _ _ (field_high _ _ (field_low _ _ extractLsb'_eq_self (by decide)))
@[simp] theorem field_6_4_6_16_at_16_6 (p0 : BitVec 6) (p1 : BitVec 4) (p2 : BitVec 6) (p3 : BitVec 16) :
    (p0 ++ p1 ++ p2 ++ p3 : Word).extractLsb' 16 6 = p2 := field_high _ _ (field_low _ _ extractLsb'_eq_self (by decide))
@[simp] theorem field_6_4_6_16_at_0_16 (p0 : BitVec 6) (p1 : BitVec 4) (p2 : BitVec 6) (p3 : BitVec 16) :
    (p0 ++ p1 ++ p2 ++ p3 : Word).extractLsb' 0 16 = p3 := field_low _ _ extractLsb'_eq_self (by decide)
@[simp] theorem field_6_4_8_3_3_4_4_at_26_6 (p0 : BitVec 6) (p1 : BitVec 4) (p2 : BitVec 8) (p3 : BitVec 3) (p4 : BitVec 3) (p5 : BitVec 4) (p6 : BitVec 4) :
    (p0 ++ p1 ++ p2 ++ p3 ++ p4 ++ p5 ++ p6 : Word).extractLsb' 26 6 = p0 := field_high _ _ (field_high _ _ (field_high _ _ (field_high _ _ (field_high _ _ (field_high _ _ extractLsb'_eq_self)))))
@[simp] theorem field_6_4_8_3_3_4_4_at_22_4 (p0 : BitVec 6) (p1 : BitVec 4) (p2 : BitVec 8) (p3 : BitVec 3) (p4 : BitVec 3) (p5 : BitVec 4) (p6 : BitVec 4) :
    (p0 ++ p1 ++ p2 ++ p3 ++ p4 ++ p5 ++ p6 : Word).extractLsb' 22 4 = p1 := field_high _ _ (field_high _ _ (field_high _ _ (field_high _ _ (field_high _ _ (field_low _ _ extractLsb'_eq_self (by decide))))))
@[simp] theorem field_6_4_8_3_3_4_4_at_14_8 (p0 : BitVec 6) (p1 : BitVec 4) (p2 : BitVec 8) (p3 : BitVec 3) (p4 : BitVec 3) (p5 : BitVec 4) (p6 : BitVec 4) :
    (p0 ++ p1 ++ p2 ++ p3 ++ p4 ++ p5 ++ p6 : Word).extractLsb' 14 8 = p2 := field_high _ _ (field_high _ _ (field_high _ _ (field_high _ _ (field_low _ _ extractLsb'_eq_self (by decide)))))
@[simp] theorem field_6_4_8_3_3_4_4_at_11_3 (p0 : BitVec 6) (p1 : BitVec 4) (p2 : BitVec 8) (p3 : BitVec 3) (p4 : BitVec 3) (p5 : BitVec 4) (p6 : BitVec 4) :
    (p0 ++ p1 ++ p2 ++ p3 ++ p4 ++ p5 ++ p6 : Word).extractLsb' 11 3 = p3 := field_high _ _ (field_high _ _ (field_high _ _ (field_low _ _ extractLsb'_eq_self (by decide))))
@[simp] theorem field_6_4_8_3_3_4_4_at_8_3 (p0 : BitVec 6) (p1 : BitVec 4) (p2 : BitVec 8) (p3 : BitVec 3) (p4 : BitVec 3) (p5 : BitVec 4) (p6 : BitVec 4) :
    (p0 ++ p1 ++ p2 ++ p3 ++ p4 ++ p5 ++ p6 : Word).extractLsb' 8 3 = p4 := field_high _ _ (field_high _ _ (field_low _ _ extractLsb'_eq_self (by decide)))
@[simp] theorem field_6_4_8_3_3_4_4_at_4_4 (p0 : BitVec 6) (p1 : BitVec 4) (p2 : BitVec 8) (p3 : BitVec 3) (p4 : BitVec 3) (p5 : BitVec 4) (p6 : BitVec 4) :
    (p0 ++ p1 ++ p2 ++ p3 ++ p4 ++ p5 ++ p6 : Word).extractLsb' 4 4 = p5 := field_high _ _ (field_low _ _ extractLsb'_eq_self (by decide))
@[simp] theorem field_6_4_8_3_3_4_4_at_0_4 (p0 : BitVec 6) (p1 : BitVec 4) (p2 : BitVec 8) (p3 : BitVec 3) (p4 : BitVec 3) (p5 : BitVec 4) (p6 : BitVec 4) :
    (p0 ++ p1 ++ p2 ++ p3 ++ p4 ++ p5 ++ p6 : Word).extractLsb' 0 4 = p6 := field_low _ _ extractLsb'_eq_self (by decide)
@[simp] theorem field_6_5_4_6_2_1_4_4_at_26_6 (p0 : BitVec 6) (p1 : BitVec 5) (p2 : BitVec 4) (p3 : BitVec 6) (p4 : BitVec 2) (p5 : BitVec 1) (p6 : BitVec 4) (p7 : BitVec 4) :
    (p0 ++ p1 ++ p2 ++ p3 ++ p4 ++ p5 ++ p6 ++ p7 : Word).extractLsb' 26 6 = p0 := field_high _ _ (field_high _ _ (field_high _ _ (field_high _ _ (field_high _ _ (field_high _ _ (field_high _ _ extractLsb'_eq_self))))))
@[simp] theorem field_6_5_4_6_2_1_4_4_at_21_5 (p0 : BitVec 6) (p1 : BitVec 5) (p2 : BitVec 4) (p3 : BitVec 6) (p4 : BitVec 2) (p5 : BitVec 1) (p6 : BitVec 4) (p7 : BitVec 4) :
    (p0 ++ p1 ++ p2 ++ p3 ++ p4 ++ p5 ++ p6 ++ p7 : Word).extractLsb' 21 5 = p1 := field_high _ _ (field_high _ _ (field_high _ _ (field_high _ _ (field_high _ _ (field_high _ _ (field_low _ _ extractLsb'_eq_self (by decide)))))))
@[simp] theorem field_6_5_4_6_2_1_4_4_at_20_1 (p0 : BitVec 6) (p1 : BitVec 5) (p2 : BitVec 4) (p3 : BitVec 6) (p4 : BitVec 2) (p5 : BitVec 1) (p6 : BitVec 4) (p7 : BitVec 4) :
    (p0 ++ p1 ++ p2 ++ p3 ++ p4 ++ p5 ++ p6 ++ p7 : Word).extractLsb' 20 1 = p2.extractLsb' 3 1 := field_high _ _ (field_high _ _ (field_high _ _ (field_high _ _ (field_high _ _ (field_low _ _ rfl (by decide))))))
@[simp] theorem field_6_5_4_6_2_1_4_4_at_17_4 (p0 : BitVec 6) (p1 : BitVec 5) (p2 : BitVec 4) (p3 : BitVec 6) (p4 : BitVec 2) (p5 : BitVec 1) (p6 : BitVec 4) (p7 : BitVec 4) :
    (p0 ++ p1 ++ p2 ++ p3 ++ p4 ++ p5 ++ p6 ++ p7 : Word).extractLsb' 17 4 = p2 := field_high _ _ (field_high _ _ (field_high _ _ (field_high _ _ (field_high _ _ (field_low _ _ extractLsb'_eq_self (by decide))))))
@[simp] theorem field_6_5_4_6_2_1_4_4_at_11_6 (p0 : BitVec 6) (p1 : BitVec 5) (p2 : BitVec 4) (p3 : BitVec 6) (p4 : BitVec 2) (p5 : BitVec 1) (p6 : BitVec 4) (p7 : BitVec 4) :
    (p0 ++ p1 ++ p2 ++ p3 ++ p4 ++ p5 ++ p6 ++ p7 : Word).extractLsb' 11 6 = p3 := field_high _ _ (field_high _ _ (field_high _ _ (field_high _ _ (field_low _ _ extractLsb'_eq_self (by decide)))))
@[simp] theorem field_6_5_4_6_2_1_4_4_at_9_2 (p0 : BitVec 6) (p1 : BitVec 5) (p2 : BitVec 4) (p3 : BitVec 6) (p4 : BitVec 2) (p5 : BitVec 1) (p6 : BitVec 4) (p7 : BitVec 4) :
    (p0 ++ p1 ++ p2 ++ p3 ++ p4 ++ p5 ++ p6 ++ p7 : Word).extractLsb' 9 2 = p4 := field_high _ _ (field_high _ _ (field_high _ _ (field_low _ _ extractLsb'_eq_self (by decide))))
@[simp] theorem field_6_5_4_6_2_1_4_4_at_8_1 (p0 : BitVec 6) (p1 : BitVec 5) (p2 : BitVec 4) (p3 : BitVec 6) (p4 : BitVec 2) (p5 : BitVec 1) (p6 : BitVec 4) (p7 : BitVec 4) :
    (p0 ++ p1 ++ p2 ++ p3 ++ p4 ++ p5 ++ p6 ++ p7 : Word).extractLsb' 8 1 = p5 := field_high _ _ (field_high _ _ (field_low _ _ extractLsb'_eq_self (by decide)))
@[simp] theorem field_6_5_4_6_2_1_4_4_at_4_4 (p0 : BitVec 6) (p1 : BitVec 5) (p2 : BitVec 4) (p3 : BitVec 6) (p4 : BitVec 2) (p5 : BitVec 1) (p6 : BitVec 4) (p7 : BitVec 4) :
    (p0 ++ p1 ++ p2 ++ p3 ++ p4 ++ p5 ++ p6 ++ p7 : Word).extractLsb' 4 4 = p6 := field_high _ _ (field_low _ _ extractLsb'_eq_self (by decide))
@[simp] theorem field_6_5_4_6_2_1_4_4_at_0_4 (p0 : BitVec 6) (p1 : BitVec 5) (p2 : BitVec 4) (p3 : BitVec 6) (p4 : BitVec 2) (p5 : BitVec 1) (p6 : BitVec 4) (p7 : BitVec 4) :
    (p0 ++ p1 ++ p2 ++ p3 ++ p4 ++ p5 ++ p6 ++ p7 : Word).extractLsb' 0 4 = p7 := field_low _ _ extractLsb'_eq_self (by decide)
@[simp] theorem field_6_5_4_6_3_4_4_at_26_6 (p0 : BitVec 6) (p1 : BitVec 5) (p2 : BitVec 4) (p3 : BitVec 6) (p4 : BitVec 3) (p5 : BitVec 4) (p6 : BitVec 4) :
    (p0 ++ p1 ++ p2 ++ p3 ++ p4 ++ p5 ++ p6 : Word).extractLsb' 26 6 = p0 := field_high _ _ (field_high _ _ (field_high _ _ (field_high _ _ (field_high _ _ (field_high _ _ extractLsb'_eq_self)))))
@[simp] theorem field_6_5_4_6_3_4_4_at_21_5 (p0 : BitVec 6) (p1 : BitVec 5) (p2 : BitVec 4) (p3 : BitVec 6) (p4 : BitVec 3) (p5 : BitVec 4) (p6 : BitVec 4) :
    (p0 ++ p1 ++ p2 ++ p3 ++ p4 ++ p5 ++ p6 : Word).extractLsb' 21 5 = p1 := field_high _ _ (field_high _ _ (field_high _ _ (field_high _ _ (field_high _ _ (field_low _ _ extractLsb'_eq_self (by decide))))))
@[simp] theorem field_6_5_4_6_3_4_4_at_20_1 (p0 : BitVec 6) (p1 : BitVec 5) (p2 : BitVec 4) (p3 : BitVec 6) (p4 : BitVec 3) (p5 : BitVec 4) (p6 : BitVec 4) :
    (p0 ++ p1 ++ p2 ++ p3 ++ p4 ++ p5 ++ p6 : Word).extractLsb' 20 1 = p2.extractLsb' 3 1 := field_high _ _ (field_high _ _ (field_high _ _ (field_high _ _ (field_low _ _ rfl (by decide)))))
@[simp] theorem field_6_5_4_6_3_4_4_at_17_4 (p0 : BitVec 6) (p1 : BitVec 5) (p2 : BitVec 4) (p3 : BitVec 6) (p4 : BitVec 3) (p5 : BitVec 4) (p6 : BitVec 4) :
    (p0 ++ p1 ++ p2 ++ p3 ++ p4 ++ p5 ++ p6 : Word).extractLsb' 17 4 = p2 := field_high _ _ (field_high _ _ (field_high _ _ (field_high _ _ (field_low _ _ extractLsb'_eq_self (by decide)))))
@[simp] theorem field_6_5_4_6_3_4_4_at_11_6 (p0 : BitVec 6) (p1 : BitVec 5) (p2 : BitVec 4) (p3 : BitVec 6) (p4 : BitVec 3) (p5 : BitVec 4) (p6 : BitVec 4) :
    (p0 ++ p1 ++ p2 ++ p3 ++ p4 ++ p5 ++ p6 : Word).extractLsb' 11 6 = p3 := field_high _ _ (field_high _ _ (field_high _ _ (field_low _ _ extractLsb'_eq_self (by decide))))
@[simp] theorem field_6_5_4_6_3_4_4_at_8_3 (p0 : BitVec 6) (p1 : BitVec 5) (p2 : BitVec 4) (p3 : BitVec 6) (p4 : BitVec 3) (p5 : BitVec 4) (p6 : BitVec 4) :
    (p0 ++ p1 ++ p2 ++ p3 ++ p4 ++ p5 ++ p6 : Word).extractLsb' 8 3 = p4 := field_high _ _ (field_high _ _ (field_low _ _ extractLsb'_eq_self (by decide)))
@[simp] theorem field_6_5_4_6_3_4_4_at_4_4 (p0 : BitVec 6) (p1 : BitVec 5) (p2 : BitVec 4) (p3 : BitVec 6) (p4 : BitVec 3) (p5 : BitVec 4) (p6 : BitVec 4) :
    (p0 ++ p1 ++ p2 ++ p3 ++ p4 ++ p5 ++ p6 : Word).extractLsb' 4 4 = p5 := field_high _ _ (field_low _ _ extractLsb'_eq_self (by decide))
@[simp] theorem field_6_5_4_6_3_4_4_at_0_4 (p0 : BitVec 6) (p1 : BitVec 5) (p2 : BitVec 4) (p3 : BitVec 6) (p4 : BitVec 3) (p5 : BitVec 4) (p6 : BitVec 4) :
    (p0 ++ p1 ++ p2 ++ p3 ++ p4 ++ p5 ++ p6 : Word).extractLsb' 0 4 = p6 := field_low _ _ extractLsb'_eq_self (by decide)
@[simp] theorem field_6_5_4_9_4_4_at_26_6 (p0 : BitVec 6) (p1 : BitVec 5) (p2 : BitVec 4) (p3 : BitVec 9) (p4 : BitVec 4) (p5 : BitVec 4) :
    (p0 ++ p1 ++ p2 ++ p3 ++ p4 ++ p5 : Word).extractLsb' 26 6 = p0 := field_high _ _ (field_high _ _ (field_high _ _ (field_high _ _ (field_high _ _ extractLsb'_eq_self))))
@[simp] theorem field_6_5_4_9_4_4_at_21_5 (p0 : BitVec 6) (p1 : BitVec 5) (p2 : BitVec 4) (p3 : BitVec 9) (p4 : BitVec 4) (p5 : BitVec 4) :
    (p0 ++ p1 ++ p2 ++ p3 ++ p4 ++ p5 : Word).extractLsb' 21 5 = p1 := field_high _ _ (field_high _ _ (field_high _ _ (field_high _ _ (field_low _ _ extractLsb'_eq_self (by decide)))))
@[simp] theorem field_6_5_4_9_4_4_at_20_1 (p0 : BitVec 6) (p1 : BitVec 5) (p2 : BitVec 4) (p3 : BitVec 9) (p4 : BitVec 4) (p5 : BitVec 4) :
    (p0 ++ p1 ++ p2 ++ p3 ++ p4 ++ p5 : Word).extractLsb' 20 1 = p2.extractLsb' 3 1 := field_high _ _ (field_high _ _ (field_high _ _ (field_low _ _ rfl (by decide))))
@[simp] theorem field_6_5_4_9_4_4_at_17_4 (p0 : BitVec 6) (p1 : BitVec 5) (p2 : BitVec 4) (p3 : BitVec 9) (p4 : BitVec 4) (p5 : BitVec 4) :
    (p0 ++ p1 ++ p2 ++ p3 ++ p4 ++ p5 : Word).extractLsb' 17 4 = p2 := field_high _ _ (field_high _ _ (field_high _ _ (field_low _ _ extractLsb'_eq_self (by decide))))
@[simp] theorem field_6_5_4_9_4_4_at_8_9 (p0 : BitVec 6) (p1 : BitVec 5) (p2 : BitVec 4) (p3 : BitVec 9) (p4 : BitVec 4) (p5 : BitVec 4) :
    (p0 ++ p1 ++ p2 ++ p3 ++ p4 ++ p5 : Word).extractLsb' 8 9 = p3 := field_high _ _ (field_high _ _ (field_low _ _ extractLsb'_eq_self (by decide)))
@[simp] theorem field_6_5_4_9_4_4_at_4_4 (p0 : BitVec 6) (p1 : BitVec 5) (p2 : BitVec 4) (p3 : BitVec 9) (p4 : BitVec 4) (p5 : BitVec 4) :
    (p0 ++ p1 ++ p2 ++ p3 ++ p4 ++ p5 : Word).extractLsb' 4 4 = p4 := field_high _ _ (field_low _ _ extractLsb'_eq_self (by decide))
@[simp] theorem field_6_5_4_9_4_4_at_0_4 (p0 : BitVec 6) (p1 : BitVec 5) (p2 : BitVec 4) (p3 : BitVec 9) (p4 : BitVec 4) (p5 : BitVec 4) :
    (p0 ++ p1 ++ p2 ++ p3 ++ p4 ++ p5 : Word).extractLsb' 0 4 = p5 := field_low _ _ extractLsb'_eq_self (by decide)
@[simp] theorem field_6_6_3_6_3_4_4_at_26_6 (p0 : BitVec 6) (p1 : BitVec 6) (p2 : BitVec 3) (p3 : BitVec 6) (p4 : BitVec 3) (p5 : BitVec 4) (p6 : BitVec 4) :
    (p0 ++ p1 ++ p2 ++ p3 ++ p4 ++ p5 ++ p6 : Word).extractLsb' 26 6 = p0 := field_high _ _ (field_high _ _ (field_high _ _ (field_high _ _ (field_high _ _ (field_high _ _ extractLsb'_eq_self)))))
@[simp] theorem field_6_6_3_6_3_4_4_at_21_5 (p0 : BitVec 6) (p1 : BitVec 6) (p2 : BitVec 3) (p3 : BitVec 6) (p4 : BitVec 3) (p5 : BitVec 4) (p6 : BitVec 4) :
    (p0 ++ p1 ++ p2 ++ p3 ++ p4 ++ p5 ++ p6 : Word).extractLsb' 21 5 = p1.extractLsb' 1 5 := field_high _ _ (field_high _ _ (field_high _ _ (field_high _ _ (field_high _ _ (field_low _ _ rfl (by decide))))))
@[simp] theorem field_6_6_3_6_3_4_4_at_20_1 (p0 : BitVec 6) (p1 : BitVec 6) (p2 : BitVec 3) (p3 : BitVec 6) (p4 : BitVec 3) (p5 : BitVec 4) (p6 : BitVec 4) :
    (p0 ++ p1 ++ p2 ++ p3 ++ p4 ++ p5 ++ p6 : Word).extractLsb' 20 1 = p1.extractLsb' 0 1 := field_high _ _ (field_high _ _ (field_high _ _ (field_high _ _ (field_high _ _ (field_low _ _ rfl (by decide))))))
@[simp] theorem field_6_6_3_6_3_4_4_at_17_3 (p0 : BitVec 6) (p1 : BitVec 6) (p2 : BitVec 3) (p3 : BitVec 6) (p4 : BitVec 3) (p5 : BitVec 4) (p6 : BitVec 4) :
    (p0 ++ p1 ++ p2 ++ p3 ++ p4 ++ p5 ++ p6 : Word).extractLsb' 17 3 = p2 := field_high _ _ (field_high _ _ (field_high _ _ (field_high _ _ (field_low _ _ extractLsb'_eq_self (by decide)))))
@[simp] theorem field_6_6_3_6_3_4_4_at_11_6 (p0 : BitVec 6) (p1 : BitVec 6) (p2 : BitVec 3) (p3 : BitVec 6) (p4 : BitVec 3) (p5 : BitVec 4) (p6 : BitVec 4) :
    (p0 ++ p1 ++ p2 ++ p3 ++ p4 ++ p5 ++ p6 : Word).extractLsb' 11 6 = p3 := field_high _ _ (field_high _ _ (field_high _ _ (field_low _ _ extractLsb'_eq_self (by decide))))
@[simp] theorem field_6_6_3_6_3_4_4_at_8_3 (p0 : BitVec 6) (p1 : BitVec 6) (p2 : BitVec 3) (p3 : BitVec 6) (p4 : BitVec 3) (p5 : BitVec 4) (p6 : BitVec 4) :
    (p0 ++ p1 ++ p2 ++ p3 ++ p4 ++ p5 ++ p6 : Word).extractLsb' 8 3 = p4 := field_high _ _ (field_high _ _ (field_low _ _ extractLsb'_eq_self (by decide)))
@[simp] theorem field_6_6_3_6_3_4_4_at_4_4 (p0 : BitVec 6) (p1 : BitVec 6) (p2 : BitVec 3) (p3 : BitVec 6) (p4 : BitVec 3) (p5 : BitVec 4) (p6 : BitVec 4) :
    (p0 ++ p1 ++ p2 ++ p3 ++ p4 ++ p5 ++ p6 : Word).extractLsb' 4 4 = p5 := field_high _ _ (field_low _ _ extractLsb'_eq_self (by decide))
@[simp] theorem field_6_6_3_6_3_4_4_at_0_4 (p0 : BitVec 6) (p1 : BitVec 6) (p2 : BitVec 3) (p3 : BitVec 6) (p4 : BitVec 3) (p5 : BitVec 4) (p6 : BitVec 4) :
    (p0 ++ p1 ++ p2 ++ p3 ++ p4 ++ p5 ++ p6 : Word).extractLsb' 0 4 = p6 := field_low _ _ extractLsb'_eq_self (by decide)
@[simp] theorem field_6_6_6_6_8_at_26_6 (p0 : BitVec 6) (p1 : BitVec 6) (p2 : BitVec 6) (p3 : BitVec 6) (p4 : BitVec 8) :
    (p0 ++ p1 ++ p2 ++ p3 ++ p4 : Word).extractLsb' 26 6 = p0 := field_high _ _ (field_high _ _ (field_high _ _ (field_high _ _ extractLsb'_eq_self)))
@[simp] theorem field_6_6_6_6_8_at_20_6 (p0 : BitVec 6) (p1 : BitVec 6) (p2 : BitVec 6) (p3 : BitVec 6) (p4 : BitVec 8) :
    (p0 ++ p1 ++ p2 ++ p3 ++ p4 : Word).extractLsb' 20 6 = p1 := field_high _ _ (field_high _ _ (field_high _ _ (field_low _ _ extractLsb'_eq_self (by decide))))
@[simp] theorem field_6_6_6_6_8_at_14_6 (p0 : BitVec 6) (p1 : BitVec 6) (p2 : BitVec 6) (p3 : BitVec 6) (p4 : BitVec 8) :
    (p0 ++ p1 ++ p2 ++ p3 ++ p4 : Word).extractLsb' 14 6 = p2 := field_high _ _ (field_high _ _ (field_low _ _ extractLsb'_eq_self (by decide)))
@[simp] theorem field_6_6_6_6_8_at_8_6 (p0 : BitVec 6) (p1 : BitVec 6) (p2 : BitVec 6) (p3 : BitVec 6) (p4 : BitVec 8) :
    (p0 ++ p1 ++ p2 ++ p3 ++ p4 : Word).extractLsb' 8 6 = p3 := field_high _ _ (field_low _ _ extractLsb'_eq_self (by decide))
@[simp] theorem field_6_6_6_6_8_at_0_8 (p0 : BitVec 6) (p1 : BitVec 6) (p2 : BitVec 6) (p3 : BitVec 6) (p4 : BitVec 8) :
    (p0 ++ p1 ++ p2 ++ p3 ++ p4 : Word).extractLsb' 0 8 = p4 := field_low _ _ extractLsb'_eq_self (by decide)
@[simp] theorem field_6_6_6_14_at_26_6 (p0 : BitVec 6) (p1 : BitVec 6) (p2 : BitVec 6) (p3 : BitVec 14) :
    (p0 ++ p1 ++ p2 ++ p3 : Word).extractLsb' 26 6 = p0 := field_high _ _ (field_high _ _ (field_high _ _ extractLsb'_eq_self))
@[simp] theorem field_6_6_6_14_at_20_6 (p0 : BitVec 6) (p1 : BitVec 6) (p2 : BitVec 6) (p3 : BitVec 14) :
    (p0 ++ p1 ++ p2 ++ p3 : Word).extractLsb' 20 6 = p1 := field_high _ _ (field_high _ _ (field_low _ _ extractLsb'_eq_self (by decide)))
@[simp] theorem field_6_6_6_14_at_14_6 (p0 : BitVec 6) (p1 : BitVec 6) (p2 : BitVec 6) (p3 : BitVec 14) :
    (p0 ++ p1 ++ p2 ++ p3 : Word).extractLsb' 14 6 = p2 := field_high _ _ (field_low _ _ extractLsb'_eq_self (by decide))
@[simp] theorem field_6_6_6_14_at_8_6 (p0 : BitVec 6) (p1 : BitVec 6) (p2 : BitVec 6) (p3 : BitVec 14) :
    (p0 ++ p1 ++ p2 ++ p3 : Word).extractLsb' 8 6 = p3.extractLsb' 8 6 := field_low _ _ rfl (by decide)
@[simp] theorem field_6_6_6_14_at_0_14 (p0 : BitVec 6) (p1 : BitVec 6) (p2 : BitVec 6) (p3 : BitVec 14) :
    (p0 ++ p1 ++ p2 ++ p3 : Word).extractLsb' 0 14 = p3 := field_low _ _ extractLsb'_eq_self (by decide)
@[simp] theorem field_6_6_6_14_at_0_8 (p0 : BitVec 6) (p1 : BitVec 6) (p2 : BitVec 6) (p3 : BitVec 14) :
    (p0 ++ p1 ++ p2 ++ p3 : Word).extractLsb' 0 8 = p3.extractLsb' 0 8 := field_low _ _ rfl (by decide)
@[simp] theorem field_6_6_20_at_26_6 (p0 : BitVec 6) (p1 : BitVec 6) (p2 : BitVec 20) :
    (p0 ++ p1 ++ p2 : Word).extractLsb' 26 6 = p0 := field_high _ _ (field_high _ _ extractLsb'_eq_self)
@[simp] theorem field_6_6_20_at_20_6 (p0 : BitVec 6) (p1 : BitVec 6) (p2 : BitVec 20) :
    (p0 ++ p1 ++ p2 : Word).extractLsb' 20 6 = p1 := field_high _ _ (field_low _ _ extractLsb'_eq_self (by decide))
@[simp] theorem field_6_6_20_at_8_12 (p0 : BitVec 6) (p1 : BitVec 6) (p2 : BitVec 20) :
    (p0 ++ p1 ++ p2 : Word).extractLsb' 8 12 = p2.extractLsb' 8 12 := field_low _ _ rfl (by decide)
@[simp] theorem field_6_6_20_at_0_20 (p0 : BitVec 6) (p1 : BitVec 6) (p2 : BitVec 20) :
    (p0 ++ p1 ++ p2 : Word).extractLsb' 0 20 = p2 := field_low _ _ extractLsb'_eq_self (by decide)
@[simp] theorem field_6_6_20_at_0_8 (p0 : BitVec 6) (p1 : BitVec 6) (p2 : BitVec 20) :
    (p0 ++ p1 ++ p2 : Word).extractLsb' 0 8 = p2.extractLsb' 0 8 := field_low _ _ rfl (by decide)
@[simp] theorem field_6_9_6_2_1_4_4_at_26_6 (p0 : BitVec 6) (p1 : BitVec 9) (p2 : BitVec 6) (p3 : BitVec 2) (p4 : BitVec 1) (p5 : BitVec 4) (p6 : BitVec 4) :
    (p0 ++ p1 ++ p2 ++ p3 ++ p4 ++ p5 ++ p6 : Word).extractLsb' 26 6 = p0 := field_high _ _ (field_high _ _ (field_high _ _ (field_high _ _ (field_high _ _ (field_high _ _ extractLsb'_eq_self)))))
@[simp] theorem field_6_9_6_2_1_4_4_at_21_5 (p0 : BitVec 6) (p1 : BitVec 9) (p2 : BitVec 6) (p3 : BitVec 2) (p4 : BitVec 1) (p5 : BitVec 4) (p6 : BitVec 4) :
    (p0 ++ p1 ++ p2 ++ p3 ++ p4 ++ p5 ++ p6 : Word).extractLsb' 21 5 = p1.extractLsb' 4 5 := field_high _ _ (field_high _ _ (field_high _ _ (field_high _ _ (field_high _ _ (field_low _ _ rfl (by decide))))))
@[simp] theorem field_6_9_6_2_1_4_4_at_20_1 (p0 : BitVec 6) (p1 : BitVec 9) (p2 : BitVec 6) (p3 : BitVec 2) (p4 : BitVec 1) (p5 : BitVec 4) (p6 : BitVec 4) :
    (p0 ++ p1 ++ p2 ++ p3 ++ p4 ++ p5 ++ p6 : Word).extractLsb' 20 1 = p1.extractLsb' 3 1 := field_high _ _ (field_high _ _ (field_high _ _ (field_high _ _ (field_high _ _ (field_low _ _ rfl (by decide))))))
@[simp] theorem field_6_9_6_2_1_4_4_at_17_4 (p0 : BitVec 6) (p1 : BitVec 9) (p2 : BitVec 6) (p3 : BitVec 2) (p4 : BitVec 1) (p5 : BitVec 4) (p6 : BitVec 4) :
    (p0 ++ p1 ++ p2 ++ p3 ++ p4 ++ p5 ++ p6 : Word).extractLsb' 17 4 = p1.extractLsb' 0 4 := field_high _ _ (field_high _ _ (field_high _ _ (field_high _ _ (field_high _ _ (field_low _ _ rfl (by decide))))))
@[simp] theorem field_6_9_6_2_1_4_4_at_11_6 (p0 : BitVec 6) (p1 : BitVec 9) (p2 : BitVec 6) (p3 : BitVec 2) (p4 : BitVec 1) (p5 : BitVec 4) (p6 : BitVec 4) :
    (p0 ++ p1 ++ p2 ++ p3 ++ p4 ++ p5 ++ p6 : Word).extractLsb' 11 6 = p2 := field_high _ _ (field_high _ _ (field_high _ _ (field_high _ _ (field_low _ _ extractLsb'_eq_self (by decide)))))
@[simp] theorem field_6_9_6_2_1_4_4_at_9_2 (p0 : BitVec 6) (p1 : BitVec 9) (p2 : BitVec 6) (p3 : BitVec 2) (p4 : BitVec 1) (p5 : BitVec 4) (p6 : BitVec 4) :
    (p0 ++ p1 ++ p2 ++ p3 ++ p4 ++ p5 ++ p6 : Word).extractLsb' 9 2 = p3 := field_high _ _ (field_high _ _ (field_high _ _ (field_low _ _ extractLsb'_eq_self (by decide))))
@[simp] theorem field_6_9_6_2_1_4_4_at_8_1 (p0 : BitVec 6) (p1 : BitVec 9) (p2 : BitVec 6) (p3 : BitVec 2) (p4 : BitVec 1) (p5 : BitVec 4) (p6 : BitVec 4) :
    (p0 ++ p1 ++ p2 ++ p3 ++ p4 ++ p5 ++ p6 : Word).extractLsb' 8 1 = p4 := field_high _ _ (field_high _ _ (field_low _ _ extractLsb'_eq_self (by decide)))
@[simp] theorem field_6_9_6_2_1_4_4_at_4_4 (p0 : BitVec 6) (p1 : BitVec 9) (p2 : BitVec 6) (p3 : BitVec 2) (p4 : BitVec 1) (p5 : BitVec 4) (p6 : BitVec 4) :
    (p0 ++ p1 ++ p2 ++ p3 ++ p4 ++ p5 ++ p6 : Word).extractLsb' 4 4 = p5 := field_high _ _ (field_low _ _ extractLsb'_eq_self (by decide))
@[simp] theorem field_6_9_6_2_1_4_4_at_0_4 (p0 : BitVec 6) (p1 : BitVec 9) (p2 : BitVec 6) (p3 : BitVec 2) (p4 : BitVec 1) (p5 : BitVec 4) (p6 : BitVec 4) :
    (p0 ++ p1 ++ p2 ++ p3 ++ p4 ++ p5 ++ p6 : Word).extractLsb' 0 4 = p6 := field_low _ _ extractLsb'_eq_self (by decide)
@[simp] theorem field_6_9_6_3_4_4_at_26_6 (p0 : BitVec 6) (p1 : BitVec 9) (p2 : BitVec 6) (p3 : BitVec 3) (p4 : BitVec 4) (p5 : BitVec 4) :
    (p0 ++ p1 ++ p2 ++ p3 ++ p4 ++ p5 : Word).extractLsb' 26 6 = p0 := field_high _ _ (field_high _ _ (field_high _ _ (field_high _ _ (field_high _ _ extractLsb'_eq_self))))
@[simp] theorem field_6_9_6_3_4_4_at_21_5 (p0 : BitVec 6) (p1 : BitVec 9) (p2 : BitVec 6) (p3 : BitVec 3) (p4 : BitVec 4) (p5 : BitVec 4) :
    (p0 ++ p1 ++ p2 ++ p3 ++ p4 ++ p5 : Word).extractLsb' 21 5 = p1.extractLsb' 4 5 := field_high _ _ (field_high _ _ (field_high _ _ (field_high _ _ (field_low _ _ rfl (by decide)))))
@[simp] theorem field_6_9_6_3_4_4_at_20_1 (p0 : BitVec 6) (p1 : BitVec 9) (p2 : BitVec 6) (p3 : BitVec 3) (p4 : BitVec 4) (p5 : BitVec 4) :
    (p0 ++ p1 ++ p2 ++ p3 ++ p4 ++ p5 : Word).extractLsb' 20 1 = p1.extractLsb' 3 1 := field_high _ _ (field_high _ _ (field_high _ _ (field_high _ _ (field_low _ _ rfl (by decide)))))
@[simp] theorem field_6_9_6_3_4_4_at_17_4 (p0 : BitVec 6) (p1 : BitVec 9) (p2 : BitVec 6) (p3 : BitVec 3) (p4 : BitVec 4) (p5 : BitVec 4) :
    (p0 ++ p1 ++ p2 ++ p3 ++ p4 ++ p5 : Word).extractLsb' 17 4 = p1.extractLsb' 0 4 := field_high _ _ (field_high _ _ (field_high _ _ (field_high _ _ (field_low _ _ rfl (by decide)))))
@[simp] theorem field_6_9_6_3_4_4_at_11_6 (p0 : BitVec 6) (p1 : BitVec 9) (p2 : BitVec 6) (p3 : BitVec 3) (p4 : BitVec 4) (p5 : BitVec 4) :
    (p0 ++ p1 ++ p2 ++ p3 ++ p4 ++ p5 : Word).extractLsb' 11 6 = p2 := field_high _ _ (field_high _ _ (field_high _ _ (field_low _ _ extractLsb'_eq_self (by decide))))
@[simp] theorem field_6_9_6_3_4_4_at_8_3 (p0 : BitVec 6) (p1 : BitVec 9) (p2 : BitVec 6) (p3 : BitVec 3) (p4 : BitVec 4) (p5 : BitVec 4) :
    (p0 ++ p1 ++ p2 ++ p3 ++ p4 ++ p5 : Word).extractLsb' 8 3 = p3 := field_high _ _ (field_high _ _ (field_low _ _ extractLsb'_eq_self (by decide)))
@[simp] theorem field_6_9_6_3_4_4_at_4_4 (p0 : BitVec 6) (p1 : BitVec 9) (p2 : BitVec 6) (p3 : BitVec 3) (p4 : BitVec 4) (p5 : BitVec 4) :
    (p0 ++ p1 ++ p2 ++ p3 ++ p4 ++ p5 : Word).extractLsb' 4 4 = p4 := field_high _ _ (field_low _ _ extractLsb'_eq_self (by decide))
@[simp] theorem field_6_9_6_3_4_4_at_0_4 (p0 : BitVec 6) (p1 : BitVec 9) (p2 : BitVec 6) (p3 : BitVec 3) (p4 : BitVec 4) (p5 : BitVec 4) :
    (p0 ++ p1 ++ p2 ++ p3 ++ p4 ++ p5 : Word).extractLsb' 0 4 = p5 := field_low _ _ extractLsb'_eq_self (by decide)
@[simp] theorem field_6_10_6_6_4_at_26_6 (p0 : BitVec 6) (p1 : BitVec 10) (p2 : BitVec 6) (p3 : BitVec 6) (p4 : BitVec 4) :
    (p0 ++ p1 ++ p2 ++ p3 ++ p4 : Word).extractLsb' 26 6 = p0 := field_high _ _ (field_high _ _ (field_high _ _ (field_high _ _ extractLsb'_eq_self)))
@[simp] theorem field_6_10_6_6_4_at_16_10 (p0 : BitVec 6) (p1 : BitVec 10) (p2 : BitVec 6) (p3 : BitVec 6) (p4 : BitVec 4) :
    (p0 ++ p1 ++ p2 ++ p3 ++ p4 : Word).extractLsb' 16 10 = p1 := field_high _ _ (field_high _ _ (field_high _ _ (field_low _ _ extractLsb'_eq_self (by decide))))
@[simp] theorem field_6_10_6_6_4_at_10_6 (p0 : BitVec 6) (p1 : BitVec 10) (p2 : BitVec 6) (p3 : BitVec 6) (p4 : BitVec 4) :
    (p0 ++ p1 ++ p2 ++ p3 ++ p4 : Word).extractLsb' 10 6 = p2 := field_high _ _ (field_high _ _ (field_low _ _ extractLsb'_eq_self (by decide)))
@[simp] theorem field_6_10_6_6_4_at_4_6 (p0 : BitVec 6) (p1 : BitVec 10) (p2 : BitVec 6) (p3 : BitVec 6) (p4 : BitVec 4) :
    (p0 ++ p1 ++ p2 ++ p3 ++ p4 : Word).extractLsb' 4 6 = p3 := field_high _ _ (field_low _ _ extractLsb'_eq_self (by decide))
@[simp] theorem field_6_10_6_6_4_at_0_4 (p0 : BitVec 6) (p1 : BitVec 10) (p2 : BitVec 6) (p3 : BitVec 6) (p4 : BitVec 4) :
    (p0 ++ p1 ++ p2 ++ p3 ++ p4 : Word).extractLsb' 0 4 = p4 := field_low _ _ extractLsb'_eq_self (by decide)
@[simp] theorem field_6_10_6_10_at_26_6 (p0 : BitVec 6) (p1 : BitVec 10) (p2 : BitVec 6) (p3 : BitVec 10) :
    (p0 ++ p1 ++ p2 ++ p3 : Word).extractLsb' 26 6 = p0 := field_high _ _ (field_high _ _ (field_high _ _ extractLsb'_eq_self))
@[simp] theorem field_6_10_6_10_at_16_10 (p0 : BitVec 6) (p1 : BitVec 10) (p2 : BitVec 6) (p3 : BitVec 10) :
    (p0 ++ p1 ++ p2 ++ p3 : Word).extractLsb' 16 10 = p1 := field_high _ _ (field_high _ _ (field_low _ _ extractLsb'_eq_self (by decide)))
@[simp] theorem field_6_10_6_10_at_10_6 (p0 : BitVec 6) (p1 : BitVec 10) (p2 : BitVec 6) (p3 : BitVec 10) :
    (p0 ++ p1 ++ p2 ++ p3 : Word).extractLsb' 10 6 = p2 := field_high _ _ (field_low _ _ extractLsb'_eq_self (by decide))
@[simp] theorem field_6_10_6_10_at_4_6 (p0 : BitVec 6) (p1 : BitVec 10) (p2 : BitVec 6) (p3 : BitVec 10) :
    (p0 ++ p1 ++ p2 ++ p3 : Word).extractLsb' 4 6 = p3.extractLsb' 4 6 := field_low _ _ rfl (by decide)
@[simp] theorem field_6_10_6_10_at_0_10 (p0 : BitVec 6) (p1 : BitVec 10) (p2 : BitVec 6) (p3 : BitVec 10) :
    (p0 ++ p1 ++ p2 ++ p3 : Word).extractLsb' 0 10 = p3 := field_low _ _ extractLsb'_eq_self (by decide)
@[simp] theorem field_6_10_6_10_at_0_4 (p0 : BitVec 6) (p1 : BitVec 10) (p2 : BitVec 6) (p3 : BitVec 10) :
    (p0 ++ p1 ++ p2 ++ p3 : Word).extractLsb' 0 4 = p3.extractLsb' 0 4 := field_low _ _ rfl (by decide)
@[simp] theorem field_6_10_12_4_at_26_6 (p0 : BitVec 6) (p1 : BitVec 10) (p2 : BitVec 12) (p3 : BitVec 4) :
    (p0 ++ p1 ++ p2 ++ p3 : Word).extractLsb' 26 6 = p0 := field_high _ _ (field_high _ _ (field_high _ _ extractLsb'_eq_self))
@[simp] theorem field_6_10_12_4_at_16_10 (p0 : BitVec 6) (p1 : BitVec 10) (p2 : BitVec 12) (p3 : BitVec 4) :
    (p0 ++ p1 ++ p2 ++ p3 : Word).extractLsb' 16 10 = p1 := field_high _ _ (field_high _ _ (field_low _ _ extractLsb'_eq_self (by decide)))
@[simp] theorem field_6_10_12_4_at_4_12 (p0 : BitVec 6) (p1 : BitVec 10) (p2 : BitVec 12) (p3 : BitVec 4) :
    (p0 ++ p1 ++ p2 ++ p3 : Word).extractLsb' 4 12 = p2 := field_high _ _ (field_low _ _ extractLsb'_eq_self (by decide))
@[simp] theorem field_6_10_12_4_at_0_4 (p0 : BitVec 6) (p1 : BitVec 10) (p2 : BitVec 12) (p3 : BitVec 4) :
    (p0 ++ p1 ++ p2 ++ p3 : Word).extractLsb' 0 4 = p3 := field_low _ _ extractLsb'_eq_self (by decide)
@[simp] theorem field_6_10_16_at_26_6 (p0 : BitVec 6) (p1 : BitVec 10) (p2 : BitVec 16) :
    (p0 ++ p1 ++ p2 : Word).extractLsb' 26 6 = p0 := field_high _ _ (field_high _ _ extractLsb'_eq_self)
@[simp] theorem field_6_10_16_at_22_4 (p0 : BitVec 6) (p1 : BitVec 10) (p2 : BitVec 16) :
    (p0 ++ p1 ++ p2 : Word).extractLsb' 22 4 = p1.extractLsb' 6 4 := field_high _ _ (field_low _ _ rfl (by decide))
@[simp] theorem field_6_10_16_at_16_6 (p0 : BitVec 6) (p1 : BitVec 10) (p2 : BitVec 16) :
    (p0 ++ p1 ++ p2 : Word).extractLsb' 16 6 = p1.extractLsb' 0 6 := field_high _ _ (field_low _ _ rfl (by decide))
@[simp] theorem field_6_10_16_at_0_16 (p0 : BitVec 6) (p1 : BitVec 10) (p2 : BitVec 16) :
    (p0 ++ p1 ++ p2 : Word).extractLsb' 0 16 = p2 := field_low _ _ extractLsb'_eq_self (by decide)
@[simp] theorem field_6_16_6_4_at_26_6 (p0 : BitVec 6) (p1 : BitVec 16) (p2 : BitVec 6) (p3 : BitVec 4) :
    (p0 ++ p1 ++ p2 ++ p3 : Word).extractLsb' 26 6 = p0 := field_high _ _ (field_high _ _ (field_high _ _ extractLsb'_eq_self))
@[simp] theorem field_6_16_6_4_at_16_10 (p0 : BitVec 6) (p1 : BitVec 16) (p2 : BitVec 6) (p3 : BitVec 4) :
    (p0 ++ p1 ++ p2 ++ p3 : Word).extractLsb' 16 10 = p1.extractLsb' 6 10 := field_high _ _ (field_high _ _ (field_low _ _ rfl (by decide)))
@[simp] theorem field_6_16_6_4_at_10_6 (p0 : BitVec 6) (p1 : BitVec 16) (p2 : BitVec 6) (p3 : BitVec 4) :
    (p0 ++ p1 ++ p2 ++ p3 : Word).extractLsb' 10 6 = p1.extractLsb' 0 6 := field_high _ _ (field_high _ _ (field_low _ _ rfl (by decide)))
@[simp] theorem field_6_16_6_4_at_4_6 (p0 : BitVec 6) (p1 : BitVec 16) (p2 : BitVec 6) (p3 : BitVec 4) :
    (p0 ++ p1 ++ p2 ++ p3 : Word).extractLsb' 4 6 = p2 := field_high _ _ (field_low _ _ extractLsb'_eq_self (by decide))
@[simp] theorem field_6_16_6_4_at_0_4 (p0 : BitVec 6) (p1 : BitVec 16) (p2 : BitVec 6) (p3 : BitVec 4) :
    (p0 ++ p1 ++ p2 ++ p3 : Word).extractLsb' 0 4 = p3 := field_low _ _ extractLsb'_eq_self (by decide)
@[simp] theorem field_6_18_4_4_at_26_6 (p0 : BitVec 6) (p1 : BitVec 18) (p2 : BitVec 4) (p3 : BitVec 4) :
    (p0 ++ p1 ++ p2 ++ p3 : Word).extractLsb' 26 6 = p0 := field_high _ _ (field_high _ _ (field_high _ _ extractLsb'_eq_self))
@[simp] theorem field_6_18_4_4_at_21_5 (p0 : BitVec 6) (p1 : BitVec 18) (p2 : BitVec 4) (p3 : BitVec 4) :
    (p0 ++ p1 ++ p2 ++ p3 : Word).extractLsb' 21 5 = p1.extractLsb' 13 5 := field_high _ _ (field_high _ _ (field_low _ _ rfl (by decide)))
@[simp] theorem field_6_18_4_4_at_20_1 (p0 : BitVec 6) (p1 : BitVec 18) (p2 : BitVec 4) (p3 : BitVec 4) :
    (p0 ++ p1 ++ p2 ++ p3 : Word).extractLsb' 20 1 = p1.extractLsb' 12 1 := field_high _ _ (field_high _ _ (field_low _ _ rfl (by decide)))
@[simp] theorem field_6_18_4_4_at_8_13 (p0 : BitVec 6) (p1 : BitVec 18) (p2 : BitVec 4) (p3 : BitVec 4) :
    (p0 ++ p1 ++ p2 ++ p3 : Word).extractLsb' 8 13 = p1.extractLsb' 0 13 := field_high _ _ (field_high _ _ (field_low _ _ rfl (by decide)))
@[simp] theorem field_6_18_4_4_at_4_4 (p0 : BitVec 6) (p1 : BitVec 18) (p2 : BitVec 4) (p3 : BitVec 4) :
    (p0 ++ p1 ++ p2 ++ p3 : Word).extractLsb' 4 4 = p2 := field_high _ _ (field_low _ _ extractLsb'_eq_self (by decide))
@[simp] theorem field_6_18_4_4_at_0_4 (p0 : BitVec 6) (p1 : BitVec 18) (p2 : BitVec 4) (p3 : BitVec 4) :
    (p0 ++ p1 ++ p2 ++ p3 : Word).extractLsb' 0 4 = p3 := field_low _ _ extractLsb'_eq_self (by decide)
@[simp] theorem field_6_22_4_at_26_6 (p0 : BitVec 6) (p1 : BitVec 22) (p2 : BitVec 4) :
    (p0 ++ p1 ++ p2 : Word).extractLsb' 26 6 = p0 := field_high _ _ (field_high _ _ extractLsb'_eq_self)
@[simp] theorem field_6_22_4_at_16_10 (p0 : BitVec 6) (p1 : BitVec 22) (p2 : BitVec 4) :
    (p0 ++ p1 ++ p2 : Word).extractLsb' 16 10 = p1.extractLsb' 12 10 := field_high _ _ (field_low _ _ rfl (by decide))
@[simp] theorem field_6_22_4_at_4_12 (p0 : BitVec 6) (p1 : BitVec 22) (p2 : BitVec 4) :
    (p0 ++ p1 ++ p2 : Word).extractLsb' 4 12 = p1.extractLsb' 0 12 := field_high _ _ (field_low _ _ rfl (by decide))
@[simp] theorem field_6_22_4_at_0_4 (p0 : BitVec 6) (p1 : BitVec 22) (p2 : BitVec 4) :
    (p0 ++ p1 ++ p2 : Word).extractLsb' 0 4 = p2 := field_low _ _ extractLsb'_eq_self (by decide)
@[simp] theorem field_6_26_at_26_6 (p0 : BitVec 6) (p1 : BitVec 26) :
    (p0 ++ p1 : Word).extractLsb' 26 6 = p0 := field_high _ _ extractLsb'_eq_self
@[simp] theorem field_6_26_at_22_4 (p0 : BitVec 6) (p1 : BitVec 26) :
    (p0 ++ p1 : Word).extractLsb' 22 4 = p1.extractLsb' 22 4 := field_low _ _ rfl (by decide)
@[simp] theorem field_6_26_at_16_10 (p0 : BitVec 6) (p1 : BitVec 26) :
    (p0 ++ p1 : Word).extractLsb' 16 10 = p1.extractLsb' 16 10 := field_low _ _ rfl (by decide)
@[simp] theorem field_6_26_at_16_6 (p0 : BitVec 6) (p1 : BitVec 26) :
    (p0 ++ p1 : Word).extractLsb' 16 6 = p1.extractLsb' 16 6 := field_low _ _ rfl (by decide)
@[simp] theorem field_6_26_at_4_12 (p0 : BitVec 6) (p1 : BitVec 26) :
    (p0 ++ p1 : Word).extractLsb' 4 12 = p1.extractLsb' 4 12 := field_low _ _ rfl (by decide)
@[simp] theorem field_6_26_at_0_22 (p0 : BitVec 6) (p1 : BitVec 26) :
    (p0 ++ p1 : Word).extractLsb' 0 22 = p1.extractLsb' 0 22 := field_low _ _ rfl (by decide)
@[simp] theorem field_6_26_at_0_16 (p0 : BitVec 6) (p1 : BitVec 26) :
    (p0 ++ p1 : Word).extractLsb' 0 16 = p1.extractLsb' 0 16 := field_low _ _ rfl (by decide)
@[simp] theorem field_6_26_at_0_4 (p0 : BitVec 6) (p1 : BitVec 26) :
    (p0 ++ p1 : Word).extractLsb' 0 4 = p1.extractLsb' 0 4 := field_low _ _ rfl (by decide)
@[simp] theorem zeroIn_0000000f {w : Word} {i : Instr} (h : w.extractLsb' 0 4 = 0#4) : zeroIn w 0x0000000f#32 i = .ok i :=
  zeroIn_field 0 4 rfl h
@[simp] theorem zeroIn_000000c0 {w : Word} {i : Instr} (h : w.extractLsb' 6 2 = 0#2) : zeroIn w 0x000000c0#32 i = .ok i :=
  zeroIn_field 6 2 rfl h
@[simp] theorem zeroIn_000000ff {w : Word} {i : Instr} (h : w.extractLsb' 0 8 = 0#8) : zeroIn w 0x000000ff#32 i = .ok i :=
  zeroIn_field 0 8 rfl h
@[simp] theorem zeroIn_00000100 {w : Word} {i : Instr} (h : w.extractLsb' 8 1 = 0#1) : zeroIn w 0x00000100#32 i = .ok i :=
  zeroIn_field 8 1 rfl h
@[simp] theorem zeroIn_00000300 {w : Word} {i : Instr} (h : w.extractLsb' 8 2 = 0#2) : zeroIn w 0x00000300#32 i = .ok i :=
  zeroIn_field 8 2 rfl h
@[simp] theorem zeroIn_000003f0 {w : Word} {i : Instr} (h : w.extractLsb' 4 6 = 0#6) : zeroIn w 0x000003f0#32 i = .ok i :=
  zeroIn_field 4 6 rfl h
@[simp] theorem zeroIn_000003ff {w : Word} {i : Instr} (h : w.extractLsb' 0 10 = 0#10) : zeroIn w 0x000003ff#32 i = .ok i :=
  zeroIn_field 0 10 rfl h
@[simp] theorem zeroIn_00000700 {w : Word} {i : Instr} (h : w.extractLsb' 8 3 = 0#3) : zeroIn w 0x00000700#32 i = .ok i :=
  zeroIn_field 8 3 rfl h
@[simp] theorem zeroIn_00003f00 {w : Word} {i : Instr} (h : w.extractLsb' 8 6 = 0#6) : zeroIn w 0x00003f00#32 i = .ok i :=
  zeroIn_field 8 6 rfl h
@[simp] theorem zeroIn_0000c0c0 {w : Word} {i : Instr} (h : w.extractLsb' 6 2 = 0#2)
    (h' : w.extractLsb' 14 2 = 0#2) : zeroIn w 0x0000c0c0#32 i = .ok i :=
  zeroIn_fields 6 2 14 2 rfl h h'
@[simp] theorem zeroIn_0000fc00 {w : Word} {i : Instr} (h : w.extractLsb' 10 6 = 0#6) : zeroIn w 0x0000fc00#32 i = .ok i :=
  zeroIn_field 10 6 rfl h
@[simp] theorem zeroIn_0000ff00 {w : Word} {i : Instr} (h : w.extractLsb' 8 8 = 0#8) : zeroIn w 0x0000ff00#32 i = .ok i :=
  zeroIn_field 8 8 rfl h
@[simp] theorem zeroIn_0000fff0 {w : Word} {i : Instr} (h : w.extractLsb' 4 12 = 0#12) : zeroIn w 0x0000fff0#32 i = .ok i :=
  zeroIn_field 4 12 rfl h
@[simp] theorem zeroIn_0000ffff {w : Word} {i : Instr} (h : w.extractLsb' 0 16 = 0#16) : zeroIn w 0x0000ffff#32 i = .ok i :=
  zeroIn_field 0 16 rfl h
@[simp] theorem zeroIn_0001ff00 {w : Word} {i : Instr} (h : w.extractLsb' 8 9 = 0#9) : zeroIn w 0x0001ff00#32 i = .ok i :=
  zeroIn_field 8 9 rfl h
@[simp] theorem zeroIn_000fff00 {w : Word} {i : Instr} (h : w.extractLsb' 8 12 = 0#12) : zeroIn w 0x000fff00#32 i = .ok i :=
  zeroIn_field 8 12 rfl h
@[simp] theorem zeroIn_001e0100 {w : Word} {i : Instr} (h : w.extractLsb' 8 1 = 0#1)
    (h' : w.extractLsb' 17 4 = 0#4) : zeroIn w 0x001e0100#32 i = .ok i :=
  zeroIn_fields 8 1 17 4 rfl h h'
@[simp] theorem zeroIn_001e0700 {w : Word} {i : Instr} (h : w.extractLsb' 8 3 = 0#3)
    (h' : w.extractLsb' 17 4 = 0#4) : zeroIn w 0x001e0700#32 i = .ok i :=
  zeroIn_fields 8 3 17 4 rfl h h'
@[simp] theorem zeroIn_001fff00 {w : Word} {i : Instr} (h : w.extractLsb' 8 13 = 0#13) : zeroIn w 0x001fff00#32 i = .ok i :=
  zeroIn_field 8 13 rfl h
@[simp] theorem zeroIn_003f0000 {w : Word} {i : Instr} (h : w.extractLsb' 16 6 = 0#6) : zeroIn w 0x003f0000#32 i = .ok i :=
  zeroIn_field 16 6 rfl h
@[simp] theorem zeroIn_003fffff {w : Word} {i : Instr} (h : w.extractLsb' 0 22 = 0#22) : zeroIn w 0x003fffff#32 i = .ok i :=
  zeroIn_field 0 22 rfl h
@[simp] theorem zeroIn_00c000c0 {w : Word} {i : Instr} (h : w.extractLsb' 6 2 = 0#2)
    (h' : w.extractLsb' 22 2 = 0#2) : zeroIn w 0x00c000c0#32 i = .ok i :=
  zeroIn_fields 6 2 22 2 rfl h h'
@[simp] theorem modeSelOf_code (x : ModeSel) : modeSelOf (modeSelCode x) = some x := by cases x <;> rfl
@[simp] theorem scopeOf_code (x : Scope) : scopeOf (scopeCode x) = some x := by cases x <;> rfl
@[simp] theorem cmpCombOf_code (x : CmpComb) : cmpCombOf (cmpCombCode x) = some x := by cases x <;> rfl
@[simp] theorem icmpCcOf_code (x : IcmpCc) : icmpCcOf (icmpCcCode x) = some x := by cases x <;> rfl
@[simp] theorem fcmpCcOf_code (x : FcmpCc) : fcmpCcOf (fcmpCcCode x) = some x := by cases x <;> rfl
@[simp] theorem atomOrdOf_code (x : AtomOrd) : atomOrdOf (atomOrdCode x) = some x := by cases x <;> rfl
@[simp] theorem redOpOf_code (x : RedOp) : redOpOf (redOpCode x) = some x := by cases x <;> rfl
@[simp] theorem waitCondOf_code (x : WaitCond) : waitCondOf (waitCondCode x) = some x := by cases x <;> rfl
@[simp] theorem eTypeOf_code (x : EType) : eTypeOf (eTypeCode x) = some x := by cases x <;> rfl
@[simp] theorem gScopeOf_code (x : GScope) : gScopeOf (gScopeCode x) = some x := by cases x <;> rfl
@[simp] theorem ginfoSelOf_code (x : GinfoSel) : ginfoSelOf (ginfoSelCode x) = some x := by cases x <;> rfl
@[simp] theorem bar4Of_code (x : Bar4) : bar4Of (bar4Code x) = some x := by cases x <;> rfl
@[simp] theorem txNOf_code (x : TxN) : txNOf (txNCode x) = some x := by cases x <;> rfl

end Sys2Proof.Laws
end

