-- ==== Sys2Proof/Laws/Issue.lean ====
section
/-! SUPPORT. What the guard of every instruction word does, said once, and what the shared shapes of meanings answer when the
word issues. -/

namespace Sys2Proof.Machine

/-- Without a wave a guarded meaning faults. -/
theorem checked_noWave {i s k} (h : s.cur.live = false) : checked i s k = .fault .noWave := by simp [checked, h]
/-- A guarded meaning whose checks fail takes the check's trap. -/
theorem checked_trap {i s k c} (h : s.cur.live = true) (hc : decodeTrap i s.cur = some c) :
    checked i s k = .next (trapAt s c) := by simp [checked, h, hc]
/-- A guarded meaning that may not issue waits. -/
theorem checked_stall {i s k} (h : s.cur.live = true) (hc : decodeTrap i s.cur = none) (hm : mayIssue i s.cur = false) :
    checked i s k = .next (stall s) := by simp [checked, h, hc, hm]
/-- A guarded meaning that issues does what it guards. -/
theorem checked_issues {i s k} (h : s.cur.live = true) (hc : decodeTrap i s.cur = none) (hm : mayIssue i s.cur = true) :
    checked i s k = noteWrites (shortDsts i) (shortLanes i s.cur.a) s.cur (k s) := by simp [checked, h, hc, hm]
/-- Nothing is noted where no vector register is written at issue. -/
@[simp] theorem noteWrites_nil {m w r} : noteWrites [] m w r = r := by cases r <;> rfl
/-- A guarded meaning that writes no vector register at issue. -/
theorem checked_plain {i s k} (h : s.cur.live = true) (hc : decodeTrap i s.cur = none) (hm : mayIssue i s.cur = true)
    (hd : shortDsts i = []) : checked i s k = k s := by simp [checked_issues h hc hm, hd]
/-- What an instruction that only changes registers answers. -/
theorem simple_plain {i s f} (h : s.cur.live = true) (hc : decodeTrap i s.cur = none) (hm : mayIssue i s.cur = true)
    (hd : shortDsts i = []) : simple i s f = .next (advance (mapA (issue s) f)) := by simp [simple, checked_plain h hc hm hd]
/-- What a scalar instruction answers. -/
theorem scalarOp_plain {i s d f} (h : s.cur.live = true) (hc : decodeTrap i s.cur = none) (hm : mayIssue i s.cur = true)
    (hd : shortDsts i = []) :
    scalarOp i d s f = .next (advance (mapA (issue s) fun a => writeS (isHandler s.cur) a d (f a))) :=
  simple_plain h hc hm hd
/-- What a mask instruction answers. -/
theorem maskOp_plain {i s d f} (h : s.cur.live = true) (hc : decodeTrap i s.cur = none) (hm : mayIssue i s.cur = true)
    (hd : shortDsts i = []) :
    maskOp i d s f = .next (advance (mapA (issue s) fun a => writeTriple (isHandler s.cur) a d.toNat (f a))) :=
  simple_plain h hc hm hd

/-- A meaning that is guarded by `checked` with its own instruction. -/
def Guarded (i : Instr) (s : State) (r : Res) : Prop := ∃ k, r = checked i s k
/-! Each shared shape of a meaning is guarded. -/

theorem simple_guarded {i s f} : Guarded i s (simple i s f) := ⟨_, rfl⟩
theorem bitOp_guarded {i d x y s f} : Guarded i s (bitOp i d x y s f) := simple_guarded
theorem branchIf_guarded {i o s c} : Guarded i s (branchIf i o s c) := ⟨_, rfl⟩
theorem cacheOp_guarded {i r s entry start} : Guarded i s (cacheOp i r s entry start) := ⟨_, rfl⟩
theorem cacheWb_guarded {i a s inv} : Guarded i s (cacheWb i a s inv) := cacheOp_guarded
theorem cmpOp_guarded {i o k x y s f} : Guarded i s (cmpOp i o k x y s f) := simple_guarded
theorem collIssue_guarded {i a red fl la s} : Guarded i s (collIssue i a red fl la s) := ⟨_, rfl⟩
theorem crossLane_guarded {i d x y s f} : Guarded i s (crossLane i d x y s f) := simple_guarded
theorem vlOp_guarded {i d fl la s rounds f} : Guarded i s (vlOp i d fl la s rounds f) := ⟨_, rfl⟩
theorem divOp_guarded {i d x y fl la s pick} : Guarded i s (divOp i d x y fl la s pick) := vlOp_guarded
theorem engIssue_guarded {i kind a b fl la s} : Guarded i s (engIssue i kind a b fl la s) := ⟨_, rfl⟩
theorem fdivOp_guarded {i d x y fl la s f} : Guarded i s (fdivOp i d x y fl la s f) := vlOp_guarded
theorem fenceOp_guarded {i sc s} : Guarded i s (fenceOp i sc s) := ⟨_, rfl⟩
theorem fltOp_guarded {i d x y s f} : Guarded i s (fltOp i d x y s f) := simple_guarded
theorem fltOp1_guarded {i d x s f} : Guarded i s (fltOp1 i d x s f) := simple_guarded
theorem fmaOp_guarded {i d x y s negP negD} : Guarded i s (fmaOp i d x y s negP negD) := simple_guarded
theorem intOp_guarded {i d x y s f} : Guarded i s (intOp i d x y s f) := simple_guarded
theorem intOp1_guarded {i d x s f} : Guarded i s (intOp1 i d x s f) := simple_guarded
theorem maskOp_guarded {i d s f} : Guarded i s (maskOp i d s f) := simple_guarded
theorem minMaxOp_guarded {i d x y s mx propagate} : Guarded i s (minMaxOp i d x y s mx propagate) := simple_guarded
theorem mvIssue_guarded {i m d x tx fl la s} : Guarded i s (mvIssue i m d x tx fl la s) := ⟨_, rfl⟩
theorem nmIssue_guarded {i fn a fl la s} : Guarded i s (nmIssue i fn a fl la s) := ⟨_, rfl⟩
theorem rawOp_guarded {i d x y s f} : Guarded i s (rawOp i d x y s f) := simple_guarded
theorem rawOp1_guarded {i d x s f} : Guarded i s (rawOp1 i d x s f) := simple_guarded
theorem redOp_guarded {i d fl la s rounds f} : Guarded i s (redOp i d fl la s rounds f) := vlOp_guarded
theorem scalarOp_guarded {i d s f} : Guarded i s (scalarOp i d s f) := simple_guarded
theorem sfuOp_guarded {i n d x fl la s f} : Guarded i s (sfuOp i n d x fl la s f) := vlOp_guarded
theorem tileIssue_guarded {i fn ct pl a n fl la s chk} : Guarded i s (tileIssue i fn ct pl a n fl la s chk) := ⟨_, rfl⟩

end Sys2Proof.Machine
end

