-- ==== Sys2Proof/Laws/Memory.lean ====
section
/-! SUPPORT. The canonical form of a memory: every operation on a memory keeps it. -/

namespace Sys2Proof.Machine

theorem mem_memSet {m : List Host.Cell} {a : Nat} {v : Byte} {c : Host.Cell} (h : c ∈ memSet m a v) : c.1 = a ∨ c ∈ m := by
  induction m with
  | nil => unfold memSet at h; split at h <;> simp_all
  | cons x m ih =>
    obtain ⟨k, b⟩ := x
    unfold memSet at h
    repeat' split at h
    all_goals simp only [List.mem_cons] at h ⊢
    · exact .inr h
    · rcases h with rfl | h
      · exact .inl rfl
      · exact .inr h
    · exact .inr (.inr h)
    · rcases h with rfl | h
      · exact .inl rfl
      · exact .inr (.inr h)
    · rcases h with h | h
      · exact .inr (.inl h)
      · rcases ih h with h | h
        · exact .inl h
        · exact .inr (.inr h)
theorem memWf_cons {k : Nat} {b : Byte} {m : List Host.Cell} :
    memWf ((k, b) :: m) = true ↔ b ≠ 0 ∧ (∀ c ∈ m, k < c.1) ∧ memWf m = true := by
  simp only [memWf, Bool.and_eq_true, bne_iff_ne, List.all_eq_true, decide_eq_true_eq, and_assoc]
@[simp] theorem memSet_wf {m : List Host.Cell} {a v} (h : memWf m = true) : memWf (memSet m a v) = true := by
  induction m with
  | nil => unfold memSet; split <;> simp_all [memWf]
  | cons c m ih =>
    obtain ⟨k, b⟩ := c
    have h' := memWf_cons.1 h
    unfold memSet
    split
    · split
      · exact h
      · refine memWf_cons.2 ⟨‹_›, fun c hc => ?_, h⟩
        rcases List.mem_cons.1 hc with rfl | hc
        · assumption
        · have := h'.2.1 c hc; omega
    · split
      · subst_vars
        split
        · exact h'.2.2
        · exact memWf_cons.2 ⟨‹_›, h'.2⟩
      · refine memWf_cons.2 ⟨h'.1, fun c hc => ?_, ih h'.2.2⟩
        rcases mem_memSet hc with hc | hc
        · omega
        · exact h'.2.1 c hc
@[simp] theorem memPut_wf {m : List Host.Cell} {a bs} (h : memWf m = true) : memWf (memPut m a bs) = true := by
  induction bs generalizing m a with
  | nil => exact h
  | cons b bs ih => exact ih (memSet_wf h)
@[simp] theorem memPutMasked_wf {m : List Host.Cell} {a bs} (h : memWf m = true) : memWf (memPutMasked m a bs) = true := by
  unfold memPutMasked
  generalize bs.zipIdx = l
  induction l generalizing m with
  | nil => exact h
  | cons b l ih =>
    refine ih ?_
    dsimp only
    split
    · exact memSet_wf h
    · exact h
theorem filter_wf {m : List Host.Cell} {p : Host.Cell → Bool} (h : memWf m = true) : memWf (m.filter p) = true := by
  induction m with
  | nil => rfl
  | cons c m ih =>
    obtain ⟨k, b⟩ := c
    have h' := memWf_cons.1 h
    rw [List.filter_cons]
    split
    · exact memWf_cons.2 ⟨h'.1, fun c hc => h'.2.1 c (List.mem_filter.1 hc).1, ih h'.2.2⟩
    · exact ih h'.2.2

end Sys2Proof.Machine
end

