-- ==== Sys2Proof/Laws/MemoryKept.lean ====
section
/-! SUPPORT. Every operation of the machine keeps the canonical form of the two memories: one lemma per operation. -/

set_option linter.unusedSimpArgs false
set_option linter.unusedVariables false

namespace Sys2Proof.Machine

/-- Both memories are in canonical form. -/
def MemOk (s : State) : Prop := memWf s.mem = true ∧ memWf s.hostMem = true
/-- A next state has its memories in canonical form. -/
def ResOk : Res → Prop
  | .next s => MemOk s
  | _ => True
/-- A state, if there is one, has its memories in canonical form. -/
def OptOk (o : Option State) : Prop := ∀ s, o = some s → MemOk s
/-- An outcome, if there is one, keeps the canonical form. -/
def OptResOk (o : Option Res) : Prop := ∀ r, o = some r → ResOk r
/-- The state beside a result, if there is one, has its memories in canonical form. -/
def OptPairOk {α : Type} (o : Option (α × State)) : Prop := ∀ r, o = some r → MemOk r.2
@[simp] theorem MemOk.mem_ok {s} (h : MemOk s) : memWf s.mem = true := h.1
@[simp] theorem MemOk.host_ok {s} (h : MemOk s) : memWf s.hostMem = true := h.2
@[simp] theorem memOk_mk {cur waves mem hostMem homes sectors cds mds cores net pkgs podRef ctxs queues launches blocks groups groupMsgs invals wbs faults hostOut agenda nextId tick free} :
  MemOk ⟨cur, waves, mem, hostMem, homes, sectors, cds, mds, cores, net, pkgs, podRef, ctxs, queues, launches, blocks, groups, groupMsgs, invals, wbs, faults, hostOut, agenda, nextId, tick, free⟩ ↔ memWf mem = true ∧ memWf hostMem = true := Iff.rfl
@[simp] theorem resOk_next {s} : ResOk (.next s) ↔ MemOk s := Iff.rfl
@[simp] theorem resOk_fault {f} : ResOk (.fault f) := trivial
@[simp] theorem resOk_refused {f} : ResOk (.refused f) := trivial
@[simp] theorem optOk_some {s} : OptOk (some s) ↔ MemOk s := by simp [OptOk]
@[simp] theorem optOk_none : OptOk none := by simp [OptOk]
@[simp] theorem optResOk_some {s} : OptResOk (some s) ↔ ResOk s := by simp [OptResOk]
@[simp] theorem optResOk_none : OptResOk none := by simp [OptResOk]
@[simp] theorem optPairOk_some {α} {s : α × State} : OptPairOk (some s) ↔ MemOk s.2 := by simp [OptPairOk]
@[simp] theorem optPairOk_none {α} : OptPairOk (none : Option (α × State)) := by simp [OptPairOk]
@[simp] theorem foldl_memOk {α} {f : State → α → State} {l : List α} {s} (hf : ∀ t x, MemOk t → MemOk (f t x)) (h : MemOk s) : MemOk (l.foldl f s) := by
  induction l generalizing s with
  | nil => exact h
  | cons x xs ih => exact ih (hf _ _ h)
@[simp] theorem foldl_pair_memOk {α β} {f : β × State → α → β × State} {l : List α} {s} (hf : ∀ t x, MemOk t.2 → MemOk (f t x).2) (h : MemOk s.2) : MemOk (l.foldl f s).2 := by
  induction l generalizing s with
  | nil => exact h
  | cons x xs ih => exact ih (hf _ _ h)
@[simp] theorem memOk_ite {c : Prop} [Decidable c] {a b : State} (ha : MemOk a) (hb : MemOk b) : MemOk (if c then a else b) := by split <;> assumption
@[simp] theorem resOk_ite {c : Prop} [Decidable c] {a b : Res} (ha : ResOk a) (hb : ResOk b) : ResOk (if c then a else b) := by split <;> assumption
@[simp] theorem optOk_ite {c : Prop} [Decidable c] {a b : Option State} (ha : OptOk a) (hb : OptOk b) : OptOk (if c then a else b) := by split <;> assumption
/-- Every state a read leaves has its memories in canonical form. -/
def TryOk : ReadTry → Prop
  | .notYet s => MemOk s
  | .poison _ s => MemOk s
  | .got _ _ s => MemOk s
@[simp] theorem foldl_fst_memOk {α β} {f : State × β → α → State × β} {l : List α} {s} (hf : ∀ t x, MemOk t.1 → MemOk (f t x).1) (h : MemOk s.1) : MemOk (l.foldl f s).1 := by
  induction l generalizing s with
  | nil => exact h
  | cons x xs ih => exact ih (hf _ _ h)
theorem snd_memOk {α : Type} {p : α × State} {a : α} {t : State} (h : p = (a, t)) (hp : MemOk p.2) : MemOk t := by subst h; exact hp
theorem fst_memOk {α : Type} {p : State × α} {a : α} {t : State} (h : p = (t, a)) (hp : MemOk p.1) : MemOk t := by subst h; exact hp
@[simp] theorem mapWaves_memOk {s : State} {f : Wave → Wave} (h0 : MemOk s) :
    MemOk (mapWaves s f) := by
  unfold mapWaves
  simp (maxDischargeDepth := 30) [h0]
@[simp] theorem onWave_memOk {s : State} {id : WaveId} {f : Wave → Wave} (h0 : MemOk s) :
    MemOk (onWave s id f) := by
  unfold onWave
  try dsimp only
  (repeat' split) <;> simp (maxDischargeDepth := 30) [h0]
@[simp] theorem putWave_memOk {s : State} {w : Wave} (h0 : MemOk s) :
    MemOk (putWave s w) := by
  unfold putWave
  simp (maxDischargeDepth := 30) [h0]
@[simp] theorem addWave_memOk {s : State} {w : Wave} (h0 : MemOk s) :
    MemOk (addWave s w) := by
  unfold addWave
  try dsimp only
  (repeat' split) <;> simp (maxDischargeDepth := 30) [h0]
@[simp] theorem mapA_memOk {s : State} {f : WaveArch → WaveArch} (h0 : MemOk s) :
    MemOk (mapA s f) := by
  unfold mapA
  simp (maxDischargeDepth := 30) [h0]
@[simp] theorem onCore_memOk {s : State} {c : CoreId} {f : Core → Core} (h0 : MemOk s) :
    MemOk (onCore s c f) := by
  unfold onCore
  simp (maxDischargeDepth := 30) [h0]
@[simp] theorem onCd_memOk {s : State} {u : Nat} {f : CDie → CDie} (h0 : MemOk s) :
    MemOk (onCd s u f) := by
  unfold onCd
  simp (maxDischargeDepth := 30) [h0]
@[simp] theorem onMd_memOk {s : State} {u : Nat} {f : MDie → MDie} (h0 : MemOk s) :
    MemOk (onMd s u f) := by
  unfold onMd
  simp (maxDischargeDepth := 30) [h0]
@[simp] theorem onPkg_memOk {s : State} {p : Nat} {f : Pkg → Pkg} (h0 : MemOk s) :
    MemOk (onPkg s p f) := by
  unfold onPkg
  simp (maxDischargeDepth := 30) [h0]
@[simp] theorem onCtx_memOk {s : State} {pkg : Nat} {ctx : Nat} {f : Ctx → Ctx} (h0 : MemOk s) :
    MemOk (onCtx s pkg ctx f) := by
  unfold onCtx
  simp (maxDischargeDepth := 30) [h0]
@[simp] theorem onBlock_memOk {s : State} {b : BlockId} {f : Block → Block} (h0 : MemOk s) :
    MemOk (onBlock s b f) := by
  unfold onBlock
  simp (maxDischargeDepth := 30) [h0]
@[simp] theorem onLaunch_memOk {s : State} {l : Nat} {f : Launch → Launch} (h0 : MemOk s) :
    MemOk (onLaunch s l f) := by
  unfold onLaunch
  simp (maxDischargeDepth := 30) [h0]
@[simp] theorem freshWord_memOk {s : State} (h0 : MemOk s) :
    MemOk (freshWord s).2 := by
  unfold freshWord
  simp (maxDischargeDepth := 30) [h0]
@[simp] theorem freshMask_memOk {s : State} (h0 : MemOk s) :
    MemOk (freshMask s).2 := by
  unfold freshMask
  simp (maxDischargeDepth := 30) [h0]
@[simp] theorem freshBool_memOk {s : State} (h0 : MemOk s) :
    MemOk (freshBool s).2 := by
  unfold freshBool
  simp (maxDischargeDepth := 30) [h0]
@[simp] theorem onTime_memOk {s : State} {die : Nat} {f : TimeSt → TimeSt} (h0 : MemOk s) :
    MemOk (onTime s die f) := by
  unfold onTime
  try dsimp only
  (repeat' split) <;> simp (maxDischargeDepth := 30) [h0]
@[simp] theorem sampleTime_memOk {s : State} {die : Nat} (h0 : MemOk s) :
    MemOk (sampleTime s die).2 := by
  unfold sampleTime
  simp (maxDischargeDepth := 30) [h0]
@[simp] theorem growErr_memOk {s : State} {die : Nat} (h0 : MemOk s) :
    MemOk (growErr s die) := by
  unfold growErr
  try dsimp only
  (repeat' split) <;> simp (maxDischargeDepth := 30) [h0]
@[simp] theorem sampleCycle_memOk {s : State} {cd : Nat} (h0 : MemOk s) :
    MemOk (sampleCycle s cd).2 := by
  unfold sampleCycle
  try dsimp only
  (repeat' split) <;> simp (maxDischargeDepth := 30) +contextual [h0]
@[simp] theorem widenAgainst_memOk {s : State} {old : Nat} {e : BitVec 16} (h0 : MemOk s) :
    MemOk (widenAgainst s old e) := by
  unfold widenAgainst
  try dsimp only
  (repeat' split) <;> simp (maxDischargeDepth := 30) +contextual [h0]
@[simp] theorem loseReference_memOk {s : State} {pkg : Nat} (h0 : MemOk s) :
    MemOk (loseReference s pkg) := by
  unfold loseReference
  try dsimp only
  (repeat' split) <;> simp (maxDischargeDepth := 30) [h0]
@[simp] theorem setS_memOk {s : State} {r : SReg} {x : Word} (h0 : MemOk s) :
    MemOk (setS s r x) := by
  unfold setS
  simp (maxDischargeDepth := 30) [h0]
@[simp] theorem onHome_memOk {s : State} {x : Nat} {f : Home → Home} (h0 : MemOk s) :
    MemOk (onHome s x f) := by
  unfold onHome
  simp (maxDischargeDepth := 30) [h0]
@[simp] theorem onSec_memOk {s : State} {cd : Nat} {x : Nat} {f : DieSector → DieSector} (h0 : MemOk s) :
    MemOk (onSec s cd x f) := by
  unfold onSec
  simp (maxDischargeDepth := 30) [h0]
@[simp] theorem sliceTouch_memOk {s : State} {x : Nat} {wr : Bool} (h0 : MemOk s) :
    MemOk (sliceTouch s x wr) := by
  unfold sliceTouch
  try dsimp only
  (repeat' split) <;> simp (maxDischargeDepth := 30) [h0]
@[simp] theorem writeHome_memOk {s : State} {x : Nat} {off : Nat} {bs : List Byte} (h0 : MemOk s) :
    MemOk (writeHome s x off bs) := by
  unfold writeHome
  try dsimp only
  (repeat' split) <;> simp (maxDischargeDepth := 30) [h0]
@[simp] theorem setHomeData_memOk {s : State} {x : Nat} {d : BitVec 512} {p : Bool} (h0 : MemOk s) :
    MemOk (setHomeData s x d p) := by
  unfold setHomeData
  try dsimp only
  (repeat' split) <;> simp (maxDischargeDepth := 30) [h0]
@[simp] theorem wakeMonitor_memOk {s : State} {cd : Nat} {x : Nat} (h0 : MemOk s) :
    MemOk (wakeMonitor s cd x) := by
  unfold wakeMonitor
  try dsimp only
  (repeat' split) <;> simp (maxDischargeDepth := 30) [h0]
@[simp] theorem writeSec_memOk {s : State} {cd : Nat} {x : Nat} {off : Nat} {bs : List Byte} {core : Option Nat} (h0 : MemOk s) :
    MemOk (writeSec s cd x off bs core) := by
  unfold writeSec
  simp (maxDischargeDepth := 30) [h0]
@[simp] theorem dieWrite_memOk {s : State} {cd : Nat} {a : Nat} {bs : List Byte} (h0 : MemOk s) :
    MemOk (dieWrite s cd a bs) := by
  unfold dieWrite
  try dsimp only
  (repeat' split) <;> simp (maxDischargeDepth := 30) +contextual [h0]
@[simp] theorem homeWrite_memOk {s : State} {a : Nat} {bs : List Byte} (h0 : MemOk s) :
    MemOk (homeWrite s a bs) := by
  unfold homeWrite
  simp (maxDischargeDepth := 30) +contextual [h0]
@[simp] theorem walkPagesAt_memOk {s : State} {cd ctx : Nat} {pages : List (BitVec 24 × Nat)} (h0 : MemOk s) :
    MemOk (walkPagesAt s cd ctx pages) := by
  unfold walkPagesAt
  simp (maxDischargeDepth := 30) +contextual [h0]
@[simp] theorem startWalks_memOk {s : State} {w : Wave} {pages : List (BitVec 24 × Nat)} (h0 : MemOk s) :
    MemOk (startWalks s w pages) := by
  unfold startWalks
  simp (maxDischargeDepth := 30) +contextual [h0]
@[simp] theorem issue_memOk {s : State} (h0 : MemOk s) :
    MemOk (issue s) := by
  unfold issue
  simp (maxDischargeDepth := 30) [h0]
@[simp] theorem advance_memOk {s : State} (h0 : MemOk s) :
    MemOk (advance s) := by
  unfold advance
  simp (maxDischargeDepth := 30) [h0]
@[simp] theorem jump_memOk {s : State} {t : Word} (h0 : MemOk s) :
    MemOk (jump s t) := by
  unfold jump
  simp (maxDischargeDepth := 30) [h0]
@[simp] theorem issueNow_memOk {s : State} (h0 : MemOk s) :
    MemOk (issueNow s) := by
  unfold issueNow
  simp (maxDischargeDepth := 30) [h0]
@[simp] theorem stallBy_memOk {k : StallKind} {s : State} (h0 : MemOk s) :
    MemOk (stallBy k s) := by
  unfold stallBy
  try dsimp only
  (repeat' split) <;> simp (maxDischargeDepth := 30) [h0]
@[simp] theorem stall_memOk {s : State} (h0 : MemOk s) :
    MemOk (stall s) := by
  unfold stall
  simp (maxDischargeDepth := 30) [h0]
@[simp] theorem holdCur_memOk {s : State} {x1 : Hold} (h0 : MemOk s) :
    MemOk (holdCur s x1) := by
  unfold holdCur
  simp (maxDischargeDepth := 30) [h0]
@[simp] theorem takeId_memOk {s : State} (h0 : MemOk s) :
    MemOk (takeId s).2 := by
  unfold takeId
  simp (maxDischargeDepth := 30) [h0]
@[simp] theorem accept_memOk {s : State} {o : Op} (h0 : MemOk s) :
    MemOk (accept s o) := by
  unfold accept
  try dsimp only
  (repeat' split) <;> simp (maxDischargeDepth := 30) [h0]
@[simp] theorem ringWords_memOk {s : State} {cd : Nat} {ws : List Nat} (h0 : MemOk s) :
    MemOk (ringWords s cd ws) := by
  unfold ringWords
  simp (maxDischargeDepth := 30) [h0]
@[simp] theorem ringPut_memOk {s : State} {cd : Nat} {ws : List Nat} (h0 : MemOk s) :
    MemOk (ringPut s cd ws) := by
  unfold ringPut
  try dsimp only
  (repeat' split) <;> simp (maxDischargeDepth := 30) [h0]
@[simp] theorem recordWords_memOk {s : State} {cd : Nat} {ty : Nat} {payload : Nat} (h0 : MemOk s) :
    MemOk (recordWords s cd ty payload).2 := by
  unfold recordWords
  try dsimp only
  (repeat' split) <;> simp (maxDischargeDepth := 30) [h0]
@[simp] theorem sealTrace_memOk {s : State} {cd : Nat} {ctx : Nat} (h0 : MemOk s) :
    MemOk (sealTrace s cd ctx) := by
  unfold sealTrace
  try dsimp only
  (repeat' split) <;> simp (maxDischargeDepth := 30) [h0]
@[simp] theorem pageRecord_memOk {s : State} {cd : Nat} {ctx : Nat} {ty : Nat} {payload : Nat} {body : List Nat} (h0 : MemOk s) :
    MemOk (pageRecord s cd ctx ty payload body) := by
  unfold pageRecord
  try dsimp only
  (repeat' split) <;> simp (maxDischargeDepth := 30) [h0]
@[simp] theorem lostRecord_memOk {s : State} {cd : Nat} (h0 : MemOk s) : MemOk (lostRecord s cd) := by
  unfold lostRecord
  dsimp only
  (repeat' split) <;> simp (maxDischargeDepth := 30) [h0]
@[simp] theorem ringRecord_memOk {s : State} {cd ty payload : Nat} {body : List Nat} (h0 : MemOk s) :
    MemOk (ringRecord s cd ty payload body) := by
  unfold ringRecord
  dsimp only
  split <;> simp (maxDischargeDepth := 30) [h0]
@[simp] theorem traceRec_memOk {s : State} {cd : Nat} {ctx : Nat} {ty : Nat} {payload : Nat} {body : List Nat} (h0 : MemOk s) :
    MemOk (traceRec s cd ctx ty payload body) := by
  unfold traceRec
  try dsimp only
  (repeat' split) <;> simp (maxDischargeDepth := 30) [h0]
@[simp] theorem waveRec_memOk {s : State} {w : Wave} {c : Cause} {code : Word} {pc : Word} {oaddr : BitVec 64} {plm : Mask} {park : Bool} {kill : Bool} {double : Bool} (h0 : MemOk s) :
    MemOk (waveRec s w c code pc oaddr plm park kill double).2 := by
  unfold waveRec
  simp (maxDischargeDepth := 30) [h0]
@[simp] theorem sendGroup_memOk {s : State} {seq : Nat} {e : GroupEv} (h0 : MemOk s) :
    MemOk (sendGroup s seq e) := by
  unfold sendGroup
  simp (maxDischargeDepth := 30) [h0]
@[simp] theorem drainAll_memOk {s : State} {c : CoreId} (h0 : MemOk s) :
    MemOk (drainAll s c) := by
  unfold drainAll
  simp (maxDischargeDepth := 30) [h0]
@[simp] theorem endWave_memOk {s : State} (h0 : MemOk s) :
    MemOk (endWave s) := by
  unfold endWave
  simp (maxDischargeDepth := 30) +contextual [h0]
@[simp] theorem killFor_memOk {s : State} {w : Wave} {blk : Nat} {c : Cause} {code : Word} {pc : Word} {oaddr : BitVec 64} {double : Bool} (h0 : MemOk s) :
    MemOk (killFor s w blk c code pc oaddr double) := by
  unfold killFor
  try dsimp only
  (repeat' split) <;> simp (maxDischargeDepth := 30) [h0]
@[simp] theorem killWith_memOk {s : State} {w : Wave} {c : Cause} {code : Word} {pc : Word} {oaddr : BitVec 64} {double : Bool} (h0 : MemOk s) :
    MemOk (killWith s w c code pc oaddr double) := by
  unfold killWith
  try dsimp only
  (repeat' split) <;> simp (maxDischargeDepth := 30) [h0]
@[simp] theorem killWave_memOk {s : State} {w : Wave} {c : Cause} {pc : Word} {oaddr : BitVec 64} {double : Bool} (h0 : MemOk s) :
    MemOk (killWave s w c pc oaddr double) := by
  unfold killWave
  simp (maxDischargeDepth := 30) [h0]
@[simp] theorem fillTlb_memOk {s : State} {c : CoreId} {ctx : Nat} {id : BitVec 24} {page : Nat} (h0 : MemOk s) :
    MemOk (fillTlb s c ctx id page) := by
  unfold fillTlb
  try dsimp only
  (repeat' split) <;> simp (maxDischargeDepth := 30) [h0]
@[simp] theorem copyTlb_memOk {s : State} {w : Wave} {id : BitVec 24} {page : Nat} (h0 : MemOk s) :
    MemOk (copyTlb s w id page) := by
  unfold copyTlb
  simp (maxDischargeDepth := 30) [h0]
@[simp] theorem copyTlbAt_memOk {s : State} {w : Wave} {ad : BitVec 64} (h0 : MemOk s) :
    MemOk (copyTlbAt s w ad) := by
  unfold copyTlbAt
  simp (maxDischargeDepth := 30) [h0]
@[simp] theorem enterTrap_memOk {s : State} {w : Wave} {r : FaultRec} {resume : Word} {addr : BitVec 64} {tsaddr : BitVec 64} (h0 : MemOk s) :
    MemOk (enterTrap s w r resume addr tsaddr) := by
  unfold enterTrap
  try dsimp only
  (repeat' split) <;> simp (maxDischargeDepth := 30) [h0]
@[simp] theorem raiseTrapFor_memOk {s : State} {blk : Nat} {c : Cause} {code : Word} {resume : Word} {pc : Word} {oaddr : BitVec 64} {plm : Mask} {park : Bool} (h0 : MemOk s) :
    MemOk (raiseTrapFor s blk c code resume pc oaddr plm park) := by
  unfold raiseTrapFor
  try dsimp only
  (repeat' split) <;> simp (maxDischargeDepth := 30) [h0]
@[simp] theorem raiseTrap_memOk {s : State} {c : Cause} {code : Word} {resume : Word} {pc : Word} {oaddr : BitVec 64} {plm : Mask} {park : Bool} (h0 : MemOk s) :
    MemOk (raiseTrap s c code resume pc oaddr plm park) := by
  unfold raiseTrap
  try dsimp only
  (repeat' split) <;> simp (maxDischargeDepth := 30) [h0]
@[simp] theorem trapAt_memOk {s : State} {c : Cause} (h0 : MemOk s) :
    MemOk (trapAt s c) := by
  unfold trapAt
  simp (maxDischargeDepth := 30) [h0]
@[simp] theorem countReplay_memOk {s : State} (h0 : MemOk s) :
    MemOk (countReplay s) := by
  unfold countReplay
  try dsimp only
  (repeat' split) <;> simp (maxDischargeDepth := 30) [h0]
@[simp] theorem holdMigration_memOk {s : State} {id : BitVec 24} (h0 : MemOk s) :
    MemOk (holdMigration s id) := by
  unfold holdMigration
  simp (maxDischargeDepth := 30) [h0]
@[simp] theorem parkAt_memOk {s : State} {c : Cause} {oaddr : BitVec 64} {plm : Mask} (h0 : MemOk s) :
    MemOk (parkAt s c oaddr plm) := by
  unfold parkAt
  simp (maxDischargeDepth := 30) [h0]
@[simp] theorem parkActive_memOk {s : State} {c : Cause} {oaddr : BitVec 64} (h0 : MemOk s) :
    MemOk (parkActive s c oaddr) := by
  unfold parkActive
  simp (maxDischargeDepth := 30) [h0]
@[simp] theorem noteWrites_memOk {ds : List VSel} {m : Mask} {old : Wave} {a : Res} (h0 : ResOk a) :
    ResOk (noteWrites ds m old a) := by
  unfold noteWrites
  try dsimp only
  (repeat' split) <;> simp_all (maxDischargeDepth := 30)
@[simp] theorem checked_memOk {i : Instr} {s : State} {k : State → Res} (h0 : MemOk s) (h1 : ∀ y0, MemOk y0 → ResOk (k y0)) :
    ResOk (checked i s k) := by
  unfold checked
  try dsimp only
  (repeat' split) <;> simp (maxDischargeDepth := 30) [h0, h1]
@[simp] theorem simple_memOk {i : Instr} {s : State} {f : WaveArch → WaveArch} (h0 : MemOk s) :
    ResOk (simple i s f) := by
  unfold simple
  simp (maxDischargeDepth := 30) +contextual [h0]
@[simp] theorem focusOn_memOk {s : State} {w : Wave} (h0 : MemOk s) :
    MemOk (focusOn s w) := by
  unfold focusOn
  try dsimp only
  (repeat' split) <;> simp (maxDischargeDepth := 30) [h0]
@[simp] theorem maskOp_memOk {i : Instr} {d : SReg} {s : State} {f : WaveArch → Mask} (h0 : MemOk s) :
    ResOk (maskOp i d s f) := by
  unfold maskOp
  simp (maxDischargeDepth := 30) [h0]
@[simp] theorem branchIf_memOk {i : Instr} {o : BitVec 16} {s : State} {c : WaveArch → Bool} (h0 : MemOk s) :
    ResOk (branchIf i o s c) := by
  unfold branchIf
  try dsimp only
  (repeat' split) <;> simp (maxDischargeDepth := 30) +contextual [h0, *]
@[simp] theorem execMand_memOk {d : SReg} {a : SReg} {b : SReg} {s : State} (h0 : MemOk s) :
    ResOk (execMand d a b s) := by
  unfold execMand
  simp (maxDischargeDepth := 30) [h0]
@[simp] theorem execMor_memOk {d : SReg} {a : SReg} {b : SReg} {s : State} (h0 : MemOk s) :
    ResOk (execMor d a b s) := by
  unfold execMor
  simp (maxDischargeDepth := 30) [h0]
@[simp] theorem execMxor_memOk {d : SReg} {a : SReg} {b : SReg} {s : State} (h0 : MemOk s) :
    ResOk (execMxor d a b s) := by
  unfold execMxor
  simp (maxDischargeDepth := 30) [h0]
@[simp] theorem execMandn_memOk {d : SReg} {a : SReg} {b : SReg} {s : State} (h0 : MemOk s) :
    ResOk (execMandn d a b s) := by
  unfold execMandn
  simp (maxDischargeDepth := 30) [h0]
@[simp] theorem execMnot_memOk {d : SReg} {a : SReg} {s : State} (h0 : MemOk s) :
    ResOk (execMnot d a s) := by
  unfold execMnot
  simp (maxDischargeDepth := 30) [h0]
@[simp] theorem execMset_memOk {d : SReg} {s : State} (h0 : MemOk s) :
    ResOk (execMset d s) := by
  unfold execMset
  simp (maxDischargeDepth := 30) [h0]
@[simp] theorem execMclr_memOk {d : SReg} {s : State} (h0 : MemOk s) :
    ResOk (execMclr d s) := by
  unfold execMclr
  simp (maxDischargeDepth := 30) [h0]
@[simp] theorem execMcnt_memOk {d : SReg} {a : SReg} {s : State} (h0 : MemOk s) :
    ResOk (execMcnt d a s) := by
  unfold execMcnt
  simp (maxDischargeDepth := 30) [h0]
@[simp] theorem execMfirst_memOk {d : SReg} {a : SReg} {s : State} (h0 : MemOk s) :
    ResOk (execMfirst d a s) := by
  unfold execMfirst
  simp (maxDischargeDepth := 30) [h0]
@[simp] theorem execMlane_memOk {d : SReg} {a : SReg} {s : State} (h0 : MemOk s) :
    ResOk (execMlane d a s) := by
  unfold execMlane
  simp (maxDischargeDepth := 30) [h0]
@[simp] theorem execBz_memOk {c : SReg} {o : BitVec 16} {s : State} (h0 : MemOk s) :
    ResOk (execBz c o s) := by
  unfold execBz
  simp (maxDischargeDepth := 30) [h0]
@[simp] theorem execBnz_memOk {c : SReg} {o : BitVec 16} {s : State} (h0 : MemOk s) :
    ResOk (execBnz c o s) := by
  unfold execBnz
  simp (maxDischargeDepth := 30) [h0]
@[simp] theorem execBltz_memOk {c : SReg} {o : BitVec 16} {s : State} (h0 : MemOk s) :
    ResOk (execBltz c o s) := by
  unfold execBltz
  simp (maxDischargeDepth := 30) [h0]
@[simp] theorem execBgez_memOk {c : SReg} {o : BitVec 16} {s : State} (h0 : MemOk s) :
    ResOk (execBgez c o s) := by
  unfold execBgez
  simp (maxDischargeDepth := 30) [h0]
@[simp] theorem execBgtz_memOk {c : SReg} {o : BitVec 16} {s : State} (h0 : MemOk s) :
    ResOk (execBgtz c o s) := by
  unfold execBgtz
  simp (maxDischargeDepth := 30) [h0]
@[simp] theorem execBlez_memOk {c : SReg} {o : BitVec 16} {s : State} (h0 : MemOk s) :
    ResOk (execBlez c o s) := by
  unfold execBlez
  simp (maxDischargeDepth := 30) [h0]
@[simp] theorem execBany_memOk {c : SReg} {o : BitVec 16} {s : State} (h0 : MemOk s) :
    ResOk (execBany c o s) := by
  unfold execBany
  simp (maxDischargeDepth := 30) [h0]
@[simp] theorem execBall_memOk {c : SReg} {o : BitVec 16} {s : State} (h0 : MemOk s) :
    ResOk (execBall c o s) := by
  unfold execBall
  simp (maxDischargeDepth := 30) [h0]
@[simp] theorem execBnone_memOk {c : SReg} {o : BitVec 16} {s : State} (h0 : MemOk s) :
    ResOk (execBnone c o s) := by
  unfold execBnone
  simp (maxDischargeDepth := 30) [h0]
@[simp] theorem execBranch_memOk {o : BitVec 16} {s : State} (h0 : MemOk s) :
    ResOk (execBranch o s) := by
  unfold execBranch
  simp (maxDischargeDepth := 30) [h0]
@[simp] theorem execCall_memOk {c : SReg} {o : BitVec 16} {s : State} (h0 : MemOk s) :
    ResOk (execCall c o s) := by
  unfold execCall
  simp (maxDischargeDepth := 30) +contextual [h0]
@[simp] theorem execRet_memOk {a : SReg} {s : State} (h0 : MemOk s) :
    ResOk (execRet a s) := by
  unfold execRet
  try dsimp only
  (repeat' split) <;> simp (maxDischargeDepth := 30) +contextual [h0, *]
@[simp] theorem waitWalks_memOk {s : State} {pages : List (BitVec 24 × Nat)} (h0 : MemOk s) :
    MemOk (waitWalks s pages) := by
  unfold waitWalks
  try dsimp only
  (repeat' split) <;> simp (maxDischargeDepth := 30) [h0]
@[simp] theorem waitRelease_memOk {s : State} (h0 : MemOk s) :
    MemOk (waitRelease s) := by
  unfold waitRelease
  simp (maxDischargeDepth := 30) [h0]
@[simp] theorem moveEnded_memOk {s : State} {id : WaveId} (h0 : MemOk s) :
    MemOk (moveEnded s id) := by
  unfold moveEnded
  try dsimp only
  (repeat' split) <;> simp (maxDischargeDepth := 30) [h0]
@[simp] theorem startInval_memOk {s : State} {pkg : Nat} {ctx : Nat} {id : BitVec 24} {first : Nat} {count : Nat} {iod : Option Nat} (h0 : MemOk s) :
    MemOk (startInval s pkg ctx id first count iod).2 := by
  unfold startInval
  simp (maxDischargeDepth := 30) [h0]
@[simp] theorem startWritebackAt_memOk {s : State} {pkg : Nat} {ds : List Nat} {frames : Option (List Nat)} {inv : Bool} {launch : Option Nat} (h0 : MemOk s) :
    MemOk (startWritebackAt s pkg ds frames inv launch).2 := by
  unfold startWritebackAt
  simp (maxDischargeDepth := 30) [h0]
@[simp] theorem startWriteback_memOk {s : State} {pkg : Nat} {frames : Option (List Nat)} {inv : Bool} (h0 : MemOk s) :
    MemOk (startWriteback s pkg frames inv).2 := by
  unfold startWriteback
  simp (maxDischargeDepth := 30) [h0]
@[simp] theorem send_memOk {s : State} {src : Nat} {dst : Nat} {b : MsgBody} (h0 : MemOk s) :
    MemOk (send s src dst b) := by
  unfold send
  simp (maxDischargeDepth := 30) [h0]
@[simp] theorem sendAll_memOk {s : State} {src : Nat} {ds : List Nat} {b : MsgBody} (h0 : MemOk s) :
    MemOk (sendAll s src ds b) := by
  unfold sendAll
  simp (maxDischargeDepth := 30) [h0]
@[simp] theorem multicast_memOk {s : State} {pkg : Nat} {g : Nat} {src : Nat} {b : MsgBody} (h0 : MemOk s) :
    MemOk (multicast s pkg g src b) := by
  unfold multicast
  simp (maxDischargeDepth := 30) [h0]
@[simp] theorem broadcast_memOk {s : State} {x : Nat} {b : MsgBody} (h0 : MemOk s) :
    MemOk (broadcast s x b) := by
  unfold broadcast
  try dsimp only
  (repeat' split) <;> simp (maxDischargeDepth := 30) +contextual [h0]
@[simp] theorem sendAck_memOk {s : State} {cd : Nat} {x : Nat} (h0 : MemOk s) :
    MemOk (sendAck s cd x) := by
  unfold sendAck
  try dsimp only
  (repeat' split) <;> simp (maxDischargeDepth := 30) [h0]
@[simp] theorem pkgAck_memOk {s : State} {q : Nat} {x : Nat} {die : Nat} (h0 : MemOk s) :
    MemOk (pkgAck s q x die) := by
  unfold pkgAck
  try dsimp only
  (repeat' split) <;> simp (maxDischargeDepth := 30) [h0]
@[simp] theorem countHot_memOk {s : State} {x : Nat} {die : Option Nat} (h0 : MemOk s) :
    MemOk (countHot s x die) := by
  unfold countHot
  simp (maxDischargeDepth := 30) [h0]
@[simp] theorem train_memOk {s : State} {cd : Nat} {x : Nat} {die : Nat} (h0 : MemOk s) :
    MemOk (train s cd x die) := by
  unfold train
  try dsimp only
  (repeat' split) <;> simp (maxDischargeDepth := 30) [h0]
@[simp] theorem issueReq_memOk {s : State} {cd : Nat} {x : Nat} {wr : Bool} {tag : BitVec 12} {dies : List Nat} {first : Bool} (h0 : MemOk s) :
    MemOk (issueReq s cd x wr tag dies first) := by
  unfold issueReq
  try dsimp only
  (repeat' split) <;> simp (maxDischargeDepth := 30) [h0]
@[simp] theorem postReq_memOk {s : State} {cd : Nat} {x : Nat} {wr : Bool} (h0 : MemOk s) :
    MemOk (postReq s cd x wr) := by
  unfold postReq
  try dsimp only
  (repeat' split) <;> simp (maxDischargeDepth := 30) [h0]
@[simp] theorem markPod_memOk {s : State} {pkg : Nat} {ctx : Nat} {x : Nat} {c : Coh} (h0 : MemOk s) :
    MemOk (markPod s pkg ctx x c) := by
  unfold markPod
  try dsimp only
  (repeat' split) <;> simp (maxDischargeDepth := 30) [h0]
@[simp] theorem holdOver_memOk {s : State} {xs : List Nat} (h0 : MemOk s) :
    MemOk (holdOver s xs) := by
  unfold holdOver
  try dsimp only
  (repeat' split) <;> simp (maxDischargeDepth := 30) [h0]
@[simp] theorem opDone_memOk {s : State} {cd : Nat} {x : Nat} (h0 : MemOk s) :
    MemOk (opDone s cd x) := by
  unfold opDone
  try dsimp only
  (repeat' split) <;> simp (maxDischargeDepth := 30) [h0]
@[simp] theorem giveAll_memOk {s : State} {cd : Nat} {x : Nat} {dst : Nat} {tag : BitVec 12} {winner : Bool} (h0 : MemOk s) :
    MemOk (giveAll s cd x dst tag winner) := by
  unfold giveAll
  try dsimp only
  (repeat' split) <;> simp (maxDischargeDepth := 30) [h0]
@[simp] theorem homeGiveAll_memOk {s : State} {x : Nat} {dst : Nat} {tag : BitVec 12} {winner : Bool} (h0 : MemOk s) :
    MemOk (homeGiveAll s x dst tag winner) := by
  unfold homeGiveAll
  try dsimp only
  (repeat' split) <;> simp (maxDischargeDepth := 30) [h0]
@[simp] theorem acceptTok_memOk {s : State} {cd : Nat} {x : Nat} {serial : BitVec 16} {count : Nat} {own : Bool} {d : Option (BitVec 512)} {modified : Bool} {poison : Bool} (h0 : MemOk s) :
    MemOk (acceptTok s cd x serial count own d modified poison) := by
  unfold acceptTok
  simp (maxDischargeDepth := 30) [h0]
@[simp] theorem snoopHost_memOk {s : State} {x : Nat} {inv : Bool} {flip : Bool} (h0 : MemOk s) :
    MemOk (snoopHost s x inv flip) := by
  unfold snoopHost
  try dsimp only
  (repeat' split) <;> simp (maxDischargeDepth := 30) [h0]
@[simp] theorem snoopHeld_memOk {s : State} {x : Nat} (h0 : MemOk s) :
    MemOk (snoopHeld s x) := by
  unfold snoopHeld
  try dsimp only
  (repeat' split) <;> simp (maxDischargeDepth := 30) [h0]
@[simp] theorem homeToWinner_memOk {s : State} {x : Nat} (h0 : MemOk s) :
    MemOk (homeToWinner s x) := by
  unfold homeToWinner
  try dsimp only
  (repeat' split) <;> simp (maxDischargeDepth := 30) [h0]
@[simp] theorem activateNext_memOk {s : State} {x : Nat} (h0 : MemOk s) :
    MemOk (activateNext s x) := by
  unfold activateNext
  try dsimp only
  (repeat' split) <;> simp (maxDischargeDepth := 30) [h0]
@[simp] theorem trumpIn_memOk {s : State} {x : Nat} {w : Nat} {tag : BitVec 12} (h0 : MemOk s) :
    MemOk (trumpIn s x w tag) := by
  unfold trumpIn
  simp (maxDischargeDepth := 30) [h0]
@[simp] theorem startDeact_memOk {s : State} {x : Nat} (h0 : MemOk s) :
    MemOk (startDeact s x) := by
  unfold startDeact
  try dsimp only
  (repeat' split) <;> simp (maxDischargeDepth := 30) [h0]
@[simp] theorem homeRequest_memOk {s : State} {x : Nat} (h0 : MemOk s) :
    MemOk (homeRequest s x) := by
  unfold homeRequest
  try dsimp only
  (repeat' split) <;> simp (maxDischargeDepth := 30) [h0]
@[simp] theorem homeDone_memOk {s : State} {x : Nat} (h0 : MemOk s) :
    MemOk (homeDone s x) := by
  unfold homeDone
  try dsimp only
  (repeat' split) <;> simp (maxDischargeDepth := 30) [h0]
@[simp] theorem homeGather_memOk {s : State} {xs : List Nat} (h0 : MemOk s) :
    MemOk (homeGather s xs).2 := by
  unfold homeGather
  try dsimp only
  (repeat' split) <;> simp (maxDischargeDepth := 30) +contextual [h0]
@[simp] theorem hostDone_memOk {s : State} {x : Nat} (h0 : MemOk s) :
    MemOk (hostDone s x) := by
  unfold hostDone
  try dsimp only
  (repeat' split) <;> simp (maxDischargeDepth := 30) [h0]
@[simp] theorem homeRead_memOk {s : State} {x : Nat} (h0 : MemOk s) :
    MemOk (homeRead s x).2 := by
  unfold homeRead
  dsimp only
  (repeat' split) <;> simp (maxDischargeDepth := 30) [h0]
@[simp] theorem dieGather_memOk {s : State} {cd : Nat} {xs : List Nat} (h0 : MemOk s) :
    MemOk (dieGather s cd xs).2 := by
  unfold dieGather
  try dsimp only
  (repeat' split) <;> simp (maxDischargeDepth := 30) +contextual [h0]
@[simp] theorem dieRead_memOk {s : State} {cd : Nat} {xs : List Nat} (h0 : MemOk s) :
    MemOk (dieRead s cd xs).2 := by
  unfold dieRead
  try dsimp only
  (repeat' split) <;> simp (maxDischargeDepth := 30) +contextual [h0]
@[simp] theorem popTrace_memOk {s : State} {cd : Nat} (h0 : MemOk s) :
    MemOk (popTrace s cd) := by
  unfold popTrace
  try dsimp only
  (repeat' split) <;> simp (maxDischargeDepth := 30) [h0]
@[simp] theorem writeRing_memOk {s : State} {cd : Nat} {h : Nat} {ws : List Nat} (h0 : MemOk s) :
    MemOk (writeRing s cd h ws) := by
  unfold writeRing
  try dsimp only
  (repeat' split) <;> simp (maxDischargeDepth := 30) +contextual [h0]
@[simp] theorem carryRecord_memOk {s : State} {cd ctx : Nat} {rs : List PageRec} (h0 : MemOk s) :
    MemOk (carryRecord s cd ctx rs) := by
  unfold carryRecord
  try dsimp only
  (repeat' split) <;> simp (maxDischargeDepth := 30) [h0]
@[simp] theorem writePage_memOk {s : State} {cd : Nat} {ctx : Nat} {rs : List PageRec} (h0 : MemOk s) :
    MemOk (writePage s cd ctx rs) := by
  unfold writePage
  extract_lets p c n base h t h' k ws drop a xs
  have hd : MemOk drop := onCd_memOk (popTrace_memOk h0)
  split
  · exact hd
  · split
    · exact hd
    · split
      · exact carryRecord_memOk h0
      · split
        rename_i hg
        have h1 := snd_memOk hg (dieRead_memOk h0)
        split
        · exact h1
        · split
          · exact hd
          · split
            rename_i hg
            have h2 := snd_memOk hg (dieGather_memOk h0)
            split
            · exact h2
            · clear_value xs a base h t k ws
              have h3 : ∀ u, MemOk u → MemOk (xs.foldl (fun s x => opDone s cd x) u) := fun u hu => foldl_memOk (fun _ _ h => opDone_memOk h) hu
              refine onCtx_memOk ?_
              split
              · exact onCd_memOk (h3 _ (popTrace_memOk (dieWrite_memOk (dieWrite_memOk h2))))
              · exact h3 _ (popTrace_memOk (dieWrite_memOk (dieWrite_memOk h2)))
@[simp] theorem traceWrite_memOk {s : State} {cd : Nat} (h0 : MemOk s) :
    MemOk (traceWrite s cd) := by
  unfold traceWrite
  try dsimp only
  (repeat' split) <;> simp (maxDischargeDepth := 30) [h0]
@[simp] theorem sendRebuild_memOk {s : State} {x : Nat} {fresh : Bool} (h0 : MemOk s) :
    MemOk (sendRebuild s x fresh) := by
  unfold sendRebuild
  simp (maxDischargeDepth := 30) [h0]
@[simp] theorem dropOutside_memOk {s : State} {x : Nat} (h0 : MemOk s) :
    MemOk (dropOutside s x) := by
  unfold dropOutside
  try dsimp only
  (repeat' split) <;> simp (maxDischargeDepth := 30) +contextual [h0]
@[simp] theorem reshuffle_memOk {s : State} {x : Nat} {d : BitVec 512} {poison : Bool} {lost : Bool} (h0 : MemOk s) :
    MemOk (reshuffle s x d poison lost) := by
  unfold reshuffle
  try dsimp only
  (repeat' split) <;> simp (maxDischargeDepth := 30) [h0]
@[simp] theorem phaseDone_memOk {s : State} {x : Nat} (h0 : MemOk s) :
    MemOk (phaseDone s x) := by
  unfold phaseDone
  try dsimp only
  (repeat' split) <;> simp (maxDischargeDepth := 30) [h0]
@[simp] theorem countAck_memOk {s : State} {x : Nat} {die : Nat} (h0 : MemOk s) :
    MemOk (countAck s x die) := by
  unfold countAck
  try dsimp only
  (repeat' split) <;> simp (maxDischargeDepth := 30) [h0]
@[simp] theorem dropFromCounts_memOk {s : State} {die : Nat} (h0 : MemOk s) :
    MemOk (dropFromCounts s die) := by
  unfold dropFromCounts
  refine foldl_memOk (fun t x ht => ?_) (foldl_memOk (fun _ _ h => pkgAck_memOk h) h0)
  dsimp only
  (repeat' split) <;> simp (maxDischargeDepth := 30) [ht]
@[simp] theorem settleHome_memOk {s : State} {x : Nat} {t : Trump} (h0 : MemOk s) :
    MemOk (settleHome s x t) := by
  unfold settleHome
  try dsimp only
  (repeat' split) <;> simp (maxDischargeDepth := 30) [h0]
@[simp] theorem logLoss_memOk {s : State} {u : Nat} {m : Msg} (h0 : MemOk s) :
    MemOk (logLoss s u m) := by
  unfold logLoss
  try dsimp only
  (repeat' split) <;> simp (maxDischargeDepth := 30) [h0]
@[simp] theorem wakeReply_memOk {s : State} {n : Nat} {m : Msg} (h0 : MemOk s) :
    MemOk (wakeReply s n m) := by
  unfold wakeReply
  try dsimp only
  (repeat' split) <;> simp (maxDischargeDepth := 30) [h0]
@[simp] theorem onMsg_memOk {s : State} {n : Nat} {f : Msg → State → Option State} (h0 : MemOk s) (h1 : ∀ y0 y1, MemOk y1 → OptOk (f y0 y1)) :
    ResOk (onMsg s n f) := by
  unfold onMsg
  split
  · simp [h0]
  · dsimp only
    split
    · simp [h0]
    · rename_i m _ _ t ht
      have h2 : MemOk t := h1 m { s with net := dropAt n s.net } (by simp [h0]) t ht
      (repeat' split) <;> simp (maxDischargeDepth := 30) [h0, h2]
@[simp] theorem endFlip_memOk {s : State} {md : Nat} {f : Flip} (h0 : MemOk s) :
    MemOk (endFlip s md f) := by
  unfold endFlip
  try dsimp only
  (repeat' split) <;> simp (maxDischargeDepth := 30) +contextual [h0]
@[simp] theorem flipSnoop_memOk {s : State} {md : Nat} {f : Flip} (h0 : MemOk s) :
    MemOk (flipSnoop s md f) := by
  unfold flipSnoop
  try dsimp only
  (repeat' split) <;> simp (maxDischargeDepth := 30) +contextual [h0]
@[simp] theorem flipGather_memOk {s : State} {xs : List Nat} (h0 : MemOk s) :
    MemOk (flipGather s xs).2 := by
  unfold flipGather
  try dsimp only
  (repeat' split) <;> simp (maxDischargeDepth := 30) +contextual [h0]
@[simp] theorem flipProgress_memOk {s : State} {md : Nat} (h0 : MemOk s) :
    MemOk (flipProgress s md) := by
  unfold flipProgress
  try dsimp only
  (repeat' split) <;> simp (maxDischargeDepth := 30) +contextual [h0]
@[simp] theorem homeServe_memOk {s : State} {x : Nat} {req : Nat} {tag : BitVec 12} {wr : Bool} (h0 : MemOk s) :
    MemOk (homeServe s x req tag wr) := by
  unfold homeServe
  try dsimp only
  (repeat' split) <;> simp (maxDischargeDepth := 30) [h0]
@[simp] theorem hostFirst_memOk {s : State} {m : Msg} {x : Nat} {req : Nat} {inv : Bool} (h0 : MemOk s) :
    OptOk (hostFirst s m x req inv) := by
  unfold hostFirst
  try dsimp only
  (repeat' split) <;> simp (maxDischargeDepth := 30) [h0]
theorem hostFirst_some {s t : State} {m : Msg} {x req : Nat} {wr : Bool} (h : hostFirst s m x req wr = some t) (h0 : MemOk s) :
    MemOk t := hostFirst_memOk h0 t h
@[simp] theorem homeReq_memOk {s : State} {m : Msg} {x : Nat} {req : Nat} {tag : BitVec 12} {wr : Bool} (h0 : MemOk s) :
    MemOk (homeReq s m x req tag wr) := by
  unfold homeReq
  dsimp only
  split
  · exact hostFirst_some ‹_› h0
  · (repeat' split) <;> simp (maxDischargeDepth := 30) [h0]
@[simp] theorem dieReq_memOk {s : State} {cd : Nat} {x : Nat} {req : Nat} {tag : BitVec 12} {wr : Bool} (h0 : MemOk s) :
    MemOk (dieReq s cd x req tag wr) := by
  unfold dieReq
  try dsimp only
  (repeat' split) <;> simp (maxDischargeDepth := 30) [h0]
@[simp] theorem execRdreq_memOk {n : Nat} {s : State} (h0 : MemOk s) :
    ResOk (execRdreq n s) := by
  unfold execRdreq
  first | refine checked_memOk (by assumption) fun t ht => ?_ | refine onMsg_memOk (by assumption) fun m t ht => ?_
  try dsimp only
  (repeat' split) <;> simp (maxDischargeDepth := 30) +contextual [*]
@[simp] theorem execWrreq_memOk {n : Nat} {s : State} (h0 : MemOk s) :
    ResOk (execWrreq n s) := by
  unfold execWrreq
  first | refine checked_memOk (by assumption) fun t ht => ?_ | refine onMsg_memOk (by assumption) fun m t ht => ?_
  try dsimp only
  (repeat' split) <;> simp (maxDischargeDepth := 30) +contextual [*]
@[simp] theorem reqProgress_memOk {s : State} {cd : Nat} {x : Nat} (h0 : MemOk s) :
    MemOk (reqProgress s cd x) := by
  unfold reqProgress
  try dsimp only
  (repeat' split) <;> simp (maxDischargeDepth := 30) [h0]
@[simp] theorem countStale_memOk {s : State} {u : Nat} {n : Nat} (h0 : MemOk s) :
    MemOk (countStale s u n) := by
  unfold countStale
  try dsimp only
  (repeat' split) <;> simp (maxDischargeDepth := 30) [h0]
@[simp] theorem homeTok_memOk {s : State} {x : Nat} {ser : BitVec 16} {c : Nat} {own : Bool} {d : Option (BitVec 512)} {poison : Bool} (h0 : MemOk s) :
    MemOk (homeTok s x ser c own d poison) := by
  unfold homeTok
  try dsimp only
  (repeat' split) <;> simp (maxDischargeDepth := 30) [h0]
@[simp] theorem dieTok_memOk {s : State} {m : Msg} {x : Nat} {ser : BitVec 16} {c : Nat} {own : Bool} {d : Option (BitVec 512)} {modified : Bool} {poison : Bool} {tag : BitVec 12} {winner : Bool} (h0 : MemOk s) :
    MemOk (dieTok s m x ser c own d modified poison tag winner) := by
  unfold dieTok
  try dsimp only
  (repeat' split) <;> simp (maxDischargeDepth := 30) [h0]
@[simp] theorem execTok_memOk {n : Nat} {s : State} (h0 : MemOk s) :
    ResOk (execTok n s) := by
  unfold execTok
  first | refine checked_memOk (by assumption) fun t ht => ?_ | refine onMsg_memOk (by assumption) fun m t ht => ?_
  try dsimp only
  (repeat' split) <;> simp (maxDischargeDepth := 30) +contextual [*]
@[simp] theorem execTrumpreq_memOk {n : Nat} {s : State} (h0 : MemOk s) :
    ResOk (execTrumpreq n s) := by
  unfold execTrumpreq
  refine onMsg_memOk h0 fun m t ht => ?_
  split
  · rw [optOk_some]
    split
    · exact hostFirst_some ‹_› ht
    · exact trumpIn_memOk (countHot_memOk ht)
  · exact optOk_none
@[simp] theorem execAct_memOk {n : Nat} {s : State} (h0 : MemOk s) :
    ResOk (execAct n s) := by
  unfold execAct
  first | refine checked_memOk (by assumption) fun t ht => ?_ | refine onMsg_memOk (by assumption) fun m t ht => ?_
  try dsimp only
  (repeat' split) <;> simp (maxDischargeDepth := 30) +contextual [*]
@[simp] theorem execDeact_memOk {n : Nat} {s : State} (h0 : MemOk s) :
    ResOk (execDeact n s) := by
  unfold execDeact
  first | refine checked_memOk (by assumption) fun t ht => ?_ | refine onMsg_memOk (by assumption) fun m t ht => ?_
  try dsimp only
  (repeat' split) <;> simp (maxDischargeDepth := 30) +contextual [*]
@[simp] theorem execGathered_memOk {n : Nat} {s : State} (h0 : MemOk s) :
    ResOk (execGathered n s) := by
  unfold execGathered
  first | refine checked_memOk (by assumption) fun t ht => ?_ | refine onMsg_memOk (by assumption) fun m t ht => ?_
  try dsimp only
  (repeat' split) <;> simp (maxDischargeDepth := 30) +contextual [*]
@[simp] theorem execRelease_memOk {n : Nat} {s : State} (h0 : MemOk s) :
    ResOk (execRelease n s) := by
  unfold execRelease
  first | refine checked_memOk (by assumption) fun t ht => ?_ | refine onMsg_memOk (by assumption) fun m t ht => ?_
  try dsimp only
  (repeat' split) <;> simp (maxDischargeDepth := 30) +contextual [*]
@[simp] theorem execCoherenceAck_memOk {n : Nat} {s : State} (h0 : MemOk s) :
    ResOk (execCoherenceAck n s) := by
  unfold execCoherenceAck
  first | refine checked_memOk (by assumption) fun t ht => ?_ | refine onMsg_memOk (by assumption) fun m t ht => ?_
  try dsimp only
  (repeat' split) <;> simp (maxDischargeDepth := 30) +contextual [*]
@[simp] theorem execCensus_memOk {n : Nat} {s : State} (h0 : MemOk s) :
    ResOk (execCensus n s) := by
  unfold execCensus
  first | refine checked_memOk (by assumption) fun t ht => ?_ | refine onMsg_memOk (by assumption) fun m t ht => ?_
  try dsimp only
  (repeat' split) <;> simp (maxDischargeDepth := 30) +contextual [*]
@[simp] theorem execReport_memOk {n : Nat} {s : State} (h0 : MemOk s) :
    ResOk (execReport n s) := by
  unfold execReport
  first | refine checked_memOk (by assumption) fun t ht => ?_ | refine onMsg_memOk (by assumption) fun m t ht => ?_
  try dsimp only
  (repeat' split) <;> simp (maxDischargeDepth := 30) +contextual [*]
@[simp] theorem execLate_memOk {n : Nat} {s : State} (h0 : MemOk s) :
    ResOk (execLate n s) := by
  unfold execLate
  first | refine checked_memOk (by assumption) fun t ht => ?_ | refine onMsg_memOk (by assumption) fun m t ht => ?_
  try dsimp only
  (repeat' split) <;> simp (maxDischargeDepth := 30) +contextual [*]
@[simp] theorem execRebuild_memOk {n : Nat} {s : State} (h0 : MemOk s) :
    ResOk (execRebuild n s) := by
  unfold execRebuild
  first | refine checked_memOk (by assumption) fun t ht => ?_ | refine onMsg_memOk (by assumption) fun m t ht => ?_
  try dsimp only
  (repeat' split) <;> simp (maxDischargeDepth := 30) +contextual [*]
@[simp] theorem execWakepend_memOk {n : Nat} {s : State} (h0 : MemOk s) :
    ResOk (execWakepend n s) := by
  unfold execWakepend
  first | refine checked_memOk (by assumption) fun t ht => ?_ | refine onMsg_memOk (by assumption) fun m t ht => ?_
  try dsimp only
  (repeat' split) <;> simp (maxDischargeDepth := 30) +contextual [*]
@[simp] theorem wakeOver_memOk {s : State} {u : Nat} (h0 : MemOk s) :
    MemOk (wakeOver s u) := by
  unfold wakeOver
  try dsimp only
  (repeat' split) <;> simp (maxDischargeDepth := 30) [h0]
@[simp] theorem execHoldreply_memOk {n : Nat} {s : State} (h0 : MemOk s) :
    ResOk (execHoldreply n s) := by
  unfold execHoldreply
  first | refine checked_memOk (by assumption) fun t ht => ?_ | refine onMsg_memOk (by assumption) fun m t ht => ?_
  try dsimp only
  (repeat' split) <;> simp (maxDischargeDepth := 30) +contextual [*]
@[simp] theorem execReshuffleDataRequest_memOk {n : Nat} {s : State} (h0 : MemOk s) :
    ResOk (execReshuffleDataRequest n s) := by
  unfold execReshuffleDataRequest
  first | refine checked_memOk (by assumption) fun t ht => ?_ | refine onMsg_memOk (by assumption) fun m t ht => ?_
  try dsimp only
  (repeat' split) <;> simp (maxDischargeDepth := 30) +contextual [*]
@[simp] theorem execReissueTimerExpiry_memOk {cd : Nat} {sector : Nat} {s : State} (h0 : MemOk s) :
    ResOk (execReissueTimerExpiry cd sector s) := by
  unfold execReissueTimerExpiry
  try dsimp only
  (repeat' split) <;> simp (maxDischargeDepth := 30) [h0]
@[simp] theorem execCensusTimeExpiry_memOk {sector : Nat} {s : State} (h0 : MemOk s) :
    ResOk (execCensusTimeExpiry sector s) := by
  unfold execCensusTimeExpiry
  try dsimp only
  (repeat' split) <;> simp (maxDischargeDepth := 30) [h0]
@[simp] theorem execSettleTimeExpiry_memOk {sector : Nat} {s : State} (h0 : MemOk s) :
    ResOk (execSettleTimeExpiry sector s) := by
  unfold execSettleTimeExpiry
  try dsimp only
  (repeat' split) <;> simp (maxDischargeDepth := 30) [h0]
@[simp] theorem execWakeBudgetExpiry_memOk {cd : Nat} {sector : Nat} {s : State} (h0 : MemOk s) :
    ResOk (execWakeBudgetExpiry cd sector s) := by
  unfold execWakeBudgetExpiry
  try dsimp only
  (repeat' split) <;> simp (maxDischargeDepth := 30) [h0]
@[simp] theorem linkAwake_memOk {u : Nat} {s : State} (h0 : MemOk s) :
    ResOk (linkAwake u s) := by
  unfold linkAwake
  try dsimp only
  (repeat' split) <;> simp (maxDischargeDepth := 30) [h0]
@[simp] theorem execMessageBufferTimeout_memOk {n : Nat} {s : State} (h0 : MemOk s) :
    ResOk (execMessageBufferTimeout n s) := by
  unfold execMessageBufferTimeout
  try dsimp only
  (repeat' split) <;> simp (maxDischargeDepth := 30) [h0]
@[simp] theorem linkWaking_memOk {n : Nat} {s : State} (h0 : MemOk s) : ResOk (linkWaking n s) := by
  unfold linkWaking
  split <;> simp [h0]
@[simp] theorem evictSector_memOk {cd : Nat} {x : Nat} {s : State} (h0 : MemOk s) :
    ResOk (evictSector cd x s) := by
  unfold evictSector
  try dsimp only
  (repeat' split) <;> simp (maxDischargeDepth := 30) [h0]
@[simp] theorem dropL1_memOk {s : State} {cd : Nat} {x : Nat} {core : Nat} (h0 : MemOk s) :
    MemOk (dropL1 s cd x core) := by
  unfold dropL1
  try dsimp only
  (repeat' split) <;> simp (maxDischargeDepth := 30) [h0]
@[simp] theorem evictL1_memOk {cd : Nat} {x : Nat} {core : Nat} {s : State} (h0 : MemOk s) :
    ResOk (evictL1 cd x core s) := by
  unfold evictL1
  try dsimp only
  (repeat' split) <;> simp (maxDischargeDepth := 30) [h0]
@[simp] theorem evictSlice_memOk {md : Nat} {line : Nat} {s : State} (h0 : MemOk s) :
    ResOk (evictSlice md line s) := by
  unfold evictSlice
  try dsimp only
  (repeat' split) <;> simp (maxDischargeDepth := 30) [h0]
@[simp] theorem vlOp_memOk {i : Instr} {d : VSel} {fl : FlagN} {la : LaN} {s : State} {rounds : WaveArch → Bool} {f : WaveArch → (Nat → Word) × Nat} (h0 : MemOk s) :
    ResOk (vlOp i d fl la s rounds f) := by
  unfold vlOp
  try dsimp only
  (repeat' split) <;> simp (maxDischargeDepth := 30) +contextual [h0, *]
@[simp] theorem divOp_memOk {i : Instr} {d : VSel} {x : WReg} {y : WReg} {fl : FlagN} {la : LaN} {s : State} {pick : Nat × Nat → Nat} (h0 : MemOk s) :
    ResOk (divOp i d x y fl la s pick) := by
  unfold divOp
  simp (maxDischargeDepth := 30) [h0]
@[simp] theorem execIdiv_memOk {d : VSel} {a : WReg} {b : WReg} {fl : FlagN} {la : LaN} {s : State} (h0 : MemOk s) :
    ResOk (execIdiv d a b fl la s) := by
  unfold execIdiv
  simp (maxDischargeDepth := 30) [h0]
@[simp] theorem execIrem_memOk {d : VSel} {a : WReg} {b : WReg} {fl : FlagN} {la : LaN} {s : State} (h0 : MemOk s) :
    ResOk (execIrem d a b fl la s) := by
  unfold execIrem
  simp (maxDischargeDepth := 30) [h0]
@[simp] theorem fdivOp_memOk {i : Instr} {d : VSel} {x : WReg} {y : WReg} {fl : FlagN} {la : LaN} {s : State} {f : EType → Rnd → FVal → FVal → Nat × Nat} (h0 : MemOk s) :
    ResOk (fdivOp i d x y fl la s f) := by
  unfold fdivOp
  simp (maxDischargeDepth := 30) [h0]
@[simp] theorem execFdiv_memOk {d : VSel} {a : WReg} {b : WReg} {fl : FlagN} {la : LaN} {s : State} (h0 : MemOk s) :
    ResOk (execFdiv d a b fl la s) := by
  unfold execFdiv
  simp (maxDischargeDepth := 30) [h0]
@[simp] theorem execFsqrt_memOk {d : VSel} {a : WReg} {fl : FlagN} {la : LaN} {s : State} (h0 : MemOk s) :
    ResOk (execFsqrt d a fl la s) := by
  unfold execFsqrt
  simp (maxDischargeDepth := 30) [h0]
@[simp] theorem execFrcp_memOk {d : VSel} {a : WReg} {fl : FlagN} {la : LaN} {s : State} (h0 : MemOk s) :
    ResOk (execFrcp d a fl la s) := by
  unfold execFrcp
  simp (maxDischargeDepth := 30) [h0]
@[simp] theorem sfuOp_memOk {i : Instr} {n : Nat} {d : VSel} {x : WReg} {fl : FlagN} {la : LaN} {s : State} {f : EType → Bool → Bool → FVal → Nat × Nat} (h0 : MemOk s) :
    ResOk (sfuOp i n d x fl la s f) := by
  unfold sfuOp
  simp (maxDischargeDepth := 30) [h0]
@[simp] theorem execFrsq_memOk {d : VSel} {a : WReg} {fl : FlagN} {la : LaN} {s : State} (h0 : MemOk s) :
    ResOk (execFrsq d a fl la s) := by
  unfold execFrsq
  simp (maxDischargeDepth := 30) [h0]
@[simp] theorem execFexp2_memOk {d : VSel} {a : WReg} {fl : FlagN} {la : LaN} {s : State} (h0 : MemOk s) :
    ResOk (execFexp2 d a fl la s) := by
  unfold execFexp2
  simp (maxDischargeDepth := 30) [h0]
@[simp] theorem execFlog2_memOk {d : VSel} {a : WReg} {fl : FlagN} {la : LaN} {s : State} (h0 : MemOk s) :
    ResOk (execFlog2 d a fl la s) := by
  unfold execFlog2
  simp (maxDischargeDepth := 30) [h0]
@[simp] theorem execFsinpi_memOk {d : VSel} {a : WReg} {fl : FlagN} {la : LaN} {s : State} (h0 : MemOk s) :
    ResOk (execFsinpi d a fl la s) := by
  unfold execFsinpi
  simp (maxDischargeDepth := 30) [h0]
@[simp] theorem execFcospi_memOk {d : VSel} {a : WReg} {fl : FlagN} {la : LaN} {s : State} (h0 : MemOk s) :
    ResOk (execFcospi d a fl la s) := by
  unfold execFcospi
  simp (maxDischargeDepth := 30) [h0]
@[simp] theorem execFtanh_memOk {d : VSel} {a : WReg} {fl : FlagN} {la : LaN} {s : State} (h0 : MemOk s) :
    ResOk (execFtanh d a fl la s) := by
  unfold execFtanh
  simp (maxDischargeDepth := 30) [h0]
@[simp] theorem redOp_memOk {i : Instr} {d : VSel} {fl : FlagN} {la : LaN} {s : State} {rounds : WaveArch → Bool} {f : WaveArch → List Nat → Word × Nat} (h0 : MemOk s) :
    ResOk (redOp i d fl la s rounds f) := by
  unfold redOp
  simp (maxDischargeDepth := 30) [h0]
@[simp] theorem execRsum_memOk {d : VSel} {a : WReg} {fl : FlagN} {la : LaN} {s : State} (h0 : MemOk s) :
    ResOk (execRsum d a fl la s) := by
  unfold execRsum
  simp (maxDischargeDepth := 30) [h0]
@[simp] theorem execRmin_memOk {d : VSel} {a : WReg} {fl : FlagN} {la : LaN} {s : State} (h0 : MemOk s) :
    ResOk (execRmin d a fl la s) := by
  unfold execRmin
  simp (maxDischargeDepth := 30) [h0]
@[simp] theorem execRmax_memOk {d : VSel} {a : WReg} {fl : FlagN} {la : LaN} {s : State} (h0 : MemOk s) :
    ResOk (execRmax d a fl la s) := by
  unfold execRmax
  simp (maxDischargeDepth := 30) [h0]
@[simp] theorem execRand_memOk {d : VSel} {a : WReg} {fl : FlagN} {la : LaN} {s : State} (h0 : MemOk s) :
    ResOk (execRand d a fl la s) := by
  unfold execRand
  simp (maxDischargeDepth := 30) [h0]
@[simp] theorem execRor_memOk {d : VSel} {a : WReg} {fl : FlagN} {la : LaN} {s : State} (h0 : MemOk s) :
    ResOk (execRor d a fl la s) := by
  unfold execRor
  simp (maxDischargeDepth := 30) [h0]
@[simp] theorem execRxor_memOk {d : VSel} {a : WReg} {fl : FlagN} {la : LaN} {s : State} (h0 : MemOk s) :
    ResOk (execRxor d a fl la s) := by
  unfold execRxor
  simp (maxDischargeDepth := 30) [h0]
@[simp] theorem completeOp_memOk {s : State} {w : WaveId} {o : Op} {f : WaveArch → WaveArch} (h0 : MemOk s) :
    MemOk (completeOp s w o f) := by
  unfold completeOp
  simp (maxDischargeDepth := 30) [h0]
@[simp] theorem landSome_memOk {w : WaveId} {n : Nat} {s : State} (h0 : MemOk s) :
    ResOk (landSome w n s) := by
  unfold landSome
  try dsimp only
  (repeat' split) <;> simp (maxDischargeDepth := 30) [h0]
@[simp] theorem execVlCompletion_memOk {w : WaveId} {n : Nat} {s : State} (h0 : MemOk s) :
    ResOk (execVlCompletion w n s) := by
  unfold execVlCompletion
  try dsimp only
  (repeat' split) <;> simp (maxDischargeDepth := 30) [h0]
@[simp] theorem copyLanes_memOk {s : State} {w : Wave} {tx : TxSel} {x : WReg} {sz : Nat} (h0 : MemOk s) :
    MemOk (copyLanes s w tx x sz) := by
  unfold copyLanes
  try dsimp only
  (repeat' split) <;> simp (maxDischargeDepth := 30) +contextual [h0]
@[simp] theorem bufferStore_memOk {s : State} {c : CoreId} {xs : List LaneAcc} {n : Nat} (h0 : MemOk s) :
    MemOk (bufferStore s c xs n) := by
  unfold bufferStore
  try dsimp only
  (repeat' split) <;> simp (maxDischargeDepth := 30) [h0]
@[simp] theorem drainLines_memOk {s : State} {c : CoreId} {xs : List LaneAcc} (h0 : MemOk s) :
    MemOk (drainLines s c xs) := by
  unfold drainLines
  simp (maxDischargeDepth := 30) [h0]
@[simp] theorem homePutMasked_memOk {s : State} {x : Nat} {bs : List (Option Byte)} (h0 : MemOk s) :
    MemOk (homePutMasked s x bs) := by
  unfold homePutMasked
  try dsimp only
  (repeat' split) <;> simp (maxDischargeDepth := 30) +contextual [h0, *]
@[simp] theorem diePutMasked_memOk {s : State} {cd : Nat} {x : Nat} {bs : List (Option Byte)} {core : Option Nat} (h0 : MemOk s) :
    MemOk (diePutMasked s cd x bs core) := by
  unfold diePutMasked
  simp (maxDischargeDepth := 30) [h0]
@[simp] theorem hostPutMasked_memOk {s : State} {pkg : Nat} {a : Nat} {bs : List (Option Byte)} (h0 : MemOk s) :
    MemOk (hostPutMasked s pkg a bs) := by
  unfold hostPutMasked
  try dsimp only
  (repeat' split) <;> simp (maxDischargeDepth := 30) +contextual [h0, *]
@[simp] theorem countDirect_memOk {s : State} {cd : Nat} {xs : List LaneAcc} (h0 : MemOk s) :
    MemOk (countDirect s cd xs) := by
  unfold countDirect
  try dsimp only
  (repeat' split) <;> simp (maxDischargeDepth := 30) +contextual [h0]
@[simp] theorem readDone_memOk {s : State} {w : Wave} {xs : List LaneAcc} (h0 : MemOk s) :
    MemOk (readDone s w xs) := by
  unfold readDone
  try dsimp only
  (repeat' split) <;> simp (maxDischargeDepth := 30) +contextual [h0]
@[simp] theorem tryRead_memOk {s : State} {w : Wave} {n : Nat} {xs : List LaneAcc} (h0 : MemOk s) :
    TryOk (tryRead s w n xs) := by
  unfold tryRead
  dsimp only
  (repeat' split) <;> simp (maxDischargeDepth := 30) +contextual [h0, TryOk]
@[simp] theorem noteLost_memOk {s : State} {w : WaveId} {seq : Nat} {pc : Word} {rlt : Bool} {lost : Option (BitVec 64)} (h0 : MemOk s) :
    MemOk (noteLost s w seq pc rlt lost) := by
  unfold noteLost
  try dsimp only
  (repeat' split) <;> simp (maxDischargeDepth := 30) [h0]
@[simp] theorem sampleCount_memOk {s : State} (h0 : MemOk s) :
    MemOk (sampleCount s).2 := by
  unfold sampleCount
  simp (maxDischargeDepth := 30) [h0]
@[simp] theorem sampleWrite_memOk {s : State} {w : Wave} {o : Op} (h0 : MemOk s) :
    MemOk (sampleWrite s w o) := by
  unfold sampleWrite
  try dsimp only
  (repeat' split) <;> simp (maxDischargeDepth := 30) [h0]
@[simp] theorem sampleRec_memOk {s : State} {w : Wave} {o : Op} (h0 : MemOk s) :
    MemOk (sampleRec s w o) := by
  unfold sampleRec
  try dsimp only
  (repeat' split) <;> simp (maxDischargeDepth := 30) [h0]
@[simp] theorem markPods_memOk {s : State} {w : Wave} {xs : List LaneAcc} (h0 : MemOk s) :
    MemOk (markPods s w xs) := by
  unfold markPods
  try dsimp only
  (repeat' split) <;> simp (maxDischargeDepth := 30) +contextual [h0, *]
@[simp] theorem mvIssue_memOk {i : Instr} {m : MvSpec} {d : VSel} {x : WReg} {tx : TxSel} {fl : FlagN} {la : LaN} {s : State} (h0 : MemOk s) :
    ResOk (mvIssue i m d x tx fl la s) := by
  unfold mvIssue
  first | refine checked_memOk (by assumption) fun t ht => ?_ | refine onMsg_memOk (by assumption) fun m t ht => ?_
  try dsimp only
  (repeat' split) <;> simp (maxDischargeDepth := 30) +contextual [*]
@[simp] theorem execLd8u_memOk {d : VSel} {w : WReg} {tx : TxSel} {fl : FlagN} {la : LaN} {s : State} (h0 : MemOk s) :
    ResOk (execLd8u d w tx fl la s) := by
  unfold execLd8u
  simp (maxDischargeDepth := 30) [h0]
@[simp] theorem execLd8s_memOk {d : VSel} {w : WReg} {tx : TxSel} {fl : FlagN} {la : LaN} {s : State} (h0 : MemOk s) :
    ResOk (execLd8s d w tx fl la s) := by
  unfold execLd8s
  simp (maxDischargeDepth := 30) [h0]
@[simp] theorem execLd16u_memOk {d : VSel} {w : WReg} {tx : TxSel} {fl : FlagN} {la : LaN} {s : State} (h0 : MemOk s) :
    ResOk (execLd16u d w tx fl la s) := by
  unfold execLd16u
  simp (maxDischargeDepth := 30) [h0]
@[simp] theorem execLd16s_memOk {d : VSel} {w : WReg} {tx : TxSel} {fl : FlagN} {la : LaN} {s : State} (h0 : MemOk s) :
    ResOk (execLd16s d w tx fl la s) := by
  unfold execLd16s
  simp (maxDischargeDepth := 30) [h0]
@[simp] theorem execLd32_memOk {d : VSel} {w : WReg} {tx : TxSel} {fl : FlagN} {la : LaN} {s : State} (h0 : MemOk s) :
    ResOk (execLd32 d w tx fl la s) := by
  unfold execLd32
  simp (maxDischargeDepth := 30) [h0]
@[simp] theorem execLd64_memOk {d : VSel} {w : WReg} {tx : TxSel} {fl : FlagN} {la : LaN} {s : State} (h0 : MemOk s) :
    ResOk (execLd64 d w tx fl la s) := by
  unfold execLd64
  simp (maxDischargeDepth := 30) [h0]
@[simp] theorem execLd128_memOk {d : VSel} {w : WReg} {tx : TxSel} {fl : FlagN} {la : LaN} {s : State} (h0 : MemOk s) :
    ResOk (execLd128 d w tx fl la s) := by
  unfold execLd128
  simp (maxDischargeDepth := 30) [h0]
@[simp] theorem execLd8uAcq_memOk {d : VSel} {w : WReg} {tx : TxSel} {fl : FlagN} {la : LaN} {s : State} (h0 : MemOk s) :
    ResOk (execLd8uAcq d w tx fl la s) := by
  unfold execLd8uAcq
  simp (maxDischargeDepth := 30) [h0]
@[simp] theorem execLd8sAcq_memOk {d : VSel} {w : WReg} {tx : TxSel} {fl : FlagN} {la : LaN} {s : State} (h0 : MemOk s) :
    ResOk (execLd8sAcq d w tx fl la s) := by
  unfold execLd8sAcq
  simp (maxDischargeDepth := 30) [h0]
@[simp] theorem execLd16uAcq_memOk {d : VSel} {w : WReg} {tx : TxSel} {fl : FlagN} {la : LaN} {s : State} (h0 : MemOk s) :
    ResOk (execLd16uAcq d w tx fl la s) := by
  unfold execLd16uAcq
  simp (maxDischargeDepth := 30) [h0]
@[simp] theorem execLd16sAcq_memOk {d : VSel} {w : WReg} {tx : TxSel} {fl : FlagN} {la : LaN} {s : State} (h0 : MemOk s) :
    ResOk (execLd16sAcq d w tx fl la s) := by
  unfold execLd16sAcq
  simp (maxDischargeDepth := 30) [h0]
@[simp] theorem execLd32Acq_memOk {d : VSel} {w : WReg} {tx : TxSel} {fl : FlagN} {la : LaN} {s : State} (h0 : MemOk s) :
    ResOk (execLd32Acq d w tx fl la s) := by
  unfold execLd32Acq
  simp (maxDischargeDepth := 30) [h0]
@[simp] theorem execLd64Acq_memOk {d : VSel} {w : WReg} {tx : TxSel} {fl : FlagN} {la : LaN} {s : State} (h0 : MemOk s) :
    ResOk (execLd64Acq d w tx fl la s) := by
  unfold execLd64Acq
  simp (maxDischargeDepth := 30) [h0]
@[simp] theorem execLd128Acq_memOk {d : VSel} {w : WReg} {tx : TxSel} {fl : FlagN} {la : LaN} {s : State} (h0 : MemOk s) :
    ResOk (execLd128Acq d w tx fl la s) := by
  unfold execLd128Acq
  simp (maxDischargeDepth := 30) [h0]
@[simp] theorem execSt8_memOk {d : VSel} {w : WReg} {tx : TxSel} {fl : FlagN} {la : LaN} {s : State} (h0 : MemOk s) :
    ResOk (execSt8 d w tx fl la s) := by
  unfold execSt8
  simp (maxDischargeDepth := 30) [h0]
@[simp] theorem execSt16_memOk {d : VSel} {w : WReg} {tx : TxSel} {fl : FlagN} {la : LaN} {s : State} (h0 : MemOk s) :
    ResOk (execSt16 d w tx fl la s) := by
  unfold execSt16
  simp (maxDischargeDepth := 30) [h0]
@[simp] theorem execSt32_memOk {d : VSel} {w : WReg} {tx : TxSel} {fl : FlagN} {la : LaN} {s : State} (h0 : MemOk s) :
    ResOk (execSt32 d w tx fl la s) := by
  unfold execSt32
  simp (maxDischargeDepth := 30) [h0]
@[simp] theorem execSt64_memOk {d : VSel} {w : WReg} {tx : TxSel} {fl : FlagN} {la : LaN} {s : State} (h0 : MemOk s) :
    ResOk (execSt64 d w tx fl la s) := by
  unfold execSt64
  simp (maxDischargeDepth := 30) [h0]
@[simp] theorem execSt128_memOk {d : VSel} {w : WReg} {tx : TxSel} {fl : FlagN} {la : LaN} {s : State} (h0 : MemOk s) :
    ResOk (execSt128 d w tx fl la s) := by
  unfold execSt128
  simp (maxDischargeDepth := 30) [h0]
@[simp] theorem execSt8Rel_memOk {d : VSel} {w : WReg} {tx : TxSel} {fl : FlagN} {la : LaN} {s : State} (h0 : MemOk s) :
    ResOk (execSt8Rel d w tx fl la s) := by
  unfold execSt8Rel
  simp (maxDischargeDepth := 30) [h0]
@[simp] theorem execSt16Rel_memOk {d : VSel} {w : WReg} {tx : TxSel} {fl : FlagN} {la : LaN} {s : State} (h0 : MemOk s) :
    ResOk (execSt16Rel d w tx fl la s) := by
  unfold execSt16Rel
  simp (maxDischargeDepth := 30) [h0]
@[simp] theorem execSt32Rel_memOk {d : VSel} {w : WReg} {tx : TxSel} {fl : FlagN} {la : LaN} {s : State} (h0 : MemOk s) :
    ResOk (execSt32Rel d w tx fl la s) := by
  unfold execSt32Rel
  simp (maxDischargeDepth := 30) [h0]
@[simp] theorem execSt64Rel_memOk {d : VSel} {w : WReg} {tx : TxSel} {fl : FlagN} {la : LaN} {s : State} (h0 : MemOk s) :
    ResOk (execSt64Rel d w tx fl la s) := by
  unfold execSt64Rel
  simp (maxDischargeDepth := 30) [h0]
@[simp] theorem execSt128Rel_memOk {d : VSel} {w : WReg} {tx : TxSel} {fl : FlagN} {la : LaN} {s : State} (h0 : MemOk s) :
    ResOk (execSt128Rel d w tx fl la s) := by
  unfold execSt128Rel
  simp (maxDischargeDepth := 30) [h0]
@[simp] theorem execAtomAdd_memOk {d : VSel} {w : WReg} {tx : TxSel} {fl : FlagN} {la : LaN} {s : State} (h0 : MemOk s) :
    ResOk (execAtomAdd d w tx fl la s) := by
  unfold execAtomAdd
  simp (maxDischargeDepth := 30) [h0]
@[simp] theorem execAtomAnd_memOk {d : VSel} {w : WReg} {tx : TxSel} {fl : FlagN} {la : LaN} {s : State} (h0 : MemOk s) :
    ResOk (execAtomAnd d w tx fl la s) := by
  unfold execAtomAnd
  simp (maxDischargeDepth := 30) [h0]
@[simp] theorem execAtomOr_memOk {d : VSel} {w : WReg} {tx : TxSel} {fl : FlagN} {la : LaN} {s : State} (h0 : MemOk s) :
    ResOk (execAtomOr d w tx fl la s) := by
  unfold execAtomOr
  simp (maxDischargeDepth := 30) [h0]
@[simp] theorem execAtomXor_memOk {d : VSel} {w : WReg} {tx : TxSel} {fl : FlagN} {la : LaN} {s : State} (h0 : MemOk s) :
    ResOk (execAtomXor d w tx fl la s) := by
  unfold execAtomXor
  simp (maxDischargeDepth := 30) [h0]
@[simp] theorem execAtomMin_memOk {d : VSel} {w : WReg} {tx : TxSel} {fl : FlagN} {la : LaN} {s : State} (h0 : MemOk s) :
    ResOk (execAtomMin d w tx fl la s) := by
  unfold execAtomMin
  simp (maxDischargeDepth := 30) [h0]
@[simp] theorem execAtomMax_memOk {d : VSel} {w : WReg} {tx : TxSel} {fl : FlagN} {la : LaN} {s : State} (h0 : MemOk s) :
    ResOk (execAtomMax d w tx fl la s) := by
  unfold execAtomMax
  simp (maxDischargeDepth := 30) [h0]
@[simp] theorem execAtomMinu_memOk {d : VSel} {w : WReg} {tx : TxSel} {fl : FlagN} {la : LaN} {s : State} (h0 : MemOk s) :
    ResOk (execAtomMinu d w tx fl la s) := by
  unfold execAtomMinu
  simp (maxDischargeDepth := 30) [h0]
@[simp] theorem execAtomMaxu_memOk {d : VSel} {w : WReg} {tx : TxSel} {fl : FlagN} {la : LaN} {s : State} (h0 : MemOk s) :
    ResOk (execAtomMaxu d w tx fl la s) := by
  unfold execAtomMaxu
  simp (maxDischargeDepth := 30) [h0]
@[simp] theorem execAtomSwap_memOk {d : VSel} {w : WReg} {tx : TxSel} {fl : FlagN} {la : LaN} {s : State} (h0 : MemOk s) :
    ResOk (execAtomSwap d w tx fl la s) := by
  unfold execAtomSwap
  simp (maxDischargeDepth := 30) [h0]
@[simp] theorem execAtomCas_memOk {d : VSel} {w : WReg} {tx : TxSel} {fl : FlagN} {la : LaN} {s : State} (h0 : MemOk s) :
    ResOk (execAtomCas d w tx fl la s) := by
  unfold execAtomCas
  simp (maxDischargeDepth := 30) [h0]
@[simp] theorem execAtomFadd_memOk {d : VSel} {w : WReg} {tx : TxSel} {fl : FlagN} {la : LaN} {s : State} (h0 : MemOk s) :
    ResOk (execAtomFadd d w tx fl la s) := by
  unfold execAtomFadd
  simp (maxDischargeDepth := 30) [h0]
@[simp] theorem execAtomAdd64_memOk {d : VSel} {w : WReg} {tx : TxSel} {fl : FlagN} {la : LaN} {s : State} (h0 : MemOk s) :
    ResOk (execAtomAdd64 d w tx fl la s) := by
  unfold execAtomAdd64
  simp (maxDischargeDepth := 30) [h0]
@[simp] theorem execAtomSwap64_memOk {d : VSel} {w : WReg} {tx : TxSel} {fl : FlagN} {la : LaN} {s : State} (h0 : MemOk s) :
    ResOk (execAtomSwap64 d w tx fl la s) := by
  unfold execAtomSwap64
  simp (maxDischargeDepth := 30) [h0]
@[simp] theorem execAtomCas64_memOk {d : VSel} {w : WReg} {tx : TxSel} {fl : FlagN} {la : LaN} {s : State} (h0 : MemOk s) :
    ResOk (execAtomCas64 d w tx fl la s) := by
  unfold execAtomCas64
  simp (maxDischargeDepth := 30) [h0]
@[simp] theorem execAtomInc_memOk {d : VSel} {w : WReg} {tx : TxSel} {fl : FlagN} {la : LaN} {s : State} (h0 : MemOk s) :
    ResOk (execAtomInc d w tx fl la s) := by
  unfold execAtomInc
  simp (maxDischargeDepth := 30) [h0]
@[simp] theorem execAtomArAdd_memOk {o : AtomOrd} {d : VSel} {w : WReg} {tx : TxSel} {fl : FlagN} {la : LaN} {s : State} (h0 : MemOk s) :
    ResOk (execAtomArAdd o d w tx fl la s) := by
  unfold execAtomArAdd
  simp (maxDischargeDepth := 30) [h0]
@[simp] theorem execAtomArSwap_memOk {o : AtomOrd} {d : VSel} {w : WReg} {tx : TxSel} {fl : FlagN} {la : LaN} {s : State} (h0 : MemOk s) :
    ResOk (execAtomArSwap o d w tx fl la s) := by
  unfold execAtomArSwap
  simp (maxDischargeDepth := 30) [h0]
@[simp] theorem execAtomArCas_memOk {o : AtomOrd} {d : VSel} {w : WReg} {tx : TxSel} {fl : FlagN} {la : LaN} {s : State} (h0 : MemOk s) :
    ResOk (execAtomArCas o d w tx fl la s) := by
  unfold execAtomArCas
  simp (maxDischargeDepth := 30) [h0]
@[simp] theorem execAtomArCas64_memOk {o : AtomOrd} {d : VSel} {w : WReg} {tx : TxSel} {fl : FlagN} {la : LaN} {s : State} (h0 : MemOk s) :
    ResOk (execAtomArCas64 o d w tx fl la s) := by
  unfold execAtomArCas64
  simp (maxDischargeDepth := 30) [h0]
@[simp] theorem scalarAccess_memOk {s : State} {need : BitVec 3} {ad : BitVec 64} {k : State → Target → Res} (h0 : MemOk s) (h1 : ∀ y0 y1, MemOk y0 → ResOk (k y0 y1)) :
    ResOk (scalarAccess s need ad k) := by
  unfold scalarAccess
  try dsimp only
  (repeat' split) <;> simp (maxDischargeDepth := 30) [h0, h1]
@[simp] theorem execSld_memOk {d : SReg} {a : SReg} {i : BitVec 14} {s : State} (h0 : MemOk s) :
    ResOk (execSld d a i s) := by
  unfold execSld
  simp (maxDischargeDepth := 30) +contextual [h0]
@[simp] theorem execSst_memOk {d : SReg} {a : SReg} {i : BitVec 14} {s : State} (h0 : MemOk s) :
    ResOk (execSst d a i s) := by
  unfold execSst
  try dsimp only
  (repeat' split) <;> simp (maxDischargeDepth := 30) +contextual [h0, *]
@[simp] theorem execScalarLoadReturn_memOk {w : WaveId} {s : State} (h0 : MemOk s) : ResOk (execScalarLoadReturn w s) := by
  unfold execScalarLoadReturn
  split
  · simp [h0]
  · rename_i x _
    split
    · rename_i d acc _
      have hr := tryRead_memOk (w := x) (n := s.nextId) (xs := [acc]) h0
      split <;> (rename_i he; rw [he] at hr; simp (maxDischargeDepth := 30) [TryOk] at hr ⊢; simp (maxDischargeDepth := 30) [h0, hr])
    · simp [h0]
@[simp] theorem execLoadCompletion_memOk {w : WaveId} {n : Nat} {s : State} (h0 : MemOk s) :
    ResOk (execLoadCompletion w n s) := by
  unfold execLoadCompletion
  split
  · rename_i x o _ _
    split
    · have hr := tryRead_memOk (w := x) (n := o.id) (xs := o.acc) h0
      dsimp only
      split <;> (rename_i he; rw [he] at hr; simp only [TryOk] at hr; (repeat' split) <;> simp (maxDischargeDepth := 30) [h0, hr])
    · simp [h0]
  · simp [h0]
@[simp] theorem madeAcc_memOk {s : State} {w : WaveId} {n : Nat} {y : LaneAcc} {v : Nat} (h0 : MemOk s) :
    MemOk (madeAcc s w n y v) := by
  unfold madeAcc
  try dsimp only
  (repeat' split) <;> simp (maxDischargeDepth := 30) [h0]
@[simp] theorem someAcc_memOk {s : State} {o : Op} (h0 : MemOk s) :
    MemOk (someAcc s o).2 := by
  unfold someAcc
  try dsimp only
  (repeat' split) <;> simp (maxDischargeDepth := 30) [h0]
theorem someAcc_snd {s t : State} {o : Op} {a : Option LaneAcc} (h : someAcc s o = (a, t)) (h0 : MemOk s) : MemOk t :=
  snd_memOk h (someAcc_memOk h0)
@[simp] theorem loadPiece_memOk {w : WaveId} {n : Nat} {s : State} (h0 : MemOk s) :
    ResOk (loadPiece w n s) := by
  unfold loadPiece
  split
  · rename_i x o _ _
    split
    · have h1 := someAcc_snd ‹someAcc _ _ = _› h0
      rename_i y t _ _
      have hr := tryRead_memOk (w := x) (n := o.id) (xs := [y]) h1
      split <;> (rename_i he; rw [he] at hr; simp only [TryOk] at hr; (repeat' split) <;> simp (maxDischargeDepth := 30) [h1, hr])
    · exact h0
  · exact h0
@[simp] theorem dropFlag_memOk {s : State} {w : WaveId} {o : Op} (h0 : MemOk s) :
    MemOk (dropFlag s w o) := by
  unfold dropFlag
  try dsimp only
  (repeat' split) <;> simp (maxDischargeDepth := 30) [h0]
@[simp] theorem commitStore_memOk {s : State} {w : Wave} {o : Op} (h0 : MemOk s) :
    MemOk (commitStore s w o) := by
  unfold commitStore
  try dsimp only
  (repeat' split) <;> simp (maxDischargeDepth := 30) [h0]
@[simp] theorem commitEret_memOk {s : State} {w : Wave} {h : Snapshot} (h0 : MemOk s) :
    MemOk (commitEret s w h) := by
  unfold commitEret
  try dsimp only
  (repeat' split) <;> simp (maxDischargeDepth := 30) [h0]
@[simp] theorem execCommitWindowClose_memOk {w : WaveId} {s : State} (h0 : MemOk s) :
    ResOk (execCommitWindowClose w s) := by
  unfold execCommitWindowClose
  try dsimp only
  (repeat' split) <;> simp (maxDischargeDepth := 30) +contextual [h0]
@[simp] theorem storeSector_memOk {s : State} {w : Wave} {t : Target} {k : Nat} {bs : List (Option Byte)} (h0 : MemOk s) :
    MemOk (storeSector s w t k bs).2 := by
  unfold storeSector
  try dsimp only
  (repeat' split) <;> simp (maxDischargeDepth := 30) [h0]
@[simp] theorem storeLine_memOk {s : State} {o : Op} {k : Nat} (h0 : MemOk s) :
    MemOk (storeLine s o k).2 := by
  unfold storeLine
  try dsimp only
  (repeat' split) <;> simp (maxDischargeDepth := 30) [h0]
@[simp] theorem storeMade_memOk {s : State} {w : WaveId} {o : Op} {mine : List LaneAcc} (h0 : MemOk s) :
    MemOk (storeMade s w o mine) := by
  unfold storeMade
  try dsimp only
  (repeat' split) <;> simp (maxDischargeDepth := 30) [h0]
@[simp] theorem egress_memOk {s : State} {w : Wave} {o : Op} {mine : List LaneAcc} (h0 : MemOk s) :
    MemOk (egress s w o mine) := by
  unfold egress
  simp (maxDischargeDepth := 30) [h0]
@[simp] theorem execStoreAcknowledgement_memOk {w : WaveId} {n : Nat} {s : State} (h0 : MemOk s) :
    ResOk (execStoreAcknowledgement w n s) := by
  unfold execStoreAcknowledgement
  try dsimp only
  (repeat' split) <;> simp (maxDischargeDepth := 30) [h0]
@[simp] theorem storePiece_memOk {w : WaveId} {n : Nat} {s : State} (h0 : MemOk s) :
    ResOk (storePiece w n s) := by
  unfold storePiece
  split
  · split
    · have h1 := someAcc_snd ‹someAcc _ _ = _› h0
      try dsimp only
      (repeat' split) <;> simp (maxDischargeDepth := 30) [h1]
    · exact someAcc_snd ‹someAcc _ _ = _› h0
  · exact h0
@[simp] theorem execWcAgeDrain_memOk {c : CoreId} {n : Nat} {s : State} (h0 : MemOk s) :
    ResOk (execWcAgeDrain c n s) := by
  unfold execWcAgeDrain
  simp (maxDischargeDepth := 30) [h0]
@[simp] theorem drainMarks_memOk {s : State} {e : WcEntry} (h0 : MemOk s) :
    MemOk (drainMarks s e) := by
  unfold drainMarks
  try dsimp only
  (repeat' split) <;> simp (maxDischargeDepth := 30) +contextual [h0]
@[simp] theorem drainEntry_memOk {s : State} {c : CoreId} {e : WcEntry} (h0 : MemOk s) :
    MemOk (drainEntry s c e) := by
  unfold drainEntry
  try dsimp only
  (repeat' split) <;> simp (maxDischargeDepth := 30) [h0]
@[simp] theorem countDrain_memOk {s : State} {c : CoreId} {e : WcEntry} (h0 : MemOk s) :
    MemOk (countDrain s c e) := by
  unfold countDrain
  try dsimp only
  (repeat' split) <;> simp (maxDischargeDepth := 30) [h0]
@[simp] theorem execWcDrainAck_memOk {c : CoreId} {n : Nat} {s : State} (h0 : MemOk s) :
    ResOk (execWcDrainAck c n s) := by
  unfold execWcDrainAck
  try dsimp only
  (repeat' split) <;> simp (maxDischargeDepth := 30) [h0]
@[simp] theorem drainPiece_memOk {c : CoreId} {n : Nat} {s : State} (h0 : MemOk s) :
    ResOk (drainPiece c n s) := by
  unfold drainPiece
  try dsimp only
  (repeat' split) <;> simp (maxDischargeDepth := 30) [h0]
@[simp] theorem levelReady_memOk {s : State} {w : Wave} {sc : Scope} {xs : List LaneAcc} (h0 : MemOk s) :
    MemOk (levelReady s w sc xs).2 := by
  unfold levelReady
  try dsimp only
  (repeat' split) <;> simp (maxDischargeDepth := 30) +contextual [h0]
@[simp] theorem levelWrite_memOk {s : State} {w : Wave} {sc : Scope} {x : LaneAcc} {v : Nat} (h0 : MemOk s) :
    MemOk (levelWrite s w sc x v) := by
  unfold levelWrite
  try dsimp only
  (repeat' split) <;> simp (maxDischargeDepth := 30) [h0]
@[simp] theorem levelDone_memOk {s : State} {w : Wave} {sc : Scope} {xs : List LaneAcc} (h0 : MemOk s) :
    MemOk (levelDone s w sc xs) := by
  unfold levelDone
  simp (maxDischargeDepth := 30) +contextual [h0]
@[simp] theorem runAtoms_memOk {f : AtomFn} {w : Wave} {sc : Scope} {s : State} {xs : List LaneAcc} (h0 : MemOk s) :
    MemOk (runAtoms f w sc s xs).2 := by
  unfold runAtoms
  exact foldl_pair_memOk (fun t x ht => levelWrite_memOk ht) h0
@[simp] theorem unlockAtom_memOk {s : State} {f : AtomFn} {w : Wave} {o : Op} (h0 : MemOk s) :
    MemOk (unlockAtom s f w o) := by
  unfold unlockAtom
  try dsimp only
  (repeat' split) <;> simp (maxDischargeDepth := 30) [h0]
@[simp] theorem execAtomicCompletion_memOk {w : WaveId} {n : Nat} {order : List Nat} {s : State} (h0 : MemOk s) :
    ResOk (execAtomicCompletion w n order s) := by
  unfold execAtomicCompletion
  try dsimp only
  (repeat' split) <;> simp (maxDischargeDepth := 30) +contextual [h0, *]
@[simp] theorem atomPiece_memOk {w : WaveId} {n : Nat} {s : State} (h0 : MemOk s) :
    ResOk (atomPiece w n s) := by
  unfold atomPiece
  split
  · split
    · split
      · exact unlockAtom_memOk h0
      · split
        · have h1 := someAcc_snd ‹someAcc _ _ = _› h0
          try dsimp only
          (repeat' split) <;> simp (maxDischargeDepth := 30) [h1]
        · exact someAcc_snd ‹someAcc _ _ = _› h0
    · exact h0
  · exact h0
@[simp] theorem landAccess_memOk {w : WaveId} {n : Nat} {s : State} (h0 : MemOk s) :
    ResOk (landAccess w n s) := by
  unfold landAccess
  try dsimp only
  (repeat' split) <;> simp (maxDischargeDepth := 30) [h0]
@[simp] theorem execXlat_memOk {a : SReg} {n : TxN} {s : State} (h0 : MemOk s) :
    ResOk (execXlat a n s) := by
  unfold execXlat
  first | refine checked_memOk (by assumption) fun t ht => ?_ | refine onMsg_memOk (by assumption) fun m t ht => ?_
  try dsimp only
  (repeat' split) <;> simp (maxDischargeDepth := 30) +contextual [*]
@[simp] theorem usePages_memOk {s : State} {id : BitVec 24} {ps : List Nat} (h0 : MemOk s) :
    MemOk (usePages s id ps) := by
  unfold usePages
  try dsimp only
  (repeat' split) <;> simp (maxDischargeDepth := 30) +contextual [h0]
@[simp] theorem addPin_memOk {s : State} {c : Ctx} {id : Nat} {d : Nat} (h0 : MemOk s) :
    MemOk (addPin s c id d) := by
  unfold addPin
  simp (maxDischargeDepth := 30) [h0]
@[simp] theorem killPoison_memOk {s : State} {w : Wave} {ad : BitVec 64} (h0 : MemOk s) :
    MemOk (killPoison s w ad) := by
  unfold killPoison
  simp (maxDischargeDepth := 30) [h0]
@[simp] theorem execLayreg_memOk {a : SReg} {d : SReg} {s : State} (h0 : MemOk s) :
    ResOk (execLayreg a d s) := by
  unfold execLayreg
  first | refine checked_memOk (by assumption) fun t ht => ?_ | refine onMsg_memOk (by assumption) fun m t ht => ?_
  try dsimp only
  (repeat' split) <;> simp (maxDischargeDepth := 30) +contextual [*]
@[simp] theorem unpin_memOk {s : State} {pkg : Nat} {ctx : Nat} {ls : List LayRec} (h0 : MemOk s) :
    MemOk (unpin s pkg ctx ls) := by
  unfold unpin
  simp (maxDischargeDepth := 30) +contextual [h0]
@[simp] theorem execLayrel_memOk {a : SReg} {s : State} (h0 : MemOk s) :
    ResOk (execLayrel a s) := by
  unfold execLayrel
  first | refine checked_memOk (by assumption) fun t ht => ?_ | refine onMsg_memOk (by assumption) fun m t ht => ?_
  try dsimp only
  (repeat' split) <;> simp (maxDischargeDepth := 30) +contextual [*]
@[simp] theorem execPubl_memOk {a b : SReg} {s : State} (h0 : MemOk s) : ResOk (execPubl a b s) := by
  unfold execPubl
  refine checked_memOk (by assumption) fun t ht => ?_
  extract_lets
  split
  · exact parkActive_memOk ht
  · exact holdMigration_memOk ht
  · split
    · exact waitRelease_memOk ht
    · split
      · exact stall_memOk ht
      · split
        rename_i hg
        have hp := snd_memOk hg (homeGather_memOk ht)
        split
        · exact stall_memOk hp
        · extract_lets
          split
          rename_i hg
          have h3 := snd_memOk hg (startInval_memOk
            (advance_memOk (issueNow_memOk (homeDone_memOk (homeDone_memOk (writeHome_memOk (writeHome_memOk hp)))))))
          split
          rename_i hg
          have h4 := snd_memOk hg (startInval_memOk h3)
          exact holdCur_memOk h4
@[simp] theorem onGroup_memOk {s : State} {g : GroupRef} {f : Group → Group} (h0 : MemOk s) :
    MemOk (onGroup s g f) := by
  unfold onGroup
  simp (maxDischargeDepth := 30) [h0]
@[simp] theorem finishBar_memOk {s : State} {w : WaveId} {x : Word} (h0 : MemOk s) :
    MemOk (finishBar s w x) := by
  unfold finishBar
  simp (maxDischargeDepth := 30) [h0]
@[simp] theorem finishPhase_memOk {s : State} {g : GroupRef} {n : Fin 4} (h0 : MemOk s) :
    MemOk (finishPhase s g n) := by
  unfold finishPhase
  try dsimp only
  (repeat' split) <;> simp (maxDischargeDepth := 30) +contextual [h0]
@[simp] theorem checkPhases_memOk {s : State} {g : GroupRef} (h0 : MemOk s) :
    MemOk (checkPhases s g) := by
  unfold checkPhases
  simp (maxDischargeDepth := 30) [h0]
@[simp] theorem abandon_memOk {s : State} {g : GroupRef} (h0 : MemOk s) :
    MemOk (abandon s g) := by
  unfold abandon
  try dsimp only
  (repeat' split) <;> simp (maxDischargeDepth := 30) +contextual [h0]
@[simp] theorem leaveGroup_memOk {s : State} {g : GroupRef} {m : Member} (h0 : MemOk s) :
    MemOk (leaveGroup s g m) := by
  unfold leaveGroup
  try dsimp only
  (repeat' split) <;> simp (maxDischargeDepth := 30) [h0]
@[simp] theorem joinGroup_memOk {s : State} {w : Wave} {g : GroupRef} {d : SReg} (h0 : MemOk s) :
    MemOk (joinGroup s w g d) := by
  unfold joinGroup
  simp (maxDischargeDepth := 30) [h0]
@[simp] theorem groupEffect_memOk {s : State} {e : GroupEv} (h0 : MemOk s) :
    MemOk (groupEffect s e) := by
  unfold groupEffect
  try dsimp only
  (repeat' split) <;> simp (maxDischargeDepth := 30) +contextual [h0]
@[simp] theorem execGroupEventArrival_memOk {n : Nat} {s : State} (h0 : MemOk s) :
    ResOk (execGroupEventArrival n s) := by
  unfold execGroupEventArrival
  try dsimp only
  (repeat' split) <;> simp (maxDischargeDepth := 30) [h0]
@[simp] theorem execBar_memOk {a : SReg} {d : SReg} {n : Bar4} {s : State} (h0 : MemOk s) :
    ResOk (execBar a d n s) := by
  unfold execBar
  simp (maxDischargeDepth := 30) +contextual [h0]
@[simp] theorem execBarr_memOk {a : SReg} {n : Bar4} {s : State} (h0 : MemOk s) :
    ResOk (execBarr a n s) := by
  unfold execBarr
  first | refine checked_memOk (by assumption) fun t ht => ?_ | refine onMsg_memOk (by assumption) fun m t ht => ?_
  try dsimp only
  (repeat' split) <;> simp (maxDischargeDepth := 30) +contextual [*]
@[simp] theorem execGjoin_memOk {a : SReg} {d : SReg} {g : GScope} {s : State} (h0 : MemOk s) :
    ResOk (execGjoin a d g s) := by
  unfold execGjoin
  simp (maxDischargeDepth := 30) +contextual [h0]
@[simp] theorem execGleave_memOk {s : State} (h0 : MemOk s) :
    ResOk (execGleave s) := by
  unfold execGleave
  first | refine checked_memOk (by assumption) fun t ht => ?_ | refine onMsg_memOk (by assumption) fun m t ht => ?_
  try dsimp only
  (repeat' split) <;> simp (maxDischargeDepth := 30) +contextual [*]
@[simp] theorem execGinfo_memOk {d : SReg} {s : GinfoSel} {st : State} (h0 : MemOk st) :
    ResOk (execGinfo d s st) := by
  unfold execGinfo
  simp (maxDischargeDepth := 30) +contextual [h0]
@[simp] theorem fenceOp_memOk {i : Instr} {sc : Scope} {s : State} (h0 : MemOk s) :
    ResOk (fenceOp i sc s) := by
  unfold fenceOp
  simp (maxDischargeDepth := 30) +contextual [h0]
@[simp] theorem execFenceAcq_memOk {sc : Scope} {s : State} (h0 : MemOk s) :
    ResOk (execFenceAcq sc s) := by
  unfold execFenceAcq
  simp (maxDischargeDepth := 30) [h0]
@[simp] theorem execFenceRel_memOk {sc : Scope} {s : State} (h0 : MemOk s) :
    ResOk (execFenceRel sc s) := by
  unfold execFenceRel
  simp (maxDischargeDepth := 30) [h0]
@[simp] theorem execFenceAr_memOk {sc : Scope} {s : State} (h0 : MemOk s) :
    ResOk (execFenceAr sc s) := by
  unfold execFenceAr
  simp (maxDischargeDepth := 30) [h0]
@[simp] theorem execFenceSc_memOk {sc : Scope} {s : State} (h0 : MemOk s) :
    ResOk (execFenceSc sc s) := by
  unfold execFenceSc
  simp (maxDischargeDepth := 30) [h0]
@[simp] theorem timeoutAt_memOk {s : State} {cd : Nat} {ns : Word} (h0 : MemOk s) :
    MemOk (timeoutAt s cd ns).2 := by
  unfold timeoutAt
  try dsimp only
  (repeat' split) <;> simp (maxDischargeDepth := 30) [h0]
@[simp] theorem execWaita_memOk {a : SReg} {d : SReg} {c : WaitCond} {s : State} (h0 : MemOk s) :
    ResOk (execWaita a d c s) := by
  unfold execWaita
  simp (maxDischargeDepth := 30) +contextual [h0]
@[simp] theorem waitaRead_memOk {s : State} {w : WaveId} {done : Wave → Word → State → Option State} (h0 : MemOk s) (h1 : ∀ y0 y1 y2, MemOk y2 → OptOk (done y0 y1 y2)) :
    ResOk (waitaRead s w done) := by
  unfold waitaRead
  split
  · simp [h0]
  · rename_i v _
    split
    · split
      · simp (maxDischargeDepth := 30) [h0]
      · dsimp only
        split
        · simp [h0]
        · rename_i t ht
          have h2 : MemOk t := h1 _ _ _ (by simpa using h0) t ht
          simp (maxDischargeDepth := 30) [h2]
    · simp [h0]
@[simp] theorem execWaitaReread_memOk {w : WaveId} {s : State} (h0 : MemOk s) :
    ResOk (execWaitaReread w s) := by
  unfold execWaitaReread
  refine waitaRead_memOk h0 fun x y t ht => ?_
  (repeat' split) <;> simp (maxDischargeDepth := 30) [ht]
@[simp] theorem timeReached_memOk {s : State} {die : Nat} {till : Nat} (h0 : MemOk s) :
    MemOk (timeReached s die till) := by
  unfold timeReached
  simp (maxDischargeDepth := 30) [h0]
@[simp] theorem execWaitaTimeout_memOk {w : WaveId} {s : State} (h0 : MemOk s) :
    ResOk (execWaitaTimeout w s) := by
  unfold execWaitaTimeout
  refine waitaRead_memOk h0 fun x y t ht => ?_
  (repeat' split) <;> simp (maxDischargeDepth := 30) [ht]
@[simp] theorem mwaitSleep_memOk {s : State} {d : SReg} {a : SReg} {x : Nat} (h0 : MemOk s) :
    MemOk (mwaitSleep s d a x) := by
  unfold mwaitSleep
  try dsimp only
  (repeat' split) <;> simp (maxDischargeDepth := 30) [h0]
@[simp] theorem mwaitLost_memOk {s : State} {d : SReg} {a : SReg} {ad : BitVec 64} {x : Nat} (h0 : MemOk s) :
    MemOk (mwaitLost s d a ad x) := by
  unfold mwaitLost
  try dsimp only
  (repeat' split) <;> simp (maxDischargeDepth := 30) [h0]
@[simp] theorem execMwait_memOk {a : SReg} {d : SReg} {s : State} (h0 : MemOk s) :
    ResOk (execMwait a d s) := by
  unfold execMwait
  first | refine checked_memOk (by assumption) fun t ht => ?_ | refine onMsg_memOk (by assumption) fun m t ht => ?_
  try dsimp only
  (repeat' split) <;> simp (maxDischargeDepth := 30) +contextual [*]
@[simp] theorem execMonitorWake_memOk {cd : Nat} {sector : Nat} {s : State} (h0 : MemOk s) :
    ResOk (execMonitorWake cd sector s) := by
  unfold execMonitorWake
  simp (maxDischargeDepth := 30) [h0]
@[simp] theorem freeMonitor_memOk {s : State} {cd : Nat} {x : Nat} (h0 : MemOk s) :
    MemOk (freeMonitor s cd x) := by
  unfold freeMonitor
  simp (maxDischargeDepth := 30) [h0]
@[simp] theorem execMwaitTimeout_memOk {w : WaveId} {s : State} (h0 : MemOk s) :
    ResOk (execMwaitTimeout w s) := by
  unfold execMwaitTimeout
  try dsimp only
  (repeat' split) <;> simp (maxDischargeDepth := 30) [h0]
@[simp] theorem execSleepExpiry_memOk {w : WaveId} {s : State} (h0 : MemOk s) :
    ResOk (execSleepExpiry w s) := by
  unfold execSleepExpiry
  try dsimp only
  (repeat' split) <;> simp (maxDischargeDepth := 30) [h0]
@[simp] theorem execDist_memOk {a : SReg} {d : SReg} {s : State} (h0 : MemOk s) :
    ResOk (execDist a d s) := by
  unfold execDist
  simp (maxDischargeDepth := 30) +contextual [h0]
@[simp] theorem onQueue_memOk {s : State} {pkg : Nat} {q : Nat} {f : Queue → Queue} (h0 : MemOk s) :
    MemOk (onQueue s pkg q f) := by
  unfold onQueue
  simp (maxDischargeDepth := 30) [h0]
@[simp] theorem execLnch_memOk {a : SReg} {d : SReg} {s : State} (h0 : MemOk s) :
    ResOk (execLnch a d s) := by
  unfold execLnch
  first | refine checked_memOk (by assumption) fun t ht => ?_ | refine onMsg_memOk (by assumption) fun m t ht => ?_
  try dsimp only
  (repeat' split) <;> simp (maxDischargeDepth := 30) +contextual [*]
@[simp] theorem collIssue_memOk {i : Instr} {a : SReg} {red : Option RedOp} {fl : FlagN} {la : LaN} {s : State} (h0 : MemOk s) :
    ResOk (collIssue i a red fl la s) := by
  unfold collIssue
  first | refine checked_memOk (by assumption) fun t ht => ?_ | refine onMsg_memOk (by assumption) fun m t ht => ?_
  try dsimp only
  (repeat' split) <;> simp (maxDischargeDepth := 30) +contextual [*]
@[simp] theorem execMcst_memOk {a : SReg} {fl : FlagN} {la : LaN} {s : State} (h0 : MemOk s) :
    ResOk (execMcst a fl la s) := by
  unfold execMcst
  simp (maxDischargeDepth := 30) [h0]
@[simp] theorem execRedst_memOk {a : SReg} {o : RedOp} {fl : FlagN} {la : LaN} {s : State} (h0 : MemOk s) :
    ResOk (execRedst a o fl la s) := by
  unfold execRedst
  simp (maxDischargeDepth := 30) [h0]
@[simp] theorem markPoison_memOk {s : State} {cd : Nat} {t : Target} (h0 : MemOk s) :
    MemOk (markPoison s cd t) := by
  unfold markPoison
  try dsimp only
  (repeat' split) <;> simp (maxDischargeDepth := 30) [h0]
@[simp] theorem putSector_memOk {s : State} {cd : Nat} {t : Target} {bs : List (Option Byte)} {pois : Bool} (h0 : MemOk s) :
    MemOk (putSector s cd t bs pois) := by
  unfold putSector
  try dsimp only
  (repeat' split) <;> simp (maxDischargeDepth := 30) [h0]
@[simp] theorem engWrite_memOk {s : State} {cd : Nat} {xs : List (Target × Byte × Bool)} (h0 : MemOk s) :
    MemOk (engWrite s cd xs).2 := by
  unfold engWrite
  extract_lets keys coh
  split
  · exact h0
  · split
    · exact h0
    · split
      rename_i hg
      have h1 := snd_memOk hg (dieGather_memOk h0)
      split
      · exact h1
      · refine foldl_memOk (fun t x ht => ?_) h1
        dsimp only
        (repeat' split) <;> simp (maxDischargeDepth := 30) [ht]
@[simp] theorem markLevel_memOk {s : State} {w : Wave} {sc : Scope} {t : Target} (h0 : MemOk s) :
    MemOk (markLevel s w sc t) := by
  unfold markLevel
  try dsimp only
  (repeat' split) <;> simp (maxDischargeDepth := 30) [h0]
@[simp] theorem redAccess_memOk {s : State} {w : Wave} {sc : Scope} {o : RedOp} {x : LaneAcc} (h0 : MemOk s) :
    MemOk (redAccess s w sc o x) := by
  unfold redAccess
  try dsimp only
  (repeat' split) <;> simp (maxDischargeDepth := 30) [h0]
@[simp] theorem collSector_memOk {s : State} {w : Wave} {sc : Scope} {red : Option RedOp} {xs : List LaneAcc} (h0 : MemOk s) :
    MemOk (collSector s w sc red xs).2 := by
  unfold collSector
  try dsimp only
  (repeat' split) <;> simp (maxDischargeDepth := 30) +contextual [h0]
@[simp] theorem sendColl_memOk {s : State} {w : Wave} {o : Op} (h0 : MemOk s) :
    MemOk (sendColl s w o) := by
  unfold sendColl
  try dsimp only
  (repeat' split) <;> simp (maxDischargeDepth := 30) [h0]
@[simp] theorem execCollectiveCompletion_memOk {w : WaveId} {n : Nat} {s : State} (h0 : MemOk s) :
    ResOk (execCollectiveCompletion w n s) := by
  unfold execCollectiveCompletion
  split
  · split
    · extract_lets live direct
      split
      · exact h0
      · split
        · exact sendColl_memOk h0
        · split
          · exact drainLines_memOk h0
          · split
            rename_i u left hg
            have hu : MemOk u := by
              refine fst_memOk hg (foldl_fst_memOk (s := (s, [])) (fun t k ht => ?_) h0)
              dsimp only
              (repeat' split) <;> simp (maxDischargeDepth := 30) [ht]
            split
            · exact completeOp_memOk hu
            · exact onWave_memOk hu
    · exact h0
  · exact h0
@[simp] theorem collPiece_memOk {w : WaveId} {n : Nat} {s : State} (h0 : MemOk s) :
    ResOk (collPiece w n s) := by
  unfold collPiece
  split
  · split
    · have h1 := someAcc_snd ‹someAcc _ _ = _› h0
      try dsimp only
      (repeat' split) <;> simp (maxDischargeDepth := 30) [h1]
    · exact h0
  · exact h0
@[simp] theorem engIssue_memOk {i : Instr} {kind : EngKind} {a : SReg} {b : SReg} {fl : FlagN} {la : LaN} {s : State} (h0 : MemOk s) :
    ResOk (engIssue i kind a b fl la s) := by
  unfold engIssue
  first | refine checked_memOk (by assumption) fun t ht => ?_ | refine onMsg_memOk (by assumption) fun m t ht => ?_
  try dsimp only
  (repeat' split) <;> simp (maxDischargeDepth := 30) +contextual [*]
@[simp] theorem execBulkrd_memOk {a : SReg} {b : SReg} {fl : FlagN} {la : LaN} {s : State} (h0 : MemOk s) :
    ResOk (execBulkrd a b fl la s) := by
  unfold execBulkrd
  simp (maxDischargeDepth := 30) [h0]
@[simp] theorem execCopy_memOk {a : SReg} {b : SReg} {fl : FlagN} {la : LaN} {s : State} (h0 : MemOk s) :
    ResOk (execCopy a b fl la s) := by
  unfold execCopy
  simp (maxDischargeDepth := 30) [h0]
@[simp] theorem execCopymc_memOk {a : SReg} {b : SReg} {fl : FlagN} {la : LaN} {s : State} (h0 : MemOk s) :
    ResOk (execCopymc a b fl la s) := by
  unfold execCopymc
  simp (maxDischargeDepth := 30) [h0]
@[simp] theorem onReq_memOk {s : State} {c : CoreId} {tag : Nat} {f : EngReq → EngReq} (h0 : MemOk s) :
    MemOk (onReq s c tag f) := by
  unfold onReq
  simp (maxDischargeDepth := 30) [h0]
@[simp] theorem execEngineBurstIssue_memOk {c : CoreId} {tag : Nat} {s : State} (h0 : MemOk s) :
    ResOk (execEngineBurstIssue c tag s) := by
  unfold execEngineBurstIssue
  try dsimp only
  (repeat' split) <;> simp (maxDischargeDepth := 30) [h0]
@[simp] theorem noteTag_memOk {s : State} {pkg : Nat} {q : EngReq} {bs : List (Nat × EByte)} (h0 : MemOk s) :
    MemOk (noteTag s pkg q bs) := by
  unfold noteTag
  try dsimp only
  (repeat' split) <;> simp (maxDischargeDepth := 30) [h0]
@[simp] theorem engReady_memOk {s : State} {cd : Nat} {ts : List Target} (h0 : MemOk s) :
    MemOk (engReady s cd ts).2 := by
  unfold engReady
  try dsimp only
  (repeat' split) <;> simp (maxDischargeDepth := 30) [h0]
@[simp] theorem engRead_memOk {s : State} {cd : Nat} {ts : List Target} (h0 : MemOk s) :
    MemOk (engRead s cd ts) := by
  unfold engRead
  try dsimp only
  (repeat' split) <;> simp (maxDischargeDepth := 30) +contextual [h0]
@[simp] theorem readUnit_memOk {s : State} {c : CoreId} {q : EngReq} {u : Nat} {row : Int} {is : List Nat} (h0 : MemOk s) :
    MemOk (readUnit s c q u row is).2 := by
  unfold readUnit
  try dsimp only
  (repeat' split) <;> simp (maxDischargeDepth := 30) [h0]
@[simp] theorem fetchBurst_memOk {s : State} {c : CoreId} {q : EngReq} {b : Nat} {row : Int} (h0 : MemOk s) :
    MemOk (fetchBurst s c q b row).2 := by
  unfold fetchBurst
  try dsimp only
  (repeat' split) <;> simp (maxDischargeDepth := 30) [h0]
@[simp] theorem birthBurst_memOk {s : State} {c : CoreId} (h0 : MemOk s) :
    MemOk (birthBurst s c) := by
  unfold birthBurst
  try dsimp only
  (repeat' split) <;> simp (maxDischargeDepth := 30) [h0]
@[simp] theorem execBurstReturn_memOk {c : CoreId} {tag : Nat} {b : Nat} {s : State} (h0 : MemOk s) :
    ResOk (execBurstReturn c tag b s) := by
  unfold execBurstReturn
  try dsimp only
  (repeat' split) <;> simp (maxDischargeDepth := 30) [h0]
@[simp] theorem putUnit_memOk {s : State} {c : CoreId} {q : EngReq} {u : Nat} {xs : List (Nat × Nat × Target)} (h0 : MemOk s) :
    MemOk (putUnit s c q u xs).2 := by
  unfold putUnit
  try dsimp only
  (repeat' split) <;> simp (maxDischargeDepth := 30) +contextual [h0]
@[simp] theorem execTransferUnitReturn_memOk {c : CoreId} {tag : Nat} {u : Nat} {s : State} (h0 : MemOk s) :
    ResOk (execTransferUnitReturn c tag u s) := by
  unfold execTransferUnitReturn
  try dsimp only
  (repeat' split) <;> simp (maxDischargeDepth := 30) +contextual [h0]
@[simp] theorem enginePiece_memOk {c : CoreId} {tag : Nat} {u : Nat} {s : State} (h0 : MemOk s) :
    ResOk (enginePiece c tag u s) := by
  unfold enginePiece
  try dsimp only
  (repeat' split) <;> simp (maxDischargeDepth := 30) [h0]
@[simp] theorem putHost_memOk {s : State} {pkg : Nat} {ctx : Nat} {g : Target} {bs : List Byte} (h0 : MemOk s) :
    MemOk (putHost s pkg ctx g bs) := by
  unfold putHost
  try dsimp only
  (repeat' split) <;> simp (maxDischargeDepth := 30) [h0]
@[simp] theorem sealMarks_memOk {s : State} {pkg : Nat} {q : EngReq} {p : Nat} (h0 : MemOk s) :
    MemOk (sealMarks s pkg q p) := by
  unfold sealMarks
  try dsimp only
  (repeat' split) <;> simp (maxDischargeDepth := 30) [h0]
@[simp] theorem putSealed_memOk {s : State} {pkg : Nat} {q : EngReq} {t : Stream} {p : Nat} {c : List Byte × List Byte} (h0 : MemOk s) :
    MemOk (putSealed s pkg q t p c) := by
  unfold putSealed
  try dsimp only
  (repeat' split) <;> simp (maxDischargeDepth := 30) [h0]
@[simp] theorem sealPages_memOk {s : State} {pkg : Nat} {q : EngReq} {t : Stream} (h0 : MemOk s) :
    MemOk (sealPages s pkg q t) := by
  unfold sealPages
  exact foldl_memOk (fun u p hu => putSealed_memOk hu) h0
@[simp] theorem finishOp_memOk {s : State} {w : WaveId} {op : Nat} (h0 : MemOk s) :
    MemOk (finishOp s w op) := by
  unfold finishOp
  try dsimp only
  (repeat' split) <;> simp (maxDischargeDepth := 30) [h0]
@[simp] theorem seqWrite_memOk {s : State} {pkg : Nat} {q : EngReq} {xs : List (CoreId × Nat × Word)} (h0 : MemOk s) :
    MemOk (seqWrite s pkg q xs) := by
  unfold seqWrite
  try dsimp only
  (repeat' split) <;> simp (maxDischargeDepth := 30) +contextual [h0]
@[simp] theorem completionStep_memOk {c : CoreId} {tag : Nat} {s : State} (h0 : MemOk s) :
    ResOk (completionStep c tag s) := by
  unfold completionStep
  try dsimp only
  (repeat' split) <;> simp (maxDischargeDepth := 30) [h0]
@[simp] theorem execLastBurstEvent_memOk {c : CoreId} {tag : Nat} {s : State} (h0 : MemOk s) :
    ResOk (execLastBurstEvent c tag s) := by
  unfold execLastBurstEvent
  try dsimp only
  (repeat' split) <;> simp (maxDischargeDepth := 30) +contextual [h0]
@[simp] theorem execHandlerDrainLimit_memOk {w : WaveId} {s : State} (h0 : MemOk s) :
    ResOk (execHandlerDrainLimit w s) := by
  unfold execHandlerDrainLimit
  try dsimp only
  (repeat' split) <;> simp (maxDischargeDepth := 30) [h0]
@[simp] theorem queuePiece_memOk {s : State} {p : NmPiece} (h0 : MemOk s) :
    MemOk (queuePiece s p) := by
  unfold queuePiece
  simp (maxDischargeDepth := 30) [h0]
@[simp] theorem nmIssue_memOk {i : Instr} {fn : NmFn} {a : SReg} {fl : FlagN} {la : LaN} {s : State} (h0 : MemOk s) :
    ResOk (nmIssue i fn a fl la s) := by
  unfold nmIssue
  first | refine checked_memOk (by assumption) fun t ht => ?_ | refine onMsg_memOk (by assumption) fun m t ht => ?_
  try dsimp only
  (repeat' split) <;> simp (maxDischargeDepth := 30) +contextual [*]
@[simp] theorem execNmopFill_memOk {a : SReg} {fl : FlagN} {la : LaN} {s : State} (h0 : MemOk s) :
    ResOk (execNmopFill a fl la s) := by
  unfold execNmopFill
  simp (maxDischargeDepth := 30) [h0]
@[simp] theorem execNmopCopy_memOk {a : SReg} {fl : FlagN} {la : LaN} {s : State} (h0 : MemOk s) :
    ResOk (execNmopCopy a fl la s) := by
  unfold execNmopCopy
  simp (maxDischargeDepth := 30) [h0]
@[simp] theorem execNmopCmp_memOk {a : SReg} {fl : FlagN} {la : LaN} {s : State} (h0 : MemOk s) :
    ResOk (execNmopCmp a fl la s) := by
  unfold execNmopCmp
  simp (maxDischargeDepth := 30) [h0]
@[simp] theorem execNmopRed_memOk {a : SReg} {o : RedOp} {fl : FlagN} {la : LaN} {s : State} (h0 : MemOk s) :
    ResOk (execNmopRed a o fl la s) := by
  unfold execNmopRed
  simp (maxDischargeDepth := 30) [h0]
@[simp] theorem nmSector_memOk {fn : Nat} {red : RedOp} {pattern : BitVec 64} {s : State} {d : Nat} {src : Option Nat} {rel : Nat} {lo : Bool} {hi : Bool} {res : Nat} {np : Nat} (h0 : MemOk s) :
    MemOk (nmSector fn red pattern s d src rel lo hi res np).1 := by
  unfold nmSector
  try dsimp only
  (repeat' split) <;> simp (maxDischargeDepth := 30) [h0]
@[simp] theorem nmTake_memOk {s : State} {x : Nat} (h0 : MemOk s) :
    MemOk (nmTake s x) := by
  unfold nmTake
  dsimp only
  (repeat' split) <;> simp (maxDischargeDepth := 30) [h0]
@[simp] theorem nmAsk_memOk {s : State} {x : Nat} (h0 : MemOk s) :
    MemOk (nmAsk s x) := by
  unfold nmAsk
  try dsimp only
  (repeat' split) <;> simp (maxDischargeDepth := 30) [h0]
@[simp] theorem nmGather_memOk {s : State} {ws : List Nat} {rs : List Nat} (h0 : MemOk s) :
    MemOk (nmGather s ws rs).2 := by
  unfold nmGather
  try dsimp only
  (repeat' split) <;> simp (maxDischargeDepth := 30) +contextual [h0]
@[simp] theorem nmDone_memOk {s : State} {ws : List Nat} {rs : List Nat} (h0 : MemOk s) :
    MemOk (nmDone s ws rs) := by
  unfold nmDone
  try dsimp only
  (repeat' split) <;> simp (maxDischargeDepth := 30) +contextual [h0]
@[simp] theorem nmUnits_memOk {s : State} {p : NmPiece} {q : NmReq} {us : List Nat} (h0 : MemOk s) :
    MemOk (nmUnits s p q us).1 := by
  unfold nmUnits
  try dsimp only
  (repeat' split) <;> simp (maxDischargeDepth := 30) +contextual [h0]
@[simp] theorem finishPiece_memOk {s : State} {md : Nat} {p : NmPiece} {res : Nat} {np : Nat} (h0 : MemOk s) :
    MemOk (finishPiece s md p res np) := by
  unfold finishPiece
  try dsimp only
  (repeat' split) <;> simp (maxDischargeDepth := 30) [h0]
@[simp] theorem execNmopPiece_memOk {md : Nat} {s : State} (h0 : MemOk s) :
    ResOk (execNmopPiece md s) := by
  unfold execNmopPiece
  split
  · exact h0
  · split
    · exact onMd_memOk h0
    · split
      · exact finishPiece_memOk h0
      · extract_lets is ws rs
        split
        rename_i hg
        have h1 := snd_memOk hg (nmGather_memOk h0)
        split
        · exact h1
        · split
          rename_i hg
          exact finishPiece_memOk (nmDone_memOk (fst_memOk hg (nmUnits_memOk h1)))
@[simp] theorem nmopUnit_memOk {md : Nat} {s : State} (h0 : MemOk s) :
    ResOk (nmopUnit md s) := by
  unfold nmopUnit
  try dsimp only
  (repeat' split) <;> simp (maxDischargeDepth := 30) +contextual [h0]
@[simp] theorem execNmopCompletion_memOk {c : CoreId} {n : Nat} {s : State} (h0 : MemOk s) :
    ResOk (execNmopCompletion c n s) := by
  unfold execNmopCompletion
  try dsimp only
  (repeat' split) <;> simp (maxDischargeDepth := 30) [h0]
@[simp] theorem tileIssue_memOk {i : Instr} {fn : BitVec 5} {ct : BitVec 4} {pl : BitVec 2} {a : SReg} {n : Nat} {fl : FlagN} {la : LaN} {s : State} {chk : State → Wave → Block → List Nat → TileChk} (h0 : MemOk s) :
    ResOk (tileIssue i fn ct pl a n fl la s chk) := by
  unfold tileIssue
  first | refine checked_memOk (by assumption) fun t ht => ?_ | refine onMsg_memOk (by assumption) fun m t ht => ?_
  try dsimp only
  (repeat' split) <;> simp (maxDischargeDepth := 30) +contextual [*]
@[simp] theorem execMsetm_memOk {a : SReg} {fl : FlagN} {la : LaN} {s : State} (h0 : MemOk s) :
    ResOk (execMsetm a fl la s) := by
  unfold execMsetm
  first | refine checked_memOk (by assumption) fun t ht => ?_ | refine onMsg_memOk (by assumption) fun m t ht => ?_
  try dsimp only
  (repeat' split) <;> simp (maxDischargeDepth := 30) +contextual [*]
@[simp] theorem execMcb_memOk {k : BitVec 3} {a : SReg} {fl : FlagN} {la : LaN} {s : State} (h0 : MemOk s) :
    ResOk (execMcb k a fl la s) := by
  unfold execMcb
  simp (maxDischargeDepth := 30) [h0]
@[simp] theorem execMld_memOk {a : SReg} {p : BitVec 2} {fl : FlagN} {la : LaN} {s : State} (h0 : MemOk s) :
    ResOk (execMld a p fl la s) := by
  unfold execMld
  simp (maxDischargeDepth := 30) [h0]
@[simp] theorem execMldsw_memOk {a : SReg} {p : BitVec 2} {fl : FlagN} {la : LaN} {s : State} (h0 : MemOk s) :
    ResOk (execMldsw a p fl la s) := by
  unfold execMldsw
  simp (maxDischargeDepth := 30) [h0]
@[simp] theorem execMldsa_memOk {a : SReg} {p : BitVec 2} {fl : FlagN} {la : LaN} {s : State} (h0 : MemOk s) :
    ResOk (execMldsa a p fl la s) := by
  unfold execMldsa
  simp (maxDischargeDepth := 30) [h0]
@[simp] theorem execMldc_memOk {c : BitVec 4} {a : SReg} {p : BitVec 2} {fl : FlagN} {la : LaN} {s : State} (h0 : MemOk s) :
    ResOk (execMldc c a p fl la s) := by
  unfold execMldc
  simp (maxDischargeDepth := 30) [h0]
@[simp] theorem execMstc_memOk {c : BitVec 4} {a : SReg} {p : BitVec 2} {fl : FlagN} {la : LaN} {s : State} (h0 : MemOk s) :
    ResOk (execMstc c a p fl la s) := by
  unfold execMstc
  simp (maxDischargeDepth := 30) [h0]
@[simp] theorem execMzero_memOk {c : BitVec 4} {fl : FlagN} {la : LaN} {s : State} (h0 : MemOk s) :
    ResOk (execMzero c fl la s) := by
  unfold execMzero
  simp (maxDischargeDepth := 30) [h0]
@[simp] theorem execMstr_memOk {c : BitVec 4} {a : SReg} {fl : FlagN} {la : LaN} {s : State} (h0 : MemOk s) :
    ResOk (execMstr c a fl la s) := by
  unfold execMstr
  simp (maxDischargeDepth := 30) [h0]
@[simp] theorem execMstrs_memOk {c : BitVec 4} {a : SReg} {fl : FlagN} {la : LaN} {s : State} (h0 : MemOk s) :
    ResOk (execMstrs c a fl la s) := by
  unfold execMstrs
  simp (maxDischargeDepth := 30) [h0]
@[simp] theorem execMstrx_memOk {c : BitVec 4} {a : SReg} {fl : FlagN} {la : LaN} {s : State} (h0 : MemOk s) :
    ResOk (execMstrx c a fl la s) := by
  unfold execMstrx
  simp (maxDischargeDepth := 30) [h0]
@[simp] theorem execMrdc_memOk {c : BitVec 4} {a : SReg} {fl : FlagN} {la : LaN} {s : State} (h0 : MemOk s) :
    ResOk (execMrdc c a fl la s) := by
  unfold execMrdc
  simp (maxDischargeDepth := 30) [h0]
@[simp] theorem execMwrc_memOk {c : BitVec 4} {a : SReg} {fl : FlagN} {la : LaN} {s : State} (h0 : MemOk s) :
    ResOk (execMwrc c a fl la s) := by
  unfold execMwrc
  simp (maxDischargeDepth := 30) [h0]
@[simp] theorem execMsync_memOk {fl : FlagN} {la : LaN} {s : State} (h0 : MemOk s) :
    ResOk (execMsync fl la s) := by
  unfold execMsync
  simp (maxDischargeDepth := 30) [h0]
@[simp] theorem onTask_memOk {s : State} {c : CoreId} {n : Nat} {f : TileTask → TileTask} (h0 : MemOk s) :
    MemOk (onTask s c n f) := by
  unfold onTask
  simp (maxDischargeDepth := 30) [h0]
@[simp] theorem killTask_memOk {s : State} {c : CoreId} {t : TileTask} {cause : Cause} {ad : BitVec 64} (h0 : MemOk s) :
    MemOk (killTask s c t cause ad) := by
  unfold killTask
  try dsimp only
  (repeat' split) <;> simp (maxDischargeDepth := 30) [h0]
@[simp] theorem putRuns_memOk {s : State} {c : CoreId} {t : TileTask} {runs : List (Nat × List Byte)} (h0 : MemOk s) :
    MemOk (putRuns s c t runs).2 := by
  unfold putRuns
  try dsimp only
  (repeat' split) <;> simp (maxDischargeDepth := 30) [h0]
@[simp] theorem runStore_memOk {s : State} {c : CoreId} {t : TileTask} (h0 : MemOk s) :
    MemOk (runStore s c t).2 := by
  unfold runStore
  try dsimp only
  (repeat' split) <;> simp (maxDischargeDepth := 30) [h0]
@[simp] theorem tileWalk_memOk {c : CoreId} {n : Nat} {s : State} (h0 : MemOk s) :
    ResOk (tileWalk c n s) := by
  unfold tileWalk
  try dsimp only
  (repeat' split) <;> simp (maxDischargeDepth := 30) [h0]
@[simp] theorem taskPages_memOk {s : State} {c : CoreId} {t : TileTask} {dest : List (Nat × Target)} (h0 : MemOk s) :
    MemOk (taskPages s c t dest) := by
  unfold taskPages
  try dsimp only
  (repeat' split) <;> simp (maxDischargeDepth := 30) +contextual [h0]
@[simp] theorem execTileTaskStart_memOk {c : CoreId} {n : Nat} {s : State} (h0 : MemOk s) :
    ResOk (execTileTaskStart c n s) := by
  unfold execTileTaskStart
  try dsimp only
  (repeat' split) <;> simp (maxDischargeDepth := 30) [h0]
@[simp] theorem tileRead_memOk {c : CoreId} {n : Nat} {s : State} (h0 : MemOk s) :
    ResOk (tileRead c n s) := by
  unfold tileRead
  try dsimp only
  (repeat' split) <;> simp (maxDischargeDepth := 30) [h0]
@[simp] theorem tilePut_memOk {c : CoreId} {n : Nat} {s : State} (h0 : MemOk s) :
    ResOk (tilePut c n s) := by
  unfold tilePut
  try dsimp only
  (repeat' split) <;> simp (maxDischargeDepth := 30) [h0]
@[simp] theorem execTileTaskCompletion_memOk {c : CoreId} {n : Nat} {s : State} (h0 : MemOk s) :
    ResOk (execTileTaskCompletion c n s) := by
  unfold execTileTaskCompletion
  try dsimp only
  (repeat' split) <;> simp (maxDischargeDepth := 30) [h0]
@[simp] theorem endWalk_memOk {s : State} {cd : Nat} {n : Nat} {k : Walk} {o : WalkOut} (h0 : MemOk s) :
    MemOk (endWalk s cd n k o) := by
  unfold endWalk
  try dsimp only
  (repeat' split) <;> simp (maxDischargeDepth := 30) +contextual [h0]
@[simp] theorem walkDone_memOk {s : State} {cd : Nat} {xs : List Nat} (h0 : MemOk s) :
    MemOk (walkDone s cd xs) := by
  unfold walkDone
  try dsimp only
  (repeat' split) <;> simp (maxDischargeDepth := 30) +contextual [h0]
@[simp] theorem advanceWalk_memOk {fuel : Nat} {cd : Nat} {n : Nat} {s : State} (h0 : MemOk s) :
    ResOk (advanceWalk fuel cd n s) := by
  unfold advanceWalk
  try dsimp only
  (repeat' split) <;> simp (maxDischargeDepth := 30) [h0]
@[simp] theorem execTableWalkCompletion_memOk {cd : Nat} {n : Nat} {s : State} (h0 : MemOk s) :
    ResOk (execTableWalkCompletion cd n s) := by
  unfold execTableWalkCompletion
  try dsimp only
  (repeat' split) <;> simp (maxDischargeDepth := 30) +contextual [h0]
@[simp] theorem walkStep_memOk {cd : Nat} {n : Nat} {s : State} (h0 : MemOk s) :
    ResOk (walkStep cd n s) := by
  unfold walkStep
  try dsimp only
  (repeat' split) <;> simp (maxDischargeDepth := 30) [h0]
@[simp] theorem execMigrationWaitRetry_memOk {w : WaveId} {s : State} (h0 : MemOk s) :
    ResOk (execMigrationWaitRetry w s) := by
  unfold execMigrationWaitRetry
  simp (maxDischargeDepth := 30) [h0]
@[simp] theorem dropDie_memOk {s : State} {k : Inval} {cd : Nat} (h0 : MemOk s) :
    MemOk (dropDie s k cd) := by
  unfold dropDie
  simp (maxDischargeDepth := 30) [h0]
@[simp] theorem onInval_memOk {s : State} {k : Nat} {f : Inval → Inval} (h0 : MemOk s) :
    MemOk (onInval s k f) := by
  unfold onInval
  simp (maxDischargeDepth := 30) [h0]
@[simp] theorem execTranslationInvalidation_memOk {k : Nat} {cd : Nat} {s : State} (h0 : MemOk s) :
    ResOk (execTranslationInvalidation k cd s) := by
  unfold execTranslationInvalidation
  try dsimp only
  (repeat' split) <;> simp (maxDischargeDepth := 30) [h0]
@[simp] theorem endInval_memOk {s : State} {i : Inval} (h0 : MemOk s) :
    MemOk (endInval s i) := by
  unfold endInval
  try dsimp only
  (repeat' split) <;> simp (maxDischargeDepth := 30) [h0]
@[simp] theorem invalAcked_memOk {s : State} {k : Nat} {cd : Nat} (h0 : MemOk s) :
    MemOk (invalAcked s k cd) := by
  unfold invalAcked
  try dsimp only
  (repeat' split) <;> simp (maxDischargeDepth := 30) [h0]
@[simp] theorem execInvalidationAck_memOk {k : Nat} {cd : Nat} {s : State} (h0 : MemOk s) :
    ResOk (execInvalidationAck k cd s) := by
  unfold execInvalidationAck
  try dsimp only
  (repeat' split) <;> simp (maxDischargeDepth := 30) [h0]
@[simp] theorem execDriverInvalidation_memOk {pkg : Nat} {iod : Nat} {rng : BitVec 64} {s : State} (h0 : MemOk s) :
    ResOk (execDriverInvalidation pkg iod rng s) := by
  unfold execDriverInvalidation
  try dsimp only
  (repeat' split) <;> simp (maxDischargeDepth := 30) [h0]
@[simp] theorem cleanSector_memOk {s : State} {cd : Nat} {x : Nat} (h0 : MemOk s) :
    MemOk (cleanSector s cd x) := by
  unfold cleanSector
  simp (maxDischargeDepth := 30) [h0]
@[simp] theorem returnSector_memOk {s : State} {cd : Nat} {x : Nat} (h0 : MemOk s) :
    MemOk (returnSector s cd x) := by
  unfold returnSector
  simp (maxDischargeDepth := 30) [h0]
@[simp] theorem endWriteback_memOk {s : State} {k : Nat} (h0 : MemOk s) :
    MemOk (endWriteback s k) := by
  unfold endWriteback
  simp (maxDischargeDepth := 30) [h0]
@[simp] theorem writebackAcked_memOk {s : State} {k : Nat} {cd : Nat} (h0 : MemOk s) :
    MemOk (writebackAcked s k cd) := by
  unfold writebackAcked
  try dsimp only
  (repeat' split) <;> simp (maxDischargeDepth := 30) [h0]
@[simp] theorem holdAnswer_memOk {s : State} {n : Nat} {m : Msg} {xs : List Nat} (h0 : MemOk s) :
    MemOk (holdAnswer s n m xs) := by
  unfold holdAnswer
  try dsimp only
  (repeat' split) <;> simp (maxDischargeDepth := 30) [h0]
@[simp] theorem execWritebackRequest_memOk {n : Nat} {s : State} (h0 : MemOk s) :
    ResOk (execWritebackRequest n s) := by
  unfold execWritebackRequest
  try dsimp only
  (repeat' split) <;> simp (maxDischargeDepth := 30) +contextual [h0]
@[simp] theorem execTrapEntry_memOk {w : WaveId} {s : State} (h0 : MemOk s) :
    ResOk (execTrapEntry w s) := by
  unfold execTrapEntry
  try dsimp only
  (repeat' split) <;> simp (maxDischargeDepth := 30) [h0]
@[simp] theorem ackRec_memOk {s : State} {r : FaultRec} (h0 : MemOk s) :
    MemOk (ackRec s r) := by
  unfold ackRec
  try dsimp only
  (repeat' split) <;> simp (maxDischargeDepth := 30) [h0]
@[simp] theorem logRec_memOk {s : State} {r : FaultRec} (h0 : MemOk s) :
    MemOk (logRec s r).2 := by
  unfold logRec
  try dsimp only
  (repeat' split) <;> simp (maxDischargeDepth := 30) [h0]
@[simp] theorem execFaultLogAppend_memOk {n : Nat} {s : State} (h0 : MemOk s) :
    ResOk (execFaultLogAppend n s) := by
  unfold execFaultLogAppend
  try dsimp only
  (repeat' split) <;> simp (maxDischargeDepth := 30) [h0]
@[simp] theorem execWaveKill_memOk {w : WaveId} {cause : Cause} {s : State} (h0 : MemOk s) :
    ResOk (execWaveKill w cause s) := by
  unfold execWaveKill
  try dsimp only
  (repeat' split) <;> simp (maxDischargeDepth := 30) [h0]
@[simp] theorem rollWave_memOk {s : State} {w : Wave} (h0 : MemOk s) :
    MemOk (rollWave s w) := by
  unfold rollWave
  try dsimp only
  (repeat' split) <;> simp (maxDischargeDepth := 30) [h0]
@[simp] theorem execStrikeReport_memOk {cd : Nat} {region : Nat} {s : State} (h0 : MemOk s) :
    ResOk (execStrikeReport cd region s) := by
  unfold execStrikeReport
  simp (maxDischargeDepth := 30) +contextual [h0]
@[simp] theorem enterActive_memOk {s : State} {id : WaveId} (h0 : MemOk s) :
    MemOk (enterActive s id) := by
  unfold enterActive
  try dsimp only
  (repeat' split) <;> simp (maxDischargeDepth := 30) [h0]
@[simp] theorem fillPlace_memOk {aged : Bool} {s : State} {id : WaveId} (h0 : MemOk s) :
    MemOk (fillPlace aged s id) := by
  unfold fillPlace
  try dsimp only
  (repeat' split) <;> simp (maxDischargeDepth := 30) [h0]
@[simp] theorem execWaveSwap_memOk {w : WaveId} {s : State} (h0 : MemOk s) :
    ResOk (execWaveSwap w s) := by
  unfold execWaveSwap
  try dsimp only
  (repeat' split) <;> simp (maxDischargeDepth := 30) [h0]
@[simp] theorem execQptrDoorbell_memOk {pkg : Nat} {q : Nat} {tail : BitVec 16} {s : State} (h0 : MemOk s) :
    ResOk (execQptrDoorbell pkg q tail s) := by
  unfold execQptrDoorbell
  simp (maxDischargeDepth := 30) [h0]
@[simp] theorem execPriorityAging_memOk {pkg : Nat} {q : Nat} {s : State} (h0 : MemOk s) :
    ResOk (execPriorityAging pkg q s) := by
  unfold execPriorityAging
  simp (maxDischargeDepth := 30) [h0]
@[simp] theorem consume_memOk {s : State} {pkg : Nat} {q : Queue} (h0 : MemOk s) :
    MemOk (consume s pkg q) := by
  unfold consume
  simp (maxDischargeDepth := 30) [h0]
@[simp] theorem logLaunch_memOk {s : State} {pkg : Nat} {q : Nat} {slot : Nat} {ctx : Nat} {ad : BitVec 64} (h0 : MemOk s) :
    MemOk (logLaunch s pkg q slot ctx ad) := by
  unfold logLaunch
  simp (maxDischargeDepth := 30) [h0]
@[simp] theorem failRecord_memOk {s : State} {pkg : Nat} {q : Queue} (h0 : MemOk s) :
    MemOk (failRecord s pkg q) := by
  unfold failRecord
  simp (maxDischargeDepth := 30) [h0]
@[simp] theorem tdiStopped_memOk {s : State} {pkg : Nat} {ctx : Nat} (h0 : MemOk s) :
    MemOk (tdiStopped s pkg ctx).2 := by
  unfold tdiStopped
  try dsimp only
  (repeat' split) <;> simp (maxDischargeDepth := 30) [h0]
@[simp] theorem execRecordTake_memOk {pkg q : Nat} {s : State} (h0 : MemOk s) : ResOk (execRecordTake pkg q s) := by
  unfold execRecordTake
  extract_lets
  split
  · exact h0
  · split
    · exact h0
    · split
      · exact h0
      · exact failRecord_memOk h0
      · split
        · exact h0
        · split
          rename_i hg
          have hp := snd_memOk hg (tdiStopped_memOk h0)
          split
          · exact failRecord_memOk hp
          · split
            · exact hp
            · exact onQueue_memOk (consume_memOk hp)
@[simp] theorem execDependenceReread_memOk {pkg : Nat} {q : Nat} {s : State} (h0 : MemOk s) :
    ResOk (execDependenceReread pkg q s) := by
  unfold execDependenceReread
  try dsimp only
  (repeat' split) <;> simp (maxDischargeDepth := 30) [h0]
@[simp] theorem bornWave_memOk {s : State} {l : Launch} {b : BlockId} {c : CoreId} {p0 : Nat} {k : Nat} {a : WaveArch} (h0 : MemOk s) :
    MemOk (bornWave s l b c p0 k a) := by
  unfold bornWave
  simp (maxDischargeDepth := 30) [h0]
@[simp] theorem placeOne_memOk {s : State} {l : Launch} {idx : Nat} {c : CoreId} {p0 : Nat} (h0 : MemOk s) :
    MemOk (placeOne s l idx c p0) := by
  unfold placeOne
  simp (maxDischargeDepth := 30) +contextual [h0]
@[simp] theorem resetPriority_memOk {s : State} {l : Launch} (h0 : MemOk s) :
    MemOk (resetPriority s l) := by
  unfold resetPriority
  simp (maxDischargeDepth := 30) [h0]
@[simp] theorem execBlockPlacement_memOk {l : Nat} {cd : Nat} {cores : List Nat} {p0 : Nat} {s : State} (h0 : MemOk s) :
    ResOk (execBlockPlacement l cd cores p0 s) := by
  unfold execBlockPlacement
  try dsimp only
  (repeat' split) <;> simp (maxDischargeDepth := 30) +contextual [h0]
@[simp] theorem dropWaves_memOk {s : State} {b : BlockId} (h0 : MemOk s) :
    MemOk (dropWaves s b) := by
  unfold dropWaves
  simp (maxDischargeDepth := 30) [h0]
@[simp] theorem freeBlock_memOk {s : State} {b : Block} (h0 : MemOk s) :
    MemOk (freeBlock s b) := by
  unfold freeBlock
  simp (maxDischargeDepth := 30) [h0]
@[simp] theorem retire_memOk {s : State} {b : Block} (h0 : MemOk s) :
    MemOk (retire s b) := by
  unfold retire
  simp (maxDischargeDepth := 30) [h0]
@[simp] theorem execBlockRetirement_memOk {b : BlockId} {s : State} (h0 : MemOk s) :
    ResOk (execBlockRetirement b s) := by
  unfold execBlockRetirement
  try dsimp only
  (repeat' split) <;> simp (maxDischargeDepth := 30) [h0]
@[simp] theorem countRetired_memOk {s : State} {l : Nat} (h0 : MemOk s) :
    MemOk (countRetired s l) := by
  unfold countRetired
  try dsimp only
  (repeat' split) <;> simp (maxDischargeDepth := 30) [h0]
@[simp] theorem execRetirementMessage_memOk {n : Nat} {s : State} (h0 : MemOk s) :
    ResOk (execRetirementMessage n s) := by
  unfold execRetirementMessage
  try dsimp only
  (repeat' split) <;> simp (maxDischargeDepth := 30) [h0]
@[simp] theorem freeLaunch_memOk {s : State} {l : Nat} (h0 : MemOk s) :
    MemOk (freeLaunch s l) := by
  unfold freeLaunch
  simp (maxDischargeDepth := 30) [h0]
@[simp] theorem writeSignal_memOk {s : State} {l : Launch} {t : Target} (h0 : MemOk s) :
    MemOk (writeSignal s l t).2 := by
  unfold writeSignal
  try dsimp only
  (repeat' split) <;> simp (maxDischargeDepth := 30) [h0]
@[simp] theorem execLaunchEnd_memOk {l : Nat} {s : State} (h0 : MemOk s) :
    ResOk (execLaunchEnd l s) := by
  unfold execLaunchEnd
  try dsimp only
  (repeat' split) <;> simp (maxDischargeDepth := 30) [h0]
@[simp] theorem stopBlock_memOk {s : State} {area : Nat} {b : BlockId} (h0 : MemOk s) :
    MemOk (stopBlock s area b) := by
  unfold stopBlock
  simp (maxDischargeDepth := 30) [h0]
@[simp] theorem stopAll_memOk {s : State} {bs : List BlockId} (h0 : MemOk s) : OptOk (stopAll s bs) := by
  induction bs generalizing s with
  | nil => simp [stopAll, h0]
  | cons b bs ih =>
    unfold stopAll
    split
    · exact ih h0
    · split
      · exact optOk_none
      · exact ih (stopBlock_memOk h0)
@[simp] theorem afterStops_memOk {s : State} (h0 : MemOk s) :
    MemOk (afterStops s) := by
  unfold afterStops
  simp (maxDischargeDepth := 30) [h0]
@[simp] theorem chooseVictims_memOk {l : Launch} {cd prio fuel : Nat} {s : State} (h0 : MemOk s) : MemOk (chooseVictims l cd prio fuel s) := by
  induction fuel generalizing s with
  | zero => exact h0
  | succ n ih =>
    unfold chooseVictims
    split
    · exact h0
    · split
      · exact h0
      · rename_i t ht
        have h2 : MemOk t := stopAll_memOk h0 _ ht
        split
        · exact h2
        · exact ih h2
@[simp] theorem execPreemptionRaise_memOk {pkg : Nat} {q : Nat} {cd : Nat} {s : State} (h0 : MemOk s) :
    ResOk (execPreemptionRaise pkg q cd s) := by
  unfold execPreemptionRaise
  try dsimp only
  (repeat' split) <;> simp (maxDischargeDepth := 30) [h0]
@[simp] theorem withdraw_memOk {s : State} {w : Wave} (h0 : MemOk s) :
    OptPairOk (withdraw s w) := by
  unfold withdraw
  cases w.hold <;> dsimp only
  case trapPending r e => split <;> first | exact optPairOk_none | exact optPairOk_some.2 h0
  all_goals first
    | exact optPairOk_none
    | exact optPairOk_some.2 h0
    | exact optPairOk_some.2 (freeMonitor_memOk (onWave_memOk h0))
    | exact optPairOk_some.2 (onGroup_memOk h0)
@[simp] theorem preemptTrap_memOk {s : State} {v : Wave} {b : Block} (h0 : MemOk s) :
    MemOk (preemptTrap s v b) := by
  unfold preemptTrap
  simp (maxDischargeDepth := 30) [h0]
@[simp] theorem takePreempt_memOk {s : State} {w : Wave} {b : Block} (h0 : MemOk s) :
    MemOk (takePreempt s w b) := by
  unfold takePreempt
  split
  · exact h0
  · split
    · exact h0
    · rename_i v t hw
      exact preemptTrap_memOk (withdraw_memOk (w := w) h0 _ hw)
@[simp] theorem putObj_memOk {s : State} {pkg : Nat} {ctx : Nat} {id : Nat} {base : Nat} {parts : List (Nat × List Byte)} (h0 : MemOk s) :
    MemOk (putObj s pkg ctx id base parts).2 := by
  unfold putObj
  try dsimp only
  (repeat' split) <;> simp (maxDischargeDepth := 30) +contextual [h0]
@[simp] theorem dropTasks_memOk {s : State} {b : Block} (h0 : MemOk s) :
    MemOk (dropTasks s b) := by
  unfold dropTasks
  simp (maxDischargeDepth := 30) [h0]
@[simp] theorem wakeSaved_memOk {s : State} {b : BlockId} (h0 : MemOk s) :
    MemOk (wakeSaved s b) := by
  unfold wakeSaved
  simp (maxDischargeDepth := 30) [h0]
@[simp] theorem widenSet_memOk {b : BlockId} {s : State} (h0 : MemOk s) :
    ResOk (widenSet b s) := by
  unfold widenSet
  split
  · exact h0
  · split
    · exact h0
    · have h1 : OptOk (stopAll s (tiedBlocks s b)) := stopAll_memOk h0
      cases hs : stopAll s (tiedBlocks s b) with
      | none => exact h0
      | some t => exact h1 t hs
@[simp] theorem writeBlock_memOk {s : State} {b : Block} (h0 : MemOk s) :
    MemOk (writeBlock s b) := by
  unfold writeBlock
  simp (maxDischargeDepth := 30) [h0]
@[simp] theorem execPreemptTrap_memOk {w : WaveId} {s : State} (h0 : MemOk s) :
    ResOk (execPreemptTrap w s) := by
  unfold execPreemptTrap
  try dsimp only
  (repeat' split) <;> simp (maxDischargeDepth := 30) [h0]
@[simp] theorem blockSave_memOk {b : BlockId} {s : State} (h0 : MemOk s) :
    ResOk (blockSave b s) := by
  unfold blockSave
  try dsimp only
  (repeat' split) <;> simp (maxDischargeDepth := 30) [h0]
@[simp] theorem execBlockFree_memOk {b : BlockId} {s : State} (h0 : MemOk s) :
    ResOk (execBlockFree b s) := by
  unfold execBlockFree
  try dsimp only
  (repeat' split) <;> simp (maxDischargeDepth := 30) [h0]
@[simp] theorem putGroup_memOk {s : State} {b : Block} {back : List Nat} {e : Nat} (h0 : MemOk s) :
    MemOk (putGroup s b back e) := by
  unfold putGroup
  simp (maxDischargeDepth := 30) [h0]
@[simp] theorem putTask_memOk {s : State} {b : Block} {i : Nat} (h0 : MemOk s) :
    MemOk (putTask s b i) := by
  unfold putTask
  simp (maxDischargeDepth := 30) [h0]
@[simp] theorem pinAll_memOk {s : State} {pkg : Nat} {ctx : Nat} {regs : List (Nat × LayRec)} (h0 : MemOk s) :
    MemOk (pinAll s pkg ctx regs) := by
  unfold pinAll
  try dsimp only
  (repeat' split) <;> simp (maxDischargeDepth := 30) +contextual [h0]
@[simp] theorem resumeOne_memOk {s : State} {l : Launch} {b : Block} {core : CoreId} {p0 : Nat} {regs : List (Nat × LayRec) × List (Nat × BitVec 256)} (h0 : MemOk s) :
    MemOk (resumeOne s l b core p0 regs) := by
  unfold resumeOne
  try dsimp only
  (repeat' split) <;> simp (maxDischargeDepth := 30) +contextual [h0]
@[simp] theorem registerRetry_memOk {b : BlockId} {s : State} (h0 : MemOk s) :
    ResOk (registerRetry b s) := by
  unfold registerRetry
  try dsimp only
  (repeat' split) <;> simp (maxDischargeDepth := 30) [h0]
@[simp] theorem dropEmptyGroups_memOk {s : State} (h0 : MemOk s) :
    MemOk (dropEmptyGroups s) := by
  unfold dropEmptyGroups
  simp (maxDischargeDepth := 30) [h0]
@[simp] theorem execBlockResumption_memOk {b : BlockId} {cd : Nat} {cores : List Nat} {p0 : Nat} {s : State} (h0 : MemOk s) :
    ResOk (execBlockResumption b cd cores p0 s) := by
  unfold execBlockResumption
  try dsimp only
  (repeat' split) <;> simp (maxDischargeDepth := 30) +contextual [h0]
@[simp] theorem refuseCtx_memOk {s : State} {pkg : Nat} {cause : BitVec 8} (h0 : MemOk s) :
    MemOk (refuseCtx s pkg cause) := by
  unfold refuseCtx
  simp (maxDischargeDepth := 30) [h0]
@[simp] theorem startCtx_memOk {s : State} {pkg : Nat} {ctx : Nat} {op : CtxOp} {x : Nat} (h0 : MemOk s) :
    MemOk (startCtx s pkg ctx op x) := by
  unfold startCtx
  try dsimp only
  (repeat' split) <;> simp (maxDischargeDepth := 30) [h0]
@[simp] theorem execCtxActivate_memOk {pkg : Nat} {ctx : Nat} {s : State} (h0 : MemOk s) :
    ResOk (execCtxActivate pkg ctx s) := by
  unfold execCtxActivate
  simp (maxDischargeDepth := 30) [h0]
@[simp] theorem execCtxUpdate_memOk {pkg : Nat} {ctx : Nat} {s : State} (h0 : MemOk s) :
    ResOk (execCtxUpdate pkg ctx s) := by
  unfold execCtxUpdate
  simp (maxDischargeDepth := 30) [h0]
@[simp] theorem dropCtx_memOk {s : State} {cd : Nat} {ctx : Nat} (h0 : MemOk s) :
    MemOk (dropCtx s cd ctx) := by
  unfold dropCtx
  try dsimp only
  (repeat' split) <;> simp (maxDischargeDepth := 30) [h0]
@[simp] theorem execCtxRetire_memOk {pkg : Nat} {ctx : Nat} {s : State} (h0 : MemOk s) :
    ResOk (execCtxRetire pkg ctx s) := by
  unfold execCtxRetire
  simp (maxDischargeDepth := 30) [h0]
@[simp] theorem ctxAck_memOk {pkg : Nat} {die : Nat} {s : State} (h0 : MemOk s) :
    ResOk (ctxAck pkg die s) := by
  unfold ctxAck
  try dsimp only
  (repeat' split) <;> simp (maxDischargeDepth := 30) [h0]
@[simp] theorem applyCtx_memOk {s : State} {pkg : Nat} {c : CtxCmd} (h0 : MemOk s) :
    MemOk (applyCtx s pkg c) := by
  unfold applyCtx
  try dsimp only
  (repeat' split) <;> simp (maxDischargeDepth := 30) [h0]
@[simp] theorem ctxDone_memOk {pkg : Nat} {s : State} (h0 : MemOk s) :
    ResOk (ctxDone pkg s) := by
  unfold ctxDone
  try dsimp only
  (repeat' split) <;> simp (maxDischargeDepth := 30) [h0]
@[simp] theorem setPerms_memOk {s : State} {pkg : Nat} {ctx : Nat} {id : BitVec 24} {f : Nat → Nat} (h0 : MemOk s) :
    MemOk (setPerms s pkg ctx id f) := by
  unfold setPerms
  simp (maxDischargeDepth := 30) [h0]
@[simp] theorem fillPlaces_memOk {s : State} {bs : List Byte} {ps : List (Nat × Nat × Target)} (h0 : MemOk s) :
    MemOk (fillPlaces s bs ps) := by
  unfold fillPlaces
  try dsimp only
  (repeat' split) <;> simp (maxDischargeDepth := 30) +contextual [h0]
@[simp] theorem measureSegment_memOk {s : State} {pkg : Nat} {ctx : Nat} {i : Nat} {g : Seg} (h0 : MemOk s) :
    MemOk (measureSegment s pkg ctx i g) := by
  unfold measureSegment
  try dsimp only
  (repeat' split) <;> simp (maxDischargeDepth := 30) [h0]
@[simp] theorem ldrEnd_memOk {s : State} {pkg : Nat} {result : BitVec 3} {seg : Nat} (h0 : MemOk s) :
    MemOk (ldrEnd s pkg result seg) := by
  unfold ldrEnd
  simp (maxDischargeDepth := 30) [h0]
@[simp] theorem ldrRefuse_memOk {s : State} {pkg : Nat} (h0 : MemOk s) :
    MemOk (ldrRefuse s pkg) := by
  unfold ldrRefuse
  try dsimp only
  (repeat' split) <;> simp (maxDischargeDepth := 30) [h0]
@[simp] theorem setLoad_memOk {s : State} {pkg : Nat} {ph : LoadPhase} (h0 : MemOk s) :
    MemOk (setLoad s pkg ph) := by
  unfold setLoad
  try dsimp only
  (repeat' split) <;> simp (maxDischargeDepth := 30) [h0]
@[simp] theorem loadInval_memOk {s : State} {pkg : Nat} {ctx : Nat} {id : BitVec 24} {ph : Nat → LoadPhase} (h0 : MemOk s) :
    MemOk (loadInval s pkg ctx id ph) := by
  unfold loadInval
  try dsimp only
  (repeat' split) <;> simp (maxDischargeDepth := 30) [h0]
@[simp] theorem placeSegment_memOk {s : State} {pkg ctx i : Nat} {g : Seg} {id : BitVec 24} {o : RangeOut} (h0 : MemOk s) :
    MemOk (placeSegment s pkg ctx i g id o) := by
  unfold placeSegment
  split
  · exact ldrEnd_memOk h0
  · exact h0
  · exact h0
  · extract_lets xs r u v
    split
    · exact homeGather_memOk h0
    · have h1 : MemOk r.2 := homeGather_memOk h0
      exact loadInval_memOk (foldl_memOk (fun _ _ h => homeDone_memOk h)
        (setPerms_memOk (fillPlaces_memOk (measureSegment_memOk h1))))
@[simp] theorem acceptSegment_memOk {s : State} {pkg ctx i : Nat} {g : Seg} (h0 : MemOk s) :
    MemOk (acceptSegment s pkg ctx i g) := by
  unfold acceptSegment
  split
  · exact setLoad_memOk (measureSegment_memOk h0)
  · exact placeSegment_memOk h0
@[simp] theorem revokeStep_memOk {s : State} {pkg : Nat} {ctx : Nat} {i : Nat} {ids : List (BitVec 24)} (h0 : MemOk s) :
    MemOk (revokeStep s pkg ctx i ids) := by
  unfold revokeStep
  try dsimp only
  (repeat' split) <;> simp (maxDischargeDepth := 30) [h0]
@[simp] theorem loadSegment_memOk {s : State} {pkg : Nat} {l : Load} {i : Nat} (h0 : MemOk s) :
    MemOk (loadSegment s pkg l i) := by
  unfold loadSegment
  try dsimp only
  (repeat' split) <;> simp (maxDischargeDepth := 30) [h0]
@[simp] theorem scrapLoad_memOk {s : State} {pkg : Nat} {l : Load} (h0 : MemOk s) : OptOk (scrapLoad s pkg l) := by
  unfold scrapLoad
  (repeat' split) <;> simp (maxDischargeDepth := 30) [h0]
@[simp] theorem loaderStep_memOk {pkg : Nat} {s : State} (h0 : MemOk s) :
    ResOk (loaderStep pkg s) := by
  unfold loaderStep
  split
  · exact h0
  · split
    · exact h0
    · split
      · simp (maxDischargeDepth := 30) [h0]
      · split
        · exact scrapLoad_memOk h0 _ ‹_›
        · (repeat' split) <;> simp (maxDischargeDepth := 30) [h0]
@[simp] theorem execLdrLoad_memOk {pkg : Nat} {s : State} (h0 : MemOk s) :
    ResOk (execLdrLoad pkg s) := by
  unfold execLdrLoad
  extract_lets
  (repeat' split) <;> simp (maxDischargeDepth := 30) [h0]
@[simp] theorem execLdrUnload_memOk {pkg : Nat} {slot : Nat} {s : State} (h0 : MemOk s) :
    ResOk (execLdrUnload pkg slot s) := by
  unfold execLdrUnload
  simp (maxDischargeDepth := 30) [h0]
@[simp] theorem execHotctlEnable_memOk {md : Nat} {value : BitVec 32} {s : State} (h0 : MemOk s) :
    ResOk (execHotctlEnable md value s) := by
  unfold execHotctlEnable
  simp (maxDischargeDepth := 30) [h0]
@[simp] theorem hotAppend_memOk {md : Nat} {n : Nat} {x2 : Nat} {d : MDie} {s : State} (h0 : MemOk s) :
    MemOk (hotAppend md n x2 d s) := by
  unfold hotAppend
  simp (maxDischargeDepth := 30) +contextual [h0]
@[simp] theorem execHotnessIntervalEnd_memOk {md : Nat} {s : State} (h0 : MemOk s) :
    ResOk (execHotnessIntervalEnd md s) := by
  unfold execHotnessIntervalEnd
  extract_lets
  (repeat' split) <;> simp (maxDischargeDepth := 30) [h0]
@[simp] theorem execCohctlPclr_memOk {cd : Nat} {s : State} (h0 : MemOk s) :
    ResOk (execCohctlPclr cd s) := by
  unfold execCohctlPclr
  simp (maxDischargeDepth := 30) [h0]
@[simp] theorem execMigcmdMove_memOk {md : Nat} {value : BitVec 64} {s : State} (h0 : MemOk s) :
    ResOk (execMigcmdMove md value s) := by
  unfold execMigcmdMove
  simp (maxDischargeDepth := 30) [h0]
@[simp] theorem execMigrationSectorMoved_memOk {md : Nat} {s : State} (h0 : MemOk s) :
    ResOk (execMigrationSectorMoved md s) := by
  unfold execMigrationSectorMoved
  try dsimp only
  (repeat' split) <;> simp (maxDischargeDepth := 30) [h0]
@[simp] theorem biasCmd_memOk {s : State} {md : Nat} {value : BitVec 64} {toHost : Bool} (h0 : MemOk s) :
    MemOk (biasCmd s md value toHost) := by
  unfold biasCmd
  simp (maxDischargeDepth := 30) [h0]
@[simp] theorem execBiasFlipToHost_memOk {md : Nat} {value : BitVec 64} {s : State} (h0 : MemOk s) :
    ResOk (execBiasFlipToHost md value s) := by
  unfold execBiasFlipToHost
  simp (maxDischargeDepth := 30) [h0]
@[simp] theorem execBiasFlipToDevice_memOk {md : Nat} {value : BitVec 64} {s : State} (h0 : MemOk s) :
    ResOk (execBiasFlipToDevice md value s) := by
  unfold execBiasFlipToDevice
  simp (maxDischargeDepth := 30) [h0]
@[simp] theorem hostGather_memOk {s : State} {x : Nat} (h0 : MemOk s) :
    MemOk (hostGather s x).2 := by
  unfold hostGather
  try dsimp only
  (repeat' split) <;> simp (maxDischargeDepth := 30) [h0]
@[simp] theorem countBirsp_memOk {s : State} {x : Nat} {flip : Bool} (h0 : MemOk s) :
    MemOk (countBirsp s x flip) := by
  unfold countBirsp
  try dsimp only
  (repeat' split) <;> simp (maxDischargeDepth := 30) [h0]
@[simp] theorem execBirsp_memOk {n : Nat} {dirty : Option (BitVec 512)} {s : State} (h0 : MemOk s) :
    ResOk (execBirsp n dirty s) := by
  unfold execBirsp
  try dsimp only
  (repeat' split) <;> simp (maxDischargeDepth := 30) [h0]
@[simp] theorem reply_memOk {s : State} {r : HostReply} (h0 : MemOk s) :
    MemOk (reply s r) := by
  unfold reply
  simp (maxDischargeDepth := 30) [h0]
@[simp] theorem performAtomic_memOk {s : State} {q : HostReq} {req : CxlReq} {off : Nat} {n : Nat} (h0 : MemOk s) :
    MemOk (performAtomic s q req off n).2 := by
  unfold performAtomic
  try dsimp only
  (repeat' split) <;> simp (maxDischargeDepth := 30) [h0]
@[simp] theorem plainRead_memOk {s : State} {q : HostReq} {mv : MetaValue} (h0 : MemOk s) :
    MemOk (performRead.plainRead s q mv).2 := by
  unfold performRead.plainRead
  dsimp only
  split <;> simp (maxDischargeDepth := 30) [h0]
@[simp] theorem performRead_memOk {s : State} {q : HostReq} {req : CxlReq} {off : Nat} (h0 : MemOk s) :
    MemOk (performRead s q req off).2 := by
  unfold performRead
  try dsimp only
  (repeat' split) <;> simp (maxDischargeDepth := 30) [h0]
@[simp] theorem performHost_memOk {s : State} {q : HostReq} (h0 : MemOk s) :
    MemOk (performHost s q).2 := by
  unfold performHost
  try dsimp only
  (repeat' split) <;> simp (maxDischargeDepth := 30) [h0]
@[simp] theorem hostRequest_memOk {s : State} {pkg : Nat} {q : HostReq} (h0 : MemOk s) :
    MemOk (hostRequest s pkg q) := by
  unfold hostRequest
  try dsimp only
  (repeat' split) <;> simp (maxDischargeDepth := 30) [h0]
@[simp] theorem hostServe_memOk {pkg : Nat} {n : Nat} {s : State} (h0 : MemOk s) :
    ResOk (hostServe pkg n s) := by
  unfold hostServe
  try dsimp only
  (repeat' split) <;> simp (maxDischargeDepth := 30) [h0]
@[simp] theorem execCxlMemrd_memOk {pkg : Nat} {link : Nat} {addr : Nat} {req : CxlReq} {s : State} (h0 : MemOk s) :
    ResOk (execCxlMemrd pkg link addr req s) := by
  unfold execCxlMemrd
  try dsimp only
  (repeat' split) <;> simp (maxDischargeDepth := 30) [h0]
@[simp] theorem execCxlMemwr_memOk {pkg : Nat} {link : Nat} {addr : Nat} {data : BitVec 512} {s : State} (h0 : MemOk s) :
    ResOk (execCxlMemwr pkg link addr data s) := by
  unfold execCxlMemwr
  try dsimp only
  (repeat' split) <;> simp (maxDischargeDepth := 30) [h0]
@[simp] theorem dropSnoops_memOk {s : State} {pkg : Nat} {link : Nat} (h0 : MemOk s) :
    MemOk (dropSnoops s pkg link) := by
  unfold dropSnoops
  try dsimp only
  (repeat' split) <;> simp (maxDischargeDepth := 30) +contextual [h0]
@[simp] theorem execHostLinkDown_memOk {pkg : Nat} {link : Nat} {s : State} (h0 : MemOk s) :
    ResOk (execHostLinkDown pkg link s) := by
  unfold execHostLinkDown
  simp (maxDischargeDepth := 30) [h0]
@[simp] theorem execHostLinkUp_memOk {pkg : Nat} {link : Nat} {s : State} (h0 : MemOk s) :
    ResOk (execHostLinkUp pkg link s) := by
  unfold execHostLinkUp
  simp (maxDischargeDepth := 30) [h0]
@[simp] theorem settleAgain_memOk {s : State} {homes : List Nat} {die : Nat} (h0 : MemOk s) :
    MemOk (settleAgain s homes die) := by
  unfold settleAgain
  refine foldl_memOk (fun t x ht => ?_) h0
  (repeat' split) <;> simp (maxDischargeDepth := 30) [ht]
@[simp] theorem ctxUncount_memOk {s : State} {die : Nat} (h0 : MemOk s) :
    MemOk (ctxUncount s die) := by
  unfold ctxUncount
  try dsimp only
  (repeat' split) <;> simp (maxDischargeDepth := 30) [h0]
@[simp] theorem leaveCounts_memOk {s : State} {die : Nat} (h0 : MemOk s) :
    MemOk (leaveCounts s die) := by
  unfold leaveCounts
  simp (maxDischargeDepth := 30) +contextual [h0]
@[simp] theorem deathRecords_memOk {s : State} {cd : Nat} {t : BitVec 64} (h0 : MemOk s) :
    MemOk (deathRecords s cd t) := by
  unfold deathRecords
  simp (maxDischargeDepth := 30) +contextual [h0]
@[simp] theorem clearDie_memOk {s : State} {cd : Nat} (h0 : MemOk s) :
    MemOk (clearDie s cd) := by
  unfold clearDie
  simp (maxDischargeDepth := 30) [h0]
@[simp] theorem unpinLost_memOk {s : State} {bs : List Block} (h0 : MemOk s) :
    MemOk (unpinLost s bs) := by
  unfold unpinLost
  simp (maxDischargeDepth := 30) +contextual [h0]
@[simp] theorem unpinNext_memOk {pkg : Nat} {s : State} (h0 : MemOk s) :
    ResOk (unpinNext pkg s) := by
  unfold unpinNext
  try dsimp only
  (repeat' split) <;> simp (maxDischargeDepth := 30) [h0]
@[simp] theorem unverify_memOk {s : State} {pkg : Nat} {t : FwTarget} (h0 : MemOk s) :
    MemOk (unverify s pkg t) := by
  unfold unverify
  try dsimp only
  (repeat' split) <;> simp (maxDischargeDepth := 30) [h0]
@[simp] theorem declareCompute_memOk {s : State} {waiter : Nat} {cd : Nat} (h0 : MemOk s) :
    MemOk (declareCompute s waiter cd) := by
  unfold declareCompute
  simp (maxDischargeDepth := 30) +contextual [h0]
@[simp] theorem dropTrumps_memOk {s : State} {md : Nat} (h0 : MemOk s) :
    MemOk (dropTrumps s md) := by
  unfold dropTrumps
  simp (maxDischargeDepth := 30) [h0]
@[simp] theorem declareMemory_memOk {s : State} {waiter : Nat} {md : Nat} (h0 : MemOk s) :
    MemOk (declareMemory s waiter md) := by
  unfold declareMemory
  simp (maxDischargeDepth := 30) [h0]
@[simp] theorem execLinkResponseTimeout_memOk {waiter : Nat} {die : Nat} {s : State} (h0 : MemOk s) :
    ResOk (execLinkResponseTimeout waiter die s) := by
  unfold execLinkResponseTimeout
  simp (maxDischargeDepth := 30) [h0]
@[simp] theorem noteStep_memOk {s : State} {die : Nat} (h0 : MemOk s) :
    MemOk (noteStep s die) := by
  unfold noteStep
  try dsimp only
  (repeat' split) <;> simp (maxDischargeDepth := 30) [h0]
@[simp] theorem stepTime_memOk {s : State} {die : Nat} (h0 : MemOk s) :
    MemOk (stepTime s die) := by
  unfold stepTime
  simp (maxDischargeDepth := 30) [h0]
@[simp] theorem leavePod_memOk {s : State} {pkg : Nat} (h0 : MemOk s) :
    MemOk (leavePod s pkg) := by
  unfold leavePod
  try dsimp only
  (repeat' split) <;> simp (maxDischargeDepth := 30) [h0]
@[simp] theorem letIn_memOk {s : State} {cd : Nat} (h0 : MemOk s) :
    MemOk (letIn s cd) := by
  unfold letIn
  simp (maxDischargeDepth := 30) [h0]
@[simp] theorem initStack_memOk {s : State} {md : Nat} (h0 : MemOk s) : MemOk (initStack s md) := ⟨filter_wf h0.1, h0.2⟩
@[simp] theorem startMemory_memOk {s : State} {md : Nat} (h0 : MemOk s) :
    MemOk (startMemory s md) := by
  unfold startMemory
  simp (maxDischargeDepth := 30) [h0]
@[simp] theorem execDieAdmission_memOk {cd : Nat} {s : State} (h0 : MemOk s) :
    ResOk (execDieAdmission cd s) := by
  unfold execDieAdmission
  simp (maxDischargeDepth := 30) [h0]
@[simp] theorem forwardFlit_memOk {s : State} {pkg : Nat} {l : Link} {f : McFlit} (h0 : MemOk s) :
    MemOk (forwardFlit s pkg l f) := by
  unfold forwardFlit
  try dsimp only
  (repeat' split) <;> simp (maxDischargeDepth := 30) [h0]
@[simp] theorem carryColl_memOk {s : State} {pkg : Nat} {n : Nat} (h0 : MemOk s) :
    MemOk (carryColl s pkg n) := by
  unfold carryColl
  try dsimp only
  (repeat' split) <;> simp (maxDischargeDepth := 30) [h0]
@[simp] theorem deliverFlit_memOk {s : State} {pkg : Nat} {f : McFlit} (h0 : MemOk s) :
    MemOk (deliverFlit s pkg f) := by
  unfold deliverFlit
  try dsimp only
  (repeat' split) <;> simp (maxDischargeDepth := 30) [h0]
@[simp] theorem execMulticastFlit_memOk {pkg : Nat} {n : Nat} {s : State} (h0 : MemOk s) :
    ResOk (execMulticastFlit pkg n s) := by
  unfold execMulticastFlit
  try dsimp only
  (repeat' split) <;> simp (maxDischargeDepth := 30) +contextual [h0]
@[simp] theorem onLink_memOk {s : State} {pkg : Nat} {link : Nat} {f : Link → Link} (h0 : MemOk s) :
    MemOk (onLink s pkg link f) := by
  unfold onLink
  simp (maxDischargeDepth := 30) [h0]
@[simp] theorem sendHeld_memOk {s : State} {pkg : Nat} {link : Nat} (h0 : MemOk s) :
    MemOk (sendHeld s pkg link) := by
  unfold sendHeld
  try dsimp only
  (repeat' split) <;> simp (maxDischargeDepth := 30) +contextual [h0]
@[simp] theorem execMulticastCreditReturn_memOk {pkg : Nat} {link : Nat} {s : State} (h0 : MemOk s) :
    ResOk (execMulticastCreditReturn pkg link s) := by
  unfold execMulticastCreditReturn
  simp (maxDischargeDepth := 30) [h0]
@[simp] theorem hop_memOk {n : Nat} {link : Nat} {esc : Bool} {s : State} (h0 : MemOk s) :
    ResOk (hop n link esc s) := by
  unfold hop
  try dsimp only
  (repeat' split) <;> simp (maxDischargeDepth := 30) [h0]
@[simp] theorem onEnds_memOk {s : State} {pkg link : Nat} {f : Link → Link} (h0 : MemOk s) :
    MemOk (onEnds s pkg link f) := by
  unfold onEnds
  try dsimp only
  (repeat' split) <;> simp (maxDischargeDepth := 30) [h0]
@[simp] theorem retrain_memOk {s : State} {pkg : Nat} {link : Nat} (h0 : MemOk s) :
    MemOk (retrain s pkg link) := by
  unfold retrain
  try dsimp only
  (repeat' split) <;> simp (maxDischargeDepth := 30) [h0]
@[simp] theorem execFlitCrcFailure_memOk {n : Nat} {s : State} (h0 : MemOk s) :
    ResOk (execFlitCrcFailure n s) := by
  unfold execFlitCrcFailure
  try dsimp only
  (repeat' split) <;> simp (maxDischargeDepth := 30) [h0]
@[simp] theorem execLaneSparing_memOk {pkg : Nat} {link : Nat} {s : State} (h0 : MemOk s) :
    ResOk (execLaneSparing pkg link s) := by
  unfold execLaneSparing
  simp (maxDischargeDepth := 30) [h0]
@[simp] theorem execLinkRetrainDone_memOk {pkg : Nat} {link : Nat} {s : State} (h0 : MemOk s) :
    ResOk (execLinkRetrainDone pkg link s) := by
  unfold execLinkRetrainDone
  try dsimp only
  (repeat' split) <;> simp (maxDischargeDepth := 30) [h0]
@[simp] theorem loseMessages_memOk {s : State} {pkg : Nat} {link : Nat} (h0 : MemOk s) :
    MemOk (loseMessages s pkg link) := by
  unfold loseMessages
  split
  rename_i keep t hg
  have ht : MemOk t := by
    refine snd_memOk hg (foldl_pair_memOk (s := ([], s)) (fun t x ht => ?_) h0)
    split
    · split
      rename_i hg
      have hp := snd_memOk hg (freshBool_memOk ht)
      split
      · exact logLoss_memOk (onPkg_memOk hp)
      · exact hp
    · exact ht
  exact ht
@[simp] theorem tearEnd_memOk {s : State} {pkg link : Nat} (h0 : MemOk s) :
    MemOk (tearEnd s pkg link) := by
  unfold tearEnd
  simp (maxDischargeDepth := 30) [h0]
@[simp] theorem execLinkTeardown_memOk {pkg : Nat} {link : Nat} {s : State} (h0 : MemOk s) :
    ResOk (execLinkTeardown pkg link s) := by
  unfold execLinkTeardown
  try dsimp only
  (repeat' split) <;> simp (maxDischargeDepth := 30) [h0]
@[simp] theorem dropHomedIn_memOk {s : State} {pkg : Nat} {far : Nat} (h0 : MemOk s) :
    MemOk (dropHomedIn s pkg far) := by
  unfold dropHomedIn
  simp (maxDischargeDepth := 30) +contextual [h0]
@[simp] theorem loseHeld_memOk {s : State} {pkg : Nat} {far : Nat} (h0 : MemOk s) :
    MemOk (loseHeld s pkg far) := by
  unfold loseHeld
  try dsimp only
  (repeat' split) <;> simp (maxDischargeDepth := 30) [h0]
@[simp] theorem dropPkgFromCounts_memOk {s : State} {pkg : Nat} {far : Nat} (h0 : MemOk s) :
    MemOk (dropPkgFromCounts s pkg far) := by
  unfold dropPkgFromCounts
  refine foldl_memOk (fun t x ht => ?_) (foldl_memOk (fun _ _ h => settleAgain_memOk h) h0)
  dsimp only
  (repeat' split) <;> simp (maxDischargeDepth := 30) [ht]
@[simp] theorem loseWork_memOk {s : State} {pkg : Nat} (h0 : MemOk s) :
    MemOk (loseWork s pkg) := by
  unfold loseWork
  try dsimp only
  (repeat' split) <;> simp (maxDischargeDepth := 30) [h0]
@[simp] theorem execRemovalNotice_memOk {pkg : Nat} {removed : Nat} {s : State} (h0 : MemOk s) :
    ResOk (execRemovalNotice pkg removed s) := by
  unfold execRemovalNotice
  try dsimp only
  (repeat' split) <;> simp (maxDischargeDepth := 30) +contextual [h0]
@[simp] theorem creditSpent_memOk {pkg link : Nat} {s : State} (h0 : MemOk s) :
    ResOk (creditSpent pkg link s) := by
  unfold creditSpent
  simp (maxDischargeDepth := 30) [h0]
@[simp] theorem exchange_memOk {s : State} {die : Nat} {partner : Nat} {reference : BitVec 64} {err : BitVec 16} {domain : Bool} (h0 : MemOk s) :
    MemOk (exchange s die partner reference err domain) := by
  unfold exchange
  try dsimp only
  (repeat' split) <;> simp (maxDischargeDepth := 30) [h0]
@[simp] theorem execSyncExchange_memOk {die : Nat} {reference : BitVec 64} {err : BitVec 16} {s : State} (h0 : MemOk s) :
    ResOk (execSyncExchange die reference err s) := by
  unfold execSyncExchange
  simp (maxDischargeDepth := 30) [h0]
@[simp] theorem execPodExchange_memOk {pkg : Nat} {reference : BitVec 64} {err : BitVec 16} {s : State} (h0 : MemOk s) :
    ResOk (execPodExchange pkg reference err s) := by
  unfold execPodExchange
  try dsimp only
  (repeat' split) <;> simp (maxDischargeDepth := 30) +contextual [h0]
@[simp] theorem setHoldover_memOk {s : State} {die : Nat} (h0 : MemOk s) :
    MemOk (setHoldover s die) := by
  unfold setHoldover
  simp (maxDischargeDepth := 30) [h0]
@[simp] theorem execHoldoverTimeout_memOk {die : Nat} {s : State} (h0 : MemOk s) :
    ResOk (execHoldoverTimeout die s) := by
  unfold execHoldoverTimeout
  simp (maxDischargeDepth := 30) [h0]
@[simp] theorem execGrandmasterFailover_memOk {pkg : Nat} {s : State} (h0 : MemOk s) :
    ResOk (execGrandmasterFailover pkg s) := by
  unfold execGrandmasterFailover
  simp (maxDischargeDepth := 30) +contextual [h0]
@[simp] theorem execPodJoin_memOk {pkg : Nat} {time : BitVec 64} {s : State} (h0 : MemOk s) :
    ResOk (execPodJoin pkg time s) := by
  unfold execPodJoin
  simp (maxDischargeDepth := 30) +contextual [h0]
@[simp] theorem clockRec_memOk {s : State} {cd : Nat} {mhz : Nat} (h0 : MemOk s) :
    MemOk (clockRec s cd mhz) := by
  unfold clockRec
  simp (maxDischargeDepth := 30) [h0]
@[simp] theorem setClock_memOk {s : State} {cd : Nat} {mhz : Nat} (h0 : MemOk s) :
    MemOk (setClock s cd mhz) := by
  unfold setClock
  simp (maxDischargeDepth := 30) [h0]
@[simp] theorem execCoreFrequencyChange_memOk {cd : Nat} {mhz : Nat} {s : State} (h0 : MemOk s) :
    ResOk (execCoreFrequencyChange cd mhz s) := by
  unfold execCoreFrequencyChange
  simp (maxDischargeDepth := 30) [h0]
@[simp] theorem execCoreClockStop_memOk {cd : Nat} {s : State} (h0 : MemOk s) :
    ResOk (execCoreClockStop cd s) := by
  unfold execCoreClockStop
  simp (maxDischargeDepth := 30) [h0]
@[simp] theorem execCoreClockRestart_memOk {cd : Nat} {s : State} (h0 : MemOk s) :
    ResOk (execCoreClockRestart cd s) := by
  unfold execCoreClockRestart
  simp (maxDischargeDepth := 30) [h0]
@[simp] theorem dropTranslations_memOk {s : State} {cd : Nat} (h0 : MemOk s) :
    MemOk (dropTranslations s cd) := by
  unfold dropTranslations
  simp (maxDischargeDepth := 30) [h0]
@[simp] theorem emptyUncore_memOk {s : State} {cd : Nat} (h0 : MemOk s) :
    MemOk (emptyUncore s cd) := by
  unfold emptyUncore
  simp (maxDischargeDepth := 30) +contextual [h0]
@[simp] theorem execUncoreGate_memOk {cd : Nat} {s : State} (h0 : MemOk s) :
    ResOk (execUncoreGate cd s) := by
  unfold execUncoreGate
  simp (maxDischargeDepth := 30) [h0]
@[simp] theorem execUncoreWake_memOk {cd : Nat} {s : State} (h0 : MemOk s) :
    ResOk (execUncoreWake cd s) := by
  unfold execUncoreWake
  simp (maxDischargeDepth := 30) [h0]
@[simp] theorem execDieOff_memOk {cd : Nat} {s : State} (h0 : MemOk s) :
    ResOk (execDieOff cd s) := by
  unfold execDieOff
  simp (maxDischargeDepth := 30) [h0]
@[simp] theorem execDieReturn_memOk {cd : Nat} {s : State} (h0 : MemOk s) :
    ResOk (execDieReturn cd s) := by
  unfold execDieReturn
  simp (maxDischargeDepth := 30) [h0]
@[simp] theorem execThermalThrottle_memOk {cd : Nat} {mhz : Nat} {s : State} (h0 : MemOk s) :
    ResOk (execThermalThrottle cd mhz s) := by
  unfold execThermalThrottle
  simp (maxDischargeDepth := 30) [h0]
@[simp] theorem execThermalStop_memOk {cd : Nat} {s : State} (h0 : MemOk s) :
    ResOk (execThermalStop cd s) := by
  unfold execThermalStop
  simp (maxDischargeDepth := 30) [h0]
@[simp] theorem execThermalRestart_memOk {cd : Nat} {s : State} (h0 : MemOk s) :
    ResOk (execThermalRestart cd s) := by
  unfold execThermalRestart
  simp (maxDischargeDepth := 30) [h0]
@[simp] theorem sysRead_memOk {s : State} {num : Nat} (h0 : MemOk s) :
    MemOk (sysRead s num).2 := by
  unfold sysRead
  try dsimp only
  (repeat' split) <;> simp (maxDischargeDepth := 30) [h0]
@[simp] theorem sysWrite_memOk {s : State} {num : Nat} {x : BitVec 64} (h0 : MemOk s) :
    MemOk (sysWrite s num x) := by
  unfold sysWrite
  try dsimp only
  (repeat' split) <;> simp (maxDischargeDepth := 30) [h0]
@[simp] theorem execSysr_memOk {a : SReg} {num : BitVec 10} {s : State} (h0 : MemOk s) :
    ResOk (execSysr a num s) := by
  unfold execSysr
  simp (maxDischargeDepth := 30) +contextual [h0]
@[simp] theorem execSysw_memOk {a : SReg} {num : BitVec 10} {s : State} (h0 : MemOk s) :
    ResOk (execSysw a num s) := by
  unfold execSysw
  simp (maxDischargeDepth := 30) +contextual [h0]
@[simp] theorem returnTrap_memOk {s : State} (h0 : MemOk s) :
    MemOk (returnTrap s) := by
  unfold returnTrap
  dsimp only
  split
  · exact stallBy_memOk h0
  · split
    · exact killWave_memOk h0
    · exact holdCur_memOk h0
    · exact waitWalks_memOk h0
    · rename_i p _
      have hr := tryRead_memOk (w := s.cur) (n := s.nextId) (xs := piecesOf s.cur.a.tfaddr p (List.replicate 1024 0)) h0
      split <;> (rename_i he; rw [he] at hr; simp only [TryOk] at hr)
      · exact stallBy_memOk hr
      · exact killWave_memOk hr
      · split
        · exact killWave_memOk hr
        · split
          · exact waitWalks_memOk h0
          · exact issue_memOk hr
@[simp] theorem execEret_memOk {s : State} (h0 : MemOk s) :
    ResOk (execEret s) := by
  unfold execEret
  simp (maxDischargeDepth := 30) +contextual [h0]
@[simp] theorem cacheOp_memOk {i : Instr} {r : SReg} {s : State} {entry : Bool} {start : CacheArgs → State → State} (h0 : MemOk s) (h1 : ∀ y0 y1, MemOk y1 → MemOk (start y0 y1)) :
    ResOk (cacheOp i r s entry start) := by
  unfold cacheOp
  simp (maxDischargeDepth := 30) +contextual [h0, h1]
@[simp] theorem execCacheopInvx_memOk {a : SReg} {s : State} (h0 : MemOk s) :
    ResOk (execCacheopInvx a s) := by
  unfold execCacheopInvx
  simp (maxDischargeDepth := 30) +contextual [h0]
@[simp] theorem cacheWb_memOk {i : Instr} {a : SReg} {s : State} {inv : Bool} (h0 : MemOk s) :
    ResOk (cacheWb i a s inv) := by
  unfold cacheWb
  simp (maxDischargeDepth := 30) +contextual [h0]
@[simp] theorem execCacheopWb_memOk {a : SReg} {s : State} (h0 : MemOk s) :
    ResOk (execCacheopWb a s) := by
  unfold execCacheopWb
  simp (maxDischargeDepth := 30) [h0]
@[simp] theorem execCacheopWbinv_memOk {a : SReg} {s : State} (h0 : MemOk s) :
    ResOk (execCacheopWbinv a s) := by
  unfold execCacheopWbinv
  simp (maxDischargeDepth := 30) [h0]
@[simp] theorem execDbgbrk_memOk {n : BitVec 4} {s : State} (h0 : MemOk s) :
    ResOk (execDbgbrk n s) := by
  unfold execDbgbrk
  simp (maxDischargeDepth := 30) +contextual [h0]
@[simp] theorem execHalt_memOk {s : State} (h0 : MemOk s) :
    ResOk (execHalt s) := by
  unfold execHalt
  simp (maxDischargeDepth := 30) +contextual [h0]
@[simp] theorem wipeKeys_memOk {s : State} {pkg : Nat} {p : Ctx → Bool} (h0 : MemOk s) :
    MemOk (wipeKeys s pkg p) := by
  unfold wipeKeys
  simp (maxDischargeDepth := 30) [h0]
@[simp] theorem execKeywipeAll_memOk {s : State} (h0 : MemOk s) :
    ResOk (execKeywipeAll s) := by
  unfold execKeywipeAll
  simp (maxDischargeDepth := 30) +contextual [h0]
@[simp] theorem execKeywipeContext_memOk {s : State} (h0 : MemOk s) :
    ResOk (execKeywipeContext s) := by
  unfold execKeywipeContext
  simp (maxDischargeDepth := 30) +contextual [h0]
@[simp] theorem onSecurity_memOk {s : State} {pkg : Nat} {f : Security → Security} (h0 : MemOk s) :
    MemOk (onSecurity s pkg f) := by
  unfold onSecurity
  simp (maxDischargeDepth := 30) [h0]
@[simp] theorem clearPackage_memOk {s : State} {pkg : Nat} {held : Bool} {cold : Bool} (h0 : MemOk s) :
    MemOk (clearPackage s pkg held cold) := by
  unfold clearPackage
  split
  rename_i hg
  have h2 := snd_memOk hg (freshWord_memOk (loseReference_memOk h0))
  have hf : ∀ (t : State) (p : Host.Cell → Bool), MemOk t → memWf (t.mem.filter p) = true := fun t p h => filter_wf h.1
  refine memOk_mk.2 ⟨?_, h2.2⟩
  split
  · exact h2.1
  · exact hf _ _ h2
@[simp] theorem execPackageReset_memOk {pkg : Nat} {s : State} (h0 : MemOk s) :
    ResOk (execPackageReset pkg s) := by
  unfold execPackageReset
  simp (maxDischargeDepth := 30) [h0]
@[simp] theorem execPackageD3cold_memOk {pkg : Nat} {s : State} (h0 : MemOk s) :
    ResOk (execPackageD3cold pkg s) := by
  unfold execPackageD3cold
  simp (maxDischargeDepth := 30) [h0]
@[simp] theorem execPatrolScrub_memOk {md : Nat} {s : State} (h0 : MemOk s) :
    ResOk (execPatrolScrub md s) := by
  unfold execPatrolScrub
  simp (maxDischargeDepth := 30) [h0]
@[simp] theorem alarmRec_memOk {s : State} {pkg : Nat} {code : Nat} (h0 : MemOk s) :
    MemOk (alarmRec s pkg code).2 := by
  unfold alarmRec
  simp (maxDischargeDepth := 30) [h0]
@[simp] theorem logNow_memOk {s : State} {r : FaultRec} (h0 : MemOk s) :
    MemOk (logNow s r) := by
  unfold logNow
  simp (maxDischargeDepth := 30) [h0]
@[simp] theorem execAlarm_memOk {pkg : Nat} {cls : AlarmClass} {s : State} (h0 : MemOk s) :
    ResOk (execAlarm pkg cls s) := by
  unfold execAlarm
  simp (maxDischargeDepth := 30) [h0]
@[simp] theorem startDies_memOk {s : State} {pkg : Nat} {a : FwTarget} (h0 : MemOk s) :
    MemOk (startDies s pkg a) := by
  unfold startDies
  try dsimp only
  (repeat' split) <;> simp (maxDischargeDepth := 30) +contextual [h0]
@[simp] theorem resetCompute_memOk {s : State} {cd : Nat} (h0 : MemOk s) :
    MemOk (resetCompute s cd) := by
  unfold resetCompute
  try dsimp only
  (repeat' split) <;> simp (maxDischargeDepth := 30) +contextual [h0]
@[simp] theorem holdDies_memOk {s : State} {pkg : Nat} {x1 : FwTarget} (h0 : MemOk s) :
    MemOk (holdDies s pkg x1) := by
  unfold holdDies
  try dsimp only
  (repeat' split) <;> simp (maxDischargeDepth := 30) +contextual [h0]
@[simp] theorem execFirmwareVerify_memOk {pkg : Nat} {target : FwTarget} {image : List Byte} {sig : List Byte} {s : State} (h0 : MemOk s) :
    ResOk (execFirmwareVerify pkg target image sig s) := by
  unfold execFirmwareVerify
  simp (maxDischargeDepth := 30) [h0]
@[simp] theorem execFirmwareUpdate_memOk {pkg : Nat} {image : List Byte} {sig : List Byte} {s : State} (h0 : MemOk s) :
    ResOk (execFirmwareUpdate pkg image sig s) := by
  unfold execFirmwareUpdate
  simp (maxDischargeDepth := 30) [h0]
@[simp] theorem execGetMeasurements_memOk {pkg : Nat} {tdiCtx : Option Nat} {s : State} (h0 : MemOk s) :
    ResOk (execGetMeasurements pkg tdiCtx s) := by
  unfold execGetMeasurements
  simp (maxDischargeDepth := 30) [h0]
@[simp] theorem failContexts_memOk {s : State} {pkg : Nat} (h0 : MemOk s) :
    MemOk (failContexts s pkg) := by
  unfold failContexts
  simp (maxDischargeDepth := 30) +contextual [h0]
@[simp] theorem execLifecycleTransition_memOk {pkg : Nat} {target : Lifecycle} {cmd : List Byte} {sig : List Byte} {s : State} (h0 : MemOk s) :
    ResOk (execLifecycleTransition pkg target cmd sig s) := by
  unfold execLifecycleTransition
  simp (maxDischargeDepth := 30) [h0]
@[simp] theorem execDebugUnlock_memOk {pkg : Nat} {token : List Byte} {s : State} (h0 : MemOk s) :
    ResOk (execDebugUnlock pkg token s) := by
  unfold execDebugUnlock
  simp (maxDischargeDepth := 30) [h0]
@[simp] theorem execTenantKeySetup_memOk {pkg : Nat} {ctx : Nat} {keys : TenantKeys} {s : State} (h0 : MemOk s) :
    ResOk (execTenantKeySetup pkg ctx keys s) := by
  unfold execTenantKeySetup
  simp (maxDischargeDepth := 30) [h0]
@[simp] theorem runWord_memOk {run : Instr → State → Res} {s : State} {w : Word} (h0 : ∀ y0 y1, MemOk y1 → ResOk (run y0 y1)) (h1 : MemOk s) :
    ResOk (runWord run s w) := by
  unfold runWord
  try dsimp only
  (repeat' split) <;> simp (maxDischargeDepth := 30) [h0, h1]
@[simp] theorem fetched_memOk {s : State} {w : Wave} {pc : Word} {p : Target} (h0 : MemOk s) :
    MemOk (fetched s w pc p) := by
  unfold fetched
  try dsimp only
  (repeat' split) <;> simp (maxDischargeDepth := 30) [h0]
@[simp] theorem awaitSector_memOk {s : State} {x : Nat} (h0 : MemOk s) :
    MemOk (awaitSector s x) := by
  unfold awaitSector
  simp (maxDischargeDepth := 30) [h0]
@[simp] theorem issueNext_memOk {run : Instr → State → Res} {s : State} (h0 : ∀ y0 y1, MemOk y1 → ResOk (run y0 y1)) (h1 : MemOk s) :
    ResOk (issueNext run s) := by
  unfold issueNext
  try dsimp only
  (repeat' split) <;> simp (maxDischargeDepth := 30) +contextual [h0, h1]
@[simp] theorem notePick_memOk {run : Instr → State → Res} {s : State} {w : Wave} {t : State} (h0 : ∀ y0 y1, MemOk y1 → ResOk (run y0 y1)) (h1 : MemOk s) (h2 : MemOk t) :
    MemOk (notePick run s w t) := by
  unfold notePick
  try dsimp only
  (repeat' split) <;> simp (maxDischargeDepth := 30) +contextual [h0, h1, h2]
@[simp] theorem issueReady_memOk {run : Instr → State → Res} {n : Nat} {s : State}
    (h0 : ∀ i t, MemOk t → ResOk (run i t)) (h1 : MemOk s) : OptResOk (issueReady run n s) := by
  induction n generalizing s with
  | zero => exact optResOk_none
  | succ n ih =>
    unfold issueReady
    split
    · exact optResOk_none
    · rename_i w _
      have hi : ResOk (issueNext run (focusOn s w)) := issueNext_memOk h0 (focusOn_memOk h1)
      generalize issueNext run (focusOn s w) = o at hi ⊢
      cases o with
      | fault f => exact optResOk_some.2 trivial
      | refused f => exact optResOk_some.2 trivial
      | next t =>
        have h2 : MemOk t := hi
        dsimp only
        split
        · intro r hr
          cases hn : issueReady run n t with
          | none =>
            rw [hn] at hr
            injection hr with hr
            subst hr
            exact h2
          | some q =>
            rw [hn] at hr
            injection hr with hr
            subst hr
            exact ih h2 _ hn
        · exact optResOk_some.2 (notePick_memOk h0 h1 h2)
@[simp] theorem wakeStalled_memOk {a : Res} (h0 : ResOk a) :
    ResOk (wakeStalled a) := by
  unfold wakeStalled
  try dsimp only
  (repeat' split) <;> simp_all (maxDischargeDepth := 30)
@[simp] theorem activeSet_memOk {run : Instr → State → Res} {s : State} (h0 : ∀ y0 y1, MemOk y1 → ResOk (run y0 y1)) (h1 : MemOk s) :
    MemOk (activeSet run s) := by
  unfold activeSet
  try dsimp only
  (repeat' split) <;> simp (maxDischargeDepth := 30) +contextual [h0, h1]
@[simp] theorem settled_memOk {run : Instr → State → Res} {x1 : Res} (h0 : ∀ y0 y1, MemOk y1 → ResOk (run y0 y1)) (h1 : ResOk x1) :
    ResOk (settled run x1) := by
  unfold settled
  split
  · exact activeSet_memOk h0 h1
  · trivial
  · trivial
@[simp] theorem bornFirst_memOk {s : State} (h0 : MemOk s) :
    MemOk (bornFirst s) := by
  unfold bornFirst
  simp (maxDischargeDepth := 30) [h0]
@[simp] theorem placeWord_memOk {s : State} {x : Word} (h0 : MemOk s) :
    MemOk (placeWord s x) := by
  unfold placeWord
  simp (maxDischargeDepth := 30) [h0]
/-- A state in which a stack read waits has its memories in canonical form. -/
def GotOk {α : Type} (g : Got α) : Prop := ∀ t, g = .notYet t → MemOk t
@[simp] theorem gotOk_ok {α} {x : α} : GotOk (Got.ok x) := fun _ h => nomatch h
@[simp] theorem gotOk_pstack {α} : GotOk (Got.pstack : Got α) := fun _ h => nomatch h
@[simp] theorem gotOk_park {α} : GotOk (Got.park : Got α) := fun _ h => nomatch h
@[simp] theorem gotOk_wait {α} {id} : GotOk (Got.wait id : Got α) := fun _ h => nomatch h
@[simp] theorem gotOk_walks {α} {ps} : GotOk (Got.walks ps : Got α) := fun _ h => nomatch h
@[simp] theorem gotOk_poison {α} : GotOk (Got.poison : Got α) := fun _ h => nomatch h
@[simp] theorem gotOk_lost {α} {ad} : GotOk (Got.lost ad : Got α) := fun _ h => nomatch h
@[simp] theorem gotOk_notYet {α} {t} : GotOk (Got.notYet t : Got α) ↔ MemOk t := by simp [GotOk]
@[simp] theorem gotOk_ite {α} {c : Prop} [Decidable c] {a b : Got α} (ha : GotOk a) (hb : GotOk b) : GotOk (if c then a else b) := by
  split <;> assumption
@[simp] theorem andThen_gotOk {α β} {g : Got α} {f : α → Got β} (hg : GotOk g) (hf : ∀ x, GotOk (f x)) : GotOk (g.andThen f) := by
  cases g <;> simp_all [Got.andThen]
@[simp] theorem foldl_gotOk {α β} {f : Got α → β → Got α} {l : List β} {g : Got α} (hf : ∀ g x, GotOk g → GotOk (f g x)) (hg : GotOk g) :
    GotOk (l.foldl f g) := by
  induction l generalizing g with
  | nil => exact hg
  | cons x xs ih => exact ih (hf _ _ hg)
@[simp] theorem spillPieces_gotOk {s : State} {w : Wave} {need : BitVec 3} {ad : BitVec 24 × Nat} : GotOk (spillPieces s w need ad) := by
  unfold spillPieces
  refine andThen_gotOk ?_ fun _ => andThen_gotOk ?_ fun _ => andThen_gotOk ?_ fun _ => gotOk_ok <;> (dsimp only; split <;> simp)
@[simp] theorem readSpill_gotOk {s : State} {w : Wave} {d : Nat} (h0 : MemOk s) : GotOk (readSpill s w d) := by
  unfold readSpill
  split
  · exact gotOk_pstack
  · refine andThen_gotOk spillPieces_gotOk fun ts => ?_
    rename_i ad _
    have hr := tryRead_memOk (w := w) (n := s.nextId) (xs := spillAccs ad ts []) h0
    split <;> rename_i he
    · rw [he] at hr
      exact gotOk_notYet.2 hr
    · exact gotOk_poison
    · split <;> simp
@[simp] theorem fill_gotOk {s : State} {w : Wave} {n k : Nat} {v : SView} (h0 : MemOk s) : GotOk (fill s w n k v) := by
  induction k generalizing v with
  | zero => exact gotOk_ok
  | succ k ih =>
    unfold fill
    split
    · exact gotOk_ok
    · exact andThen_gotOk (readSpill_gotOk h0) fun _ => ih
@[simp] theorem pushEntry_gotOk {s : State} {w : Wave} {e : PathEntry} {v : SView} : GotOk (pushEntry s w e v) := by
  unfold pushEntry
  split <;> simp
@[simp] theorem settle_gotOk {s : State} {w : Wave} {v : SView} (h0 : MemOk s) : GotOk (settle s w v) := by
  unfold settle
  refine andThen_gotOk (fill_gotOk h0) fun v => foldl_gotOk (fun g x hg => ?_) gotOk_ok
  refine andThen_gotOk hg fun y => gotOk_ite gotOk_ok ?_
  split
  · exact gotOk_pstack
  · exact andThen_gotOk spillPieces_gotOk fun _ => gotOk_ok
@[simp] theorem resumePath_gotOk {s : State} {w : Wave} {xl : Mask} {k : Nat} {v : SView} (h0 : MemOk s) : GotOk (resumePath s w xl k v) := by
  induction k generalizing v with
  | zero => exact gotOk_ok
  | succ k ih =>
    unfold resumePath
    refine andThen_gotOk (fill_gotOk h0) fun v => ?_
    dsimp only
    (repeat' split) <;> first | exact ih | simp
@[simp] theorem goOn_gotOk {s : State} {w : Wave} {v : SView} {em xl : Mask} (h0 : MemOk s) : GotOk (goOn s w v em xl) := by
  unfold goOn
  split
  · exact resumePath_gotOk h0
  · exact gotOk_ok
@[simp] theorem findEntry_gotOk {s : State} {w : Wave} {p : PathEntry → Bool} {k j : Nat} {v : SView} (h0 : MemOk s) :
    GotOk (findEntry s w p k j v) := by
  induction k generalizing j v with
  | zero => exact gotOk_pstack
  | succ k ih =>
    unfold findEntry
    refine andThen_gotOk (fill_gotOk h0) fun v => ?_
    split
    · exact gotOk_pstack
    · split
      · exact gotOk_ok
      · exact ih
@[simp] theorem spillsRead_memOk {s : State} {w : Wave} {seq : Nat} {rd : List LaneAcc} (h0 : MemOk s) :
    MemOk (spillsRead s w seq rd) := by
  unfold spillsRead
  simp (maxDischargeDepth := 30) [h0]
@[simp] theorem spillPages_memOk {s : State} {w : Wave} {xs : List LaneAcc} (h0 : MemOk s) :
    MemOk (spillPages s w xs) := by
  unfold spillPages
  simp (maxDischargeDepth := 30) +contextual [h0]
@[simp] theorem diverge_memOk {s : State} {g : Got Diverge} (h0 : MemOk s) (hg : GotOk g) :
    ResOk (diverge s g) := by
  unfold diverge
  extract_lets w out
  have ho : GotOk out := by
    refine andThen_gotOk hg fun d => ?_
    split
    · exact gotOk_ok
    · exact andThen_gotOk (settle_gotOk h0) fun _ => gotOk_ok
  generalize out = o at ho ⊢
  cases o <;> dsimp only
  case notYet t => exact stallBy_memOk (gotOk_notYet.1 ho)
  case ok x => (repeat' split) <;> simp (maxDischargeDepth := 30) [h0]
  all_goals simp (maxDischargeDepth := 30) [h0]
@[simp] theorem execSplit_memOk {c : SReg} {o : BitVec 16} {s : State} (h0 : MemOk s) :
    ResOk (execSplit c o s) := by
  unfold execSplit
  first | refine checked_memOk (by assumption) fun t ht => ?_ | refine onMsg_memOk (by assumption) fun m t ht => ?_
  try dsimp only
  (repeat' split) <;> simp (maxDischargeDepth := 30) +contextual [*]
@[simp] theorem execElseW_memOk {o : BitVec 16} {s : State} (h0 : MemOk s) :
    ResOk (execElseW o s) := by
  unfold execElseW
  refine checked_memOk h0 fun t ht => diverge_memOk ht (andThen_gotOk (fill_gotOk ht) fun v => ?_)
  try dsimp only
  (repeat' split) <;> simp
@[simp] theorem execMerge_memOk {s : State} (h0 : MemOk s) :
    ResOk (execMerge s) := by
  unfold execMerge
  refine checked_memOk h0 fun t ht => diverge_memOk ht (andThen_gotOk (fill_gotOk ht) fun v => ?_)
  try dsimp only
  (repeat' split) <;> simp
@[simp] theorem execBreakv_memOk {c : SReg} {o : BitVec 16} {s : State} (h0 : MemOk s) :
    ResOk (execBreakv c o s) := by
  unfold execBreakv
  simp (maxDischargeDepth := 30) +contextual [h0]
@[simp] theorem execBreakvOpen_memOk {o : BitVec 16} {s : State} (h0 : MemOk s) :
    ResOk (execBreakvOpen o s) := by
  unfold execBreakvOpen
  simp (maxDischargeDepth := 30) +contextual [h0]
@[simp] theorem execContv_memOk {c : SReg} {o : BitVec 16} {s : State} (h0 : MemOk s) :
    ResOk (execContv c o s) := by
  unfold execContv
  refine checked_memOk h0 fun t ht => diverge_memOk ht (andThen_gotOk (findEntry_gotOk ht) fun v => ?_)
  (repeat' split) <;> first | exact goOn_gotOk ht | exact gotOk_pstack
@[simp] theorem execExitv_memOk {a : SReg} {s : State} (h0 : MemOk s) :
    ResOk (execExitv a s) := by
  unfold execExitv
  simp (maxDischargeDepth := 30) +contextual [h0]
@[simp] theorem intOp_memOk {i : Instr} {d : VSel} {x : VSel} {y : VSel} {s : State} {f : Int → Int → Int} (h0 : MemOk s) :
    ResOk (intOp i d x y s f) := by
  unfold intOp
  simp (maxDischargeDepth := 30) [h0]
@[simp] theorem bitOp_memOk {i : Instr} {d : VSel} {x : VSel} {y : VSel} {s : State} {f : Nat → Bool → Nat → Nat → Nat} (h0 : MemOk s) :
    ResOk (bitOp i d x y s f) := by
  unfold bitOp
  simp (maxDischargeDepth := 30) [h0]
@[simp] theorem rawOp_memOk {i : Instr} {d : VSel} {x : VSel} {y : VSel} {s : State} {f : Word → Word → Word} (h0 : MemOk s) :
    ResOk (rawOp i d x y s f) := by
  unfold rawOp
  simp (maxDischargeDepth := 30) [h0]
@[simp] theorem intOp1_memOk {i : Instr} {d : VSel} {x : VSel} {s : State} {f : Bool → Int → Int} (h0 : MemOk s) :
    ResOk (intOp1 i d x s f) := by
  unfold intOp1
  simp (maxDischargeDepth := 30) [h0]
@[simp] theorem rawOp1_memOk {i : Instr} {d : VSel} {x : VSel} {s : State} {f : Word → Word} (h0 : MemOk s) :
    ResOk (rawOp1 i d x s f) := by
  unfold rawOp1
  simp (maxDischargeDepth := 30) [h0]
@[simp] theorem execIadd_memOk {d : VSel} {a : VSel} {b : VSel} {s : State} (h0 : MemOk s) :
    ResOk (execIadd d a b s) := by
  unfold execIadd
  simp (maxDischargeDepth := 30) [h0]
@[simp] theorem execIsub_memOk {d : VSel} {a : VSel} {b : VSel} {s : State} (h0 : MemOk s) :
    ResOk (execIsub d a b s) := by
  unfold execIsub
  simp (maxDischargeDepth := 30) [h0]
@[simp] theorem execImul_memOk {d : VSel} {a : VSel} {b : VSel} {s : State} (h0 : MemOk s) :
    ResOk (execImul d a b s) := by
  unfold execImul
  simp (maxDischargeDepth := 30) [h0]
@[simp] theorem execImulh_memOk {d : VSel} {a : VSel} {b : VSel} {s : State} (h0 : MemOk s) :
    ResOk (execImulh d a b s) := by
  unfold execImulh
  simp (maxDischargeDepth := 30) [h0]
@[simp] theorem execImad_memOk {d : VSel} {a : VSel} {b : VSel} {s : State} (h0 : MemOk s) :
    ResOk (execImad d a b s) := by
  unfold execImad
  simp (maxDischargeDepth := 30) [h0]
@[simp] theorem execImin_memOk {d : VSel} {a : VSel} {b : VSel} {s : State} (h0 : MemOk s) :
    ResOk (execImin d a b s) := by
  unfold execImin
  simp (maxDischargeDepth := 30) [h0]
@[simp] theorem execImax_memOk {d : VSel} {a : VSel} {b : VSel} {s : State} (h0 : MemOk s) :
    ResOk (execImax d a b s) := by
  unfold execImax
  simp (maxDischargeDepth := 30) [h0]
@[simp] theorem execIabsd_memOk {d : VSel} {a : VSel} {b : VSel} {s : State} (h0 : MemOk s) :
    ResOk (execIabsd d a b s) := by
  unfold execIabsd
  simp (maxDischargeDepth := 30) [h0]
@[simp] theorem execVand_memOk {d : VSel} {a : VSel} {b : VSel} {s : State} (h0 : MemOk s) :
    ResOk (execVand d a b s) := by
  unfold execVand
  simp (maxDischargeDepth := 30) [h0]
@[simp] theorem execVor_memOk {d : VSel} {a : VSel} {b : VSel} {s : State} (h0 : MemOk s) :
    ResOk (execVor d a b s) := by
  unfold execVor
  simp (maxDischargeDepth := 30) [h0]
@[simp] theorem execVxor_memOk {d : VSel} {a : VSel} {b : VSel} {s : State} (h0 : MemOk s) :
    ResOk (execVxor d a b s) := by
  unfold execVxor
  simp (maxDischargeDepth := 30) [h0]
@[simp] theorem execVandn_memOk {d : VSel} {a : VSel} {b : VSel} {s : State} (h0 : MemOk s) :
    ResOk (execVandn d a b s) := by
  unfold execVandn
  simp (maxDischargeDepth := 30) [h0]
@[simp] theorem execShl_memOk {d : VSel} {a : VSel} {b : VSel} {s : State} (h0 : MemOk s) :
    ResOk (execShl d a b s) := by
  unfold execShl
  simp (maxDischargeDepth := 30) [h0]
@[simp] theorem execShr_memOk {d : VSel} {a : VSel} {b : VSel} {s : State} (h0 : MemOk s) :
    ResOk (execShr d a b s) := by
  unfold execShr
  simp (maxDischargeDepth := 30) [h0]
@[simp] theorem execSar_memOk {d : VSel} {a : VSel} {b : VSel} {s : State} (h0 : MemOk s) :
    ResOk (execSar d a b s) := by
  unfold execSar
  simp (maxDischargeDepth := 30) [h0]
@[simp] theorem execIrot_memOk {d : VSel} {a : VSel} {b : VSel} {s : State} (h0 : MemOk s) :
    ResOk (execIrot d a b s) := by
  unfold execIrot
  simp (maxDischargeDepth := 30) [h0]
@[simp] theorem execIdp_memOk {d : VSel} {a : VSel} {b : VSel} {s : State} (h0 : MemOk s) :
    ResOk (execIdp d a b s) := by
  unfold execIdp
  simp (maxDischargeDepth := 30) [h0]
@[simp] theorem execIneg_memOk {d : VSel} {a : VSel} {s : State} (h0 : MemOk s) :
    ResOk (execIneg d a s) := by
  unfold execIneg
  simp (maxDischargeDepth := 30) [h0]
@[simp] theorem execIabs_memOk {d : VSel} {a : VSel} {s : State} (h0 : MemOk s) :
    ResOk (execIabs d a s) := by
  unfold execIabs
  simp (maxDischargeDepth := 30) [h0]
@[simp] theorem execVnot_memOk {d : VSel} {a : VSel} {s : State} (h0 : MemOk s) :
    ResOk (execVnot d a s) := by
  unfold execVnot
  simp (maxDischargeDepth := 30) [h0]
@[simp] theorem execPopc_memOk {d : VSel} {a : VSel} {s : State} (h0 : MemOk s) :
    ResOk (execPopc d a s) := by
  unfold execPopc
  simp (maxDischargeDepth := 30) [h0]
@[simp] theorem execClz_memOk {d : VSel} {a : VSel} {s : State} (h0 : MemOk s) :
    ResOk (execClz d a s) := by
  unfold execClz
  simp (maxDischargeDepth := 30) [h0]
@[simp] theorem execBrev_memOk {d : VSel} {a : VSel} {s : State} (h0 : MemOk s) :
    ResOk (execBrev d a s) := by
  unfold execBrev
  simp (maxDischargeDepth := 30) [h0]
@[simp] theorem fltOp_memOk {i : Instr} {d : VSel} {x : VSel} {y : VSel} {s : State} {f : EType → Rnd → FVal → FVal → Nat × Nat} (h0 : MemOk s) :
    ResOk (fltOp i d x y s f) := by
  unfold fltOp
  simp (maxDischargeDepth := 30) [h0]
@[simp] theorem fmaOp_memOk {i : Instr} {d : VSel} {x : VSel} {y : VSel} {s : State} {negP : Bool} {negD : Bool} (h0 : MemOk s) :
    ResOk (fmaOp i d x y s negP negD) := by
  unfold fmaOp
  simp (maxDischargeDepth := 30) [h0]
@[simp] theorem minMaxOp_memOk {i : Instr} {d : VSel} {x : VSel} {y : VSel} {s : State} {mx : Bool} {propagate : Bool} (h0 : MemOk s) :
    ResOk (minMaxOp i d x y s mx propagate) := by
  unfold minMaxOp
  simp (maxDischargeDepth := 30) [h0]
@[simp] theorem fltOp1_memOk {i : Instr} {d : VSel} {x : VSel} {s : State} {f : EType → Word → Nat → FVal → Nat × Nat} (h0 : MemOk s) :
    ResOk (fltOp1 i d x s f) := by
  unfold fltOp1
  simp (maxDischargeDepth := 30) [h0]
@[simp] theorem execFadd_memOk {d : VSel} {a : VSel} {b : VSel} {s : State} (h0 : MemOk s) :
    ResOk (execFadd d a b s) := by
  unfold execFadd
  simp (maxDischargeDepth := 30) [h0]
@[simp] theorem execFsub_memOk {d : VSel} {a : VSel} {b : VSel} {s : State} (h0 : MemOk s) :
    ResOk (execFsub d a b s) := by
  unfold execFsub
  simp (maxDischargeDepth := 30) [h0]
@[simp] theorem execFmul_memOk {d : VSel} {a : VSel} {b : VSel} {s : State} (h0 : MemOk s) :
    ResOk (execFmul d a b s) := by
  unfold execFmul
  simp (maxDischargeDepth := 30) [h0]
@[simp] theorem execFmin_memOk {d : VSel} {a : VSel} {b : VSel} {s : State} (h0 : MemOk s) :
    ResOk (execFmin d a b s) := by
  unfold execFmin
  simp (maxDischargeDepth := 30) [h0]
@[simp] theorem execFmax_memOk {d : VSel} {a : VSel} {b : VSel} {s : State} (h0 : MemOk s) :
    ResOk (execFmax d a b s) := by
  unfold execFmax
  simp (maxDischargeDepth := 30) [h0]
@[simp] theorem execFminp_memOk {d : VSel} {a : VSel} {b : VSel} {s : State} (h0 : MemOk s) :
    ResOk (execFminp d a b s) := by
  unfold execFminp
  simp (maxDischargeDepth := 30) [h0]
@[simp] theorem execFmaxp_memOk {d : VSel} {a : VSel} {b : VSel} {s : State} (h0 : MemOk s) :
    ResOk (execFmaxp d a b s) := by
  unfold execFmaxp
  simp (maxDischargeDepth := 30) [h0]
@[simp] theorem execFfma_memOk {d : VSel} {a : VSel} {b : VSel} {s : State} (h0 : MemOk s) :
    ResOk (execFfma d a b s) := by
  unfold execFfma
  simp (maxDischargeDepth := 30) [h0]
@[simp] theorem execFfms_memOk {d : VSel} {a : VSel} {b : VSel} {s : State} (h0 : MemOk s) :
    ResOk (execFfms d a b s) := by
  unfold execFfms
  simp (maxDischargeDepth := 30) [h0]
@[simp] theorem execFfnma_memOk {d : VSel} {a : VSel} {b : VSel} {s : State} (h0 : MemOk s) :
    ResOk (execFfnma d a b s) := by
  unfold execFfnma
  simp (maxDischargeDepth := 30) [h0]
@[simp] theorem execFfnms_memOk {d : VSel} {a : VSel} {b : VSel} {s : State} (h0 : MemOk s) :
    ResOk (execFfnms d a b s) := by
  unfold execFfnms
  simp (maxDischargeDepth := 30) [h0]
@[simp] theorem execFdp2_memOk {d : VSel} {a : VSel} {b : VSel} {s : State} (h0 : MemOk s) :
    ResOk (execFdp2 d a b s) := by
  unfold execFdp2
  simp (maxDischargeDepth := 30) [h0]
@[simp] theorem execFneg_memOk {d : VSel} {a : VSel} {s : State} (h0 : MemOk s) :
    ResOk (execFneg d a s) := by
  unfold execFneg
  simp (maxDischargeDepth := 30) [h0]
@[simp] theorem execFabs_memOk {d : VSel} {a : VSel} {s : State} (h0 : MemOk s) :
    ResOk (execFabs d a s) := by
  unfold execFabs
  simp (maxDischargeDepth := 30) [h0]
@[simp] theorem execFfloor_memOk {d : VSel} {a : VSel} {s : State} (h0 : MemOk s) :
    ResOk (execFfloor d a s) := by
  unfold execFfloor
  simp (maxDischargeDepth := 30) [h0]
@[simp] theorem execFceil_memOk {d : VSel} {a : VSel} {s : State} (h0 : MemOk s) :
    ResOk (execFceil d a s) := by
  unfold execFceil
  simp (maxDischargeDepth := 30) [h0]
@[simp] theorem execFtrunc_memOk {d : VSel} {a : VSel} {s : State} (h0 : MemOk s) :
    ResOk (execFtrunc d a s) := by
  unfold execFtrunc
  simp (maxDischargeDepth := 30) [h0]
@[simp] theorem execFrnd_memOk {d : VSel} {a : VSel} {s : State} (h0 : MemOk s) :
    ResOk (execFrnd d a s) := by
  unfold execFrnd
  simp (maxDischargeDepth := 30) [h0]
@[simp] theorem execCvt_memOk {d : VSel} {p : BitVec 3} {t : EType} {a : VSel} {s : State} (h0 : MemOk s) :
    ResOk (execCvt d p t a s) := by
  unfold execCvt
  simp (maxDischargeDepth := 30) [h0]
@[simp] theorem cmpOp_memOk {i : Instr} {o : CmpComb} {k : BitVec 5} {x : VSel} {y : VSel} {s : State} {f : EType → WaveArch → Nat → Nat → Bool × Nat} (h0 : MemOk s) :
    ResOk (cmpOp i o k x y s f) := by
  unfold cmpOp
  simp (maxDischargeDepth := 30) [h0]
@[simp] theorem execIcmp_memOk {o : CmpComb} {c : IcmpCc} {k : BitVec 5} {a : VSel} {b : VSel} {s : State} (h0 : MemOk s) :
    ResOk (execIcmp o c k a b s) := by
  unfold execIcmp
  simp (maxDischargeDepth := 30) [h0]
@[simp] theorem execFcmp_memOk {o : CmpComb} {c : FcmpCc} {k : BitVec 5} {a : VSel} {b : VSel} {s : State} (h0 : MemOk s) :
    ResOk (execFcmp o c k a b s) := by
  unfold execFcmp
  simp (maxDischargeDepth := 30) [h0]
@[simp] theorem execMov_memOk {d : VSel} {a : VSel} {s : State} (h0 : MemOk s) :
    ResOk (execMov d a s) := by
  unfold execMov
  simp (maxDischargeDepth := 30) [h0]
@[simp] theorem execSel_memOk {d : VSel} {a : VSel} {b : VSel} {s : State} (h0 : MemOk s) :
    ResOk (execSel d a b s) := by
  unfold execSel
  simp (maxDischargeDepth := 30) [h0]
@[simp] theorem execVrdl_memOk {d : SReg} {a : VSel} {b : SReg} {s : State} (h0 : MemOk s) :
    ResOk (execVrdl d a b s) := by
  unfold execVrdl
  simp (maxDischargeDepth := 30) [h0]
@[simp] theorem execVwrl_memOk {d : VSel} {a : SReg} {b : SReg} {s : State} (h0 : MemOk s) :
    ResOk (execVwrl d a b s) := by
  unfold execVwrl
  simp (maxDischargeDepth := 30) [h0]
@[simp] theorem execVsplat_memOk {d : VSel} {a : SReg} {s : State} (h0 : MemOk s) :
    ResOk (execVsplat d a s) := by
  unfold execVsplat
  simp (maxDischargeDepth := 30) [h0]
@[simp] theorem execVlaneid_memOk {d : VSel} {s : State} (h0 : MemOk s) :
    ResOk (execVlaneid d s) := by
  unfold execVlaneid
  simp (maxDischargeDepth := 30) [h0]
@[simp] theorem execVmask_memOk {d : VSel} {a : VSel} {s : State} (h0 : MemOk s) :
    ResOk (execVmask d a s) := by
  unfold execVmask
  simp (maxDischargeDepth := 30) [h0]
@[simp] theorem crossLane_memOk {i : Instr} {d : VSel} {x : VSel} {y : VSel} {s : State} {f : Nat → Nat → Word → Int} (h0 : MemOk s) :
    ResOk (crossLane i d x y s f) := by
  unfold crossLane
  simp (maxDischargeDepth := 30) [h0]
@[simp] theorem execVperm_memOk {d : VSel} {a : VSel} {i : VSel} {s : State} (h0 : MemOk s) :
    ResOk (execVperm d a i s) := by
  unfold execVperm
  simp (maxDischargeDepth := 30) [h0]
@[simp] theorem execVbcst_memOk {d : VSel} {a : VSel} {i : VSel} {s : State} (h0 : MemOk s) :
    ResOk (execVbcst d a i s) := by
  unfold execVbcst
  simp (maxDischargeDepth := 30) [h0]
@[simp] theorem execVshf_memOk {d : VSel} {a : VSel} {i : VSel} {s : State} (h0 : MemOk s) :
    ResOk (execVshf d a i s) := by
  unfold execVshf
  simp (maxDischargeDepth := 30) [h0]
@[simp] theorem execVbfly_memOk {d : VSel} {a : VSel} {i : VSel} {s : State} (h0 : MemOk s) :
    ResOk (execVbfly d a i s) := by
  unfold execVbfly
  simp (maxDischargeDepth := 30) [h0]
@[simp] theorem execDebugStopRequest_memOk {c : CoreId} {part : Nat} {s : State} (h0 : MemOk s) :
    ResOk (execDebugStopRequest c part s) := by
  unfold execDebugStopRequest
  simp (maxDischargeDepth := 30) [h0]
@[simp] theorem execDebugResume_memOk {c : CoreId} {part : Nat} {s : State} (h0 : MemOk s) :
    ResOk (execDebugResume c part s) := by
  unfold execDebugResume
  simp (maxDischargeDepth := 30) [h0]
@[simp] theorem execDebugHoldRelease_memOk {cd : Nat} {s : State} (h0 : MemOk s) :
    ResOk (execDebugHoldRelease cd s) := by
  unfold execDebugHoldRelease
  simp (maxDischargeDepth := 30) [h0]
@[simp] theorem execDebugRegisterAccess_memOk {w : WaveId} {reg : DbgReg} {value : BitVec 32} {s : State} (h0 : MemOk s) :
    ResOk (execDebugRegisterAccess w reg value s) := by
  unfold execDebugRegisterAccess
  try dsimp only
  (repeat' split) <;> simp (maxDischargeDepth := 30) [h0]
@[simp] theorem vectorExec_memOk {i : Instr} {s : State} (h0 : MemOk s) :
    OptResOk (vectorExec i s) := by
  unfold vectorExec
  try dsimp only
  (repeat' split) <;> simp (maxDischargeDepth := 30) [h0]
@[simp] theorem popFocus_gotOk {s : State} {w : Wave} (h0 : MemOk s) : GotOk (popFocus s w) := by
  unfold popFocus
  exact andThen_gotOk (fill_gotOk h0) fun _ => andThen_gotOk (settle_gotOk h0) fun _ => gotOk_ok
@[simp] theorem focusNeeds_memOk {α : Type} {s : State} {w : Wave} {g : Got α} (h0 : MemOk s) (hg : GotOk g) :
    MemOk (focusNeeds s w g) := by
  unfold focusNeeds
  split
  · exact gotOk_notYet.1 hg
  · exact startWalks_memOk h0
  · exact h0
@[simp] theorem execLaneFocusEnter_memOk {w : WaveId} {lane : Nat} {s : State} (h0 : MemOk s) :
    ResOk (execLaneFocusEnter w lane s) := by
  unfold execLaneFocusEnter
  try dsimp only
  (repeat' split) <;> simp (maxDischargeDepth := 30) [h0]
@[simp] theorem focusInstr_memOk {s : State} (h0 : MemOk s) :
    OptOk (focusInstr s) := by
  unfold focusInstr
  split
  · exact optOk_none
  · simp (maxDischargeDepth := 30) [h0]
  · simp (maxDischargeDepth := 30) [h0]
  · split
    · simp (maxDischargeDepth := 30) [h0]
    · exact optOk_none
    · rename_i i _ _
      dsimp only
      split
      · exact optOk_none
      · split
        · rename_i t ht
          exact optOk_some.2 (vectorExec_memOk (i := i) (fetched_memOk h0) _ ht)
        · exact optOk_none
@[simp] theorem execLaneFocusStep_memOk {w : WaveId} {s : State} (h0 : MemOk s) :
    ResOk (execLaneFocusStep w s) := by
  unfold execLaneFocusStep
  split
  · exact h0
  · split
    · exact h0
    · split
      · exact h0
      · rename_i v _ _ f _ _
        have hf : OptOk (focusInstr (focusOn s v)) := focusInstr_memOk (focusOn_memOk h0)
        split
        · exact reply_memOk h0
        · rename_i t ht
          have h2 : MemOk t := hf _ ht
          split
          · exact h2
          · exact h2
@[simp] theorem runDeferred_memOk {n : Nat} {s : State} (h0 : MemOk s) : MemOk (runDeferred n s).2 := by
  induction n generalizing s with
  | zero => exact h0
  | succ n ih =>
    unfold runDeferred
    split
    · exact h0
    · rename_i t ht
      have h2 : MemOk t := focusInstr_memOk h0 _ ht
      split
      · exact h2
      · exact ih h2
@[simp] theorem execLaneFocusLeave_memOk {w : WaveId} {s : State} (h0 : MemOk s) :
    ResOk (execLaneFocusLeave w s) := by
  unfold execLaneFocusLeave
  try dsimp only
  (repeat' split) <;> simp (maxDischargeDepth := 30) [h0]
@[simp] theorem execTracePageSeal_memOk {cd : Nat} {ctx : Nat} {s : State} (h0 : MemOk s) :
    ResOk (execTracePageSeal cd ctx s) := by
  unfold execTracePageSeal
  simp (maxDischargeDepth := 30) [h0]
@[simp] theorem writeRegister_memOk {s : State} {reg : MmioReg} {x : BitVec 64} (h0 : MemOk s) :
    MemOk (writeRegister s reg x) := by
  unfold writeRegister
  try dsimp only
  (repeat' split) <;> simp (maxDischargeDepth := 30) [h0]
@[simp] theorem execRegisterWrite_memOk {reg : MmioReg} {value : BitVec 64} {s : State} (h0 : MemOk s) :
    ResOk (execRegisterWrite reg value s) := by
  unfold execRegisterWrite
  simp (maxDischargeDepth := 30) [h0]
@[simp] theorem scalarOp_memOk {i : Instr} {d : SReg} {s : State} {f : WaveArch → Word} (h0 : MemOk s) :
    ResOk (scalarOp i d s f) := by
  unfold scalarOp
  simp (maxDischargeDepth := 30) [h0]
@[simp] theorem execSadd_memOk {d : SReg} {a : SReg} {b : SReg} {s : State} (h0 : MemOk s) :
    ResOk (execSadd d a b s) := by
  unfold execSadd
  simp (maxDischargeDepth := 30) [h0]
@[simp] theorem execSsub_memOk {d : SReg} {a : SReg} {b : SReg} {s : State} (h0 : MemOk s) :
    ResOk (execSsub d a b s) := by
  unfold execSsub
  simp (maxDischargeDepth := 30) [h0]
@[simp] theorem execSand_memOk {d : SReg} {a : SReg} {b : SReg} {s : State} (h0 : MemOk s) :
    ResOk (execSand d a b s) := by
  unfold execSand
  simp (maxDischargeDepth := 30) [h0]
@[simp] theorem execSor_memOk {d : SReg} {a : SReg} {b : SReg} {s : State} (h0 : MemOk s) :
    ResOk (execSor d a b s) := by
  unfold execSor
  simp (maxDischargeDepth := 30) [h0]
@[simp] theorem execSxor_memOk {d : SReg} {a : SReg} {b : SReg} {s : State} (h0 : MemOk s) :
    ResOk (execSxor d a b s) := by
  unfold execSxor
  simp (maxDischargeDepth := 30) [h0]
@[simp] theorem execSandn_memOk {d : SReg} {a : SReg} {b : SReg} {s : State} (h0 : MemOk s) :
    ResOk (execSandn d a b s) := by
  unfold execSandn
  simp (maxDischargeDepth := 30) [h0]
@[simp] theorem execSshl_memOk {d : SReg} {a : SReg} {b : SReg} {s : State} (h0 : MemOk s) :
    ResOk (execSshl d a b s) := by
  unfold execSshl
  simp (maxDischargeDepth := 30) [h0]
@[simp] theorem execSshr_memOk {d : SReg} {a : SReg} {b : SReg} {s : State} (h0 : MemOk s) :
    ResOk (execSshr d a b s) := by
  unfold execSshr
  simp (maxDischargeDepth := 30) [h0]
@[simp] theorem execSsar_memOk {d : SReg} {a : SReg} {b : SReg} {s : State} (h0 : MemOk s) :
    ResOk (execSsar d a b s) := by
  unfold execSsar
  simp (maxDischargeDepth := 30) [h0]
@[simp] theorem execSmul_memOk {d : SReg} {a : SReg} {b : SReg} {s : State} (h0 : MemOk s) :
    ResOk (execSmul d a b s) := by
  unfold execSmul
  simp (maxDischargeDepth := 30) [h0]
@[simp] theorem execSmulhs_memOk {d : SReg} {a : SReg} {b : SReg} {s : State} (h0 : MemOk s) :
    ResOk (execSmulhs d a b s) := by
  unfold execSmulhs
  simp (maxDischargeDepth := 30) [h0]
@[simp] theorem execSmulhu_memOk {d : SReg} {a : SReg} {b : SReg} {s : State} (h0 : MemOk s) :
    ResOk (execSmulhu d a b s) := by
  unfold execSmulhu
  simp (maxDischargeDepth := 30) [h0]
@[simp] theorem execSmin_memOk {d : SReg} {a : SReg} {b : SReg} {s : State} (h0 : MemOk s) :
    ResOk (execSmin d a b s) := by
  unfold execSmin
  simp (maxDischargeDepth := 30) [h0]
@[simp] theorem execSmax_memOk {d : SReg} {a : SReg} {b : SReg} {s : State} (h0 : MemOk s) :
    ResOk (execSmax d a b s) := by
  unfold execSmax
  simp (maxDischargeDepth := 30) [h0]
@[simp] theorem execSminu_memOk {d : SReg} {a : SReg} {b : SReg} {s : State} (h0 : MemOk s) :
    ResOk (execSminu d a b s) := by
  unfold execSminu
  simp (maxDischargeDepth := 30) [h0]
@[simp] theorem execSmaxu_memOk {d : SReg} {a : SReg} {b : SReg} {s : State} (h0 : MemOk s) :
    ResOk (execSmaxu d a b s) := by
  unfold execSmaxu
  simp (maxDischargeDepth := 30) [h0]
@[simp] theorem execSslt_memOk {d : SReg} {a : SReg} {b : SReg} {s : State} (h0 : MemOk s) :
    ResOk (execSslt d a b s) := by
  unfold execSslt
  simp (maxDischargeDepth := 30) [h0]
@[simp] theorem execSsltu_memOk {d : SReg} {a : SReg} {b : SReg} {s : State} (h0 : MemOk s) :
    ResOk (execSsltu d a b s) := by
  unfold execSsltu
  simp (maxDischargeDepth := 30) [h0]
@[simp] theorem execSseq_memOk {d : SReg} {a : SReg} {b : SReg} {s : State} (h0 : MemOk s) :
    ResOk (execSseq d a b s) := by
  unfold execSseq
  simp (maxDischargeDepth := 30) [h0]
@[simp] theorem execSclz_memOk {d : SReg} {a : SReg} {s : State} (h0 : MemOk s) :
    ResOk (execSclz d a s) := by
  unfold execSclz
  simp (maxDischargeDepth := 30) [h0]
@[simp] theorem execSpopc_memOk {d : SReg} {a : SReg} {s : State} (h0 : MemOk s) :
    ResOk (execSpopc d a s) := by
  unfold execSpopc
  simp (maxDischargeDepth := 30) [h0]
@[simp] theorem execSsext8_memOk {d : SReg} {a : SReg} {s : State} (h0 : MemOk s) :
    ResOk (execSsext8 d a s) := by
  unfold execSsext8
  simp (maxDischargeDepth := 30) [h0]
@[simp] theorem execSsext16_memOk {d : SReg} {a : SReg} {s : State} (h0 : MemOk s) :
    ResOk (execSsext16 d a s) := by
  unfold execSsext16
  simp (maxDischargeDepth := 30) [h0]
@[simp] theorem execSadd64_memOk {d : SReg} {a : SReg} {b : SReg} {s : State} (h0 : MemOk s) :
    ResOk (execSadd64 d a b s) := by
  unfold execSadd64
  simp (maxDischargeDepth := 30) [h0]
@[simp] theorem execSsub64_memOk {d : SReg} {a : SReg} {b : SReg} {s : State} (h0 : MemOk s) :
    ResOk (execSsub64 d a b s) := by
  unfold execSsub64
  simp (maxDischargeDepth := 30) [h0]
@[simp] theorem execSaddi_memOk {d : SReg} {a : SReg} {i : BitVec 14} {s : State} (h0 : MemOk s) :
    ResOk (execSaddi d a i s) := by
  unfold execSaddi
  simp (maxDischargeDepth := 30) [h0]
@[simp] theorem execSandi_memOk {d : SReg} {a : SReg} {i : BitVec 14} {s : State} (h0 : MemOk s) :
    ResOk (execSandi d a i s) := by
  unfold execSandi
  simp (maxDischargeDepth := 30) [h0]
@[simp] theorem execSori_memOk {d : SReg} {a : SReg} {i : BitVec 14} {s : State} (h0 : MemOk s) :
    ResOk (execSori d a i s) := by
  unfold execSori
  simp (maxDischargeDepth := 30) [h0]
@[simp] theorem execSxori_memOk {d : SReg} {a : SReg} {i : BitVec 14} {s : State} (h0 : MemOk s) :
    ResOk (execSxori d a i s) := by
  unfold execSxori
  simp (maxDischargeDepth := 30) [h0]
@[simp] theorem execSlui_memOk {d : SReg} {i : BitVec 20} {s : State} (h0 : MemOk s) :
    ResOk (execSlui d i s) := by
  unfold execSlui
  simp (maxDischargeDepth := 30) [h0]
@[simp] theorem execNop_memOk {s : State} (h0 : MemOk s) :
    ResOk (execNop s) := by
  unfold execNop
  simp (maxDischargeDepth := 30) [h0]
@[simp] theorem execExitW_memOk {s : State} (h0 : MemOk s) :
    ResOk (execExitW s) := by
  unfold execExitW
  simp (maxDischargeDepth := 30) +contextual [h0]
@[simp] theorem execWaitW_memOk {mask : BitVec 12} {s : State} (h0 : MemOk s) :
    ResOk (execWaitW mask s) := by
  unfold execWaitW
  simp (maxDischargeDepth := 30) +contextual [h0]
@[simp] theorem modeWrite_memOk {s : State} {sel : ModeSel} {x : Word} (h0 : MemOk s) :
    MemOk (modeWrite s sel x) := by
  unfold modeWrite
  try dsimp only
  (repeat' split) <;> simp (maxDischargeDepth := 30) [h0]
@[simp] theorem execSetmode_memOk {a : SReg} {sel : ModeSel} {s : State} (h0 : MemOk s) :
    ResOk (execSetmode a sel s) := by
  unfold execSetmode
  simp (maxDischargeDepth := 30) +contextual [h0]
@[simp] theorem execSetmodeM_memOk {a : SReg} {b : SReg} {sel : ModeSel} {s : State} (h0 : MemOk s) :
    ResOk (execSetmodeM a b sel s) := by
  unfold execSetmodeM
  simp (maxDischargeDepth := 30) +contextual [h0]
@[simp] theorem execGetmode_memOk {a : SReg} {sel : ModeSel} {s : State} (h0 : MemOk s) :
    ResOk (execGetmode a sel s) := by
  unfold execGetmode
  simp (maxDischargeDepth := 30) [h0]
@[simp] theorem execTrapW_memOk {n : BitVec 4} {s : State} (h0 : MemOk s) :
    ResOk (execTrapW n s) := by
  unfold execTrapW
  simp (maxDischargeDepth := 30) +contextual [h0]
@[simp] theorem execSleep_memOk {a : SReg} {s : State} (h0 : MemOk s) :
    ResOk (execSleep a s) := by
  unfold execSleep
  simp (maxDischargeDepth := 30) +contextual [h0]
@[simp] theorem exec_memOk {i : Instr} {s : State} (h0 : MemOk s) :
    ResOk (exec i s) := by
  unfold exec
  try dsimp only
  (repeat' split) <;> simp (maxDischargeDepth := 30) [h0]
@[simp] theorem memoryTestWrite_memOk {s : State} {pkg : Nat} {x : Nat} {d : BitVec 512} (h0 : MemOk s) :
    MemOk (memoryTestWrite s pkg x d) := by
  unfold memoryTestWrite
  try dsimp only
  (repeat' split) <;> simp (maxDischargeDepth := 30) [h0]
@[simp] theorem checkFails_memOk {s : State} {bs : List Byte} (h0 : MemOk s) :
    MemOk (checkFails s bs).2 := by
  unfold checkFails
  try dsimp only
  (repeat' split) <;> simp (maxDischargeDepth := 30) +contextual [h0]
@[simp] theorem countCorr_memOk {s : State} {cd : Nat} (h0 : MemOk s) :
    MemOk (countCorr s cd) := by
  unfold countCorr
  try dsimp only
  (repeat' split) <;> simp (maxDischargeDepth := 30) [h0]
@[simp] theorem poisonSec_memOk {s : State} {cd : Nat} {x : Nat} (h0 : MemOk s) :
    MemOk (poisonSec s cd x) := by
  unfold poisonSec
  try dsimp only
  (repeat' split) <;> simp (maxDischargeDepth := 30) [h0]
@[simp] theorem poisonHome_memOk {s : State} {x : Nat} (h0 : MemOk s) :
    MemOk (poisonHome s x) := by
  unfold poisonHome
  try dsimp only
  (repeat' split) <;> simp (maxDischargeDepth := 30) [h0]
@[simp] theorem cacheError_memOk {s : State} {cd : Nat} {x : Nat} (h0 : MemOk s) :
    MemOk (cacheError s cd x) := by
  unfold cacheError
  try dsimp only
  (repeat' split) <;> simp (maxDischargeDepth := 30) [h0]
@[simp] theorem sliceError_memOk {s : State} {md : Nat} {line : Nat} (h0 : MemOk s) :
    MemOk (sliceError s md line) := by
  unfold sliceError
  try dsimp only
  (repeat' split) <;> simp (maxDischargeDepth := 30) [h0]
@[simp] theorem anySector_memOk {md : Nat} {s : State} (h0 : MemOk s) :
    MemOk (anySector md s).2 := by
  unfold anySector
  try dsimp only
  (repeat' split) <;> simp (maxDischargeDepth := 30) [h0]
@[simp] theorem failLoad_memOk {s : State} {w : Wave} {o : Op} (h0 : MemOk s) :
    MemOk (failLoad s w o) := by
  unfold failLoad
  try dsimp only
  (repeat' split) <;> simp (maxDischargeDepth := 30) [h0]
@[simp] theorem checkWord_memOk {s : State} {x : Wave} {acc : LaneAcc} (h0 : MemOk s) : ResOk (match tryRead s x s.nextId [acc] with
    | .got vals none s =>
      let (bad, s) := checkFails s (bytesOf 4 ((vals.map (·.2)).headD 0))
      .next (if bad then killWave s x .poison (x.a.pc - 4) acc.oaddr x.a.trap else s)
    | _ => .next s) := by
  have hr := tryRead_memOk (w := x) (n := s.nextId) (xs := [acc]) h0
  split
  · rename_i he
    rw [he] at hr
    simp only [TryOk] at hr
    dsimp only
    split <;> simp (maxDischargeDepth := 30) [hr]
  · exact h0
@[simp] theorem poisonWord_memOk {s : State} {c : CoreId} {k : Nat} (h0 : MemOk s) :
    MemOk (poisonWord s c k) := by
  unfold poisonWord
  try dsimp only
  (repeat' split) <;> simp (maxDischargeDepth := 30) [h0]
@[simp] theorem ErrEvent_run_memOk {e : ErrEvent} {s : State} (h0 : MemOk s) :
    ResOk (ErrEvent.run e s) := by
  unfold ErrEvent.run
  split
  case h_16 =>
    split
    · exact h0
    · split
      · exact checkWord_memOk h0
      · exact h0
  all_goals try dsimp only
  all_goals (repeat' split) <;> simp (maxDischargeDepth := 30) [h0]
@[simp] theorem flipStep_memOk {md : Nat} {s : State} (h0 : MemOk s) :
    ResOk (flipStep md s) := by
  unfold flipStep
  simp (maxDischargeDepth := 30) [h0]
@[simp] theorem uncount_memOk {pkg far : Nat} {s : State} (h0 : MemOk s) :
    ResOk (uncount pkg far s) := by
  unfold uncount
  try dsimp only
  (repeat' split) <;> simp (maxDischargeDepth := 30) [h0]
@[simp] theorem nameReference_memOk {pkg : Nat} {s : State} (h0 : MemOk s) :
    ResOk (nameReference pkg s) := by
  unfold nameReference
  try dsimp only
  (repeat' split) <;> simp (maxDischargeDepth := 30) [h0]
@[simp] theorem Own_run_memOk {e : Own} {s : State} (h0 : MemOk s) :
    ResOk (Own.run e s) := by
  unfold Own.run
  try dsimp only
  (repeat' split) <;> simp (maxDischargeDepth := 30) [h0]
@[simp] theorem stepWave_memOk {s : State} (h0 : MemOk s) :
    OptResOk (stepWave s) := by
  unfold stepWave
  simp (maxDischargeDepth := 30) +contextual [h0]
@[simp] theorem stepEvent_memOk {s : State} (h0 : MemOk s) :
    OptResOk (stepEvent s) := by
  unfold stepEvent
  intro r hr
  cases he : nextEvent s with
  | none => rw [he] at hr; cases hr
  | some e =>
    rw [he] at hr
    injection hr with hr
    subst hr
    exact wakeStalled_memOk (Own_run_memOk h0)
theorem getD_resOk {o : Option Res} {r : Res} (h : OptResOk o) (h0 : ResOk r) : ResOk (o.getD r) := by
  cases o with
  | none => exact h0
  | some a => exact h a rfl
theorem orElse_resOk {o : Option Res} {f : Unit → Option Res} (h : OptResOk o) (h1 : OptResOk (f ())) : OptResOk (o.orElse f) := by
  cases o with
  | none => exact h1
  | some a => exact h
@[simp] theorem step_memOk {s : State} (h0 : MemOk s) :
    ResOk (step s) := by
  have hx : ∀ i t, MemOk t → ResOk (exec i t) := fun _ _ h => exec_memOk h
  unfold step
  split
  · exact settled_memOk hx (wakeStalled_memOk (exec_memOk h0))
  · split <;> exact settled_memOk hx (getD_resOk (orElse_resOk (by simp [h0]) (by simp [h0])) h0)
@[simp] theorem State_withFetchWord_memOk {s : State} {nbits : Nat} {w : Nat} (h0 : MemOk s) :
    MemOk (State.withFetchWord s nbits w) := by
  unfold State.withFetchWord
  simp (maxDischargeDepth := 30) [h0]

end Sys2Proof.Machine
end

