-- ==== Sys2Proof/Laws/PerInstr.lean ====
section
/-! SUPPORT. One lemma per constructor of Instr: the round trip of its encoding. -/

namespace Sys2Proof.Laws.RoundTrip
open Sys2Proof Sys2Proof.Laws

/-- The decoder reads a well-formed instruction back from its word. -/
def Statement (i : Instr) : Prop := wellFormed i = true → ∀ w, encode i = some w → decode w = .ok i


theorem sadd (d : SReg) (a : SReg) (b : SReg) : Statement (.sadd d a b) := by
  intro _ w h
  injection h with h
  subst h
  simp [-BitVec.reduceAppend, decode, majorOf, parse01]
theorem ssub (d : SReg) (a : SReg) (b : SReg) : Statement (.ssub d a b) := by
  intro _ w h
  injection h with h
  subst h
  simp [-BitVec.reduceAppend, decode, majorOf, parse01]
theorem sand (d : SReg) (a : SReg) (b : SReg) : Statement (.sand d a b) := by
  intro _ w h
  injection h with h
  subst h
  simp [-BitVec.reduceAppend, decode, majorOf, parse01]
theorem sor (d : SReg) (a : SReg) (b : SReg) : Statement (.sor d a b) := by
  intro _ w h
  injection h with h
  subst h
  simp [-BitVec.reduceAppend, decode, majorOf, parse01]
theorem sxor (d : SReg) (a : SReg) (b : SReg) : Statement (.sxor d a b) := by
  intro _ w h
  injection h with h
  subst h
  simp [-BitVec.reduceAppend, decode, majorOf, parse01]
theorem sandn (d : SReg) (a : SReg) (b : SReg) : Statement (.sandn d a b) := by
  intro _ w h
  injection h with h
  subst h
  simp [-BitVec.reduceAppend, decode, majorOf, parse01]
theorem sshl (d : SReg) (a : SReg) (b : SReg) : Statement (.sshl d a b) := by
  intro _ w h
  injection h with h
  subst h
  simp [-BitVec.reduceAppend, decode, majorOf, parse01]
theorem sshr (d : SReg) (a : SReg) (b : SReg) : Statement (.sshr d a b) := by
  intro _ w h
  injection h with h
  subst h
  simp [-BitVec.reduceAppend, decode, majorOf, parse01]
theorem ssar (d : SReg) (a : SReg) (b : SReg) : Statement (.ssar d a b) := by
  intro _ w h
  injection h with h
  subst h
  simp [-BitVec.reduceAppend, decode, majorOf, parse01]
theorem smul (d : SReg) (a : SReg) (b : SReg) : Statement (.smul d a b) := by
  intro _ w h
  injection h with h
  subst h
  simp [-BitVec.reduceAppend, decode, majorOf, parse01]
theorem smulhs (d : SReg) (a : SReg) (b : SReg) : Statement (.smulhs d a b) := by
  intro _ w h
  injection h with h
  subst h
  simp [-BitVec.reduceAppend, decode, majorOf, parse01]
theorem smulhu (d : SReg) (a : SReg) (b : SReg) : Statement (.smulhu d a b) := by
  intro _ w h
  injection h with h
  subst h
  simp [-BitVec.reduceAppend, decode, majorOf, parse01]
theorem smin (d : SReg) (a : SReg) (b : SReg) : Statement (.smin d a b) := by
  intro _ w h
  injection h with h
  subst h
  simp [-BitVec.reduceAppend, decode, majorOf, parse01]
theorem smax (d : SReg) (a : SReg) (b : SReg) : Statement (.smax d a b) := by
  intro _ w h
  injection h with h
  subst h
  simp [-BitVec.reduceAppend, decode, majorOf, parse01]
theorem sminu (d : SReg) (a : SReg) (b : SReg) : Statement (.sminu d a b) := by
  intro _ w h
  injection h with h
  subst h
  simp [-BitVec.reduceAppend, decode, majorOf, parse01]
theorem smaxu (d : SReg) (a : SReg) (b : SReg) : Statement (.smaxu d a b) := by
  intro _ w h
  injection h with h
  subst h
  simp [-BitVec.reduceAppend, decode, majorOf, parse01]
theorem sslt (d : SReg) (a : SReg) (b : SReg) : Statement (.sslt d a b) := by
  intro _ w h
  injection h with h
  subst h
  simp [-BitVec.reduceAppend, decode, majorOf, parse01]
theorem ssltu (d : SReg) (a : SReg) (b : SReg) : Statement (.ssltu d a b) := by
  intro _ w h
  injection h with h
  subst h
  simp [-BitVec.reduceAppend, decode, majorOf, parse01]
theorem sseq (d : SReg) (a : SReg) (b : SReg) : Statement (.sseq d a b) := by
  intro _ w h
  injection h with h
  subst h
  simp [-BitVec.reduceAppend, decode, majorOf, parse01]
theorem sclz (d : SReg) (a : SReg) : Statement (.sclz d a) := by
  intro _ w h
  injection h with h
  subst h
  simp [-BitVec.reduceAppend, decode, majorOf, parse01]
theorem spopc (d : SReg) (a : SReg) : Statement (.spopc d a) := by
  intro _ w h
  injection h with h
  subst h
  simp [-BitVec.reduceAppend, decode, majorOf, parse01]
theorem ssext8 (d : SReg) (a : SReg) : Statement (.ssext8 d a) := by
  intro _ w h
  injection h with h
  subst h
  simp [-BitVec.reduceAppend, decode, majorOf, parse01]
theorem ssext16 (d : SReg) (a : SReg) : Statement (.ssext16 d a) := by
  intro _ w h
  injection h with h
  subst h
  simp [-BitVec.reduceAppend, decode, majorOf, parse01]
theorem sadd64 (d : SReg) (a : SReg) (b : SReg) : Statement (.sadd64 d a b) := by
  intro _ w h
  injection h with h
  subst h
  simp [-BitVec.reduceAppend, decode, majorOf, parse01]
theorem ssub64 (d : SReg) (a : SReg) (b : SReg) : Statement (.ssub64 d a b) := by
  intro _ w h
  injection h with h
  subst h
  simp [-BitVec.reduceAppend, decode, majorOf, parse01]
theorem saddi (d : SReg) (a : SReg) (i : BitVec 14) : Statement (.saddi d a i) := by
  intro _ w h
  injection h with h
  subst h
  simp [-BitVec.reduceAppend, decode, majorOf, parse02]
theorem sandi (d : SReg) (a : SReg) (i : BitVec 14) : Statement (.sandi d a i) := by
  intro _ w h
  injection h with h
  subst h
  simp [-BitVec.reduceAppend, decode, majorOf, parse03]
theorem sori (d : SReg) (a : SReg) (i : BitVec 14) : Statement (.sori d a i) := by
  intro _ w h
  injection h with h
  subst h
  simp [-BitVec.reduceAppend, decode, majorOf, parse04]
theorem sxori (d : SReg) (a : SReg) (i : BitVec 14) : Statement (.sxori d a i) := by
  intro _ w h
  injection h with h
  subst h
  simp [-BitVec.reduceAppend, decode, majorOf, parse05]
theorem sld (d : SReg) (a : SReg) (i : BitVec 14) : Statement (.sld d a i) := by
  intro _ w h
  injection h with h
  subst h
  simp [-BitVec.reduceAppend, decode, majorOf, parse06]
theorem slui (d : SReg) (i : BitVec 20) : Statement (.slui d i) := by
  intro _ w h
  injection h with h
  subst h
  simp [-BitVec.reduceAppend, decode, majorOf, parse07]
theorem sst (d : SReg) (a : SReg) (i : BitVec 14) : Statement (.sst d a i) := by
  intro _ w h
  injection h with h
  subst h
  simp [-BitVec.reduceAppend, decode, majorOf, parse0E]
theorem bz (c : SReg) (o : BitVec 16) : Statement (.bz c o) := by
  intro _ w h
  injection h with h
  subst h
  simp [-BitVec.reduceAppend, decode, majorOf, parse08]
theorem bnz (c : SReg) (o : BitVec 16) : Statement (.bnz c o) := by
  intro _ w h
  injection h with h
  subst h
  simp [-BitVec.reduceAppend, decode, majorOf, parse08]
theorem bltz (c : SReg) (o : BitVec 16) : Statement (.bltz c o) := by
  intro _ w h
  injection h with h
  subst h
  simp [-BitVec.reduceAppend, decode, majorOf, parse08]
theorem bgez (c : SReg) (o : BitVec 16) : Statement (.bgez c o) := by
  intro _ w h
  injection h with h
  subst h
  simp [-BitVec.reduceAppend, decode, majorOf, parse08]
theorem bgtz (c : SReg) (o : BitVec 16) : Statement (.bgtz c o) := by
  intro _ w h
  injection h with h
  subst h
  simp [-BitVec.reduceAppend, decode, majorOf, parse08]
theorem blez (c : SReg) (o : BitVec 16) : Statement (.blez c o) := by
  intro _ w h
  injection h with h
  subst h
  simp [-BitVec.reduceAppend, decode, majorOf, parse08]
theorem bany (c : SReg) (o : BitVec 16) : Statement (.bany c o) := by
  intro _ w h
  injection h with h
  subst h
  simp [-BitVec.reduceAppend, decode, majorOf, parse09]
theorem ball (c : SReg) (o : BitVec 16) : Statement (.ball c o) := by
  intro _ w h
  injection h with h
  subst h
  simp [-BitVec.reduceAppend, decode, majorOf, parse09]
theorem bnone (c : SReg) (o : BitVec 16) : Statement (.bnone c o) := by
  intro _ w h
  injection h with h
  subst h
  simp [-BitVec.reduceAppend, decode, majorOf, parse09]
theorem split (c : SReg) (o : BitVec 16) : Statement (.split c o) := by
  intro _ w h
  injection h with h
  subst h
  simp [-BitVec.reduceAppend, decode, majorOf, parse0A]
theorem elseW (o : BitVec 16) : Statement (.elseW o) := by
  intro _ w h
  injection h with h
  subst h
  simp [-BitVec.reduceAppend, decode, majorOf, parse0A]
theorem merge  : Statement (.merge) := by
  intro _ w h
  injection h with h
  subst h
  simp [-BitVec.reduceAppend, decode, majorOf, parse0A]
theorem breakv (c : SReg) (o : BitVec 16) : Statement (.breakv c o) := by
  intro hw w h
  injection h with h
  subst h
  have hc : c ≠ 63#6 := by rintro rfl; simp [wellFormed, Machine.formOf, operandsOk, tripleOk] at hw
  simp [-BitVec.reduceAppend, decode, majorOf, parse0A, hc]
theorem breakvOpen (o : BitVec 16) : Statement (.breakvOpen o) := by
  intro _ w h
  injection h with h
  subst h
  simp [-BitVec.reduceAppend, decode, majorOf, parse0A]
theorem contv (c : SReg) (o : BitVec 16) : Statement (.contv c o) := by
  intro _ w h
  injection h with h
  subst h
  simp [-BitVec.reduceAppend, decode, majorOf, parse0A]
theorem branch (o : BitVec 16) : Statement (.branch o) := by
  intro _ w h
  injection h with h
  subst h
  simp [-BitVec.reduceAppend, decode, majorOf, parse0B]
theorem call (c : SReg) (o : BitVec 16) : Statement (.call c o) := by
  intro _ w h
  injection h with h
  subst h
  simp [-BitVec.reduceAppend, decode, majorOf, parse0B]
theorem nop  : Statement (.nop) := by
  intro _ w h
  injection h with h
  subst h
  simp [-BitVec.reduceAppend, decode, majorOf, parse0C]
theorem ret (a : SReg) : Statement (.ret a) := by
  intro _ w h
  injection h with h
  subst h
  simp [-BitVec.reduceAppend, decode, majorOf, parse0C]
theorem exitW  : Statement (.exitW) := by
  intro _ w h
  injection h with h
  subst h
  simp [-BitVec.reduceAppend, decode, majorOf, parse0C]
theorem exitv (a : SReg) : Statement (.exitv a) := by
  intro _ w h
  injection h with h
  subst h
  simp [-BitVec.reduceAppend, decode, majorOf, parse0C]
theorem waitW (mask : BitVec 12) : Statement (.waitW mask) := by
  intro _ w h
  injection h with h
  subst h
  simp [-BitVec.reduceAppend, decode, majorOf, parse0C]
theorem setmode (a : SReg) (sel : ModeSel) : Statement (.setmode a sel) := by
  intro _ w h
  injection h with h
  subst h
  simp [-BitVec.reduceAppend, decode, majorOf, parse0C, allocated]
theorem setmodeM (a : SReg) (b : SReg) (sel : ModeSel) : Statement (.setmodeM a b sel) := by
  intro _ w h
  injection h with h
  subst h
  simp [-BitVec.reduceAppend, decode, majorOf, parse0C, allocated]
theorem getmode (a : SReg) (sel : ModeSel) : Statement (.getmode a sel) := by
  intro _ w h
  injection h with h
  subst h
  simp [-BitVec.reduceAppend, decode, majorOf, parse0C, allocated]
theorem trapW (n : BitVec 4) : Statement (.trapW n) := by
  intro _ w h
  injection h with h
  subst h
  simp [-BitVec.reduceAppend, decode, majorOf, parse0C]
theorem sleep (a : SReg) : Statement (.sleep a) := by
  intro _ w h
  injection h with h
  subst h
  simp [-BitVec.reduceAppend, decode, majorOf, parse0C]
theorem mand (d : SReg) (a : SReg) (b : SReg) : Statement (.mand d a b) := by
  intro _ w h
  injection h with h
  subst h
  simp [-BitVec.reduceAppend, decode, majorOf, parse0D]
theorem mor (d : SReg) (a : SReg) (b : SReg) : Statement (.mor d a b) := by
  intro _ w h
  injection h with h
  subst h
  simp [-BitVec.reduceAppend, decode, majorOf, parse0D]
theorem mxor (d : SReg) (a : SReg) (b : SReg) : Statement (.mxor d a b) := by
  intro _ w h
  injection h with h
  subst h
  simp [-BitVec.reduceAppend, decode, majorOf, parse0D]
theorem mandn (d : SReg) (a : SReg) (b : SReg) : Statement (.mandn d a b) := by
  intro _ w h
  injection h with h
  subst h
  simp [-BitVec.reduceAppend, decode, majorOf, parse0D]
theorem mnot (d : SReg) (a : SReg) : Statement (.mnot d a) := by
  intro _ w h
  injection h with h
  subst h
  simp [-BitVec.reduceAppend, decode, majorOf, parse0D]
theorem mset (d : SReg) : Statement (.mset d) := by
  intro _ w h
  injection h with h
  subst h
  simp [-BitVec.reduceAppend, decode, majorOf, parse0D]
theorem mclr (d : SReg) : Statement (.mclr d) := by
  intro _ w h
  injection h with h
  subst h
  simp [-BitVec.reduceAppend, decode, majorOf, parse0D]
theorem mcnt (d : SReg) (a : SReg) : Statement (.mcnt d a) := by
  intro _ w h
  injection h with h
  subst h
  simp [-BitVec.reduceAppend, decode, majorOf, parse0D]
theorem mfirst (d : SReg) (a : SReg) : Statement (.mfirst d a) := by
  intro _ w h
  injection h with h
  subst h
  simp [-BitVec.reduceAppend, decode, majorOf, parse0D]
theorem mlane (d : SReg) (a : SReg) : Statement (.mlane d a) := by
  intro _ w h
  injection h with h
  subst h
  simp [-BitVec.reduceAppend, decode, majorOf, parse0D]
theorem sysr (a : SReg) (num : BitVec 10) : Statement (.sysr a num) := by
  intro _ w h
  injection h with h
  subst h
  simp [-BitVec.reduceAppend, decode, majorOf, parse3F]
theorem sysw (a : SReg) (num : BitVec 10) : Statement (.sysw a num) := by
  intro _ w h
  injection h with h
  subst h
  simp [-BitVec.reduceAppend, decode, majorOf, parse3F]
theorem eret  : Statement (.eret) := by
  intro _ w h
  injection h with h
  subst h
  simp [-BitVec.reduceAppend, decode, majorOf, parse3F]
theorem cacheopInvx (a : SReg) : Statement (.cacheopInvx a) := by
  intro _ w h
  injection h with h
  subst h
  simp [-BitVec.reduceAppend, decode, majorOf, parse3F]
theorem cacheopWb (a : SReg) : Statement (.cacheopWb a) := by
  intro _ w h
  injection h with h
  subst h
  simp [-BitVec.reduceAppend, decode, majorOf, parse3F]
theorem cacheopWbinv (a : SReg) : Statement (.cacheopWbinv a) := by
  intro _ w h
  injection h with h
  subst h
  simp [-BitVec.reduceAppend, decode, majorOf, parse3F]
theorem dbgbrk (n : BitVec 4) : Statement (.dbgbrk n) := by
  intro _ w h
  injection h with h
  subst h
  simp [-BitVec.reduceAppend, decode, majorOf, parse3F]
theorem keywipeAll  : Statement (.keywipeAll) := by
  intro _ w h
  injection h with h
  subst h
  simp [-BitVec.reduceAppend, decode, majorOf, parse3F]
theorem keywipeContext  : Statement (.keywipeContext) := by
  intro _ w h
  injection h with h
  subst h
  simp [-BitVec.reduceAppend, decode, majorOf, parse3F]
theorem halt  : Statement (.halt) := by
  intro _ w h
  injection h with h
  subst h
  simp [-BitVec.reduceAppend, decode, majorOf, parse3F]
theorem iadd (d : VSel) (a : VSel) (b : VSel) : Statement (.iadd d a b) := by
  intro _ w h
  injection h with h
  subst h
  simp [-BitVec.reduceAppend, decode, majorOf, parse10]
theorem isub (d : VSel) (a : VSel) (b : VSel) : Statement (.isub d a b) := by
  intro _ w h
  injection h with h
  subst h
  simp [-BitVec.reduceAppend, decode, majorOf, parse10]
theorem imul (d : VSel) (a : VSel) (b : VSel) : Statement (.imul d a b) := by
  intro _ w h
  injection h with h
  subst h
  simp [-BitVec.reduceAppend, decode, majorOf, parse10]
theorem imulh (d : VSel) (a : VSel) (b : VSel) : Statement (.imulh d a b) := by
  intro _ w h
  injection h with h
  subst h
  simp [-BitVec.reduceAppend, decode, majorOf, parse10]
theorem imad (d : VSel) (a : VSel) (b : VSel) : Statement (.imad d a b) := by
  intro _ w h
  injection h with h
  subst h
  simp [-BitVec.reduceAppend, decode, majorOf, parse11]
theorem imin (d : VSel) (a : VSel) (b : VSel) : Statement (.imin d a b) := by
  intro _ w h
  injection h with h
  subst h
  simp [-BitVec.reduceAppend, decode, majorOf, parse11]
theorem imax (d : VSel) (a : VSel) (b : VSel) : Statement (.imax d a b) := by
  intro _ w h
  injection h with h
  subst h
  simp [-BitVec.reduceAppend, decode, majorOf, parse11]
theorem iabsd (d : VSel) (a : VSel) (b : VSel) : Statement (.iabsd d a b) := by
  intro _ w h
  injection h with h
  subst h
  simp [-BitVec.reduceAppend, decode, majorOf, parse11]
theorem vand (d : VSel) (a : VSel) (b : VSel) : Statement (.vand d a b) := by
  intro _ w h
  injection h with h
  subst h
  simp [-BitVec.reduceAppend, decode, majorOf, parse12]
theorem vor (d : VSel) (a : VSel) (b : VSel) : Statement (.vor d a b) := by
  intro _ w h
  injection h with h
  subst h
  simp [-BitVec.reduceAppend, decode, majorOf, parse12]
theorem vxor (d : VSel) (a : VSel) (b : VSel) : Statement (.vxor d a b) := by
  intro _ w h
  injection h with h
  subst h
  simp [-BitVec.reduceAppend, decode, majorOf, parse12]
theorem vandn (d : VSel) (a : VSel) (b : VSel) : Statement (.vandn d a b) := by
  intro _ w h
  injection h with h
  subst h
  simp [-BitVec.reduceAppend, decode, majorOf, parse12]
theorem shl (d : VSel) (a : VSel) (b : VSel) : Statement (.shl d a b) := by
  intro _ w h
  injection h with h
  subst h
  simp [-BitVec.reduceAppend, decode, majorOf, parse13]
theorem shr (d : VSel) (a : VSel) (b : VSel) : Statement (.shr d a b) := by
  intro _ w h
  injection h with h
  subst h
  simp [-BitVec.reduceAppend, decode, majorOf, parse13]
theorem sar (d : VSel) (a : VSel) (b : VSel) : Statement (.sar d a b) := by
  intro _ w h
  injection h with h
  subst h
  simp [-BitVec.reduceAppend, decode, majorOf, parse13]
theorem irot (d : VSel) (a : VSel) (b : VSel) : Statement (.irot d a b) := by
  intro _ w h
  injection h with h
  subst h
  simp [-BitVec.reduceAppend, decode, majorOf, parse13]
theorem idp (d : VSel) (a : VSel) (b : VSel) : Statement (.idp d a b) := by
  intro _ w h
  injection h with h
  subst h
  simp [-BitVec.reduceAppend, decode, majorOf, parse14]
theorem icmp (o : CmpComb) (c : IcmpCc) (k : BitVec 5) (a : VSel) (b : VSel) : Statement (.icmp o c k a b) := by
  intro _ w h
  injection h with h
  subst h
  simp [-BitVec.reduceAppend, decode, majorOf, parse1C, allocated]
theorem fcmp (o : CmpComb) (c : FcmpCc) (k : BitVec 5) (a : VSel) (b : VSel) : Statement (.fcmp o c k a b) := by
  intro _ w h
  injection h with h
  subst h
  simp [-BitVec.reduceAppend, decode, majorOf, parse1D, allocated]
theorem fadd (d : VSel) (a : VSel) (b : VSel) : Statement (.fadd d a b) := by
  intro _ w h
  injection h with h
  subst h
  simp [-BitVec.reduceAppend, decode, majorOf, parse1E]
theorem fsub (d : VSel) (a : VSel) (b : VSel) : Statement (.fsub d a b) := by
  intro _ w h
  injection h with h
  subst h
  simp [-BitVec.reduceAppend, decode, majorOf, parse1E]
theorem fmul (d : VSel) (a : VSel) (b : VSel) : Statement (.fmul d a b) := by
  intro _ w h
  injection h with h
  subst h
  simp [-BitVec.reduceAppend, decode, majorOf, parse1E]
theorem fmin (d : VSel) (a : VSel) (b : VSel) : Statement (.fmin d a b) := by
  intro _ w h
  injection h with h
  subst h
  simp [-BitVec.reduceAppend, decode, majorOf, parse1E]
theorem fmax (d : VSel) (a : VSel) (b : VSel) : Statement (.fmax d a b) := by
  intro _ w h
  injection h with h
  subst h
  simp [-BitVec.reduceAppend, decode, majorOf, parse1F]
theorem fminp (d : VSel) (a : VSel) (b : VSel) : Statement (.fminp d a b) := by
  intro _ w h
  injection h with h
  subst h
  simp [-BitVec.reduceAppend, decode, majorOf, parse1F]
theorem fmaxp (d : VSel) (a : VSel) (b : VSel) : Statement (.fmaxp d a b) := by
  intro _ w h
  injection h with h
  subst h
  simp [-BitVec.reduceAppend, decode, majorOf, parse1F]
theorem ffma (d : VSel) (a : VSel) (b : VSel) : Statement (.ffma d a b) := by
  intro _ w h
  injection h with h
  subst h
  simp [-BitVec.reduceAppend, decode, majorOf, parse20]
theorem ffms (d : VSel) (a : VSel) (b : VSel) : Statement (.ffms d a b) := by
  intro _ w h
  injection h with h
  subst h
  simp [-BitVec.reduceAppend, decode, majorOf, parse20]
theorem ffnma (d : VSel) (a : VSel) (b : VSel) : Statement (.ffnma d a b) := by
  intro _ w h
  injection h with h
  subst h
  simp [-BitVec.reduceAppend, decode, majorOf, parse20]
theorem ffnms (d : VSel) (a : VSel) (b : VSel) : Statement (.ffnms d a b) := by
  intro _ w h
  injection h with h
  subst h
  simp [-BitVec.reduceAppend, decode, majorOf, parse20]
theorem fdp2 (d : VSel) (a : VSel) (b : VSel) : Statement (.fdp2 d a b) := by
  intro _ w h
  injection h with h
  subst h
  simp [-BitVec.reduceAppend, decode, majorOf, parse21]
theorem ineg (d : VSel) (a : VSel) : Statement (.ineg d a) := by
  intro _ w h
  injection h with h
  subst h
  simp [-BitVec.reduceAppend, decode, majorOf, parse28]
theorem iabs (d : VSel) (a : VSel) : Statement (.iabs d a) := by
  intro _ w h
  injection h with h
  subst h
  simp [-BitVec.reduceAppend, decode, majorOf, parse28]
theorem vnot (d : VSel) (a : VSel) : Statement (.vnot d a) := by
  intro _ w h
  injection h with h
  subst h
  simp [-BitVec.reduceAppend, decode, majorOf, parse28]
theorem popc (d : VSel) (a : VSel) : Statement (.popc d a) := by
  intro _ w h
  injection h with h
  subst h
  simp [-BitVec.reduceAppend, decode, majorOf, parse28]
theorem clz (d : VSel) (a : VSel) : Statement (.clz d a) := by
  intro _ w h
  injection h with h
  subst h
  simp [-BitVec.reduceAppend, decode, majorOf, parse28]
theorem brev (d : VSel) (a : VSel) : Statement (.brev d a) := by
  intro _ w h
  injection h with h
  subst h
  simp [-BitVec.reduceAppend, decode, majorOf, parse28]
theorem fneg (d : VSel) (a : VSel) : Statement (.fneg d a) := by
  intro _ w h
  injection h with h
  subst h
  simp [-BitVec.reduceAppend, decode, majorOf, parse28]
theorem fabs (d : VSel) (a : VSel) : Statement (.fabs d a) := by
  intro _ w h
  injection h with h
  subst h
  simp [-BitVec.reduceAppend, decode, majorOf, parse28]
theorem ffloor (d : VSel) (a : VSel) : Statement (.ffloor d a) := by
  intro _ w h
  injection h with h
  subst h
  simp [-BitVec.reduceAppend, decode, majorOf, parse28]
theorem fceil (d : VSel) (a : VSel) : Statement (.fceil d a) := by
  intro _ w h
  injection h with h
  subst h
  simp [-BitVec.reduceAppend, decode, majorOf, parse28]
theorem ftrunc (d : VSel) (a : VSel) : Statement (.ftrunc d a) := by
  intro _ w h
  injection h with h
  subst h
  simp [-BitVec.reduceAppend, decode, majorOf, parse28]
theorem frnd (d : VSel) (a : VSel) : Statement (.frnd d a) := by
  intro _ w h
  injection h with h
  subst h
  simp [-BitVec.reduceAppend, decode, majorOf, parse28]
theorem cvt (d : VSel) (p : BitVec 3) (t : EType) (a : VSel) : Statement (.cvt d p t a) := by
  intro _ w h
  injection h with h
  subst h
  simp [-BitVec.reduceAppend, decode, majorOf, parse28, allocated]
theorem vsplat (d : VSel) (a : SReg) : Statement (.vsplat d a) := by
  intro _ w h
  injection h with h
  subst h
  simp [-BitVec.reduceAppend, decode, majorOf, parse29]
theorem vlaneid (d : VSel) : Statement (.vlaneid d) := by
  intro _ w h
  injection h with h
  subst h
  simp [-BitVec.reduceAppend, decode, majorOf, parse29]
theorem vmask (d : VSel) (a : VSel) : Statement (.vmask d a) := by
  intro _ w h
  injection h with h
  subst h
  simp [-BitVec.reduceAppend, decode, majorOf, parse29]
theorem vperm (d : VSel) (a : VSel) (i : VSel) : Statement (.vperm d a i) := by
  intro _ w h
  injection h with h
  subst h
  simp [-BitVec.reduceAppend, decode, majorOf, parse2A]
theorem vbcst (d : VSel) (a : VSel) (i : VSel) : Statement (.vbcst d a i) := by
  intro _ w h
  injection h with h
  subst h
  simp [-BitVec.reduceAppend, decode, majorOf, parse2A]
theorem vshf (d : VSel) (a : VSel) (i : VSel) : Statement (.vshf d a i) := by
  intro _ w h
  injection h with h
  subst h
  simp [-BitVec.reduceAppend, decode, majorOf, parse2A]
theorem vbfly (d : VSel) (a : VSel) (i : VSel) : Statement (.vbfly d a i) := by
  intro _ w h
  injection h with h
  subst h
  simp [-BitVec.reduceAppend, decode, majorOf, parse2A]
theorem mov (d : VSel) (a : VSel) : Statement (.mov d a) := by
  intro _ w h
  injection h with h
  subst h
  simp [-BitVec.reduceAppend, decode, majorOf, parse2B]
theorem sel (d : VSel) (a : VSel) (b : VSel) : Statement (.sel d a b) := by
  intro _ w h
  injection h with h
  subst h
  simp [-BitVec.reduceAppend, decode, majorOf, parse2B]
theorem vrdl (d : SReg) (a : VSel) (b : SReg) : Statement (.vrdl d a b) := by
  intro _ w h
  injection h with h
  subst h
  simp [-BitVec.reduceAppend, decode, majorOf, parse2B]
theorem vwrl (d : VSel) (a : SReg) (b : SReg) : Statement (.vwrl d a b) := by
  intro _ w h
  injection h with h
  subst h
  simp [-BitVec.reduceAppend, decode, majorOf, parse2B]
theorem idiv (d : VSel) (a : WReg) (b : WReg) (fl : FlagN) (la : LaN) : Statement (.idiv d a b fl la) := by
  intro _ w h
  injection h with h
  subst h
  simp [-BitVec.reduceAppend, decode, majorOf, parse2C]
theorem irem (d : VSel) (a : WReg) (b : WReg) (fl : FlagN) (la : LaN) : Statement (.irem d a b fl la) := by
  intro _ w h
  injection h with h
  subst h
  simp [-BitVec.reduceAppend, decode, majorOf, parse2C]
theorem fdiv (d : VSel) (a : WReg) (b : WReg) (fl : FlagN) (la : LaN) : Statement (.fdiv d a b fl la) := by
  intro _ w h
  injection h with h
  subst h
  simp [-BitVec.reduceAppend, decode, majorOf, parse2C]
theorem fsqrt (d : VSel) (a : WReg) (fl : FlagN) (la : LaN) : Statement (.fsqrt d a fl la) := by
  intro _ w h
  injection h with h
  subst h
  simp [-BitVec.reduceAppend, decode, majorOf, parse2C]
theorem frcp (d : VSel) (a : WReg) (fl : FlagN) (la : LaN) : Statement (.frcp d a fl la) := by
  intro _ w h
  injection h with h
  subst h
  simp [-BitVec.reduceAppend, decode, majorOf, parse2C]
theorem frsq (d : VSel) (a : WReg) (fl : FlagN) (la : LaN) : Statement (.frsq d a fl la) := by
  intro _ w h
  injection h with h
  subst h
  simp [-BitVec.reduceAppend, decode, majorOf, parse2C]
theorem fexp2 (d : VSel) (a : WReg) (fl : FlagN) (la : LaN) : Statement (.fexp2 d a fl la) := by
  intro _ w h
  injection h with h
  subst h
  simp [-BitVec.reduceAppend, decode, majorOf, parse2D]
theorem flog2 (d : VSel) (a : WReg) (fl : FlagN) (la : LaN) : Statement (.flog2 d a fl la) := by
  intro _ w h
  injection h with h
  subst h
  simp [-BitVec.reduceAppend, decode, majorOf, parse2D]
theorem fsinpi (d : VSel) (a : WReg) (fl : FlagN) (la : LaN) : Statement (.fsinpi d a fl la) := by
  intro _ w h
  injection h with h
  subst h
  simp [-BitVec.reduceAppend, decode, majorOf, parse2D]
theorem fcospi (d : VSel) (a : WReg) (fl : FlagN) (la : LaN) : Statement (.fcospi d a fl la) := by
  intro _ w h
  injection h with h
  subst h
  simp [-BitVec.reduceAppend, decode, majorOf, parse2D]
theorem ftanh (d : VSel) (a : WReg) (fl : FlagN) (la : LaN) : Statement (.ftanh d a fl la) := by
  intro _ w h
  injection h with h
  subst h
  simp [-BitVec.reduceAppend, decode, majorOf, parse2D]
theorem rsum (d : VSel) (a : WReg) (fl : FlagN) (la : LaN) : Statement (.rsum d a fl la) := by
  intro _ w h
  injection h with h
  subst h
  simp [-BitVec.reduceAppend, decode, majorOf, parse2D]
theorem rmin (d : VSel) (a : WReg) (fl : FlagN) (la : LaN) : Statement (.rmin d a fl la) := by
  intro _ w h
  injection h with h
  subst h
  simp [-BitVec.reduceAppend, decode, majorOf, parse2D]
theorem rmax (d : VSel) (a : WReg) (fl : FlagN) (la : LaN) : Statement (.rmax d a fl la) := by
  intro _ w h
  injection h with h
  subst h
  simp [-BitVec.reduceAppend, decode, majorOf, parse2D]
theorem rand (d : VSel) (a : WReg) (fl : FlagN) (la : LaN) : Statement (.rand d a fl la) := by
  intro _ w h
  injection h with h
  subst h
  simp [-BitVec.reduceAppend, decode, majorOf, parse2D]
theorem ror (d : VSel) (a : WReg) (fl : FlagN) (la : LaN) : Statement (.ror d a fl la) := by
  intro _ w h
  injection h with h
  subst h
  simp [-BitVec.reduceAppend, decode, majorOf, parse2D]
theorem rxor (d : VSel) (a : WReg) (fl : FlagN) (la : LaN) : Statement (.rxor d a fl la) := by
  intro _ w h
  injection h with h
  subst h
  simp [-BitVec.reduceAppend, decode, majorOf, parse2D]
theorem ld8u (d : VSel) (w : WReg) (tx : TxSel) (fl : FlagN) (la : LaN) : Statement (.ld8u d w tx fl la) := by
  intro _ w h
  injection h with h
  subst h
  simp [-BitVec.reduceAppend, decode, majorOf, parse30]
theorem ld8s (d : VSel) (w : WReg) (tx : TxSel) (fl : FlagN) (la : LaN) : Statement (.ld8s d w tx fl la) := by
  intro _ w h
  injection h with h
  subst h
  simp [-BitVec.reduceAppend, decode, majorOf, parse30]
theorem ld16u (d : VSel) (w : WReg) (tx : TxSel) (fl : FlagN) (la : LaN) : Statement (.ld16u d w tx fl la) := by
  intro _ w h
  injection h with h
  subst h
  simp [-BitVec.reduceAppend, decode, majorOf, parse30]
theorem ld16s (d : VSel) (w : WReg) (tx : TxSel) (fl : FlagN) (la : LaN) : Statement (.ld16s d w tx fl la) := by
  intro _ w h
  injection h with h
  subst h
  simp [-BitVec.reduceAppend, decode, majorOf, parse30]
theorem ld32 (d : VSel) (w : WReg) (tx : TxSel) (fl : FlagN) (la : LaN) : Statement (.ld32 d w tx fl la) := by
  intro _ w h
  injection h with h
  subst h
  simp [-BitVec.reduceAppend, decode, majorOf, parse30]
theorem ld64 (d : VSel) (w : WReg) (tx : TxSel) (fl : FlagN) (la : LaN) : Statement (.ld64 d w tx fl la) := by
  intro _ w h
  injection h with h
  subst h
  simp [-BitVec.reduceAppend, decode, majorOf, parse30]
theorem ld128 (d : VSel) (w : WReg) (tx : TxSel) (fl : FlagN) (la : LaN) : Statement (.ld128 d w tx fl la) := by
  intro _ w h
  injection h with h
  subst h
  simp [-BitVec.reduceAppend, decode, majorOf, parse30]
theorem ld8uAcq (d : VSel) (w : WReg) (tx : TxSel) (fl : FlagN) (la : LaN) : Statement (.ld8uAcq d w tx fl la) := by
  intro _ w h
  injection h with h
  subst h
  simp [-BitVec.reduceAppend, decode, majorOf, parse31]
theorem ld8sAcq (d : VSel) (w : WReg) (tx : TxSel) (fl : FlagN) (la : LaN) : Statement (.ld8sAcq d w tx fl la) := by
  intro _ w h
  injection h with h
  subst h
  simp [-BitVec.reduceAppend, decode, majorOf, parse31]
theorem ld16uAcq (d : VSel) (w : WReg) (tx : TxSel) (fl : FlagN) (la : LaN) : Statement (.ld16uAcq d w tx fl la) := by
  intro _ w h
  injection h with h
  subst h
  simp [-BitVec.reduceAppend, decode, majorOf, parse31]
theorem ld16sAcq (d : VSel) (w : WReg) (tx : TxSel) (fl : FlagN) (la : LaN) : Statement (.ld16sAcq d w tx fl la) := by
  intro _ w h
  injection h with h
  subst h
  simp [-BitVec.reduceAppend, decode, majorOf, parse31]
theorem ld32Acq (d : VSel) (w : WReg) (tx : TxSel) (fl : FlagN) (la : LaN) : Statement (.ld32Acq d w tx fl la) := by
  intro _ w h
  injection h with h
  subst h
  simp [-BitVec.reduceAppend, decode, majorOf, parse31]
theorem ld64Acq (d : VSel) (w : WReg) (tx : TxSel) (fl : FlagN) (la : LaN) : Statement (.ld64Acq d w tx fl la) := by
  intro _ w h
  injection h with h
  subst h
  simp [-BitVec.reduceAppend, decode, majorOf, parse31]
theorem ld128Acq (d : VSel) (w : WReg) (tx : TxSel) (fl : FlagN) (la : LaN) : Statement (.ld128Acq d w tx fl la) := by
  intro _ w h
  injection h with h
  subst h
  simp [-BitVec.reduceAppend, decode, majorOf, parse31]
theorem st8 (d : VSel) (w : WReg) (tx : TxSel) (fl : FlagN) (la : LaN) : Statement (.st8 d w tx fl la) := by
  intro _ w h
  injection h with h
  subst h
  simp [-BitVec.reduceAppend, decode, majorOf, parse32]
theorem st16 (d : VSel) (w : WReg) (tx : TxSel) (fl : FlagN) (la : LaN) : Statement (.st16 d w tx fl la) := by
  intro _ w h
  injection h with h
  subst h
  simp [-BitVec.reduceAppend, decode, majorOf, parse32]
theorem st32 (d : VSel) (w : WReg) (tx : TxSel) (fl : FlagN) (la : LaN) : Statement (.st32 d w tx fl la) := by
  intro _ w h
  injection h with h
  subst h
  simp [-BitVec.reduceAppend, decode, majorOf, parse32]
theorem st64 (d : VSel) (w : WReg) (tx : TxSel) (fl : FlagN) (la : LaN) : Statement (.st64 d w tx fl la) := by
  intro _ w h
  injection h with h
  subst h
  simp [-BitVec.reduceAppend, decode, majorOf, parse32]
theorem st128 (d : VSel) (w : WReg) (tx : TxSel) (fl : FlagN) (la : LaN) : Statement (.st128 d w tx fl la) := by
  intro _ w h
  injection h with h
  subst h
  simp [-BitVec.reduceAppend, decode, majorOf, parse32]
theorem st8Rel (d : VSel) (w : WReg) (tx : TxSel) (fl : FlagN) (la : LaN) : Statement (.st8Rel d w tx fl la) := by
  intro _ w h
  injection h with h
  subst h
  simp [-BitVec.reduceAppend, decode, majorOf, parse33]
theorem st16Rel (d : VSel) (w : WReg) (tx : TxSel) (fl : FlagN) (la : LaN) : Statement (.st16Rel d w tx fl la) := by
  intro _ w h
  injection h with h
  subst h
  simp [-BitVec.reduceAppend, decode, majorOf, parse33]
theorem st32Rel (d : VSel) (w : WReg) (tx : TxSel) (fl : FlagN) (la : LaN) : Statement (.st32Rel d w tx fl la) := by
  intro _ w h
  injection h with h
  subst h
  simp [-BitVec.reduceAppend, decode, majorOf, parse33]
theorem st64Rel (d : VSel) (w : WReg) (tx : TxSel) (fl : FlagN) (la : LaN) : Statement (.st64Rel d w tx fl la) := by
  intro _ w h
  injection h with h
  subst h
  simp [-BitVec.reduceAppend, decode, majorOf, parse33]
theorem st128Rel (d : VSel) (w : WReg) (tx : TxSel) (fl : FlagN) (la : LaN) : Statement (.st128Rel d w tx fl la) := by
  intro _ w h
  injection h with h
  subst h
  simp [-BitVec.reduceAppend, decode, majorOf, parse33]
theorem atomAdd (d : VSel) (w : WReg) (tx : TxSel) (fl : FlagN) (la : LaN) : Statement (.atomAdd d w tx fl la) := by
  intro _ w h
  injection h with h
  subst h
  simp [-BitVec.reduceAppend, decode, majorOf, parse34]
theorem atomAnd (d : VSel) (w : WReg) (tx : TxSel) (fl : FlagN) (la : LaN) : Statement (.atomAnd d w tx fl la) := by
  intro _ w h
  injection h with h
  subst h
  simp [-BitVec.reduceAppend, decode, majorOf, parse34]
theorem atomOr (d : VSel) (w : WReg) (tx : TxSel) (fl : FlagN) (la : LaN) : Statement (.atomOr d w tx fl la) := by
  intro _ w h
  injection h with h
  subst h
  simp [-BitVec.reduceAppend, decode, majorOf, parse34]
theorem atomXor (d : VSel) (w : WReg) (tx : TxSel) (fl : FlagN) (la : LaN) : Statement (.atomXor d w tx fl la) := by
  intro _ w h
  injection h with h
  subst h
  simp [-BitVec.reduceAppend, decode, majorOf, parse34]
theorem atomMin (d : VSel) (w : WReg) (tx : TxSel) (fl : FlagN) (la : LaN) : Statement (.atomMin d w tx fl la) := by
  intro _ w h
  injection h with h
  subst h
  simp [-BitVec.reduceAppend, decode, majorOf, parse34]
theorem atomMax (d : VSel) (w : WReg) (tx : TxSel) (fl : FlagN) (la : LaN) : Statement (.atomMax d w tx fl la) := by
  intro _ w h
  injection h with h
  subst h
  simp [-BitVec.reduceAppend, decode, majorOf, parse34]
theorem atomMinu (d : VSel) (w : WReg) (tx : TxSel) (fl : FlagN) (la : LaN) : Statement (.atomMinu d w tx fl la) := by
  intro _ w h
  injection h with h
  subst h
  simp [-BitVec.reduceAppend, decode, majorOf, parse34]
theorem atomMaxu (d : VSel) (w : WReg) (tx : TxSel) (fl : FlagN) (la : LaN) : Statement (.atomMaxu d w tx fl la) := by
  intro _ w h
  injection h with h
  subst h
  simp [-BitVec.reduceAppend, decode, majorOf, parse34]
theorem atomSwap (d : VSel) (w : WReg) (tx : TxSel) (fl : FlagN) (la : LaN) : Statement (.atomSwap d w tx fl la) := by
  intro _ w h
  injection h with h
  subst h
  simp [-BitVec.reduceAppend, decode, majorOf, parse34]
theorem atomCas (d : VSel) (w : WReg) (tx : TxSel) (fl : FlagN) (la : LaN) : Statement (.atomCas d w tx fl la) := by
  intro _ w h
  injection h with h
  subst h
  simp [-BitVec.reduceAppend, decode, majorOf, parse34]
theorem atomFadd (d : VSel) (w : WReg) (tx : TxSel) (fl : FlagN) (la : LaN) : Statement (.atomFadd d w tx fl la) := by
  intro _ w h
  injection h with h
  subst h
  simp [-BitVec.reduceAppend, decode, majorOf, parse34]
theorem atomAdd64 (d : VSel) (w : WReg) (tx : TxSel) (fl : FlagN) (la : LaN) : Statement (.atomAdd64 d w tx fl la) := by
  intro _ w h
  injection h with h
  subst h
  simp [-BitVec.reduceAppend, decode, majorOf, parse34]
theorem atomSwap64 (d : VSel) (w : WReg) (tx : TxSel) (fl : FlagN) (la : LaN) : Statement (.atomSwap64 d w tx fl la) := by
  intro _ w h
  injection h with h
  subst h
  simp [-BitVec.reduceAppend, decode, majorOf, parse34]
theorem atomCas64 (d : VSel) (w : WReg) (tx : TxSel) (fl : FlagN) (la : LaN) : Statement (.atomCas64 d w tx fl la) := by
  intro _ w h
  injection h with h
  subst h
  simp [-BitVec.reduceAppend, decode, majorOf, parse34]
theorem atomInc (d : VSel) (w : WReg) (tx : TxSel) (fl : FlagN) (la : LaN) : Statement (.atomInc d w tx fl la) := by
  intro _ w h
  injection h with h
  subst h
  simp [-BitVec.reduceAppend, decode, majorOf, parse34]
theorem atomArAdd (o : AtomOrd) (d : VSel) (w : WReg) (tx : TxSel) (fl : FlagN) (la : LaN) : Statement (.atomArAdd o d w tx fl la) := by
  intro _ w h
  injection h with h
  subst h
  simp [-BitVec.reduceAppend, decode, majorOf, parse35, allocated]
theorem atomArSwap (o : AtomOrd) (d : VSel) (w : WReg) (tx : TxSel) (fl : FlagN) (la : LaN) : Statement (.atomArSwap o d w tx fl la) := by
  intro _ w h
  injection h with h
  subst h
  simp [-BitVec.reduceAppend, decode, majorOf, parse35, allocated]
theorem atomArCas (o : AtomOrd) (d : VSel) (w : WReg) (tx : TxSel) (fl : FlagN) (la : LaN) : Statement (.atomArCas o d w tx fl la) := by
  intro _ w h
  injection h with h
  subst h
  simp [-BitVec.reduceAppend, decode, majorOf, parse35, allocated]
theorem atomArCas64 (o : AtomOrd) (d : VSel) (w : WReg) (tx : TxSel) (fl : FlagN) (la : LaN) : Statement (.atomArCas64 o d w tx fl la) := by
  intro _ w h
  injection h with h
  subst h
  simp [-BitVec.reduceAppend, decode, majorOf, parse35, allocated]
theorem mcst (a : SReg) (fl : FlagN) (la : LaN) : Statement (.mcst a fl la) := by
  intro _ w h
  injection h with h
  subst h
  simp [-BitVec.reduceAppend, decode, majorOf, parse36]
theorem redst (a : SReg) (o : RedOp) (fl : FlagN) (la : LaN) : Statement (.redst a o fl la) := by
  intro _ w h
  injection h with h
  subst h
  simp [-BitVec.reduceAppend, decode, majorOf, parse36, allocated]
theorem bulkrd (a : SReg) (b : SReg) (fl : FlagN) (la : LaN) : Statement (.bulkrd a b fl la) := by
  intro _ w h
  injection h with h
  subst h
  simp [-BitVec.reduceAppend, decode, majorOf, parse38]
theorem copy (a : SReg) (b : SReg) (fl : FlagN) (la : LaN) : Statement (.copy a b fl la) := by
  intro _ w h
  injection h with h
  subst h
  simp [-BitVec.reduceAppend, decode, majorOf, parse39]
theorem copymc (a : SReg) (b : SReg) (fl : FlagN) (la : LaN) : Statement (.copymc a b fl la) := by
  intro _ w h
  injection h with h
  subst h
  simp [-BitVec.reduceAppend, decode, majorOf, parse39]
theorem nmopFill (a : SReg) (fl : FlagN) (la : LaN) : Statement (.nmopFill a fl la) := by
  intro _ w h
  injection h with h
  subst h
  simp [-BitVec.reduceAppend, decode, majorOf, parse3A]
theorem nmopCopy (a : SReg) (fl : FlagN) (la : LaN) : Statement (.nmopCopy a fl la) := by
  intro _ w h
  injection h with h
  subst h
  simp [-BitVec.reduceAppend, decode, majorOf, parse3A]
theorem nmopCmp (a : SReg) (fl : FlagN) (la : LaN) : Statement (.nmopCmp a fl la) := by
  intro _ w h
  injection h with h
  subst h
  simp [-BitVec.reduceAppend, decode, majorOf, parse3A]
theorem nmopRed (a : SReg) (o : RedOp) (fl : FlagN) (la : LaN) : Statement (.nmopRed a o fl la) := by
  intro _ w h
  injection h with h
  subst h
  simp [-BitVec.reduceAppend, decode, majorOf, parse3A, allocated]
theorem xlat (a : SReg) (n : TxN) : Statement (.xlat a n) := by
  intro _ w h
  injection h with h
  subst h
  simp [-BitVec.reduceAppend, decode, majorOf, parse3B, allocated]
theorem layreg (a : SReg) (d : SReg) : Statement (.layreg a d) := by
  intro _ w h
  injection h with h
  subst h
  simp [-BitVec.reduceAppend, decode, majorOf, parse3B]
theorem layrel (a : SReg) : Statement (.layrel a) := by
  intro _ w h
  injection h with h
  subst h
  simp [-BitVec.reduceAppend, decode, majorOf, parse3B]
theorem publ (a : SReg) (b : SReg) : Statement (.publ a b) := by
  intro _ w h
  injection h with h
  subst h
  simp [-BitVec.reduceAppend, decode, majorOf, parse3B]
theorem fenceAcq (sc : Scope) : Statement (.fenceAcq sc) := by
  intro _ w h
  injection h with h
  subst h
  simp [-BitVec.reduceAppend, decode, majorOf, parse3C, allocated]
theorem fenceRel (sc : Scope) : Statement (.fenceRel sc) := by
  intro _ w h
  injection h with h
  subst h
  simp [-BitVec.reduceAppend, decode, majorOf, parse3C, allocated]
theorem fenceAr (sc : Scope) : Statement (.fenceAr sc) := by
  intro _ w h
  injection h with h
  subst h
  simp [-BitVec.reduceAppend, decode, majorOf, parse3C, allocated]
theorem fenceSc (sc : Scope) : Statement (.fenceSc sc) := by
  intro _ w h
  injection h with h
  subst h
  simp [-BitVec.reduceAppend, decode, majorOf, parse3C, allocated]
theorem bar (a : SReg) (d : SReg) (n : Bar4) : Statement (.bar a d n) := by
  intro _ w h
  injection h with h
  subst h
  simp [-BitVec.reduceAppend, decode, majorOf, parse3C, allocated]
theorem barr (a : SReg) (n : Bar4) : Statement (.barr a n) := by
  intro _ w h
  injection h with h
  subst h
  simp [-BitVec.reduceAppend, decode, majorOf, parse3C, allocated]
theorem gjoin (a : SReg) (d : SReg) (g : GScope) : Statement (.gjoin a d g) := by
  intro _ w h
  injection h with h
  subst h
  simp [-BitVec.reduceAppend, decode, majorOf, parse3C, allocated]
theorem gleave  : Statement (.gleave) := by
  intro _ w h
  injection h with h
  subst h
  simp [-BitVec.reduceAppend, decode, majorOf, parse3C]
theorem ginfo (d : SReg) (s : GinfoSel) : Statement (.ginfo d s) := by
  intro _ w h
  injection h with h
  subst h
  simp [-BitVec.reduceAppend, decode, majorOf, parse3C, allocated]
theorem waita (a : SReg) (d : SReg) (c : WaitCond) : Statement (.waita a d c) := by
  intro _ w h
  injection h with h
  subst h
  simp [-BitVec.reduceAppend, decode, majorOf, parse3C, allocated]
theorem mwait (a : SReg) (d : SReg) : Statement (.mwait a d) := by
  intro _ w h
  injection h with h
  subst h
  simp [-BitVec.reduceAppend, decode, majorOf, parse3C]
theorem dist (a : SReg) (d : SReg) : Statement (.dist a d) := by
  intro _ w h
  injection h with h
  subst h
  simp [-BitVec.reduceAppend, decode, majorOf, parse3C]
theorem lnch (a : SReg) (d : SReg) : Statement (.lnch a d) := by
  intro _ w h
  injection h with h
  subst h
  simp [-BitVec.reduceAppend, decode, majorOf, parse3C]
theorem msetm (a : SReg) (fl : FlagN) (la : LaN) : Statement (.msetm a fl la) := by
  intro _ w h
  injection h with h
  subst h
  simp [-BitVec.reduceAppend, decode, majorOf, parse3D]
theorem mcb (k : BitVec 3) (a : SReg) (fl : FlagN) (la : LaN) : Statement (.mcb k a fl la) := by
  intro _ w h
  injection h with h
  subst h
  simp [-BitVec.reduceAppend, decode, majorOf, parse3D]
theorem mld (a : SReg) (p : BitVec 2) (fl : FlagN) (la : LaN) : Statement (.mld a p fl la) := by
  intro _ w h
  injection h with h
  subst h
  simp [-BitVec.reduceAppend, decode, majorOf, parse3D]
theorem mldsw (a : SReg) (p : BitVec 2) (fl : FlagN) (la : LaN) : Statement (.mldsw a p fl la) := by
  intro _ w h
  injection h with h
  subst h
  simp [-BitVec.reduceAppend, decode, majorOf, parse3D]
theorem mldsa (a : SReg) (p : BitVec 2) (fl : FlagN) (la : LaN) : Statement (.mldsa a p fl la) := by
  intro _ w h
  injection h with h
  subst h
  simp [-BitVec.reduceAppend, decode, majorOf, parse3D]
theorem mldc (c : BitVec 4) (a : SReg) (p : BitVec 2) (fl : FlagN) (la : LaN) : Statement (.mldc c a p fl la) := by
  intro _ w h
  injection h with h
  subst h
  simp [-BitVec.reduceAppend, decode, majorOf, parse3D]
theorem mstc (c : BitVec 4) (a : SReg) (p : BitVec 2) (fl : FlagN) (la : LaN) : Statement (.mstc c a p fl la) := by
  intro _ w h
  injection h with h
  subst h
  simp [-BitVec.reduceAppend, decode, majorOf, parse3D]
theorem mzero (c : BitVec 4) (fl : FlagN) (la : LaN) : Statement (.mzero c fl la) := by
  intro _ w h
  injection h with h
  subst h
  simp [-BitVec.reduceAppend, decode, majorOf, parse3D]
theorem mstr (c : BitVec 4) (a : SReg) (fl : FlagN) (la : LaN) : Statement (.mstr c a fl la) := by
  intro _ w h
  injection h with h
  subst h
  simp [-BitVec.reduceAppend, decode, majorOf, parse3D]
theorem mstrs (c : BitVec 4) (a : SReg) (fl : FlagN) (la : LaN) : Statement (.mstrs c a fl la) := by
  intro _ w h
  injection h with h
  subst h
  simp [-BitVec.reduceAppend, decode, majorOf, parse3D]
theorem mstrx (c : BitVec 4) (a : SReg) (fl : FlagN) (la : LaN) : Statement (.mstrx c a fl la) := by
  intro _ w h
  injection h with h
  subst h
  simp [-BitVec.reduceAppend, decode, majorOf, parse3D]
theorem mrdc (c : BitVec 4) (a : SReg) (fl : FlagN) (la : LaN) : Statement (.mrdc c a fl la) := by
  intro _ w h
  injection h with h
  subst h
  simp [-BitVec.reduceAppend, decode, majorOf, parse3D]
theorem mwrc (c : BitVec 4) (a : SReg) (fl : FlagN) (la : LaN) : Statement (.mwrc c a fl la) := by
  intro _ w h
  injection h with h
  subst h
  simp [-BitVec.reduceAppend, decode, majorOf, parse3D]
theorem msync (fl : FlagN) (la : LaN) : Statement (.msync fl la) := by
  intro _ w h
  injection h with h
  subst h
  simp [-BitVec.reduceAppend, decode, majorOf, parse3D]
theorem vlCompletion (x0 : WaveId) (x1 : Nat) : Statement (.vlCompletion x0 x1) := fun _ _ h => nomatch h
theorem migrationWaitRetry (x0 : WaveId) : Statement (.migrationWaitRetry x0) := fun _ _ h => nomatch h
theorem loadCompletion (x0 : WaveId) (x1 : Nat) : Statement (.loadCompletion x0 x1) := fun _ _ h => nomatch h
theorem atomicCompletion (x0 : WaveId) (x1 : Nat) (x2 : List Nat) : Statement (.atomicCompletion x0 x1 x2) := fun _ _ h => nomatch h
theorem collectiveCompletion (x0 : WaveId) (x1 : Nat) : Statement (.collectiveCompletion x0 x1) := fun _ _ h => nomatch h
theorem engineBurstIssue (x0 : CoreId) (x1 : Nat) : Statement (.engineBurstIssue x0 x1) := fun _ _ h => nomatch h
theorem burstReturn (x0 : CoreId) (x1 : Nat) (x2 : Nat) : Statement (.burstReturn x0 x1 x2) := fun _ _ h => nomatch h
theorem lastBurstEvent (x0 : CoreId) (x1 : Nat) : Statement (.lastBurstEvent x0 x1) := fun _ _ h => nomatch h
theorem handlerDrainLimit (x0 : WaveId) : Statement (.handlerDrainLimit x0) := fun _ _ h => nomatch h
theorem nmopPiece (x0 : Nat) : Statement (.nmopPiece x0) := fun _ _ h => nomatch h
theorem nmopCompletion (x0 : CoreId) (x1 : Nat) : Statement (.nmopCompletion x0 x1) := fun _ _ h => nomatch h
theorem groupEventArrival (x0 : Nat) : Statement (.groupEventArrival x0) := fun _ _ h => nomatch h
theorem waitaReread (x0 : WaveId) : Statement (.waitaReread x0) := fun _ _ h => nomatch h
theorem waitaTimeout (x0 : WaveId) : Statement (.waitaTimeout x0) := fun _ _ h => nomatch h
theorem monitorWake (x0 : Nat) (x1 : Nat) : Statement (.monitorWake x0 x1) := fun _ _ h => nomatch h
theorem mwaitTimeout (x0 : WaveId) : Statement (.mwaitTimeout x0) := fun _ _ h => nomatch h
theorem sleepExpiry (x0 : WaveId) : Statement (.sleepExpiry x0) := fun _ _ h => nomatch h
theorem tileTaskStart (x0 : CoreId) (x1 : Nat) : Statement (.tileTaskStart x0 x1) := fun _ _ h => nomatch h
theorem tileTaskCompletion (x0 : CoreId) (x1 : Nat) : Statement (.tileTaskCompletion x0 x1) := fun _ _ h => nomatch h
theorem rdreq (x0 : Nat) : Statement (.rdreq x0) := fun _ _ h => nomatch h
theorem wrreq (x0 : Nat) : Statement (.wrreq x0) := fun _ _ h => nomatch h
theorem tok (x0 : Nat) : Statement (.tok x0) := fun _ _ h => nomatch h
theorem trumpreq (x0 : Nat) : Statement (.trumpreq x0) := fun _ _ h => nomatch h
theorem act (x0 : Nat) : Statement (.act x0) := fun _ _ h => nomatch h
theorem deact (x0 : Nat) : Statement (.deact x0) := fun _ _ h => nomatch h
theorem gathered (x0 : Nat) : Statement (.gathered x0) := fun _ _ h => nomatch h
theorem release (x0 : Nat) : Statement (.release x0) := fun _ _ h => nomatch h
theorem coherenceAck (x0 : Nat) : Statement (.coherenceAck x0) := fun _ _ h => nomatch h
theorem census (x0 : Nat) : Statement (.census x0) := fun _ _ h => nomatch h
theorem report (x0 : Nat) : Statement (.report x0) := fun _ _ h => nomatch h
theorem late (x0 : Nat) : Statement (.late x0) := fun _ _ h => nomatch h
theorem rebuild (x0 : Nat) : Statement (.rebuild x0) := fun _ _ h => nomatch h
theorem wakepend (x0 : Nat) : Statement (.wakepend x0) := fun _ _ h => nomatch h
theorem holdreply (x0 : Nat) : Statement (.holdreply x0) := fun _ _ h => nomatch h
theorem reissueTimerExpiry (x0 : Nat) (x1 : Nat) : Statement (.reissueTimerExpiry x0 x1) := fun _ _ h => nomatch h
theorem censusTimeExpiry (x0 : Nat) : Statement (.censusTimeExpiry x0) := fun _ _ h => nomatch h
theorem settleTimeExpiry (x0 : Nat) : Statement (.settleTimeExpiry x0) := fun _ _ h => nomatch h
theorem wakeBudgetExpiry (x0 : Nat) (x1 : Nat) : Statement (.wakeBudgetExpiry x0 x1) := fun _ _ h => nomatch h
theorem linkResponseTimeout (x0 : Nat) (x1 : Nat) : Statement (.linkResponseTimeout x0 x1) := fun _ _ h => nomatch h
theorem dieAdmission (x0 : Nat) : Statement (.dieAdmission x0) := fun _ _ h => nomatch h
theorem messageBufferTimeout (x0 : Nat) : Statement (.messageBufferTimeout x0) := fun _ _ h => nomatch h
theorem flitCrcFailure (x0 : Nat) : Statement (.flitCrcFailure x0) := fun _ _ h => nomatch h
theorem laneSparing (x0 : Nat) (x1 : Nat) : Statement (.laneSparing x0 x1) := fun _ _ h => nomatch h
theorem linkTeardown (x0 : Nat) (x1 : Nat) : Statement (.linkTeardown x0 x1) := fun _ _ h => nomatch h
theorem translationInvalidation (x0 : Nat) (x1 : Nat) : Statement (.translationInvalidation x0 x1) := fun _ _ h => nomatch h
theorem invalidationAck (x0 : Nat) (x1 : Nat) : Statement (.invalidationAck x0 x1) := fun _ _ h => nomatch h
theorem driverInvalidation (x0 : Nat) (x1 : Nat) (x2 : BitVec 64) : Statement (.driverInvalidation x0 x1 x2) := fun _ _ h => nomatch h
theorem wcAgeDrain (x0 : CoreId) (x1 : Nat) : Statement (.wcAgeDrain x0 x1) := fun _ _ h => nomatch h
theorem wcDrainAck (x0 : CoreId) (x1 : Nat) : Statement (.wcDrainAck x0 x1) := fun _ _ h => nomatch h
theorem commitWindowClose (x0 : WaveId) : Statement (.commitWindowClose x0) := fun _ _ h => nomatch h
theorem strikeReport (x0 : Nat) (x1 : Nat) : Statement (.strikeReport x0 x1) := fun _ _ h => nomatch h
theorem waveSwap (x0 : WaveId) : Statement (.waveSwap x0) := fun _ _ h => nomatch h
theorem trapEntry (x0 : WaveId) : Statement (.trapEntry x0) := fun _ _ h => nomatch h
theorem faultLogAppend (x0 : Nat) : Statement (.faultLogAppend x0) := fun _ _ h => nomatch h
theorem waveKill (x0 : WaveId) (x1 : Cause) : Statement (.waveKill x0 x1) := fun _ _ h => nomatch h
theorem preemptionRaise (x0 : Nat) (x1 : Nat) (x2 : Nat) : Statement (.preemptionRaise x0 x1 x2) := fun _ _ h => nomatch h
theorem preemptTrap (x0 : WaveId) : Statement (.preemptTrap x0) := fun _ _ h => nomatch h
theorem blockFree (x0 : BlockId) : Statement (.blockFree x0) := fun _ _ h => nomatch h
theorem blockResumption (x0 : BlockId) (x1 : Nat) (x2 : List Nat) (x3 : Nat) : Statement (.blockResumption x0 x1 x2 x3) := fun _ _ h => nomatch h
theorem blockRetirement (x0 : BlockId) : Statement (.blockRetirement x0) := fun _ _ h => nomatch h
theorem retirementMessage (x0 : Nat) : Statement (.retirementMessage x0) := fun _ _ h => nomatch h
theorem launchEnd (x0 : Nat) : Statement (.launchEnd x0) := fun _ _ h => nomatch h
theorem qptrDoorbell (x0 : Nat) (x1 : Nat) (x2 : BitVec 16) : Statement (.qptrDoorbell x0 x1 x2) := fun _ _ h => nomatch h
theorem recordTake (x0 : Nat) (x1 : Nat) : Statement (.recordTake x0 x1) := fun _ _ h => nomatch h
theorem dependenceReread (x0 : Nat) (x1 : Nat) : Statement (.dependenceReread x0 x1) := fun _ _ h => nomatch h
theorem priorityAging (x0 : Nat) (x1 : Nat) : Statement (.priorityAging x0 x1) := fun _ _ h => nomatch h
theorem blockPlacement (x0 : Nat) (x1 : Nat) (x2 : List Nat) (x3 : Nat) : Statement (.blockPlacement x0 x1 x2 x3) := fun _ _ h => nomatch h
theorem ctxActivate (x0 : Nat) (x1 : Nat) : Statement (.ctxActivate x0 x1) := fun _ _ h => nomatch h
theorem ctxUpdate (x0 : Nat) (x1 : Nat) : Statement (.ctxUpdate x0 x1) := fun _ _ h => nomatch h
theorem ctxRetire (x0 : Nat) (x1 : Nat) : Statement (.ctxRetire x0 x1) := fun _ _ h => nomatch h
theorem ldrLoad (x0 : Nat) : Statement (.ldrLoad x0) := fun _ _ h => nomatch h
theorem ldrUnload (x0 : Nat) (x1 : Nat) : Statement (.ldrUnload x0 x1) := fun _ _ h => nomatch h
theorem migcmdMove (x0 : Nat) (x1 : BitVec 64) : Statement (.migcmdMove x0 x1) := fun _ _ h => nomatch h
theorem migrationSectorMoved (x0 : Nat) : Statement (.migrationSectorMoved x0) := fun _ _ h => nomatch h
theorem hotctlEnable (x0 : Nat) (x1 : BitVec 32) : Statement (.hotctlEnable x0 x1) := fun _ _ h => nomatch h
theorem hotnessIntervalEnd (x0 : Nat) : Statement (.hotnessIntervalEnd x0) := fun _ _ h => nomatch h
theorem cohctlPclr (x0 : Nat) : Statement (.cohctlPclr x0) := fun _ _ h => nomatch h
theorem biasFlipToHost (x0 : Nat) (x1 : BitVec 64) : Statement (.biasFlipToHost x0 x1) := fun _ _ h => nomatch h
theorem biasFlipToDevice (x0 : Nat) (x1 : BitVec 64) : Statement (.biasFlipToDevice x0 x1) := fun _ _ h => nomatch h
theorem cxlMemrd (x0 : Nat) (x1 : Nat) (x2 : Nat) (x3 : CxlReq) : Statement (.cxlMemrd x0 x1 x2 x3) := fun _ _ h => nomatch h
theorem cxlMemwr (x0 : Nat) (x1 : Nat) (x2 : Nat) (x3 : BitVec 512) : Statement (.cxlMemwr x0 x1 x2 x3) := fun _ _ h => nomatch h
theorem birsp (x0 : Nat) (x1 : Option (BitVec 512)) : Statement (.birsp x0 x1) := fun _ _ h => nomatch h
theorem hostLinkDown (x0 : Nat) (x1 : Nat) : Statement (.hostLinkDown x0 x1) := fun _ _ h => nomatch h
theorem removalNotice (x0 : Nat) (x1 : Nat) : Statement (.removalNotice x0 x1) := fun _ _ h => nomatch h
theorem multicastFlit (x0 : Nat) (x1 : Nat) : Statement (.multicastFlit x0 x1) := fun _ _ h => nomatch h
theorem multicastCreditReturn (x0 : Nat) (x1 : Nat) : Statement (.multicastCreditReturn x0 x1) := fun _ _ h => nomatch h
theorem syncExchange (x0 : Nat) (x1 : BitVec 64) (x2 : BitVec 16) : Statement (.syncExchange x0 x1 x2) := fun _ _ h => nomatch h
theorem podExchange (x0 : Nat) (x1 : BitVec 64) (x2 : BitVec 16) : Statement (.podExchange x0 x1 x2) := fun _ _ h => nomatch h
theorem holdoverTimeout (x0 : Nat) : Statement (.holdoverTimeout x0) := fun _ _ h => nomatch h
theorem grandmasterFailover (x0 : Nat) : Statement (.grandmasterFailover x0) := fun _ _ h => nomatch h
theorem podJoin (x0 : Nat) (x1 : BitVec 64) : Statement (.podJoin x0 x1) := fun _ _ h => nomatch h
theorem coreFrequencyChange (x0 : Nat) (x1 : Nat) : Statement (.coreFrequencyChange x0 x1) := fun _ _ h => nomatch h
theorem coreClockStop (x0 : Nat) : Statement (.coreClockStop x0) := fun _ _ h => nomatch h
theorem uncoreGate (x0 : Nat) : Statement (.uncoreGate x0) := fun _ _ h => nomatch h
theorem uncoreWake (x0 : Nat) : Statement (.uncoreWake x0) := fun _ _ h => nomatch h
theorem dieOff (x0 : Nat) : Statement (.dieOff x0) := fun _ _ h => nomatch h
theorem dieReturn (x0 : Nat) : Statement (.dieReturn x0) := fun _ _ h => nomatch h
theorem packageD3cold (x0 : Nat) : Statement (.packageD3cold x0) := fun _ _ h => nomatch h
theorem thermalThrottle (x0 : Nat) (x1 : Nat) : Statement (.thermalThrottle x0 x1) := fun _ _ h => nomatch h
theorem thermalStop (x0 : Nat) : Statement (.thermalStop x0) := fun _ _ h => nomatch h
theorem thermalRestart (x0 : Nat) : Statement (.thermalRestart x0) := fun _ _ h => nomatch h
theorem packageReset (x0 : Nat) : Statement (.packageReset x0) := fun _ _ h => nomatch h
theorem patrolScrub (x0 : Nat) : Statement (.patrolScrub x0) := fun _ _ h => nomatch h
theorem alarm (x0 : Nat) (x1 : AlarmClass) : Statement (.alarm x0 x1) := fun _ _ h => nomatch h
theorem firmwareVerify (x0 : Nat) (x1 : FwTarget) (x2 : List Byte) (x3 : List Byte) : Statement (.firmwareVerify x0 x1 x2 x3) := fun _ _ h => nomatch h
theorem firmwareUpdate (x0 : Nat) (x1 : List Byte) (x2 : List Byte) : Statement (.firmwareUpdate x0 x1 x2) := fun _ _ h => nomatch h
theorem getMeasurements (x0 : Nat) (x1 : Option Nat) : Statement (.getMeasurements x0 x1) := fun _ _ h => nomatch h
theorem lifecycleTransition (x0 : Nat) (x1 : Lifecycle) (x2 : List Byte) (x3 : List Byte) : Statement (.lifecycleTransition x0 x1 x2 x3) := fun _ _ h => nomatch h
theorem debugUnlock (x0 : Nat) (x1 : List Byte) : Statement (.debugUnlock x0 x1) := fun _ _ h => nomatch h
theorem tenantKeySetup (x0 : Nat) (x1 : Nat) (x2 : TenantKeys) : Statement (.tenantKeySetup x0 x1 x2) := fun _ _ h => nomatch h
theorem debugStopRequest (x0 : CoreId) (x1 : Nat) : Statement (.debugStopRequest x0 x1) := fun _ _ h => nomatch h
theorem debugResume (x0 : CoreId) (x1 : Nat) : Statement (.debugResume x0 x1) := fun _ _ h => nomatch h
theorem debugRegisterAccess (x0 : WaveId) (x1 : DbgReg) (x2 : BitVec 32) : Statement (.debugRegisterAccess x0 x1 x2) := fun _ _ h => nomatch h
theorem debugHoldRelease (x0 : Nat) : Statement (.debugHoldRelease x0) := fun _ _ h => nomatch h
theorem laneFocusEnter (x0 : WaveId) (x1 : Nat) : Statement (.laneFocusEnter x0 x1) := fun _ _ h => nomatch h
theorem laneFocusStep (x0 : WaveId) : Statement (.laneFocusStep x0) := fun _ _ h => nomatch h
theorem laneFocusLeave (x0 : WaveId) : Statement (.laneFocusLeave x0) := fun _ _ h => nomatch h
theorem tracePageSeal (x0 : Nat) (x1 : Nat) : Statement (.tracePageSeal x0 x1) := fun _ _ h => nomatch h
theorem registerWrite (x0 : MmioReg) (x1 : BitVec 64) : Statement (.registerWrite x0 x1) := fun _ _ h => nomatch h
theorem tableWalkCompletion (x0 : Nat) (x1 : Nat) : Statement (.tableWalkCompletion x0 x1) := fun _ _ h => nomatch h
theorem scalarLoadReturn (x0 : WaveId) : Statement (.scalarLoadReturn x0) := fun _ _ h => nomatch h
theorem storeAcknowledgement (x0 : WaveId) (x1 : Nat) : Statement (.storeAcknowledgement x0 x1) := fun _ _ h => nomatch h
theorem transferUnitReturn (x0 : CoreId) (x1 : Nat) (x2 : Nat) : Statement (.transferUnitReturn x0 x1 x2) := fun _ _ h => nomatch h
theorem writebackRequest (x0 : Nat) : Statement (.writebackRequest x0) := fun _ _ h => nomatch h
theorem reshuffleDataRequest (x0 : Nat) : Statement (.reshuffleDataRequest x0) := fun _ _ h => nomatch h
theorem linkRetrainDone (x0 : Nat) (x1 : Nat) : Statement (.linkRetrainDone x0 x1) := fun _ _ h => nomatch h
theorem coreClockRestart (x0 : Nat) : Statement (.coreClockRestart x0) := fun _ _ h => nomatch h
theorem hostLinkUp (x0 : Nat) (x1 : Nat) : Statement (.hostLinkUp x0 x1) := fun _ _ h => nomatch h

end Sys2Proof.Laws.RoundTrip
end

