-- ==== Sys2Proof/Laws/State.lean ====
section
/-! SUPPORT. What each operation on the state leaves as it was, one lemma for each field it does not touch, and what it makes
of the one it does: no later proof unfolds a record update. -/

namespace Sys2Proof.Machine

/-! `mapA` -/
@[simp] theorem mapA_waves {s f} : (mapA s f).waves = s.waves := rfl
@[simp] theorem mapA_mem {s f} : (mapA s f).mem = s.mem := rfl
@[simp] theorem mapA_hostMem {s f} : (mapA s f).hostMem = s.hostMem := rfl
@[simp] theorem mapA_podRef {s f} : (mapA s f).podRef = s.podRef := rfl
@[simp] theorem mapA_homes {s f} : (mapA s f).homes = s.homes := rfl
@[simp] theorem mapA_sectors {s f} : (mapA s f).sectors = s.sectors := rfl
@[simp] theorem mapA_cds {s f} : (mapA s f).cds = s.cds := rfl
@[simp] theorem mapA_mds {s f} : (mapA s f).mds = s.mds := rfl
@[simp] theorem mapA_cores {s f} : (mapA s f).cores = s.cores := rfl
@[simp] theorem mapA_net {s f} : (mapA s f).net = s.net := rfl
@[simp] theorem mapA_pkgs {s f} : (mapA s f).pkgs = s.pkgs := rfl
@[simp] theorem mapA_ctxs {s f} : (mapA s f).ctxs = s.ctxs := rfl
@[simp] theorem mapA_queues {s f} : (mapA s f).queues = s.queues := rfl
@[simp] theorem mapA_launches {s f} : (mapA s f).launches = s.launches := rfl
@[simp] theorem mapA_blocks {s f} : (mapA s f).blocks = s.blocks := rfl
@[simp] theorem mapA_groups {s f} : (mapA s f).groups = s.groups := rfl
@[simp] theorem mapA_groupMsgs {s f} : (mapA s f).groupMsgs = s.groupMsgs := rfl
@[simp] theorem mapA_invals {s f} : (mapA s f).invals = s.invals := rfl
@[simp] theorem mapA_wbs {s f} : (mapA s f).wbs = s.wbs := rfl
@[simp] theorem mapA_faults {s f} : (mapA s f).faults = s.faults := rfl
@[simp] theorem mapA_hostOut {s f} : (mapA s f).hostOut = s.hostOut := rfl
@[simp] theorem mapA_agenda {s f} : (mapA s f).agenda = s.agenda := rfl
@[simp] theorem mapA_nextId {s f} : (mapA s f).nextId = s.nextId := rfl
@[simp] theorem mapA_tick {s f} : (mapA s f).tick = s.tick := rfl
@[simp] theorem mapA_free {s f} : (mapA s f).free = s.free := rfl
/-! `advance` -/
@[simp] theorem advance_waves {s} : (advance s).waves = s.waves := rfl
@[simp] theorem advance_mem {s} : (advance s).mem = s.mem := rfl
@[simp] theorem advance_hostMem {s} : (advance s).hostMem = s.hostMem := rfl
@[simp] theorem advance_podRef {s} : (advance s).podRef = s.podRef := rfl
@[simp] theorem advance_homes {s} : (advance s).homes = s.homes := rfl
@[simp] theorem advance_sectors {s} : (advance s).sectors = s.sectors := rfl
@[simp] theorem advance_cds {s} : (advance s).cds = s.cds := rfl
@[simp] theorem advance_mds {s} : (advance s).mds = s.mds := rfl
@[simp] theorem advance_cores {s} : (advance s).cores = s.cores := rfl
@[simp] theorem advance_net {s} : (advance s).net = s.net := rfl
@[simp] theorem advance_pkgs {s} : (advance s).pkgs = s.pkgs := rfl
@[simp] theorem advance_ctxs {s} : (advance s).ctxs = s.ctxs := rfl
@[simp] theorem advance_queues {s} : (advance s).queues = s.queues := rfl
@[simp] theorem advance_launches {s} : (advance s).launches = s.launches := rfl
@[simp] theorem advance_blocks {s} : (advance s).blocks = s.blocks := rfl
@[simp] theorem advance_groups {s} : (advance s).groups = s.groups := rfl
@[simp] theorem advance_groupMsgs {s} : (advance s).groupMsgs = s.groupMsgs := rfl
@[simp] theorem advance_invals {s} : (advance s).invals = s.invals := rfl
@[simp] theorem advance_wbs {s} : (advance s).wbs = s.wbs := rfl
@[simp] theorem advance_faults {s} : (advance s).faults = s.faults := rfl
@[simp] theorem advance_hostOut {s} : (advance s).hostOut = s.hostOut := rfl
@[simp] theorem advance_agenda {s} : (advance s).agenda = s.agenda := rfl
@[simp] theorem advance_nextId {s} : (advance s).nextId = s.nextId := rfl
@[simp] theorem advance_tick {s} : (advance s).tick = s.tick := rfl
@[simp] theorem advance_free {s} : (advance s).free = s.free := rfl
/-! `jump` -/
@[simp] theorem jump_waves {s t} : (jump s t).waves = s.waves := rfl
@[simp] theorem jump_mem {s t} : (jump s t).mem = s.mem := rfl
@[simp] theorem jump_hostMem {s t} : (jump s t).hostMem = s.hostMem := rfl
@[simp] theorem jump_podRef {s t} : (jump s t).podRef = s.podRef := rfl
@[simp] theorem jump_homes {s t} : (jump s t).homes = s.homes := rfl
@[simp] theorem jump_sectors {s t} : (jump s t).sectors = s.sectors := rfl
@[simp] theorem jump_cds {s t} : (jump s t).cds = s.cds := rfl
@[simp] theorem jump_mds {s t} : (jump s t).mds = s.mds := rfl
@[simp] theorem jump_cores {s t} : (jump s t).cores = s.cores := rfl
@[simp] theorem jump_net {s t} : (jump s t).net = s.net := rfl
@[simp] theorem jump_pkgs {s t} : (jump s t).pkgs = s.pkgs := rfl
@[simp] theorem jump_ctxs {s t} : (jump s t).ctxs = s.ctxs := rfl
@[simp] theorem jump_queues {s t} : (jump s t).queues = s.queues := rfl
@[simp] theorem jump_launches {s t} : (jump s t).launches = s.launches := rfl
@[simp] theorem jump_blocks {s t} : (jump s t).blocks = s.blocks := rfl
@[simp] theorem jump_groups {s t} : (jump s t).groups = s.groups := rfl
@[simp] theorem jump_groupMsgs {s t} : (jump s t).groupMsgs = s.groupMsgs := rfl
@[simp] theorem jump_invals {s t} : (jump s t).invals = s.invals := rfl
@[simp] theorem jump_wbs {s t} : (jump s t).wbs = s.wbs := rfl
@[simp] theorem jump_faults {s t} : (jump s t).faults = s.faults := rfl
@[simp] theorem jump_hostOut {s t} : (jump s t).hostOut = s.hostOut := rfl
@[simp] theorem jump_agenda {s t} : (jump s t).agenda = s.agenda := rfl
@[simp] theorem jump_nextId {s t} : (jump s t).nextId = s.nextId := rfl
@[simp] theorem jump_tick {s t} : (jump s t).tick = s.tick := rfl
@[simp] theorem jump_free {s t} : (jump s t).free = s.free := rfl
/-! `setS` -/
@[simp] theorem setS_waves {s r x} : (setS s r x).waves = s.waves := rfl
@[simp] theorem setS_mem {s r x} : (setS s r x).mem = s.mem := rfl
@[simp] theorem setS_hostMem {s r x} : (setS s r x).hostMem = s.hostMem := rfl
@[simp] theorem setS_podRef {s r x} : (setS s r x).podRef = s.podRef := rfl
@[simp] theorem setS_homes {s r x} : (setS s r x).homes = s.homes := rfl
@[simp] theorem setS_sectors {s r x} : (setS s r x).sectors = s.sectors := rfl
@[simp] theorem setS_cds {s r x} : (setS s r x).cds = s.cds := rfl
@[simp] theorem setS_mds {s r x} : (setS s r x).mds = s.mds := rfl
@[simp] theorem setS_cores {s r x} : (setS s r x).cores = s.cores := rfl
@[simp] theorem setS_net {s r x} : (setS s r x).net = s.net := rfl
@[simp] theorem setS_pkgs {s r x} : (setS s r x).pkgs = s.pkgs := rfl
@[simp] theorem setS_ctxs {s r x} : (setS s r x).ctxs = s.ctxs := rfl
@[simp] theorem setS_queues {s r x} : (setS s r x).queues = s.queues := rfl
@[simp] theorem setS_launches {s r x} : (setS s r x).launches = s.launches := rfl
@[simp] theorem setS_blocks {s r x} : (setS s r x).blocks = s.blocks := rfl
@[simp] theorem setS_groups {s r x} : (setS s r x).groups = s.groups := rfl
@[simp] theorem setS_groupMsgs {s r x} : (setS s r x).groupMsgs = s.groupMsgs := rfl
@[simp] theorem setS_invals {s r x} : (setS s r x).invals = s.invals := rfl
@[simp] theorem setS_wbs {s r x} : (setS s r x).wbs = s.wbs := rfl
@[simp] theorem setS_faults {s r x} : (setS s r x).faults = s.faults := rfl
@[simp] theorem setS_hostOut {s r x} : (setS s r x).hostOut = s.hostOut := rfl
@[simp] theorem setS_agenda {s r x} : (setS s r x).agenda = s.agenda := rfl
@[simp] theorem setS_nextId {s r x} : (setS s r x).nextId = s.nextId := rfl
@[simp] theorem setS_tick {s r x} : (setS s r x).tick = s.tick := rfl
@[simp] theorem setS_free {s r x} : (setS s r x).free = s.free := rfl
/-! `stall` -/
@[simp] theorem stall_waves {s} : (stall s).waves = s.waves := rfl
@[simp] theorem stall_mem {s} : (stall s).mem = s.mem := rfl
@[simp] theorem stall_hostMem {s} : (stall s).hostMem = s.hostMem := rfl
@[simp] theorem stall_podRef {s} : (stall s).podRef = s.podRef := rfl
@[simp] theorem stall_homes {s} : (stall s).homes = s.homes := rfl
@[simp] theorem stall_sectors {s} : (stall s).sectors = s.sectors := rfl
@[simp] theorem stall_cds {s} : (stall s).cds = s.cds := rfl
@[simp] theorem stall_mds {s} : (stall s).mds = s.mds := rfl
@[simp] theorem stall_cores {s} : (stall s).cores = s.cores := rfl
@[simp] theorem stall_net {s} : (stall s).net = s.net := rfl
@[simp] theorem stall_pkgs {s} : (stall s).pkgs = s.pkgs := rfl
@[simp] theorem stall_ctxs {s} : (stall s).ctxs = s.ctxs := rfl
@[simp] theorem stall_queues {s} : (stall s).queues = s.queues := rfl
@[simp] theorem stall_launches {s} : (stall s).launches = s.launches := rfl
@[simp] theorem stall_blocks {s} : (stall s).blocks = s.blocks := rfl
@[simp] theorem stall_groups {s} : (stall s).groups = s.groups := rfl
@[simp] theorem stall_groupMsgs {s} : (stall s).groupMsgs = s.groupMsgs := rfl
@[simp] theorem stall_invals {s} : (stall s).invals = s.invals := rfl
@[simp] theorem stall_wbs {s} : (stall s).wbs = s.wbs := rfl
@[simp] theorem stall_faults {s} : (stall s).faults = s.faults := rfl
@[simp] theorem stall_hostOut {s} : (stall s).hostOut = s.hostOut := rfl
@[simp] theorem stall_agenda {s} : (stall s).agenda = s.agenda := rfl
@[simp] theorem stall_nextId {s} : (stall s).nextId = s.nextId := rfl
@[simp] theorem stall_tick {s} : (stall s).tick = s.tick := rfl
@[simp] theorem stall_free {s} : (stall s).free = s.free := rfl
/-! `stallBy` -/
@[simp] theorem stallBy_waves {k s} : (stallBy k s).waves = s.waves := rfl
@[simp] theorem stallBy_mem {k s} : (stallBy k s).mem = s.mem := rfl
@[simp] theorem stallBy_hostMem {k s} : (stallBy k s).hostMem = s.hostMem := rfl
@[simp] theorem stallBy_podRef {k s} : (stallBy k s).podRef = s.podRef := rfl
@[simp] theorem stallBy_homes {k s} : (stallBy k s).homes = s.homes := rfl
@[simp] theorem stallBy_sectors {k s} : (stallBy k s).sectors = s.sectors := rfl
@[simp] theorem stallBy_cds {k s} : (stallBy k s).cds = s.cds := rfl
@[simp] theorem stallBy_mds {k s} : (stallBy k s).mds = s.mds := rfl
@[simp] theorem stallBy_cores {k s} : (stallBy k s).cores = s.cores := rfl
@[simp] theorem stallBy_net {k s} : (stallBy k s).net = s.net := rfl
@[simp] theorem stallBy_pkgs {k s} : (stallBy k s).pkgs = s.pkgs := rfl
@[simp] theorem stallBy_ctxs {k s} : (stallBy k s).ctxs = s.ctxs := rfl
@[simp] theorem stallBy_queues {k s} : (stallBy k s).queues = s.queues := rfl
@[simp] theorem stallBy_launches {k s} : (stallBy k s).launches = s.launches := rfl
@[simp] theorem stallBy_blocks {k s} : (stallBy k s).blocks = s.blocks := rfl
@[simp] theorem stallBy_groups {k s} : (stallBy k s).groups = s.groups := rfl
@[simp] theorem stallBy_groupMsgs {k s} : (stallBy k s).groupMsgs = s.groupMsgs := rfl
@[simp] theorem stallBy_invals {k s} : (stallBy k s).invals = s.invals := rfl
@[simp] theorem stallBy_wbs {k s} : (stallBy k s).wbs = s.wbs := rfl
@[simp] theorem stallBy_faults {k s} : (stallBy k s).faults = s.faults := rfl
@[simp] theorem stallBy_hostOut {k s} : (stallBy k s).hostOut = s.hostOut := rfl
@[simp] theorem stallBy_agenda {k s} : (stallBy k s).agenda = s.agenda := rfl
@[simp] theorem stallBy_nextId {k s} : (stallBy k s).nextId = s.nextId := rfl
@[simp] theorem stallBy_tick {k s} : (stallBy k s).tick = s.tick := rfl
@[simp] theorem stallBy_free {k s} : (stallBy k s).free = s.free := rfl
/-! `holdCur` -/
@[simp] theorem holdCur_waves {s h} : (holdCur s h).waves = s.waves := rfl
@[simp] theorem holdCur_mem {s h} : (holdCur s h).mem = s.mem := rfl
@[simp] theorem holdCur_hostMem {s h} : (holdCur s h).hostMem = s.hostMem := rfl
@[simp] theorem holdCur_podRef {s h} : (holdCur s h).podRef = s.podRef := rfl
@[simp] theorem holdCur_homes {s h} : (holdCur s h).homes = s.homes := rfl
@[simp] theorem holdCur_sectors {s h} : (holdCur s h).sectors = s.sectors := rfl
@[simp] theorem holdCur_cds {s h} : (holdCur s h).cds = s.cds := rfl
@[simp] theorem holdCur_mds {s h} : (holdCur s h).mds = s.mds := rfl
@[simp] theorem holdCur_cores {s h} : (holdCur s h).cores = s.cores := rfl
@[simp] theorem holdCur_net {s h} : (holdCur s h).net = s.net := rfl
@[simp] theorem holdCur_pkgs {s h} : (holdCur s h).pkgs = s.pkgs := rfl
@[simp] theorem holdCur_ctxs {s h} : (holdCur s h).ctxs = s.ctxs := rfl
@[simp] theorem holdCur_queues {s h} : (holdCur s h).queues = s.queues := rfl
@[simp] theorem holdCur_launches {s h} : (holdCur s h).launches = s.launches := rfl
@[simp] theorem holdCur_blocks {s h} : (holdCur s h).blocks = s.blocks := rfl
@[simp] theorem holdCur_groups {s h} : (holdCur s h).groups = s.groups := rfl
@[simp] theorem holdCur_groupMsgs {s h} : (holdCur s h).groupMsgs = s.groupMsgs := rfl
@[simp] theorem holdCur_invals {s h} : (holdCur s h).invals = s.invals := rfl
@[simp] theorem holdCur_wbs {s h} : (holdCur s h).wbs = s.wbs := rfl
@[simp] theorem holdCur_faults {s h} : (holdCur s h).faults = s.faults := rfl
@[simp] theorem holdCur_hostOut {s h} : (holdCur s h).hostOut = s.hostOut := rfl
@[simp] theorem holdCur_agenda {s h} : (holdCur s h).agenda = s.agenda := rfl
@[simp] theorem holdCur_nextId {s h} : (holdCur s h).nextId = s.nextId := rfl
@[simp] theorem holdCur_tick {s h} : (holdCur s h).tick = s.tick := rfl
@[simp] theorem holdCur_free {s h} : (holdCur s h).free = s.free := rfl
/-! `issue` -/
@[simp] theorem issue_waves {s} : (issue s).waves = s.waves := rfl
@[simp] theorem issue_mem {s} : (issue s).mem = s.mem := rfl
@[simp] theorem issue_hostMem {s} : (issue s).hostMem = s.hostMem := rfl
@[simp] theorem issue_podRef {s} : (issue s).podRef = s.podRef := rfl
@[simp] theorem issue_homes {s} : (issue s).homes = s.homes := rfl
@[simp] theorem issue_sectors {s} : (issue s).sectors = s.sectors := rfl
@[simp] theorem issue_cds {s} : (issue s).cds = s.cds := rfl
@[simp] theorem issue_mds {s} : (issue s).mds = s.mds := rfl
@[simp] theorem issue_cores {s} : (issue s).cores = s.cores := rfl
@[simp] theorem issue_net {s} : (issue s).net = s.net := rfl
@[simp] theorem issue_pkgs {s} : (issue s).pkgs = s.pkgs := rfl
@[simp] theorem issue_ctxs {s} : (issue s).ctxs = s.ctxs := rfl
@[simp] theorem issue_queues {s} : (issue s).queues = s.queues := rfl
@[simp] theorem issue_launches {s} : (issue s).launches = s.launches := rfl
@[simp] theorem issue_blocks {s} : (issue s).blocks = s.blocks := rfl
@[simp] theorem issue_groups {s} : (issue s).groups = s.groups := rfl
@[simp] theorem issue_groupMsgs {s} : (issue s).groupMsgs = s.groupMsgs := rfl
@[simp] theorem issue_invals {s} : (issue s).invals = s.invals := rfl
@[simp] theorem issue_wbs {s} : (issue s).wbs = s.wbs := rfl
@[simp] theorem issue_faults {s} : (issue s).faults = s.faults := rfl
@[simp] theorem issue_hostOut {s} : (issue s).hostOut = s.hostOut := rfl
@[simp] theorem issue_agenda {s} : (issue s).agenda = s.agenda := rfl
@[simp] theorem issue_nextId {s} : (issue s).nextId = s.nextId := rfl
@[simp] theorem issue_tick {s} : (issue s).tick = s.tick := rfl
@[simp] theorem issue_free {s} : (issue s).free = s.free := rfl
/-! `issueNow` -/
@[simp] theorem issueNow_waves {s} : (issueNow s).waves = s.waves := rfl
@[simp] theorem issueNow_mem {s} : (issueNow s).mem = s.mem := rfl
@[simp] theorem issueNow_hostMem {s} : (issueNow s).hostMem = s.hostMem := rfl
@[simp] theorem issueNow_podRef {s} : (issueNow s).podRef = s.podRef := rfl
@[simp] theorem issueNow_homes {s} : (issueNow s).homes = s.homes := rfl
@[simp] theorem issueNow_sectors {s} : (issueNow s).sectors = s.sectors := rfl
@[simp] theorem issueNow_cds {s} : (issueNow s).cds = s.cds := rfl
@[simp] theorem issueNow_mds {s} : (issueNow s).mds = s.mds := rfl
@[simp] theorem issueNow_cores {s} : (issueNow s).cores = s.cores := rfl
@[simp] theorem issueNow_net {s} : (issueNow s).net = s.net := rfl
@[simp] theorem issueNow_pkgs {s} : (issueNow s).pkgs = s.pkgs := rfl
@[simp] theorem issueNow_ctxs {s} : (issueNow s).ctxs = s.ctxs := rfl
@[simp] theorem issueNow_queues {s} : (issueNow s).queues = s.queues := rfl
@[simp] theorem issueNow_launches {s} : (issueNow s).launches = s.launches := rfl
@[simp] theorem issueNow_blocks {s} : (issueNow s).blocks = s.blocks := rfl
@[simp] theorem issueNow_groups {s} : (issueNow s).groups = s.groups := rfl
@[simp] theorem issueNow_groupMsgs {s} : (issueNow s).groupMsgs = s.groupMsgs := rfl
@[simp] theorem issueNow_invals {s} : (issueNow s).invals = s.invals := rfl
@[simp] theorem issueNow_wbs {s} : (issueNow s).wbs = s.wbs := rfl
@[simp] theorem issueNow_faults {s} : (issueNow s).faults = s.faults := rfl
@[simp] theorem issueNow_hostOut {s} : (issueNow s).hostOut = s.hostOut := rfl
@[simp] theorem issueNow_agenda {s} : (issueNow s).agenda = s.agenda := rfl
@[simp] theorem issueNow_nextId {s} : (issueNow s).nextId = s.nextId := rfl
@[simp] theorem issueNow_tick {s} : (issueNow s).tick = s.tick := rfl
@[simp] theorem issueNow_free {s} : (issueNow s).free = s.free := rfl
/-! `countReplay` -/
@[simp] theorem countReplay_waves {s} : (countReplay s).waves = s.waves := by unfold countReplay; split <;> rfl
@[simp] theorem countReplay_mem {s} : (countReplay s).mem = s.mem := by unfold countReplay; split <;> rfl
@[simp] theorem countReplay_hostMem {s} : (countReplay s).hostMem = s.hostMem := by unfold countReplay; split <;> rfl
@[simp] theorem countReplay_podRef {s} : (countReplay s).podRef = s.podRef := by unfold countReplay; split <;> rfl
@[simp] theorem countReplay_homes {s} : (countReplay s).homes = s.homes := by unfold countReplay; split <;> rfl
@[simp] theorem countReplay_sectors {s} : (countReplay s).sectors = s.sectors := by unfold countReplay; split <;> rfl
@[simp] theorem countReplay_cds {s} : (countReplay s).cds = s.cds := by unfold countReplay; split <;> rfl
@[simp] theorem countReplay_mds {s} : (countReplay s).mds = s.mds := by unfold countReplay; split <;> rfl
@[simp] theorem countReplay_cores {s} : (countReplay s).cores = s.cores := by unfold countReplay; split <;> rfl
@[simp] theorem countReplay_net {s} : (countReplay s).net = s.net := by unfold countReplay; split <;> rfl
@[simp] theorem countReplay_pkgs {s} : (countReplay s).pkgs = s.pkgs := by unfold countReplay; split <;> rfl
@[simp] theorem countReplay_ctxs {s} : (countReplay s).ctxs = s.ctxs := by unfold countReplay; split <;> rfl
@[simp] theorem countReplay_queues {s} : (countReplay s).queues = s.queues := by unfold countReplay; split <;> rfl
@[simp] theorem countReplay_launches {s} : (countReplay s).launches = s.launches := by unfold countReplay; split <;> rfl
@[simp] theorem countReplay_blocks {s} : (countReplay s).blocks = s.blocks := by unfold countReplay; split <;> rfl
@[simp] theorem countReplay_groups {s} : (countReplay s).groups = s.groups := by unfold countReplay; split <;> rfl
@[simp] theorem countReplay_groupMsgs {s} : (countReplay s).groupMsgs = s.groupMsgs := by unfold countReplay; split <;> rfl
@[simp] theorem countReplay_invals {s} : (countReplay s).invals = s.invals := by unfold countReplay; split <;> rfl
@[simp] theorem countReplay_wbs {s} : (countReplay s).wbs = s.wbs := by unfold countReplay; split <;> rfl
@[simp] theorem countReplay_faults {s} : (countReplay s).faults = s.faults := by unfold countReplay; split <;> rfl
@[simp] theorem countReplay_hostOut {s} : (countReplay s).hostOut = s.hostOut := by unfold countReplay; split <;> rfl
@[simp] theorem countReplay_agenda {s} : (countReplay s).agenda = s.agenda := by unfold countReplay; split <;> rfl
@[simp] theorem countReplay_nextId {s} : (countReplay s).nextId = s.nextId := by unfold countReplay; split <;> rfl
@[simp] theorem countReplay_tick {s} : (countReplay s).tick = s.tick := by unfold countReplay; split <;> rfl
@[simp] theorem countReplay_free {s} : (countReplay s).free = s.free := by unfold countReplay; split <;> rfl
/-! `accept` -/
@[simp] theorem accept_waves {s o} : (accept s o).waves = s.waves := by unfold accept; split <;> rfl
@[simp] theorem accept_mem {s o} : (accept s o).mem = s.mem := by unfold accept; split <;> rfl
@[simp] theorem accept_hostMem {s o} : (accept s o).hostMem = s.hostMem := by unfold accept; split <;> rfl
@[simp] theorem accept_podRef {s o} : (accept s o).podRef = s.podRef := by unfold accept; split <;> rfl
@[simp] theorem accept_homes {s o} : (accept s o).homes = s.homes := by unfold accept; split <;> rfl
@[simp] theorem accept_sectors {s o} : (accept s o).sectors = s.sectors := by unfold accept; split <;> rfl
@[simp] theorem accept_cds {s o} : (accept s o).cds = s.cds := by unfold accept; split <;> rfl
@[simp] theorem accept_mds {s o} : (accept s o).mds = s.mds := by unfold accept; split <;> rfl
@[simp] theorem accept_cores {s o} : (accept s o).cores = s.cores := by unfold accept; split <;> rfl
@[simp] theorem accept_net {s o} : (accept s o).net = s.net := by unfold accept; split <;> rfl
@[simp] theorem accept_pkgs {s o} : (accept s o).pkgs = s.pkgs := by unfold accept; split <;> rfl
@[simp] theorem accept_ctxs {s o} : (accept s o).ctxs = s.ctxs := by unfold accept; split <;> rfl
@[simp] theorem accept_queues {s o} : (accept s o).queues = s.queues := by unfold accept; split <;> rfl
@[simp] theorem accept_launches {s o} : (accept s o).launches = s.launches := by unfold accept; split <;> rfl
@[simp] theorem accept_blocks {s o} : (accept s o).blocks = s.blocks := by unfold accept; split <;> rfl
@[simp] theorem accept_groups {s o} : (accept s o).groups = s.groups := by unfold accept; split <;> rfl
@[simp] theorem accept_groupMsgs {s o} : (accept s o).groupMsgs = s.groupMsgs := by unfold accept; split <;> rfl
@[simp] theorem accept_invals {s o} : (accept s o).invals = s.invals := by unfold accept; split <;> rfl
@[simp] theorem accept_wbs {s o} : (accept s o).wbs = s.wbs := by unfold accept; split <;> rfl
@[simp] theorem accept_faults {s o} : (accept s o).faults = s.faults := by unfold accept; split <;> rfl
@[simp] theorem accept_hostOut {s o} : (accept s o).hostOut = s.hostOut := by unfold accept; split <;> rfl
@[simp] theorem accept_agenda {s o} : (accept s o).agenda = s.agenda := by unfold accept; split <;> rfl
@[simp] theorem accept_tick {s o} : (accept s o).tick = s.tick := by unfold accept; split <;> rfl
@[simp] theorem accept_free {s o} : (accept s o).free = s.free := by unfold accept; split <;> rfl
/-! `mapWaves` -/
@[simp] theorem mapWaves_mem {s f} : (mapWaves s f).mem = s.mem := rfl
@[simp] theorem mapWaves_hostMem {s f} : (mapWaves s f).hostMem = s.hostMem := rfl
@[simp] theorem mapWaves_podRef {s f} : (mapWaves s f).podRef = s.podRef := rfl
@[simp] theorem mapWaves_homes {s f} : (mapWaves s f).homes = s.homes := rfl
@[simp] theorem mapWaves_sectors {s f} : (mapWaves s f).sectors = s.sectors := rfl
@[simp] theorem mapWaves_cds {s f} : (mapWaves s f).cds = s.cds := rfl
@[simp] theorem mapWaves_mds {s f} : (mapWaves s f).mds = s.mds := rfl
@[simp] theorem mapWaves_cores {s f} : (mapWaves s f).cores = s.cores := rfl
@[simp] theorem mapWaves_net {s f} : (mapWaves s f).net = s.net := rfl
@[simp] theorem mapWaves_pkgs {s f} : (mapWaves s f).pkgs = s.pkgs := rfl
@[simp] theorem mapWaves_ctxs {s f} : (mapWaves s f).ctxs = s.ctxs := rfl
@[simp] theorem mapWaves_queues {s f} : (mapWaves s f).queues = s.queues := rfl
@[simp] theorem mapWaves_launches {s f} : (mapWaves s f).launches = s.launches := rfl
@[simp] theorem mapWaves_blocks {s f} : (mapWaves s f).blocks = s.blocks := rfl
@[simp] theorem mapWaves_groups {s f} : (mapWaves s f).groups = s.groups := rfl
@[simp] theorem mapWaves_groupMsgs {s f} : (mapWaves s f).groupMsgs = s.groupMsgs := rfl
@[simp] theorem mapWaves_invals {s f} : (mapWaves s f).invals = s.invals := rfl
@[simp] theorem mapWaves_wbs {s f} : (mapWaves s f).wbs = s.wbs := rfl
@[simp] theorem mapWaves_faults {s f} : (mapWaves s f).faults = s.faults := rfl
@[simp] theorem mapWaves_hostOut {s f} : (mapWaves s f).hostOut = s.hostOut := rfl
@[simp] theorem mapWaves_agenda {s f} : (mapWaves s f).agenda = s.agenda := rfl
@[simp] theorem mapWaves_nextId {s f} : (mapWaves s f).nextId = s.nextId := rfl
@[simp] theorem mapWaves_tick {s f} : (mapWaves s f).tick = s.tick := rfl
@[simp] theorem mapWaves_free {s f} : (mapWaves s f).free = s.free := rfl
/-! `onWave` -/
@[simp] theorem onWave_mem {s w f} : (onWave s w f).mem = s.mem := by unfold onWave; split <;> rfl
@[simp] theorem onWave_hostMem {s w f} : (onWave s w f).hostMem = s.hostMem := by unfold onWave; split <;> rfl
@[simp] theorem onWave_podRef {s w f} : (onWave s w f).podRef = s.podRef := by unfold onWave; split <;> rfl
@[simp] theorem onWave_homes {s w f} : (onWave s w f).homes = s.homes := by unfold onWave; split <;> rfl
@[simp] theorem onWave_sectors {s w f} : (onWave s w f).sectors = s.sectors := by unfold onWave; split <;> rfl
@[simp] theorem onWave_cds {s w f} : (onWave s w f).cds = s.cds := by unfold onWave; split <;> rfl
@[simp] theorem onWave_mds {s w f} : (onWave s w f).mds = s.mds := by unfold onWave; split <;> rfl
@[simp] theorem onWave_cores {s w f} : (onWave s w f).cores = s.cores := by unfold onWave; split <;> rfl
@[simp] theorem onWave_net {s w f} : (onWave s w f).net = s.net := by unfold onWave; split <;> rfl
@[simp] theorem onWave_pkgs {s w f} : (onWave s w f).pkgs = s.pkgs := by unfold onWave; split <;> rfl
@[simp] theorem onWave_ctxs {s w f} : (onWave s w f).ctxs = s.ctxs := by unfold onWave; split <;> rfl
@[simp] theorem onWave_queues {s w f} : (onWave s w f).queues = s.queues := by unfold onWave; split <;> rfl
@[simp] theorem onWave_launches {s w f} : (onWave s w f).launches = s.launches := by unfold onWave; split <;> rfl
@[simp] theorem onWave_blocks {s w f} : (onWave s w f).blocks = s.blocks := by unfold onWave; split <;> rfl
@[simp] theorem onWave_groups {s w f} : (onWave s w f).groups = s.groups := by unfold onWave; split <;> rfl
@[simp] theorem onWave_groupMsgs {s w f} : (onWave s w f).groupMsgs = s.groupMsgs := by unfold onWave; split <;> rfl
@[simp] theorem onWave_invals {s w f} : (onWave s w f).invals = s.invals := by unfold onWave; split <;> rfl
@[simp] theorem onWave_wbs {s w f} : (onWave s w f).wbs = s.wbs := by unfold onWave; split <;> rfl
@[simp] theorem onWave_faults {s w f} : (onWave s w f).faults = s.faults := by unfold onWave; split <;> rfl
@[simp] theorem onWave_hostOut {s w f} : (onWave s w f).hostOut = s.hostOut := by unfold onWave; split <;> rfl
@[simp] theorem onWave_agenda {s w f} : (onWave s w f).agenda = s.agenda := by unfold onWave; split <;> rfl
@[simp] theorem onWave_nextId {s w f} : (onWave s w f).nextId = s.nextId := by unfold onWave; split <;> rfl
@[simp] theorem onWave_tick {s w f} : (onWave s w f).tick = s.tick := by unfold onWave; split <;> rfl
@[simp] theorem onWave_free {s w f} : (onWave s w f).free = s.free := by unfold onWave; split <;> rfl
/-! `putWave` -/
@[simp] theorem putWave_mem {s w} : (putWave s w).mem = s.mem := by unfold putWave onWave; split <;> rfl
@[simp] theorem putWave_hostMem {s w} : (putWave s w).hostMem = s.hostMem := by unfold putWave onWave; split <;> rfl
@[simp] theorem putWave_podRef {s w} : (putWave s w).podRef = s.podRef := by unfold putWave onWave; split <;> rfl
@[simp] theorem putWave_homes {s w} : (putWave s w).homes = s.homes := by unfold putWave onWave; split <;> rfl
@[simp] theorem putWave_sectors {s w} : (putWave s w).sectors = s.sectors := by unfold putWave onWave; split <;> rfl
@[simp] theorem putWave_cds {s w} : (putWave s w).cds = s.cds := by unfold putWave onWave; split <;> rfl
@[simp] theorem putWave_mds {s w} : (putWave s w).mds = s.mds := by unfold putWave onWave; split <;> rfl
@[simp] theorem putWave_cores {s w} : (putWave s w).cores = s.cores := by unfold putWave onWave; split <;> rfl
@[simp] theorem putWave_net {s w} : (putWave s w).net = s.net := by unfold putWave onWave; split <;> rfl
@[simp] theorem putWave_pkgs {s w} : (putWave s w).pkgs = s.pkgs := by unfold putWave onWave; split <;> rfl
@[simp] theorem putWave_ctxs {s w} : (putWave s w).ctxs = s.ctxs := by unfold putWave onWave; split <;> rfl
@[simp] theorem putWave_queues {s w} : (putWave s w).queues = s.queues := by unfold putWave onWave; split <;> rfl
@[simp] theorem putWave_launches {s w} : (putWave s w).launches = s.launches := by unfold putWave onWave; split <;> rfl
@[simp] theorem putWave_blocks {s w} : (putWave s w).blocks = s.blocks := by unfold putWave onWave; split <;> rfl
@[simp] theorem putWave_groups {s w} : (putWave s w).groups = s.groups := by unfold putWave onWave; split <;> rfl
@[simp] theorem putWave_groupMsgs {s w} : (putWave s w).groupMsgs = s.groupMsgs := by unfold putWave onWave; split <;> rfl
@[simp] theorem putWave_invals {s w} : (putWave s w).invals = s.invals := by unfold putWave onWave; split <;> rfl
@[simp] theorem putWave_wbs {s w} : (putWave s w).wbs = s.wbs := by unfold putWave onWave; split <;> rfl
@[simp] theorem putWave_faults {s w} : (putWave s w).faults = s.faults := by unfold putWave onWave; split <;> rfl
@[simp] theorem putWave_hostOut {s w} : (putWave s w).hostOut = s.hostOut := by unfold putWave onWave; split <;> rfl
@[simp] theorem putWave_agenda {s w} : (putWave s w).agenda = s.agenda := by unfold putWave onWave; split <;> rfl
@[simp] theorem putWave_nextId {s w} : (putWave s w).nextId = s.nextId := by unfold putWave onWave; split <;> rfl
@[simp] theorem putWave_tick {s w} : (putWave s w).tick = s.tick := by unfold putWave onWave; split <;> rfl
@[simp] theorem putWave_free {s w} : (putWave s w).free = s.free := by unfold putWave onWave; split <;> rfl
/-! `addWave` -/
@[simp] theorem addWave_mem {s w} : (addWave s w).mem = s.mem := by unfold addWave; split <;> rfl
@[simp] theorem addWave_hostMem {s w} : (addWave s w).hostMem = s.hostMem := by unfold addWave; split <;> rfl
@[simp] theorem addWave_podRef {s w} : (addWave s w).podRef = s.podRef := by unfold addWave; split <;> rfl
@[simp] theorem addWave_homes {s w} : (addWave s w).homes = s.homes := by unfold addWave; split <;> rfl
@[simp] theorem addWave_sectors {s w} : (addWave s w).sectors = s.sectors := by unfold addWave; split <;> rfl
@[simp] theorem addWave_cds {s w} : (addWave s w).cds = s.cds := by unfold addWave; split <;> rfl
@[simp] theorem addWave_mds {s w} : (addWave s w).mds = s.mds := by unfold addWave; split <;> rfl
@[simp] theorem addWave_cores {s w} : (addWave s w).cores = s.cores := by unfold addWave; split <;> rfl
@[simp] theorem addWave_net {s w} : (addWave s w).net = s.net := by unfold addWave; split <;> rfl
@[simp] theorem addWave_pkgs {s w} : (addWave s w).pkgs = s.pkgs := by unfold addWave; split <;> rfl
@[simp] theorem addWave_ctxs {s w} : (addWave s w).ctxs = s.ctxs := by unfold addWave; split <;> rfl
@[simp] theorem addWave_queues {s w} : (addWave s w).queues = s.queues := by unfold addWave; split <;> rfl
@[simp] theorem addWave_launches {s w} : (addWave s w).launches = s.launches := by unfold addWave; split <;> rfl
@[simp] theorem addWave_blocks {s w} : (addWave s w).blocks = s.blocks := by unfold addWave; split <;> rfl
@[simp] theorem addWave_groups {s w} : (addWave s w).groups = s.groups := by unfold addWave; split <;> rfl
@[simp] theorem addWave_groupMsgs {s w} : (addWave s w).groupMsgs = s.groupMsgs := by unfold addWave; split <;> rfl
@[simp] theorem addWave_invals {s w} : (addWave s w).invals = s.invals := by unfold addWave; split <;> rfl
@[simp] theorem addWave_wbs {s w} : (addWave s w).wbs = s.wbs := by unfold addWave; split <;> rfl
@[simp] theorem addWave_faults {s w} : (addWave s w).faults = s.faults := by unfold addWave; split <;> rfl
@[simp] theorem addWave_hostOut {s w} : (addWave s w).hostOut = s.hostOut := by unfold addWave; split <;> rfl
@[simp] theorem addWave_agenda {s w} : (addWave s w).agenda = s.agenda := by unfold addWave; split <;> rfl
@[simp] theorem addWave_nextId {s w} : (addWave s w).nextId = s.nextId := by unfold addWave; split <;> rfl
@[simp] theorem addWave_tick {s w} : (addWave s w).tick = s.tick := by unfold addWave; split <;> rfl
@[simp] theorem addWave_free {s w} : (addWave s w).free = s.free := by unfold addWave; split <;> rfl
/-! `focusOn` -/
@[simp] theorem focusOn_mem {s w} : (focusOn s w).mem = s.mem := by unfold focusOn; split <;> rfl
@[simp] theorem focusOn_hostMem {s w} : (focusOn s w).hostMem = s.hostMem := by unfold focusOn; split <;> rfl
@[simp] theorem focusOn_podRef {s w} : (focusOn s w).podRef = s.podRef := by unfold focusOn; split <;> rfl
@[simp] theorem focusOn_homes {s w} : (focusOn s w).homes = s.homes := by unfold focusOn; split <;> rfl
@[simp] theorem focusOn_sectors {s w} : (focusOn s w).sectors = s.sectors := by unfold focusOn; split <;> rfl
@[simp] theorem focusOn_cds {s w} : (focusOn s w).cds = s.cds := by unfold focusOn; split <;> rfl
@[simp] theorem focusOn_mds {s w} : (focusOn s w).mds = s.mds := by unfold focusOn; split <;> rfl
@[simp] theorem focusOn_cores {s w} : (focusOn s w).cores = s.cores := by unfold focusOn; split <;> rfl
@[simp] theorem focusOn_net {s w} : (focusOn s w).net = s.net := by unfold focusOn; split <;> rfl
@[simp] theorem focusOn_pkgs {s w} : (focusOn s w).pkgs = s.pkgs := by unfold focusOn; split <;> rfl
@[simp] theorem focusOn_ctxs {s w} : (focusOn s w).ctxs = s.ctxs := by unfold focusOn; split <;> rfl
@[simp] theorem focusOn_queues {s w} : (focusOn s w).queues = s.queues := by unfold focusOn; split <;> rfl
@[simp] theorem focusOn_launches {s w} : (focusOn s w).launches = s.launches := by unfold focusOn; split <;> rfl
@[simp] theorem focusOn_blocks {s w} : (focusOn s w).blocks = s.blocks := by unfold focusOn; split <;> rfl
@[simp] theorem focusOn_groups {s w} : (focusOn s w).groups = s.groups := by unfold focusOn; split <;> rfl
@[simp] theorem focusOn_groupMsgs {s w} : (focusOn s w).groupMsgs = s.groupMsgs := by unfold focusOn; split <;> rfl
@[simp] theorem focusOn_invals {s w} : (focusOn s w).invals = s.invals := by unfold focusOn; split <;> rfl
@[simp] theorem focusOn_wbs {s w} : (focusOn s w).wbs = s.wbs := by unfold focusOn; split <;> rfl
@[simp] theorem focusOn_faults {s w} : (focusOn s w).faults = s.faults := by unfold focusOn; split <;> rfl
@[simp] theorem focusOn_hostOut {s w} : (focusOn s w).hostOut = s.hostOut := by unfold focusOn; split <;> rfl
@[simp] theorem focusOn_agenda {s w} : (focusOn s w).agenda = s.agenda := by unfold focusOn; split <;> rfl
@[simp] theorem focusOn_nextId {s w} : (focusOn s w).nextId = s.nextId := by unfold focusOn; split <;> rfl
@[simp] theorem focusOn_tick {s w} : (focusOn s w).tick = s.tick := by unfold focusOn; split <;> rfl
@[simp] theorem focusOn_free {s w} : (focusOn s w).free = s.free := by unfold focusOn; split <;> rfl
/-! `onCore` -/
@[simp] theorem onCore_cur {s c f} : (onCore s c f).cur = s.cur := rfl
@[simp] theorem onCore_waves {s c f} : (onCore s c f).waves = s.waves := rfl
@[simp] theorem onCore_mem {s c f} : (onCore s c f).mem = s.mem := rfl
@[simp] theorem onCore_hostMem {s c f} : (onCore s c f).hostMem = s.hostMem := rfl
@[simp] theorem onCore_podRef {s c f} : (onCore s c f).podRef = s.podRef := rfl
@[simp] theorem onCore_homes {s c f} : (onCore s c f).homes = s.homes := rfl
@[simp] theorem onCore_sectors {s c f} : (onCore s c f).sectors = s.sectors := rfl
@[simp] theorem onCore_cds {s c f} : (onCore s c f).cds = s.cds := rfl
@[simp] theorem onCore_mds {s c f} : (onCore s c f).mds = s.mds := rfl
@[simp] theorem onCore_net {s c f} : (onCore s c f).net = s.net := rfl
@[simp] theorem onCore_pkgs {s c f} : (onCore s c f).pkgs = s.pkgs := rfl
@[simp] theorem onCore_ctxs {s c f} : (onCore s c f).ctxs = s.ctxs := rfl
@[simp] theorem onCore_queues {s c f} : (onCore s c f).queues = s.queues := rfl
@[simp] theorem onCore_launches {s c f} : (onCore s c f).launches = s.launches := rfl
@[simp] theorem onCore_blocks {s c f} : (onCore s c f).blocks = s.blocks := rfl
@[simp] theorem onCore_groups {s c f} : (onCore s c f).groups = s.groups := rfl
@[simp] theorem onCore_groupMsgs {s c f} : (onCore s c f).groupMsgs = s.groupMsgs := rfl
@[simp] theorem onCore_invals {s c f} : (onCore s c f).invals = s.invals := rfl
@[simp] theorem onCore_wbs {s c f} : (onCore s c f).wbs = s.wbs := rfl
@[simp] theorem onCore_faults {s c f} : (onCore s c f).faults = s.faults := rfl
@[simp] theorem onCore_hostOut {s c f} : (onCore s c f).hostOut = s.hostOut := rfl
@[simp] theorem onCore_agenda {s c f} : (onCore s c f).agenda = s.agenda := rfl
@[simp] theorem onCore_nextId {s c f} : (onCore s c f).nextId = s.nextId := rfl
@[simp] theorem onCore_tick {s c f} : (onCore s c f).tick = s.tick := rfl
@[simp] theorem onCore_free {s c f} : (onCore s c f).free = s.free := rfl
/-! `drainAll` -/
@[simp] theorem drainAll_cur {s c} : (drainAll s c).cur = s.cur := rfl
@[simp] theorem drainAll_waves {s c} : (drainAll s c).waves = s.waves := rfl
@[simp] theorem drainAll_mem {s c} : (drainAll s c).mem = s.mem := rfl
@[simp] theorem drainAll_hostMem {s c} : (drainAll s c).hostMem = s.hostMem := rfl
@[simp] theorem drainAll_podRef {s c} : (drainAll s c).podRef = s.podRef := rfl
@[simp] theorem drainAll_homes {s c} : (drainAll s c).homes = s.homes := rfl
@[simp] theorem drainAll_sectors {s c} : (drainAll s c).sectors = s.sectors := rfl
@[simp] theorem drainAll_cds {s c} : (drainAll s c).cds = s.cds := rfl
@[simp] theorem drainAll_mds {s c} : (drainAll s c).mds = s.mds := rfl
@[simp] theorem drainAll_net {s c} : (drainAll s c).net = s.net := rfl
@[simp] theorem drainAll_pkgs {s c} : (drainAll s c).pkgs = s.pkgs := rfl
@[simp] theorem drainAll_ctxs {s c} : (drainAll s c).ctxs = s.ctxs := rfl
@[simp] theorem drainAll_queues {s c} : (drainAll s c).queues = s.queues := rfl
@[simp] theorem drainAll_launches {s c} : (drainAll s c).launches = s.launches := rfl
@[simp] theorem drainAll_blocks {s c} : (drainAll s c).blocks = s.blocks := rfl
@[simp] theorem drainAll_groups {s c} : (drainAll s c).groups = s.groups := rfl
@[simp] theorem drainAll_groupMsgs {s c} : (drainAll s c).groupMsgs = s.groupMsgs := rfl
@[simp] theorem drainAll_invals {s c} : (drainAll s c).invals = s.invals := rfl
@[simp] theorem drainAll_wbs {s c} : (drainAll s c).wbs = s.wbs := rfl
@[simp] theorem drainAll_faults {s c} : (drainAll s c).faults = s.faults := rfl
@[simp] theorem drainAll_hostOut {s c} : (drainAll s c).hostOut = s.hostOut := rfl
@[simp] theorem drainAll_agenda {s c} : (drainAll s c).agenda = s.agenda := rfl
@[simp] theorem drainAll_nextId {s c} : (drainAll s c).nextId = s.nextId := rfl
@[simp] theorem drainAll_tick {s c} : (drainAll s c).tick = s.tick := rfl
@[simp] theorem drainAll_free {s c} : (drainAll s c).free = s.free := rfl
/-! `onCd` -/
@[simp] theorem onCd_cur {s u f} : (onCd s u f).cur = s.cur := rfl
@[simp] theorem onCd_waves {s u f} : (onCd s u f).waves = s.waves := rfl
@[simp] theorem onCd_mem {s u f} : (onCd s u f).mem = s.mem := rfl
@[simp] theorem onCd_hostMem {s u f} : (onCd s u f).hostMem = s.hostMem := rfl
@[simp] theorem onCd_podRef {s u f} : (onCd s u f).podRef = s.podRef := rfl
@[simp] theorem onCd_homes {s u f} : (onCd s u f).homes = s.homes := rfl
@[simp] theorem onCd_sectors {s u f} : (onCd s u f).sectors = s.sectors := rfl
@[simp] theorem onCd_mds {s u f} : (onCd s u f).mds = s.mds := rfl
@[simp] theorem onCd_cores {s u f} : (onCd s u f).cores = s.cores := rfl
@[simp] theorem onCd_net {s u f} : (onCd s u f).net = s.net := rfl
@[simp] theorem onCd_pkgs {s u f} : (onCd s u f).pkgs = s.pkgs := rfl
@[simp] theorem onCd_ctxs {s u f} : (onCd s u f).ctxs = s.ctxs := rfl
@[simp] theorem onCd_queues {s u f} : (onCd s u f).queues = s.queues := rfl
@[simp] theorem onCd_launches {s u f} : (onCd s u f).launches = s.launches := rfl
@[simp] theorem onCd_blocks {s u f} : (onCd s u f).blocks = s.blocks := rfl
@[simp] theorem onCd_groups {s u f} : (onCd s u f).groups = s.groups := rfl
@[simp] theorem onCd_groupMsgs {s u f} : (onCd s u f).groupMsgs = s.groupMsgs := rfl
@[simp] theorem onCd_invals {s u f} : (onCd s u f).invals = s.invals := rfl
@[simp] theorem onCd_wbs {s u f} : (onCd s u f).wbs = s.wbs := rfl
@[simp] theorem onCd_faults {s u f} : (onCd s u f).faults = s.faults := rfl
@[simp] theorem onCd_hostOut {s u f} : (onCd s u f).hostOut = s.hostOut := rfl
@[simp] theorem onCd_agenda {s u f} : (onCd s u f).agenda = s.agenda := rfl
@[simp] theorem onCd_nextId {s u f} : (onCd s u f).nextId = s.nextId := rfl
@[simp] theorem onCd_tick {s u f} : (onCd s u f).tick = s.tick := rfl
@[simp] theorem onCd_free {s u f} : (onCd s u f).free = s.free := rfl
/-! `onMd` -/
@[simp] theorem onMd_cur {s u f} : (onMd s u f).cur = s.cur := rfl
@[simp] theorem onMd_waves {s u f} : (onMd s u f).waves = s.waves := rfl
@[simp] theorem onMd_mem {s u f} : (onMd s u f).mem = s.mem := rfl
@[simp] theorem onMd_hostMem {s u f} : (onMd s u f).hostMem = s.hostMem := rfl
@[simp] theorem onMd_podRef {s u f} : (onMd s u f).podRef = s.podRef := rfl
@[simp] theorem onMd_homes {s u f} : (onMd s u f).homes = s.homes := rfl
@[simp] theorem onMd_sectors {s u f} : (onMd s u f).sectors = s.sectors := rfl
@[simp] theorem onMd_cds {s u f} : (onMd s u f).cds = s.cds := rfl
@[simp] theorem onMd_cores {s u f} : (onMd s u f).cores = s.cores := rfl
@[simp] theorem onMd_net {s u f} : (onMd s u f).net = s.net := rfl
@[simp] theorem onMd_pkgs {s u f} : (onMd s u f).pkgs = s.pkgs := rfl
@[simp] theorem onMd_ctxs {s u f} : (onMd s u f).ctxs = s.ctxs := rfl
@[simp] theorem onMd_queues {s u f} : (onMd s u f).queues = s.queues := rfl
@[simp] theorem onMd_launches {s u f} : (onMd s u f).launches = s.launches := rfl
@[simp] theorem onMd_blocks {s u f} : (onMd s u f).blocks = s.blocks := rfl
@[simp] theorem onMd_groups {s u f} : (onMd s u f).groups = s.groups := rfl
@[simp] theorem onMd_groupMsgs {s u f} : (onMd s u f).groupMsgs = s.groupMsgs := rfl
@[simp] theorem onMd_invals {s u f} : (onMd s u f).invals = s.invals := rfl
@[simp] theorem onMd_wbs {s u f} : (onMd s u f).wbs = s.wbs := rfl
@[simp] theorem onMd_faults {s u f} : (onMd s u f).faults = s.faults := rfl
@[simp] theorem onMd_hostOut {s u f} : (onMd s u f).hostOut = s.hostOut := rfl
@[simp] theorem onMd_agenda {s u f} : (onMd s u f).agenda = s.agenda := rfl
@[simp] theorem onMd_nextId {s u f} : (onMd s u f).nextId = s.nextId := rfl
@[simp] theorem onMd_tick {s u f} : (onMd s u f).tick = s.tick := rfl
@[simp] theorem onMd_free {s u f} : (onMd s u f).free = s.free := rfl
/-! `onPkg` -/
@[simp] theorem onPkg_cur {s p f} : (onPkg s p f).cur = s.cur := rfl
@[simp] theorem onPkg_waves {s p f} : (onPkg s p f).waves = s.waves := rfl
@[simp] theorem onPkg_mem {s p f} : (onPkg s p f).mem = s.mem := rfl
@[simp] theorem onPkg_hostMem {s p f} : (onPkg s p f).hostMem = s.hostMem := rfl
@[simp] theorem onPkg_podRef {s p f} : (onPkg s p f).podRef = s.podRef := rfl
@[simp] theorem onPkg_homes {s p f} : (onPkg s p f).homes = s.homes := rfl
@[simp] theorem onPkg_sectors {s p f} : (onPkg s p f).sectors = s.sectors := rfl
@[simp] theorem onPkg_cds {s p f} : (onPkg s p f).cds = s.cds := rfl
@[simp] theorem onPkg_mds {s p f} : (onPkg s p f).mds = s.mds := rfl
@[simp] theorem onPkg_cores {s p f} : (onPkg s p f).cores = s.cores := rfl
@[simp] theorem onPkg_net {s p f} : (onPkg s p f).net = s.net := rfl
@[simp] theorem onPkg_ctxs {s p f} : (onPkg s p f).ctxs = s.ctxs := rfl
@[simp] theorem onPkg_queues {s p f} : (onPkg s p f).queues = s.queues := rfl
@[simp] theorem onPkg_launches {s p f} : (onPkg s p f).launches = s.launches := rfl
@[simp] theorem onPkg_blocks {s p f} : (onPkg s p f).blocks = s.blocks := rfl
@[simp] theorem onPkg_groups {s p f} : (onPkg s p f).groups = s.groups := rfl
@[simp] theorem onPkg_groupMsgs {s p f} : (onPkg s p f).groupMsgs = s.groupMsgs := rfl
@[simp] theorem onPkg_invals {s p f} : (onPkg s p f).invals = s.invals := rfl
@[simp] theorem onPkg_wbs {s p f} : (onPkg s p f).wbs = s.wbs := rfl
@[simp] theorem onPkg_faults {s p f} : (onPkg s p f).faults = s.faults := rfl
@[simp] theorem onPkg_hostOut {s p f} : (onPkg s p f).hostOut = s.hostOut := rfl
@[simp] theorem onPkg_agenda {s p f} : (onPkg s p f).agenda = s.agenda := rfl
@[simp] theorem onPkg_nextId {s p f} : (onPkg s p f).nextId = s.nextId := rfl
@[simp] theorem onPkg_tick {s p f} : (onPkg s p f).tick = s.tick := rfl
@[simp] theorem onPkg_free {s p f} : (onPkg s p f).free = s.free := rfl
/-! `onCtx` -/
@[simp] theorem onCtx_cur {s p c f} : (onCtx s p c f).cur = s.cur := rfl
@[simp] theorem onCtx_waves {s p c f} : (onCtx s p c f).waves = s.waves := rfl
@[simp] theorem onCtx_mem {s p c f} : (onCtx s p c f).mem = s.mem := rfl
@[simp] theorem onCtx_hostMem {s p c f} : (onCtx s p c f).hostMem = s.hostMem := rfl
@[simp] theorem onCtx_podRef {s p c f} : (onCtx s p c f).podRef = s.podRef := rfl
@[simp] theorem onCtx_homes {s p c f} : (onCtx s p c f).homes = s.homes := rfl
@[simp] theorem onCtx_sectors {s p c f} : (onCtx s p c f).sectors = s.sectors := rfl
@[simp] theorem onCtx_cds {s p c f} : (onCtx s p c f).cds = s.cds := rfl
@[simp] theorem onCtx_mds {s p c f} : (onCtx s p c f).mds = s.mds := rfl
@[simp] theorem onCtx_cores {s p c f} : (onCtx s p c f).cores = s.cores := rfl
@[simp] theorem onCtx_net {s p c f} : (onCtx s p c f).net = s.net := rfl
@[simp] theorem onCtx_pkgs {s p c f} : (onCtx s p c f).pkgs = s.pkgs := rfl
@[simp] theorem onCtx_queues {s p c f} : (onCtx s p c f).queues = s.queues := rfl
@[simp] theorem onCtx_launches {s p c f} : (onCtx s p c f).launches = s.launches := rfl
@[simp] theorem onCtx_blocks {s p c f} : (onCtx s p c f).blocks = s.blocks := rfl
@[simp] theorem onCtx_groups {s p c f} : (onCtx s p c f).groups = s.groups := rfl
@[simp] theorem onCtx_groupMsgs {s p c f} : (onCtx s p c f).groupMsgs = s.groupMsgs := rfl
@[simp] theorem onCtx_invals {s p c f} : (onCtx s p c f).invals = s.invals := rfl
@[simp] theorem onCtx_wbs {s p c f} : (onCtx s p c f).wbs = s.wbs := rfl
@[simp] theorem onCtx_faults {s p c f} : (onCtx s p c f).faults = s.faults := rfl
@[simp] theorem onCtx_hostOut {s p c f} : (onCtx s p c f).hostOut = s.hostOut := rfl
@[simp] theorem onCtx_agenda {s p c f} : (onCtx s p c f).agenda = s.agenda := rfl
@[simp] theorem onCtx_nextId {s p c f} : (onCtx s p c f).nextId = s.nextId := rfl
@[simp] theorem onCtx_tick {s p c f} : (onCtx s p c f).tick = s.tick := rfl
@[simp] theorem onCtx_free {s p c f} : (onCtx s p c f).free = s.free := rfl
/-! `onBlock` -/
@[simp] theorem onBlock_cur {s b f} : (onBlock s b f).cur = s.cur := rfl
@[simp] theorem onBlock_waves {s b f} : (onBlock s b f).waves = s.waves := rfl
@[simp] theorem onBlock_mem {s b f} : (onBlock s b f).mem = s.mem := rfl
@[simp] theorem onBlock_hostMem {s b f} : (onBlock s b f).hostMem = s.hostMem := rfl
@[simp] theorem onBlock_podRef {s b f} : (onBlock s b f).podRef = s.podRef := rfl
@[simp] theorem onBlock_homes {s b f} : (onBlock s b f).homes = s.homes := rfl
@[simp] theorem onBlock_sectors {s b f} : (onBlock s b f).sectors = s.sectors := rfl
@[simp] theorem onBlock_cds {s b f} : (onBlock s b f).cds = s.cds := rfl
@[simp] theorem onBlock_mds {s b f} : (onBlock s b f).mds = s.mds := rfl
@[simp] theorem onBlock_cores {s b f} : (onBlock s b f).cores = s.cores := rfl
@[simp] theorem onBlock_net {s b f} : (onBlock s b f).net = s.net := rfl
@[simp] theorem onBlock_pkgs {s b f} : (onBlock s b f).pkgs = s.pkgs := rfl
@[simp] theorem onBlock_ctxs {s b f} : (onBlock s b f).ctxs = s.ctxs := rfl
@[simp] theorem onBlock_queues {s b f} : (onBlock s b f).queues = s.queues := rfl
@[simp] theorem onBlock_launches {s b f} : (onBlock s b f).launches = s.launches := rfl
@[simp] theorem onBlock_groups {s b f} : (onBlock s b f).groups = s.groups := rfl
@[simp] theorem onBlock_groupMsgs {s b f} : (onBlock s b f).groupMsgs = s.groupMsgs := rfl
@[simp] theorem onBlock_invals {s b f} : (onBlock s b f).invals = s.invals := rfl
@[simp] theorem onBlock_wbs {s b f} : (onBlock s b f).wbs = s.wbs := rfl
@[simp] theorem onBlock_faults {s b f} : (onBlock s b f).faults = s.faults := rfl
@[simp] theorem onBlock_hostOut {s b f} : (onBlock s b f).hostOut = s.hostOut := rfl
@[simp] theorem onBlock_agenda {s b f} : (onBlock s b f).agenda = s.agenda := rfl
@[simp] theorem onBlock_nextId {s b f} : (onBlock s b f).nextId = s.nextId := rfl
@[simp] theorem onBlock_tick {s b f} : (onBlock s b f).tick = s.tick := rfl
@[simp] theorem onBlock_free {s b f} : (onBlock s b f).free = s.free := rfl
/-! `onLaunch` -/
@[simp] theorem onLaunch_cur {s l f} : (onLaunch s l f).cur = s.cur := rfl
@[simp] theorem onLaunch_waves {s l f} : (onLaunch s l f).waves = s.waves := rfl
@[simp] theorem onLaunch_mem {s l f} : (onLaunch s l f).mem = s.mem := rfl
@[simp] theorem onLaunch_hostMem {s l f} : (onLaunch s l f).hostMem = s.hostMem := rfl
@[simp] theorem onLaunch_podRef {s l f} : (onLaunch s l f).podRef = s.podRef := rfl
@[simp] theorem onLaunch_homes {s l f} : (onLaunch s l f).homes = s.homes := rfl
@[simp] theorem onLaunch_sectors {s l f} : (onLaunch s l f).sectors = s.sectors := rfl
@[simp] theorem onLaunch_cds {s l f} : (onLaunch s l f).cds = s.cds := rfl
@[simp] theorem onLaunch_mds {s l f} : (onLaunch s l f).mds = s.mds := rfl
@[simp] theorem onLaunch_cores {s l f} : (onLaunch s l f).cores = s.cores := rfl
@[simp] theorem onLaunch_net {s l f} : (onLaunch s l f).net = s.net := rfl
@[simp] theorem onLaunch_pkgs {s l f} : (onLaunch s l f).pkgs = s.pkgs := rfl
@[simp] theorem onLaunch_ctxs {s l f} : (onLaunch s l f).ctxs = s.ctxs := rfl
@[simp] theorem onLaunch_queues {s l f} : (onLaunch s l f).queues = s.queues := rfl
@[simp] theorem onLaunch_blocks {s l f} : (onLaunch s l f).blocks = s.blocks := rfl
@[simp] theorem onLaunch_groups {s l f} : (onLaunch s l f).groups = s.groups := rfl
@[simp] theorem onLaunch_groupMsgs {s l f} : (onLaunch s l f).groupMsgs = s.groupMsgs := rfl
@[simp] theorem onLaunch_invals {s l f} : (onLaunch s l f).invals = s.invals := rfl
@[simp] theorem onLaunch_wbs {s l f} : (onLaunch s l f).wbs = s.wbs := rfl
@[simp] theorem onLaunch_faults {s l f} : (onLaunch s l f).faults = s.faults := rfl
@[simp] theorem onLaunch_hostOut {s l f} : (onLaunch s l f).hostOut = s.hostOut := rfl
@[simp] theorem onLaunch_agenda {s l f} : (onLaunch s l f).agenda = s.agenda := rfl
@[simp] theorem onLaunch_nextId {s l f} : (onLaunch s l f).nextId = s.nextId := rfl
@[simp] theorem onLaunch_tick {s l f} : (onLaunch s l f).tick = s.tick := rfl
@[simp] theorem onLaunch_free {s l f} : (onLaunch s l f).free = s.free := rfl
/-! `onHome` -/
@[simp] theorem onHome_cur {s x f} : (onHome s x f).cur = s.cur := rfl
@[simp] theorem onHome_waves {s x f} : (onHome s x f).waves = s.waves := rfl
@[simp] theorem onHome_mem {s x f} : (onHome s x f).mem = s.mem := rfl
@[simp] theorem onHome_hostMem {s x f} : (onHome s x f).hostMem = s.hostMem := rfl
@[simp] theorem onHome_podRef {s x f} : (onHome s x f).podRef = s.podRef := rfl
@[simp] theorem onHome_sectors {s x f} : (onHome s x f).sectors = s.sectors := rfl
@[simp] theorem onHome_cds {s x f} : (onHome s x f).cds = s.cds := rfl
@[simp] theorem onHome_mds {s x f} : (onHome s x f).mds = s.mds := rfl
@[simp] theorem onHome_cores {s x f} : (onHome s x f).cores = s.cores := rfl
@[simp] theorem onHome_net {s x f} : (onHome s x f).net = s.net := rfl
@[simp] theorem onHome_pkgs {s x f} : (onHome s x f).pkgs = s.pkgs := rfl
@[simp] theorem onHome_ctxs {s x f} : (onHome s x f).ctxs = s.ctxs := rfl
@[simp] theorem onHome_queues {s x f} : (onHome s x f).queues = s.queues := rfl
@[simp] theorem onHome_launches {s x f} : (onHome s x f).launches = s.launches := rfl
@[simp] theorem onHome_blocks {s x f} : (onHome s x f).blocks = s.blocks := rfl
@[simp] theorem onHome_groups {s x f} : (onHome s x f).groups = s.groups := rfl
@[simp] theorem onHome_groupMsgs {s x f} : (onHome s x f).groupMsgs = s.groupMsgs := rfl
@[simp] theorem onHome_invals {s x f} : (onHome s x f).invals = s.invals := rfl
@[simp] theorem onHome_wbs {s x f} : (onHome s x f).wbs = s.wbs := rfl
@[simp] theorem onHome_faults {s x f} : (onHome s x f).faults = s.faults := rfl
@[simp] theorem onHome_hostOut {s x f} : (onHome s x f).hostOut = s.hostOut := rfl
@[simp] theorem onHome_agenda {s x f} : (onHome s x f).agenda = s.agenda := rfl
@[simp] theorem onHome_nextId {s x f} : (onHome s x f).nextId = s.nextId := rfl
@[simp] theorem onHome_tick {s x f} : (onHome s x f).tick = s.tick := rfl
@[simp] theorem onHome_free {s x f} : (onHome s x f).free = s.free := rfl
/-! `onSec` -/
@[simp] theorem onSec_cur {s u x f} : (onSec s u x f).cur = s.cur := rfl
@[simp] theorem onSec_waves {s u x f} : (onSec s u x f).waves = s.waves := rfl
@[simp] theorem onSec_mem {s u x f} : (onSec s u x f).mem = s.mem := rfl
@[simp] theorem onSec_hostMem {s u x f} : (onSec s u x f).hostMem = s.hostMem := rfl
@[simp] theorem onSec_podRef {s u x f} : (onSec s u x f).podRef = s.podRef := rfl
@[simp] theorem onSec_homes {s u x f} : (onSec s u x f).homes = s.homes := rfl
@[simp] theorem onSec_cds {s u x f} : (onSec s u x f).cds = s.cds := rfl
@[simp] theorem onSec_mds {s u x f} : (onSec s u x f).mds = s.mds := rfl
@[simp] theorem onSec_cores {s u x f} : (onSec s u x f).cores = s.cores := rfl
@[simp] theorem onSec_net {s u x f} : (onSec s u x f).net = s.net := rfl
@[simp] theorem onSec_pkgs {s u x f} : (onSec s u x f).pkgs = s.pkgs := rfl
@[simp] theorem onSec_ctxs {s u x f} : (onSec s u x f).ctxs = s.ctxs := rfl
@[simp] theorem onSec_queues {s u x f} : (onSec s u x f).queues = s.queues := rfl
@[simp] theorem onSec_launches {s u x f} : (onSec s u x f).launches = s.launches := rfl
@[simp] theorem onSec_blocks {s u x f} : (onSec s u x f).blocks = s.blocks := rfl
@[simp] theorem onSec_groups {s u x f} : (onSec s u x f).groups = s.groups := rfl
@[simp] theorem onSec_groupMsgs {s u x f} : (onSec s u x f).groupMsgs = s.groupMsgs := rfl
@[simp] theorem onSec_invals {s u x f} : (onSec s u x f).invals = s.invals := rfl
@[simp] theorem onSec_wbs {s u x f} : (onSec s u x f).wbs = s.wbs := rfl
@[simp] theorem onSec_faults {s u x f} : (onSec s u x f).faults = s.faults := rfl
@[simp] theorem onSec_hostOut {s u x f} : (onSec s u x f).hostOut = s.hostOut := rfl
@[simp] theorem onSec_agenda {s u x f} : (onSec s u x f).agenda = s.agenda := rfl
@[simp] theorem onSec_nextId {s u x f} : (onSec s u x f).nextId = s.nextId := rfl
@[simp] theorem onSec_tick {s u x f} : (onSec s u x f).tick = s.tick := rfl
@[simp] theorem onSec_free {s u x f} : (onSec s u x f).free = s.free := rfl
/-! `sendGroup` -/
@[simp] theorem sendGroup_cur {s n e} : (sendGroup s n e).cur = s.cur := rfl
@[simp] theorem sendGroup_waves {s n e} : (sendGroup s n e).waves = s.waves := rfl
@[simp] theorem sendGroup_mem {s n e} : (sendGroup s n e).mem = s.mem := rfl
@[simp] theorem sendGroup_hostMem {s n e} : (sendGroup s n e).hostMem = s.hostMem := rfl
@[simp] theorem sendGroup_podRef {s n e} : (sendGroup s n e).podRef = s.podRef := rfl
@[simp] theorem sendGroup_homes {s n e} : (sendGroup s n e).homes = s.homes := rfl
@[simp] theorem sendGroup_sectors {s n e} : (sendGroup s n e).sectors = s.sectors := rfl
@[simp] theorem sendGroup_cds {s n e} : (sendGroup s n e).cds = s.cds := rfl
@[simp] theorem sendGroup_mds {s n e} : (sendGroup s n e).mds = s.mds := rfl
@[simp] theorem sendGroup_cores {s n e} : (sendGroup s n e).cores = s.cores := rfl
@[simp] theorem sendGroup_net {s n e} : (sendGroup s n e).net = s.net := rfl
@[simp] theorem sendGroup_pkgs {s n e} : (sendGroup s n e).pkgs = s.pkgs := rfl
@[simp] theorem sendGroup_ctxs {s n e} : (sendGroup s n e).ctxs = s.ctxs := rfl
@[simp] theorem sendGroup_queues {s n e} : (sendGroup s n e).queues = s.queues := rfl
@[simp] theorem sendGroup_launches {s n e} : (sendGroup s n e).launches = s.launches := rfl
@[simp] theorem sendGroup_blocks {s n e} : (sendGroup s n e).blocks = s.blocks := rfl
@[simp] theorem sendGroup_groups {s n e} : (sendGroup s n e).groups = s.groups := rfl
@[simp] theorem sendGroup_invals {s n e} : (sendGroup s n e).invals = s.invals := rfl
@[simp] theorem sendGroup_wbs {s n e} : (sendGroup s n e).wbs = s.wbs := rfl
@[simp] theorem sendGroup_faults {s n e} : (sendGroup s n e).faults = s.faults := rfl
@[simp] theorem sendGroup_hostOut {s n e} : (sendGroup s n e).hostOut = s.hostOut := rfl
@[simp] theorem sendGroup_agenda {s n e} : (sendGroup s n e).agenda = s.agenda := rfl
@[simp] theorem sendGroup_nextId {s n e} : (sendGroup s n e).nextId = s.nextId := rfl
@[simp] theorem sendGroup_tick {s n e} : (sendGroup s n e).tick = s.tick := rfl
@[simp] theorem sendGroup_free {s n e} : (sendGroup s n e).free = s.free := rfl
/-! `takeId` -/
@[simp] theorem takeId_cur {s} : ((takeId s).2).cur = s.cur := rfl
@[simp] theorem takeId_waves {s} : ((takeId s).2).waves = s.waves := rfl
@[simp] theorem takeId_mem {s} : ((takeId s).2).mem = s.mem := rfl
@[simp] theorem takeId_hostMem {s} : ((takeId s).2).hostMem = s.hostMem := rfl
@[simp] theorem takeId_podRef {s} : ((takeId s).2).podRef = s.podRef := rfl
@[simp] theorem takeId_homes {s} : ((takeId s).2).homes = s.homes := rfl
@[simp] theorem takeId_sectors {s} : ((takeId s).2).sectors = s.sectors := rfl
@[simp] theorem takeId_cds {s} : ((takeId s).2).cds = s.cds := rfl
@[simp] theorem takeId_mds {s} : ((takeId s).2).mds = s.mds := rfl
@[simp] theorem takeId_cores {s} : ((takeId s).2).cores = s.cores := rfl
@[simp] theorem takeId_net {s} : ((takeId s).2).net = s.net := rfl
@[simp] theorem takeId_pkgs {s} : ((takeId s).2).pkgs = s.pkgs := rfl
@[simp] theorem takeId_ctxs {s} : ((takeId s).2).ctxs = s.ctxs := rfl
@[simp] theorem takeId_queues {s} : ((takeId s).2).queues = s.queues := rfl
@[simp] theorem takeId_launches {s} : ((takeId s).2).launches = s.launches := rfl
@[simp] theorem takeId_blocks {s} : ((takeId s).2).blocks = s.blocks := rfl
@[simp] theorem takeId_groups {s} : ((takeId s).2).groups = s.groups := rfl
@[simp] theorem takeId_groupMsgs {s} : ((takeId s).2).groupMsgs = s.groupMsgs := rfl
@[simp] theorem takeId_invals {s} : ((takeId s).2).invals = s.invals := rfl
@[simp] theorem takeId_wbs {s} : ((takeId s).2).wbs = s.wbs := rfl
@[simp] theorem takeId_faults {s} : ((takeId s).2).faults = s.faults := rfl
@[simp] theorem takeId_hostOut {s} : ((takeId s).2).hostOut = s.hostOut := rfl
@[simp] theorem takeId_agenda {s} : ((takeId s).2).agenda = s.agenda := rfl
@[simp] theorem takeId_tick {s} : ((takeId s).2).tick = s.tick := rfl
@[simp] theorem takeId_free {s} : ((takeId s).2).free = s.free := rfl
/-! `freshWord` -/
@[simp] theorem freshWord_cur {s} : ((freshWord s).2).cur = s.cur := rfl
@[simp] theorem freshWord_waves {s} : ((freshWord s).2).waves = s.waves := rfl
@[simp] theorem freshWord_mem {s} : ((freshWord s).2).mem = s.mem := rfl
@[simp] theorem freshWord_hostMem {s} : ((freshWord s).2).hostMem = s.hostMem := rfl
@[simp] theorem freshWord_podRef {s} : ((freshWord s).2).podRef = s.podRef := rfl
@[simp] theorem freshWord_homes {s} : ((freshWord s).2).homes = s.homes := rfl
@[simp] theorem freshWord_sectors {s} : ((freshWord s).2).sectors = s.sectors := rfl
@[simp] theorem freshWord_cds {s} : ((freshWord s).2).cds = s.cds := rfl
@[simp] theorem freshWord_mds {s} : ((freshWord s).2).mds = s.mds := rfl
@[simp] theorem freshWord_cores {s} : ((freshWord s).2).cores = s.cores := rfl
@[simp] theorem freshWord_net {s} : ((freshWord s).2).net = s.net := rfl
@[simp] theorem freshWord_pkgs {s} : ((freshWord s).2).pkgs = s.pkgs := rfl
@[simp] theorem freshWord_ctxs {s} : ((freshWord s).2).ctxs = s.ctxs := rfl
@[simp] theorem freshWord_queues {s} : ((freshWord s).2).queues = s.queues := rfl
@[simp] theorem freshWord_launches {s} : ((freshWord s).2).launches = s.launches := rfl
@[simp] theorem freshWord_blocks {s} : ((freshWord s).2).blocks = s.blocks := rfl
@[simp] theorem freshWord_groups {s} : ((freshWord s).2).groups = s.groups := rfl
@[simp] theorem freshWord_groupMsgs {s} : ((freshWord s).2).groupMsgs = s.groupMsgs := rfl
@[simp] theorem freshWord_invals {s} : ((freshWord s).2).invals = s.invals := rfl
@[simp] theorem freshWord_wbs {s} : ((freshWord s).2).wbs = s.wbs := rfl
@[simp] theorem freshWord_faults {s} : ((freshWord s).2).faults = s.faults := rfl
@[simp] theorem freshWord_hostOut {s} : ((freshWord s).2).hostOut = s.hostOut := rfl
@[simp] theorem freshWord_agenda {s} : ((freshWord s).2).agenda = s.agenda := rfl
@[simp] theorem freshWord_nextId {s} : ((freshWord s).2).nextId = s.nextId := rfl
@[simp] theorem freshWord_tick {s} : ((freshWord s).2).tick = s.tick := rfl
/-! `freshBool` -/
@[simp] theorem freshBool_cur {s} : ((freshBool s).2).cur = s.cur := rfl
@[simp] theorem freshBool_waves {s} : ((freshBool s).2).waves = s.waves := rfl
@[simp] theorem freshBool_mem {s} : ((freshBool s).2).mem = s.mem := rfl
@[simp] theorem freshBool_hostMem {s} : ((freshBool s).2).hostMem = s.hostMem := rfl
@[simp] theorem freshBool_podRef {s} : ((freshBool s).2).podRef = s.podRef := rfl
@[simp] theorem freshBool_homes {s} : ((freshBool s).2).homes = s.homes := rfl
@[simp] theorem freshBool_sectors {s} : ((freshBool s).2).sectors = s.sectors := rfl
@[simp] theorem freshBool_cds {s} : ((freshBool s).2).cds = s.cds := rfl
@[simp] theorem freshBool_mds {s} : ((freshBool s).2).mds = s.mds := rfl
@[simp] theorem freshBool_cores {s} : ((freshBool s).2).cores = s.cores := rfl
@[simp] theorem freshBool_net {s} : ((freshBool s).2).net = s.net := rfl
@[simp] theorem freshBool_pkgs {s} : ((freshBool s).2).pkgs = s.pkgs := rfl
@[simp] theorem freshBool_ctxs {s} : ((freshBool s).2).ctxs = s.ctxs := rfl
@[simp] theorem freshBool_queues {s} : ((freshBool s).2).queues = s.queues := rfl
@[simp] theorem freshBool_launches {s} : ((freshBool s).2).launches = s.launches := rfl
@[simp] theorem freshBool_blocks {s} : ((freshBool s).2).blocks = s.blocks := rfl
@[simp] theorem freshBool_groups {s} : ((freshBool s).2).groups = s.groups := rfl
@[simp] theorem freshBool_groupMsgs {s} : ((freshBool s).2).groupMsgs = s.groupMsgs := rfl
@[simp] theorem freshBool_invals {s} : ((freshBool s).2).invals = s.invals := rfl
@[simp] theorem freshBool_wbs {s} : ((freshBool s).2).wbs = s.wbs := rfl
@[simp] theorem freshBool_faults {s} : ((freshBool s).2).faults = s.faults := rfl
@[simp] theorem freshBool_hostOut {s} : ((freshBool s).2).hostOut = s.hostOut := rfl
@[simp] theorem freshBool_agenda {s} : ((freshBool s).2).agenda = s.agenda := rfl
@[simp] theorem freshBool_nextId {s} : ((freshBool s).2).nextId = s.nextId := rfl
@[simp] theorem freshBool_tick {s} : ((freshBool s).2).tick = s.tick := rfl
/-! `freshMask` -/
@[simp] theorem freshMask_cur {s} : ((freshMask s).2).cur = s.cur := rfl
@[simp] theorem freshMask_waves {s} : ((freshMask s).2).waves = s.waves := rfl
@[simp] theorem freshMask_mem {s} : ((freshMask s).2).mem = s.mem := rfl
@[simp] theorem freshMask_hostMem {s} : ((freshMask s).2).hostMem = s.hostMem := rfl
@[simp] theorem freshMask_podRef {s} : ((freshMask s).2).podRef = s.podRef := rfl
@[simp] theorem freshMask_homes {s} : ((freshMask s).2).homes = s.homes := rfl
@[simp] theorem freshMask_sectors {s} : ((freshMask s).2).sectors = s.sectors := rfl
@[simp] theorem freshMask_cds {s} : ((freshMask s).2).cds = s.cds := rfl
@[simp] theorem freshMask_mds {s} : ((freshMask s).2).mds = s.mds := rfl
@[simp] theorem freshMask_cores {s} : ((freshMask s).2).cores = s.cores := rfl
@[simp] theorem freshMask_net {s} : ((freshMask s).2).net = s.net := rfl
@[simp] theorem freshMask_pkgs {s} : ((freshMask s).2).pkgs = s.pkgs := rfl
@[simp] theorem freshMask_ctxs {s} : ((freshMask s).2).ctxs = s.ctxs := rfl
@[simp] theorem freshMask_queues {s} : ((freshMask s).2).queues = s.queues := rfl
@[simp] theorem freshMask_launches {s} : ((freshMask s).2).launches = s.launches := rfl
@[simp] theorem freshMask_blocks {s} : ((freshMask s).2).blocks = s.blocks := rfl
@[simp] theorem freshMask_groups {s} : ((freshMask s).2).groups = s.groups := rfl
@[simp] theorem freshMask_groupMsgs {s} : ((freshMask s).2).groupMsgs = s.groupMsgs := rfl
@[simp] theorem freshMask_invals {s} : ((freshMask s).2).invals = s.invals := rfl
@[simp] theorem freshMask_wbs {s} : ((freshMask s).2).wbs = s.wbs := rfl
@[simp] theorem freshMask_faults {s} : ((freshMask s).2).faults = s.faults := rfl
@[simp] theorem freshMask_hostOut {s} : ((freshMask s).2).hostOut = s.hostOut := rfl
@[simp] theorem freshMask_agenda {s} : ((freshMask s).2).agenda = s.agenda := rfl
@[simp] theorem freshMask_nextId {s} : ((freshMask s).2).nextId = s.nextId := rfl
@[simp] theorem freshMask_tick {s} : ((freshMask s).2).tick = s.tick := rfl
/-! `onTime` -/
@[simp] theorem onTime_cur {s u f} : (onTime s u f).cur = s.cur := by unfold onTime; (repeat' split) <;> rfl
@[simp] theorem onTime_waves {s u f} : (onTime s u f).waves = s.waves := by unfold onTime; (repeat' split) <;> rfl
@[simp] theorem onTime_mem {s u f} : (onTime s u f).mem = s.mem := by unfold onTime; (repeat' split) <;> rfl
@[simp] theorem onTime_hostMem {s u f} : (onTime s u f).hostMem = s.hostMem := by unfold onTime; (repeat' split) <;> rfl
@[simp] theorem onTime_podRef {s u f} : (onTime s u f).podRef = s.podRef := by unfold onTime; (repeat' split) <;> rfl
@[simp] theorem onTime_homes {s u f} : (onTime s u f).homes = s.homes := by unfold onTime; (repeat' split) <;> rfl
@[simp] theorem onTime_sectors {s u f} : (onTime s u f).sectors = s.sectors := by unfold onTime; (repeat' split) <;> rfl
@[simp] theorem onTime_cores {s u f} : (onTime s u f).cores = s.cores := by unfold onTime; (repeat' split) <;> rfl
@[simp] theorem onTime_net {s u f} : (onTime s u f).net = s.net := by unfold onTime; (repeat' split) <;> rfl
@[simp] theorem onTime_ctxs {s u f} : (onTime s u f).ctxs = s.ctxs := by unfold onTime; (repeat' split) <;> rfl
@[simp] theorem onTime_queues {s u f} : (onTime s u f).queues = s.queues := by unfold onTime; (repeat' split) <;> rfl
@[simp] theorem onTime_launches {s u f} : (onTime s u f).launches = s.launches := by unfold onTime; (repeat' split) <;> rfl
@[simp] theorem onTime_blocks {s u f} : (onTime s u f).blocks = s.blocks := by unfold onTime; (repeat' split) <;> rfl
@[simp] theorem onTime_groups {s u f} : (onTime s u f).groups = s.groups := by unfold onTime; (repeat' split) <;> rfl
@[simp] theorem onTime_groupMsgs {s u f} : (onTime s u f).groupMsgs = s.groupMsgs := by unfold onTime; (repeat' split) <;> rfl
@[simp] theorem onTime_invals {s u f} : (onTime s u f).invals = s.invals := by unfold onTime; (repeat' split) <;> rfl
@[simp] theorem onTime_wbs {s u f} : (onTime s u f).wbs = s.wbs := by unfold onTime; (repeat' split) <;> rfl
@[simp] theorem onTime_faults {s u f} : (onTime s u f).faults = s.faults := by unfold onTime; (repeat' split) <;> rfl
@[simp] theorem onTime_hostOut {s u f} : (onTime s u f).hostOut = s.hostOut := by unfold onTime; (repeat' split) <;> rfl
@[simp] theorem onTime_agenda {s u f} : (onTime s u f).agenda = s.agenda := by unfold onTime; (repeat' split) <;> rfl
@[simp] theorem onTime_nextId {s u f} : (onTime s u f).nextId = s.nextId := by unfold onTime; (repeat' split) <;> rfl
@[simp] theorem onTime_tick {s u f} : (onTime s u f).tick = s.tick := by unfold onTime; (repeat' split) <;> rfl
@[simp] theorem onTime_free {s u f} : (onTime s u f).free = s.free := by unfold onTime; (repeat' split) <;> rfl
/-! `sampleTime` -/
@[simp] theorem sampleTime_cur {s u} : ((sampleTime s u).2).cur = s.cur := by simp [sampleTime]
@[simp] theorem sampleTime_waves {s u} : ((sampleTime s u).2).waves = s.waves := by simp [sampleTime]
@[simp] theorem sampleTime_mem {s u} : ((sampleTime s u).2).mem = s.mem := by simp [sampleTime]
@[simp] theorem sampleTime_hostMem {s u} : ((sampleTime s u).2).hostMem = s.hostMem := by simp [sampleTime]
@[simp] theorem sampleTime_podRef {s u} : ((sampleTime s u).2).podRef = s.podRef := by simp [sampleTime]
@[simp] theorem sampleTime_homes {s u} : ((sampleTime s u).2).homes = s.homes := by simp [sampleTime]
@[simp] theorem sampleTime_sectors {s u} : ((sampleTime s u).2).sectors = s.sectors := by simp [sampleTime]
@[simp] theorem sampleTime_cores {s u} : ((sampleTime s u).2).cores = s.cores := by simp [sampleTime]
@[simp] theorem sampleTime_net {s u} : ((sampleTime s u).2).net = s.net := by simp [sampleTime]
@[simp] theorem sampleTime_ctxs {s u} : ((sampleTime s u).2).ctxs = s.ctxs := by simp [sampleTime]
@[simp] theorem sampleTime_queues {s u} : ((sampleTime s u).2).queues = s.queues := by simp [sampleTime]
@[simp] theorem sampleTime_launches {s u} : ((sampleTime s u).2).launches = s.launches := by simp [sampleTime]
@[simp] theorem sampleTime_blocks {s u} : ((sampleTime s u).2).blocks = s.blocks := by simp [sampleTime]
@[simp] theorem sampleTime_groups {s u} : ((sampleTime s u).2).groups = s.groups := by simp [sampleTime]
@[simp] theorem sampleTime_groupMsgs {s u} : ((sampleTime s u).2).groupMsgs = s.groupMsgs := by simp [sampleTime]
@[simp] theorem sampleTime_invals {s u} : ((sampleTime s u).2).invals = s.invals := by simp [sampleTime]
@[simp] theorem sampleTime_wbs {s u} : ((sampleTime s u).2).wbs = s.wbs := by simp [sampleTime]
@[simp] theorem sampleTime_faults {s u} : ((sampleTime s u).2).faults = s.faults := by simp [sampleTime]
@[simp] theorem sampleTime_hostOut {s u} : ((sampleTime s u).2).hostOut = s.hostOut := by simp [sampleTime]
@[simp] theorem sampleTime_agenda {s u} : ((sampleTime s u).2).agenda = s.agenda := by simp [sampleTime]
@[simp] theorem sampleTime_nextId {s u} : ((sampleTime s u).2).nextId = s.nextId := by simp [sampleTime]
@[simp] theorem sampleTime_tick {s u} : ((sampleTime s u).2).tick = s.tick := by simp [sampleTime]
/-! `growErr` -/
@[simp] theorem growErr_cur {s u} : (growErr s u).cur = s.cur := by simp [growErr]
@[simp] theorem growErr_waves {s u} : (growErr s u).waves = s.waves := by simp [growErr]
@[simp] theorem growErr_mem {s u} : (growErr s u).mem = s.mem := by simp [growErr]
@[simp] theorem growErr_hostMem {s u} : (growErr s u).hostMem = s.hostMem := by simp [growErr]
@[simp] theorem growErr_podRef {s u} : (growErr s u).podRef = s.podRef := by simp [growErr]
@[simp] theorem growErr_homes {s u} : (growErr s u).homes = s.homes := by simp [growErr]
@[simp] theorem growErr_sectors {s u} : (growErr s u).sectors = s.sectors := by simp [growErr]
@[simp] theorem growErr_cores {s u} : (growErr s u).cores = s.cores := by simp [growErr]
@[simp] theorem growErr_net {s u} : (growErr s u).net = s.net := by simp [growErr]
@[simp] theorem growErr_ctxs {s u} : (growErr s u).ctxs = s.ctxs := by simp [growErr]
@[simp] theorem growErr_queues {s u} : (growErr s u).queues = s.queues := by simp [growErr]
@[simp] theorem growErr_launches {s u} : (growErr s u).launches = s.launches := by simp [growErr]
@[simp] theorem growErr_blocks {s u} : (growErr s u).blocks = s.blocks := by simp [growErr]
@[simp] theorem growErr_groups {s u} : (growErr s u).groups = s.groups := by simp [growErr]
@[simp] theorem growErr_groupMsgs {s u} : (growErr s u).groupMsgs = s.groupMsgs := by simp [growErr]
@[simp] theorem growErr_invals {s u} : (growErr s u).invals = s.invals := by simp [growErr]
@[simp] theorem growErr_wbs {s u} : (growErr s u).wbs = s.wbs := by simp [growErr]
@[simp] theorem growErr_faults {s u} : (growErr s u).faults = s.faults := by simp [growErr]
@[simp] theorem growErr_hostOut {s u} : (growErr s u).hostOut = s.hostOut := by simp [growErr]
@[simp] theorem growErr_agenda {s u} : (growErr s u).agenda = s.agenda := by simp [growErr]
@[simp] theorem growErr_nextId {s u} : (growErr s u).nextId = s.nextId := by simp [growErr]
@[simp] theorem growErr_tick {s u} : (growErr s u).tick = s.tick := by simp [growErr]
/-! `waveRec` -/
@[simp] theorem waveRec_cur {s w c code pc ad plm park kill dbl} : ((waveRec s w c code pc ad plm park kill dbl).2).cur = s.cur := by simp [waveRec]
@[simp] theorem waveRec_waves {s w c code pc ad plm park kill dbl} : ((waveRec s w c code pc ad plm park kill dbl).2).waves = s.waves := by simp [waveRec]
@[simp] theorem waveRec_mem {s w c code pc ad plm park kill dbl} : ((waveRec s w c code pc ad plm park kill dbl).2).mem = s.mem := by simp [waveRec]
@[simp] theorem waveRec_hostMem {s w c code pc ad plm park kill dbl} : ((waveRec s w c code pc ad plm park kill dbl).2).hostMem = s.hostMem := by simp [waveRec]
@[simp] theorem waveRec_podRef {s w c code pc ad plm park kill dbl} : ((waveRec s w c code pc ad plm park kill dbl).2).podRef = s.podRef := by simp [waveRec]
@[simp] theorem waveRec_homes {s w c code pc ad plm park kill dbl} : ((waveRec s w c code pc ad plm park kill dbl).2).homes = s.homes := by simp [waveRec]
@[simp] theorem waveRec_sectors {s w c code pc ad plm park kill dbl} : ((waveRec s w c code pc ad plm park kill dbl).2).sectors = s.sectors := by simp [waveRec]
@[simp] theorem waveRec_cores {s w c code pc ad plm park kill dbl} : ((waveRec s w c code pc ad plm park kill dbl).2).cores = s.cores := by simp [waveRec]
@[simp] theorem waveRec_net {s w c code pc ad plm park kill dbl} : ((waveRec s w c code pc ad plm park kill dbl).2).net = s.net := by simp [waveRec]
@[simp] theorem waveRec_ctxs {s w c code pc ad plm park kill dbl} : ((waveRec s w c code pc ad plm park kill dbl).2).ctxs = s.ctxs := by simp [waveRec]
@[simp] theorem waveRec_queues {s w c code pc ad plm park kill dbl} : ((waveRec s w c code pc ad plm park kill dbl).2).queues = s.queues := by simp [waveRec]
@[simp] theorem waveRec_launches {s w c code pc ad plm park kill dbl} : ((waveRec s w c code pc ad plm park kill dbl).2).launches = s.launches := by simp [waveRec]
@[simp] theorem waveRec_blocks {s w c code pc ad plm park kill dbl} : ((waveRec s w c code pc ad plm park kill dbl).2).blocks = s.blocks := by simp [waveRec]
@[simp] theorem waveRec_groups {s w c code pc ad plm park kill dbl} : ((waveRec s w c code pc ad plm park kill dbl).2).groups = s.groups := by simp [waveRec]
@[simp] theorem waveRec_groupMsgs {s w c code pc ad plm park kill dbl} : ((waveRec s w c code pc ad plm park kill dbl).2).groupMsgs = s.groupMsgs := by simp [waveRec]
@[simp] theorem waveRec_invals {s w c code pc ad plm park kill dbl} : ((waveRec s w c code pc ad plm park kill dbl).2).invals = s.invals := by simp [waveRec]
@[simp] theorem waveRec_wbs {s w c code pc ad plm park kill dbl} : ((waveRec s w c code pc ad plm park kill dbl).2).wbs = s.wbs := by simp [waveRec]
@[simp] theorem waveRec_faults {s w c code pc ad plm park kill dbl} : ((waveRec s w c code pc ad plm park kill dbl).2).faults = s.faults := by simp [waveRec]
@[simp] theorem waveRec_hostOut {s w c code pc ad plm park kill dbl} : ((waveRec s w c code pc ad plm park kill dbl).2).hostOut = s.hostOut := by simp [waveRec]
@[simp] theorem waveRec_agenda {s w c code pc ad plm park kill dbl} : ((waveRec s w c code pc ad plm park kill dbl).2).agenda = s.agenda := by simp [waveRec]
@[simp] theorem waveRec_nextId {s w c code pc ad plm park kill dbl} : ((waveRec s w c code pc ad plm park kill dbl).2).nextId = s.nextId := by simp [waveRec]
@[simp] theorem waveRec_tick {s w c code pc ad plm park kill dbl} : ((waveRec s w c code pc ad plm park kill dbl).2).tick = s.tick := by simp [waveRec]
/-! `wakeMonitor` -/
@[simp] theorem wakeMonitor_cur {s u x} : (wakeMonitor s u x).cur = s.cur := by unfold wakeMonitor; split <;> rfl
@[simp] theorem wakeMonitor_waves {s u x} : (wakeMonitor s u x).waves = s.waves := by unfold wakeMonitor; split <;> rfl
@[simp] theorem wakeMonitor_mem {s u x} : (wakeMonitor s u x).mem = s.mem := by unfold wakeMonitor; split <;> rfl
@[simp] theorem wakeMonitor_hostMem {s u x} : (wakeMonitor s u x).hostMem = s.hostMem := by unfold wakeMonitor; split <;> rfl
@[simp] theorem wakeMonitor_podRef {s u x} : (wakeMonitor s u x).podRef = s.podRef := by unfold wakeMonitor; split <;> rfl
@[simp] theorem wakeMonitor_homes {s u x} : (wakeMonitor s u x).homes = s.homes := by unfold wakeMonitor; split <;> rfl
@[simp] theorem wakeMonitor_cds {s u x} : (wakeMonitor s u x).cds = s.cds := by unfold wakeMonitor; split <;> rfl
@[simp] theorem wakeMonitor_mds {s u x} : (wakeMonitor s u x).mds = s.mds := by unfold wakeMonitor; split <;> rfl
@[simp] theorem wakeMonitor_cores {s u x} : (wakeMonitor s u x).cores = s.cores := by unfold wakeMonitor; split <;> rfl
@[simp] theorem wakeMonitor_net {s u x} : (wakeMonitor s u x).net = s.net := by unfold wakeMonitor; split <;> rfl
@[simp] theorem wakeMonitor_pkgs {s u x} : (wakeMonitor s u x).pkgs = s.pkgs := by unfold wakeMonitor; split <;> rfl
@[simp] theorem wakeMonitor_ctxs {s u x} : (wakeMonitor s u x).ctxs = s.ctxs := by unfold wakeMonitor; split <;> rfl
@[simp] theorem wakeMonitor_queues {s u x} : (wakeMonitor s u x).queues = s.queues := by unfold wakeMonitor; split <;> rfl
@[simp] theorem wakeMonitor_launches {s u x} : (wakeMonitor s u x).launches = s.launches := by unfold wakeMonitor; split <;> rfl
@[simp] theorem wakeMonitor_blocks {s u x} : (wakeMonitor s u x).blocks = s.blocks := by unfold wakeMonitor; split <;> rfl
@[simp] theorem wakeMonitor_groups {s u x} : (wakeMonitor s u x).groups = s.groups := by unfold wakeMonitor; split <;> rfl
@[simp] theorem wakeMonitor_groupMsgs {s u x} : (wakeMonitor s u x).groupMsgs = s.groupMsgs := by unfold wakeMonitor; split <;> rfl
@[simp] theorem wakeMonitor_invals {s u x} : (wakeMonitor s u x).invals = s.invals := by unfold wakeMonitor; split <;> rfl
@[simp] theorem wakeMonitor_wbs {s u x} : (wakeMonitor s u x).wbs = s.wbs := by unfold wakeMonitor; split <;> rfl
@[simp] theorem wakeMonitor_faults {s u x} : (wakeMonitor s u x).faults = s.faults := by unfold wakeMonitor; split <;> rfl
@[simp] theorem wakeMonitor_hostOut {s u x} : (wakeMonitor s u x).hostOut = s.hostOut := by unfold wakeMonitor; split <;> rfl
@[simp] theorem wakeMonitor_agenda {s u x} : (wakeMonitor s u x).agenda = s.agenda := by unfold wakeMonitor; split <;> rfl
@[simp] theorem wakeMonitor_nextId {s u x} : (wakeMonitor s u x).nextId = s.nextId := by unfold wakeMonitor; split <;> rfl
@[simp] theorem wakeMonitor_tick {s u x} : (wakeMonitor s u x).tick = s.tick := by unfold wakeMonitor; split <;> rfl
@[simp] theorem wakeMonitor_free {s u x} : (wakeMonitor s u x).free = s.free := by unfold wakeMonitor; split <;> rfl
/-! `startWalks` -/
@[simp] theorem startWalks_cur {s w ps} : (startWalks s w ps).cur = s.cur := by
  unfold startWalks
  induction ps generalizing s with
  | nil => rfl
  | cons p ps ih => exact ih
@[simp] theorem startWalks_waves {s w ps} : (startWalks s w ps).waves = s.waves := by
  unfold startWalks
  induction ps generalizing s with
  | nil => rfl
  | cons p ps ih => exact ih
@[simp] theorem startWalks_mem {s w ps} : (startWalks s w ps).mem = s.mem := by
  unfold startWalks
  induction ps generalizing s with
  | nil => rfl
  | cons p ps ih => exact ih
@[simp] theorem startWalks_hostMem {s w ps} : (startWalks s w ps).hostMem = s.hostMem := by
  unfold startWalks
  induction ps generalizing s with
  | nil => rfl
  | cons p ps ih => exact ih
@[simp] theorem startWalks_podRef {s w ps} : (startWalks s w ps).podRef = s.podRef := by
  unfold startWalks
  induction ps generalizing s with
  | nil => rfl
  | cons p ps ih => exact ih
@[simp] theorem startWalks_homes {s w ps} : (startWalks s w ps).homes = s.homes := by
  unfold startWalks
  induction ps generalizing s with
  | nil => rfl
  | cons p ps ih => exact ih
@[simp] theorem startWalks_sectors {s w ps} : (startWalks s w ps).sectors = s.sectors := by
  unfold startWalks
  induction ps generalizing s with
  | nil => rfl
  | cons p ps ih => exact ih
@[simp] theorem startWalks_mds {s w ps} : (startWalks s w ps).mds = s.mds := by
  unfold startWalks
  induction ps generalizing s with
  | nil => rfl
  | cons p ps ih => exact ih
@[simp] theorem startWalks_cores {s w ps} : (startWalks s w ps).cores = s.cores := by
  unfold startWalks
  induction ps generalizing s with
  | nil => rfl
  | cons p ps ih => exact ih
@[simp] theorem startWalks_net {s w ps} : (startWalks s w ps).net = s.net := by
  unfold startWalks
  induction ps generalizing s with
  | nil => rfl
  | cons p ps ih => exact ih
@[simp] theorem startWalks_pkgs {s w ps} : (startWalks s w ps).pkgs = s.pkgs := by
  unfold startWalks
  induction ps generalizing s with
  | nil => rfl
  | cons p ps ih => exact ih
@[simp] theorem startWalks_ctxs {s w ps} : (startWalks s w ps).ctxs = s.ctxs := by
  unfold startWalks
  induction ps generalizing s with
  | nil => rfl
  | cons p ps ih => exact ih
@[simp] theorem startWalks_queues {s w ps} : (startWalks s w ps).queues = s.queues := by
  unfold startWalks
  induction ps generalizing s with
  | nil => rfl
  | cons p ps ih => exact ih
@[simp] theorem startWalks_launches {s w ps} : (startWalks s w ps).launches = s.launches := by
  unfold startWalks
  induction ps generalizing s with
  | nil => rfl
  | cons p ps ih => exact ih
@[simp] theorem startWalks_blocks {s w ps} : (startWalks s w ps).blocks = s.blocks := by
  unfold startWalks
  induction ps generalizing s with
  | nil => rfl
  | cons p ps ih => exact ih
@[simp] theorem startWalks_groups {s w ps} : (startWalks s w ps).groups = s.groups := by
  unfold startWalks
  induction ps generalizing s with
  | nil => rfl
  | cons p ps ih => exact ih
@[simp] theorem startWalks_groupMsgs {s w ps} : (startWalks s w ps).groupMsgs = s.groupMsgs := by
  unfold startWalks
  induction ps generalizing s with
  | nil => rfl
  | cons p ps ih => exact ih
@[simp] theorem startWalks_invals {s w ps} : (startWalks s w ps).invals = s.invals := by
  unfold startWalks
  induction ps generalizing s with
  | nil => rfl
  | cons p ps ih => exact ih
@[simp] theorem startWalks_wbs {s w ps} : (startWalks s w ps).wbs = s.wbs := by
  unfold startWalks
  induction ps generalizing s with
  | nil => rfl
  | cons p ps ih => exact ih
@[simp] theorem startWalks_faults {s w ps} : (startWalks s w ps).faults = s.faults := by
  unfold startWalks
  induction ps generalizing s with
  | nil => rfl
  | cons p ps ih => exact ih
@[simp] theorem startWalks_hostOut {s w ps} : (startWalks s w ps).hostOut = s.hostOut := by
  unfold startWalks
  induction ps generalizing s with
  | nil => rfl
  | cons p ps ih => exact ih
@[simp] theorem startWalks_agenda {s w ps} : (startWalks s w ps).agenda = s.agenda := by
  unfold startWalks
  induction ps generalizing s with
  | nil => rfl
  | cons p ps ih => exact ih
@[simp] theorem startWalks_nextId {s w ps} : (startWalks s w ps).nextId = s.nextId := by
  unfold startWalks
  induction ps generalizing s with
  | nil => rfl
  | cons p ps ih => exact ih
@[simp] theorem startWalks_tick {s w ps} : (startWalks s w ps).tick = s.tick := by
  unfold startWalks
  induction ps generalizing s with
  | nil => rfl
  | cons p ps ih => exact ih
@[simp] theorem startWalks_free {s w ps} : (startWalks s w ps).free = s.free := by
  unfold startWalks
  induction ps generalizing s with
  | nil => rfl
  | cons p ps ih => exact ih
/-! The wave that an operation changes -/
@[simp] theorem mapA_cur_id {s f} : (mapA s f).cur.id = s.cur.id := rfl
@[simp] theorem mapA_cur_live {s f} : (mapA s f).cur.live = s.cur.live := rfl
@[simp] theorem mapA_cur_handler {s f} : (mapA s f).cur.handler = s.cur.handler := rfl
@[simp] theorem mapA_cur_blk {s f} : (mapA s f).cur.blk = s.cur.blk := rfl
@[simp] theorem mapA_cur_k {s f} : (mapA s f).cur.k = s.cur.k := rfl
@[simp] theorem mapA_cur_ctx {s f} : (mapA s f).cur.ctx = s.cur.ctx := rfl
@[simp] theorem mapA_cur_vlimit {s f} : (mapA s f).cur.vlimit = s.cur.vlimit := rfl
@[simp] theorem mapA_cur_code {s f} : (mapA s f).cur.code = s.cur.code := rfl
@[simp] theorem mapA_cur_priv {s f} : (mapA s f).cur.priv = s.cur.priv := rfl
@[simp] theorem mapA_cur_hold {s f} : (mapA s f).cur.hold = s.cur.hold := rfl
@[simp] theorem mapA_cur_active {s f} : (mapA s f).cur.active = s.cur.active := rfl
@[simp] theorem mapA_cur_since {s f} : (mapA s f).cur.since = s.cur.since := rfl
@[simp] theorem mapA_cur_passed {s f} : (mapA s f).cur.passed = s.cur.passed := rfl
@[simp] theorem mapA_cur_ops {s f} : (mapA s f).cur.ops = s.cur.ops := rfl
@[simp] theorem mapA_cur_window {s f} : (mapA s f).cur.window = s.cur.window := rfl
@[simp] theorem mapA_cur_seq {s f} : (mapA s f).cur.seq = s.cur.seq := rfl
@[simp] theorem mapA_cur_xres {s f} : (mapA s f).cur.xres = s.cur.xres := rfl
@[simp] theorem mapA_cur_groups {s f} : (mapA s f).cur.groups = s.cur.groups := rfl
@[simp] theorem mapA_cur_rlost {s f} : (mapA s f).cur.rlost = s.cur.rlost := rfl
@[simp] theorem mapA_cur_preempt {s f} : (mapA s f).cur.preempt = s.cur.preempt := rfl
@[simp] theorem mapA_cur_replays {s f} : (mapA s f).cur.replays = s.cur.replays := rfl
@[simp] theorem mapA_cur_focus {s f} : (mapA s f).cur.focus = s.cur.focus := rfl
@[simp] theorem advance_cur_id {s} : (advance s).cur.id = s.cur.id := rfl
@[simp] theorem advance_cur_live {s} : (advance s).cur.live = s.cur.live := rfl
@[simp] theorem advance_cur_handler {s} : (advance s).cur.handler = s.cur.handler := rfl
@[simp] theorem advance_cur_blk {s} : (advance s).cur.blk = s.cur.blk := rfl
@[simp] theorem advance_cur_k {s} : (advance s).cur.k = s.cur.k := rfl
@[simp] theorem advance_cur_ctx {s} : (advance s).cur.ctx = s.cur.ctx := rfl
@[simp] theorem advance_cur_vlimit {s} : (advance s).cur.vlimit = s.cur.vlimit := rfl
@[simp] theorem advance_cur_code {s} : (advance s).cur.code = s.cur.code := rfl
@[simp] theorem advance_cur_priv {s} : (advance s).cur.priv = s.cur.priv := rfl
@[simp] theorem advance_cur_hold {s} : (advance s).cur.hold = s.cur.hold := rfl
@[simp] theorem advance_cur_active {s} : (advance s).cur.active = s.cur.active := rfl
@[simp] theorem advance_cur_since {s} : (advance s).cur.since = s.cur.since := rfl
@[simp] theorem advance_cur_passed {s} : (advance s).cur.passed = s.cur.passed := rfl
@[simp] theorem advance_cur_ops {s} : (advance s).cur.ops = s.cur.ops := rfl
@[simp] theorem advance_cur_window {s} : (advance s).cur.window = s.cur.window := rfl
@[simp] theorem advance_cur_seq {s} : (advance s).cur.seq = s.cur.seq := rfl
@[simp] theorem advance_cur_xres {s} : (advance s).cur.xres = s.cur.xres := rfl
@[simp] theorem advance_cur_groups {s} : (advance s).cur.groups = s.cur.groups := rfl
@[simp] theorem advance_cur_rlost {s} : (advance s).cur.rlost = s.cur.rlost := rfl
@[simp] theorem advance_cur_preempt {s} : (advance s).cur.preempt = s.cur.preempt := rfl
@[simp] theorem advance_cur_replays {s} : (advance s).cur.replays = s.cur.replays := rfl
@[simp] theorem advance_cur_focus {s} : (advance s).cur.focus = s.cur.focus := rfl
@[simp] theorem jump_cur_id {s t} : (jump s t).cur.id = s.cur.id := rfl
@[simp] theorem jump_cur_live {s t} : (jump s t).cur.live = s.cur.live := rfl
@[simp] theorem jump_cur_handler {s t} : (jump s t).cur.handler = s.cur.handler := rfl
@[simp] theorem jump_cur_blk {s t} : (jump s t).cur.blk = s.cur.blk := rfl
@[simp] theorem jump_cur_k {s t} : (jump s t).cur.k = s.cur.k := rfl
@[simp] theorem jump_cur_ctx {s t} : (jump s t).cur.ctx = s.cur.ctx := rfl
@[simp] theorem jump_cur_vlimit {s t} : (jump s t).cur.vlimit = s.cur.vlimit := rfl
@[simp] theorem jump_cur_code {s t} : (jump s t).cur.code = s.cur.code := rfl
@[simp] theorem jump_cur_priv {s t} : (jump s t).cur.priv = s.cur.priv := rfl
@[simp] theorem jump_cur_hold {s t} : (jump s t).cur.hold = s.cur.hold := rfl
@[simp] theorem jump_cur_active {s t} : (jump s t).cur.active = s.cur.active := rfl
@[simp] theorem jump_cur_since {s t} : (jump s t).cur.since = s.cur.since := rfl
@[simp] theorem jump_cur_passed {s t} : (jump s t).cur.passed = s.cur.passed := rfl
@[simp] theorem jump_cur_ops {s t} : (jump s t).cur.ops = s.cur.ops := rfl
@[simp] theorem jump_cur_window {s t} : (jump s t).cur.window = s.cur.window := rfl
@[simp] theorem jump_cur_seq {s t} : (jump s t).cur.seq = s.cur.seq := rfl
@[simp] theorem jump_cur_xres {s t} : (jump s t).cur.xres = s.cur.xres := rfl
@[simp] theorem jump_cur_groups {s t} : (jump s t).cur.groups = s.cur.groups := rfl
@[simp] theorem jump_cur_rlost {s t} : (jump s t).cur.rlost = s.cur.rlost := rfl
@[simp] theorem jump_cur_preempt {s t} : (jump s t).cur.preempt = s.cur.preempt := rfl
@[simp] theorem jump_cur_replays {s t} : (jump s t).cur.replays = s.cur.replays := rfl
@[simp] theorem jump_cur_focus {s t} : (jump s t).cur.focus = s.cur.focus := rfl
@[simp] theorem setS_cur_id {s r x} : (setS s r x).cur.id = s.cur.id := rfl
@[simp] theorem setS_cur_live {s r x} : (setS s r x).cur.live = s.cur.live := rfl
@[simp] theorem setS_cur_handler {s r x} : (setS s r x).cur.handler = s.cur.handler := rfl
@[simp] theorem setS_cur_blk {s r x} : (setS s r x).cur.blk = s.cur.blk := rfl
@[simp] theorem setS_cur_k {s r x} : (setS s r x).cur.k = s.cur.k := rfl
@[simp] theorem setS_cur_ctx {s r x} : (setS s r x).cur.ctx = s.cur.ctx := rfl
@[simp] theorem setS_cur_vlimit {s r x} : (setS s r x).cur.vlimit = s.cur.vlimit := rfl
@[simp] theorem setS_cur_code {s r x} : (setS s r x).cur.code = s.cur.code := rfl
@[simp] theorem setS_cur_priv {s r x} : (setS s r x).cur.priv = s.cur.priv := rfl
@[simp] theorem setS_cur_hold {s r x} : (setS s r x).cur.hold = s.cur.hold := rfl
@[simp] theorem setS_cur_active {s r x} : (setS s r x).cur.active = s.cur.active := rfl
@[simp] theorem setS_cur_since {s r x} : (setS s r x).cur.since = s.cur.since := rfl
@[simp] theorem setS_cur_passed {s r x} : (setS s r x).cur.passed = s.cur.passed := rfl
@[simp] theorem setS_cur_ops {s r x} : (setS s r x).cur.ops = s.cur.ops := rfl
@[simp] theorem setS_cur_window {s r x} : (setS s r x).cur.window = s.cur.window := rfl
@[simp] theorem setS_cur_seq {s r x} : (setS s r x).cur.seq = s.cur.seq := rfl
@[simp] theorem setS_cur_xres {s r x} : (setS s r x).cur.xres = s.cur.xres := rfl
@[simp] theorem setS_cur_groups {s r x} : (setS s r x).cur.groups = s.cur.groups := rfl
@[simp] theorem setS_cur_rlost {s r x} : (setS s r x).cur.rlost = s.cur.rlost := rfl
@[simp] theorem setS_cur_preempt {s r x} : (setS s r x).cur.preempt = s.cur.preempt := rfl
@[simp] theorem setS_cur_replays {s r x} : (setS s r x).cur.replays = s.cur.replays := rfl
@[simp] theorem setS_cur_focus {s r x} : (setS s r x).cur.focus = s.cur.focus := rfl
@[simp] theorem mapA_cur_a {s f} : (mapA s f).cur.a = f s.cur.a := rfl
@[simp] theorem advance_cur_a {s} : (advance s).cur.a = { s.cur.a with pc := s.cur.a.pc + 4 } := rfl
@[simp] theorem jump_cur_a {s t} : (jump s t).cur.a = { s.cur.a with pc := t } := rfl
@[simp] theorem setS_cur_a {s r x} : (setS s r x).cur.a = writeS (isHandler s.cur) s.cur.a r x := rfl
@[simp] theorem stall_cur_a {s} : (stall s).cur.a = s.cur.a := rfl
@[simp] theorem holdCur_cur_a {s h} : (holdCur s h).cur.a = s.cur.a := rfl
@[simp] theorem issue_cur_a {s} : (issue s).cur.a = s.cur.a := rfl
@[simp] theorem issueNow_cur_a {s} : (issueNow s).cur.a = s.cur.a := rfl
@[simp] theorem stall_cur_id {s} : (stall s).cur.id = s.cur.id := rfl
@[simp] theorem holdCur_cur_id {s h} : (holdCur s h).cur.id = s.cur.id := rfl
@[simp] theorem issue_cur_id {s} : (issue s).cur.id = s.cur.id := rfl
@[simp] theorem issueNow_cur_id {s} : (issueNow s).cur.id = s.cur.id := rfl
@[simp] theorem stall_cur_live {s} : (stall s).cur.live = s.cur.live := rfl
@[simp] theorem holdCur_cur_live {s h} : (holdCur s h).cur.live = s.cur.live := rfl
@[simp] theorem issue_cur_live {s} : (issue s).cur.live = s.cur.live := rfl
@[simp] theorem issueNow_cur_live {s} : (issueNow s).cur.live = s.cur.live := rfl
@[simp] theorem stall_cur_handler {s} : (stall s).cur.handler = s.cur.handler := rfl
@[simp] theorem holdCur_cur_handler {s h} : (holdCur s h).cur.handler = s.cur.handler := rfl
@[simp] theorem issue_cur_handler {s} : (issue s).cur.handler = s.cur.handler := rfl
@[simp] theorem issueNow_cur_handler {s} : (issueNow s).cur.handler = s.cur.handler := rfl
@[simp] theorem stall_cur_blk {s} : (stall s).cur.blk = s.cur.blk := rfl
@[simp] theorem holdCur_cur_blk {s h} : (holdCur s h).cur.blk = s.cur.blk := rfl
@[simp] theorem issue_cur_blk {s} : (issue s).cur.blk = s.cur.blk := rfl
@[simp] theorem issueNow_cur_blk {s} : (issueNow s).cur.blk = s.cur.blk := rfl
@[simp] theorem stall_cur_k {s} : (stall s).cur.k = s.cur.k := rfl
@[simp] theorem holdCur_cur_k {s h} : (holdCur s h).cur.k = s.cur.k := rfl
@[simp] theorem issue_cur_k {s} : (issue s).cur.k = s.cur.k := rfl
@[simp] theorem issueNow_cur_k {s} : (issueNow s).cur.k = s.cur.k := rfl
@[simp] theorem stall_cur_ctx {s} : (stall s).cur.ctx = s.cur.ctx := rfl
@[simp] theorem holdCur_cur_ctx {s h} : (holdCur s h).cur.ctx = s.cur.ctx := rfl
@[simp] theorem issue_cur_ctx {s} : (issue s).cur.ctx = s.cur.ctx := rfl
@[simp] theorem issueNow_cur_ctx {s} : (issueNow s).cur.ctx = s.cur.ctx := rfl
@[simp] theorem stall_cur_vlimit {s} : (stall s).cur.vlimit = s.cur.vlimit := rfl
@[simp] theorem holdCur_cur_vlimit {s h} : (holdCur s h).cur.vlimit = s.cur.vlimit := rfl
@[simp] theorem issue_cur_vlimit {s} : (issue s).cur.vlimit = s.cur.vlimit := rfl
@[simp] theorem issueNow_cur_vlimit {s} : (issueNow s).cur.vlimit = s.cur.vlimit := rfl
@[simp] theorem stall_cur_code {s} : (stall s).cur.code = s.cur.code := rfl
@[simp] theorem holdCur_cur_code {s h} : (holdCur s h).cur.code = s.cur.code := rfl
@[simp] theorem issue_cur_code {s} : (issue s).cur.code = s.cur.code := rfl
@[simp] theorem issueNow_cur_code {s} : (issueNow s).cur.code = s.cur.code := rfl
@[simp] theorem stall_cur_priv {s} : (stall s).cur.priv = s.cur.priv := rfl
@[simp] theorem holdCur_cur_priv {s h} : (holdCur s h).cur.priv = s.cur.priv := rfl
@[simp] theorem issue_cur_priv {s} : (issue s).cur.priv = s.cur.priv := rfl
@[simp] theorem issueNow_cur_priv {s} : (issueNow s).cur.priv = s.cur.priv := rfl
@[simp] theorem issue_cur_hold {s} : (issue s).cur.hold = s.cur.hold := rfl
@[simp] theorem issueNow_cur_hold {s} : (issueNow s).cur.hold = s.cur.hold := rfl
@[simp] theorem stall_cur_active {s} : (stall s).cur.active = s.cur.active := rfl
@[simp] theorem holdCur_cur_active {s h} : (holdCur s h).cur.active = s.cur.active := rfl
@[simp] theorem issue_cur_active {s} : (issue s).cur.active = s.cur.active := rfl
@[simp] theorem issueNow_cur_active {s} : (issueNow s).cur.active = s.cur.active := rfl
@[simp] theorem stall_cur_since {s} : (stall s).cur.since = s.cur.since := rfl
@[simp] theorem holdCur_cur_since {s h} : (holdCur s h).cur.since = s.cur.since := rfl
@[simp] theorem issue_cur_since {s} : (issue s).cur.since = s.cur.since := rfl
@[simp] theorem issueNow_cur_since {s} : (issueNow s).cur.since = s.cur.since := rfl
@[simp] theorem holdCur_cur_passed {s h} : (holdCur s h).cur.passed = s.cur.passed := rfl
@[simp] theorem stall_cur_ops {s} : (stall s).cur.ops = s.cur.ops := rfl
@[simp] theorem holdCur_cur_ops {s h} : (holdCur s h).cur.ops = s.cur.ops := rfl
@[simp] theorem stall_cur_window {s} : (stall s).cur.window = s.cur.window := rfl
@[simp] theorem holdCur_cur_window {s h} : (holdCur s h).cur.window = s.cur.window := rfl
@[simp] theorem stall_cur_seq {s} : (stall s).cur.seq = s.cur.seq := rfl
@[simp] theorem holdCur_cur_seq {s h} : (holdCur s h).cur.seq = s.cur.seq := rfl
@[simp] theorem stall_cur_xres {s} : (stall s).cur.xres = s.cur.xres := rfl
@[simp] theorem holdCur_cur_xres {s h} : (holdCur s h).cur.xres = s.cur.xres := rfl
@[simp] theorem stall_cur_groups {s} : (stall s).cur.groups = s.cur.groups := rfl
@[simp] theorem holdCur_cur_groups {s h} : (holdCur s h).cur.groups = s.cur.groups := rfl
@[simp] theorem issue_cur_groups {s} : (issue s).cur.groups = s.cur.groups := rfl
@[simp] theorem issueNow_cur_groups {s} : (issueNow s).cur.groups = s.cur.groups := rfl
@[simp] theorem stall_cur_rlost {s} : (stall s).cur.rlost = s.cur.rlost := rfl
@[simp] theorem holdCur_cur_rlost {s h} : (holdCur s h).cur.rlost = s.cur.rlost := rfl
@[simp] theorem issue_cur_rlost {s} : (issue s).cur.rlost = s.cur.rlost := rfl
@[simp] theorem issueNow_cur_rlost {s} : (issueNow s).cur.rlost = s.cur.rlost := rfl
@[simp] theorem stall_cur_preempt {s} : (stall s).cur.preempt = s.cur.preempt := rfl
@[simp] theorem holdCur_cur_preempt {s h} : (holdCur s h).cur.preempt = s.cur.preempt := rfl
@[simp] theorem issue_cur_preempt {s} : (issue s).cur.preempt = s.cur.preempt := rfl
@[simp] theorem issueNow_cur_preempt {s} : (issueNow s).cur.preempt = s.cur.preempt := rfl
@[simp] theorem stall_cur_replays {s} : (stall s).cur.replays = s.cur.replays := rfl
@[simp] theorem holdCur_cur_replays {s h} : (holdCur s h).cur.replays = s.cur.replays := rfl
@[simp] theorem stall_cur_focus {s} : (stall s).cur.focus = s.cur.focus := rfl
@[simp] theorem holdCur_cur_focus {s h} : (holdCur s h).cur.focus = s.cur.focus := rfl
@[simp] theorem issue_cur_focus {s} : (issue s).cur.focus = s.cur.focus := rfl
@[simp] theorem issueNow_cur_focus {s} : (issueNow s).cur.focus = s.cur.focus := rfl
@[simp] theorem stall_cur_hold {s} : (stall s).cur.hold = .stall .long := rfl
@[simp] theorem holdCur_cur_hold {s h} : (holdCur s h).cur.hold = h := rfl
@[simp] theorem stallBy_cur_a {k s} : (stallBy k s).cur.a = s.cur.a := rfl
@[simp] theorem stallBy_cur_id {k s} : (stallBy k s).cur.id = s.cur.id := rfl
@[simp] theorem stallBy_cur_live {k s} : (stallBy k s).cur.live = s.cur.live := rfl
@[simp] theorem stallBy_cur_handler {k s} : (stallBy k s).cur.handler = s.cur.handler := rfl
@[simp] theorem stallBy_cur_blk {k s} : (stallBy k s).cur.blk = s.cur.blk := rfl
@[simp] theorem stallBy_cur_k {k s} : (stallBy k s).cur.k = s.cur.k := rfl
@[simp] theorem stallBy_cur_ctx {k s} : (stallBy k s).cur.ctx = s.cur.ctx := rfl
@[simp] theorem stallBy_cur_vlimit {k s} : (stallBy k s).cur.vlimit = s.cur.vlimit := rfl
@[simp] theorem stallBy_cur_code {k s} : (stallBy k s).cur.code = s.cur.code := rfl
@[simp] theorem stallBy_cur_priv {k s} : (stallBy k s).cur.priv = s.cur.priv := rfl
@[simp] theorem stallBy_cur_active {k s} : (stallBy k s).cur.active = s.cur.active := rfl
@[simp] theorem stallBy_cur_since {k s} : (stallBy k s).cur.since = s.cur.since := rfl
@[simp] theorem stallBy_cur_ops {k s} : (stallBy k s).cur.ops = s.cur.ops := rfl
@[simp] theorem stallBy_cur_window {k s} : (stallBy k s).cur.window = s.cur.window := rfl
@[simp] theorem stallBy_cur_seq {k s} : (stallBy k s).cur.seq = s.cur.seq := rfl
@[simp] theorem stallBy_cur_xres {k s} : (stallBy k s).cur.xres = s.cur.xres := rfl
@[simp] theorem stallBy_cur_groups {k s} : (stallBy k s).cur.groups = s.cur.groups := rfl
@[simp] theorem stallBy_cur_rlost {k s} : (stallBy k s).cur.rlost = s.cur.rlost := rfl
@[simp] theorem stallBy_cur_preempt {k s} : (stallBy k s).cur.preempt = s.cur.preempt := rfl
@[simp] theorem stallBy_cur_replays {k s} : (stallBy k s).cur.replays = s.cur.replays := rfl
@[simp] theorem stallBy_cur_focus {k s} : (stallBy k s).cur.focus = s.cur.focus := rfl
@[simp] theorem stallBy_cur_hold {k s} : (stallBy k s).cur.hold = .stall k := rfl
@[simp] theorem stallBy_cur_readyAt {k s} : (stallBy k s).cur.readyAt = s.cur.readyAt := rfl
@[simp] theorem stall_cur_readyAt {s} : (stall s).cur.readyAt = s.cur.readyAt := rfl
@[simp] theorem holdCur_cur_readyAt {s h} : (holdCur s h).cur.readyAt = s.cur.readyAt := rfl
@[simp] theorem issue_cur_readyAt {s} : (issue s).cur.readyAt = s.cur.readyAt := rfl
@[simp] theorem issueNow_cur_readyAt {s} : (issueNow s).cur.readyAt = s.cur.readyAt := rfl
@[simp] theorem stallBy_cur_lostHeld {k s} : (stallBy k s).cur.lostHeld = s.cur.lostHeld := rfl
@[simp] theorem stall_cur_lostHeld {s} : (stall s).cur.lostHeld = s.cur.lostHeld := rfl
@[simp] theorem holdCur_cur_lostHeld {s h} : (holdCur s h).cur.lostHeld = s.cur.lostHeld := rfl
@[simp] theorem issue_cur_lostHeld {s} : (issue s).cur.lostHeld = s.cur.lostHeld := rfl
@[simp] theorem issueNow_cur_lostHeld {s} : (issueNow s).cur.lostHeld = s.cur.lostHeld := rfl
@[simp] theorem stallBy_cur_undo {k s} : (stallBy k s).cur.undo = s.cur.undo := rfl
@[simp] theorem stall_cur_undo {s} : (stall s).cur.undo = s.cur.undo := rfl
@[simp] theorem holdCur_cur_undo {s h} : (holdCur s h).cur.undo = s.cur.undo := rfl
@[simp] theorem issue_cur_undo {s} : (issue s).cur.undo = s.cur.undo := rfl
@[simp] theorem issueNow_cur_undo {s} : (issueNow s).cur.undo = s.cur.undo := rfl
@[simp] theorem stallBy_cur_mark {k s} : (stallBy k s).cur.mark = s.cur.mark := rfl
@[simp] theorem stall_cur_mark {s} : (stall s).cur.mark = s.cur.mark := rfl
@[simp] theorem holdCur_cur_mark {s h} : (holdCur s h).cur.mark = s.cur.mark := rfl
@[simp] theorem issue_cur_mark {s} : (issue s).cur.mark = none := rfl
@[simp] theorem issueNow_cur_mark {s} : (issueNow s).cur.mark = none := rfl
@[simp] theorem issue_cur_seq {s} : (issue s).cur.seq = s.cur.seq + 1 := rfl
@[simp] theorem issue_cur_window {s} : (issue s).cur.window = s.cur.window ++ [⟨s.cur.seq + 1, s.cur.a⟩] := rfl
@[simp] theorem issue_cur_xres {s} : (issue s).cur.xres = [] := rfl
@[simp] theorem issue_cur_ops {s} :
    (issue s).cur.ops = s.cur.ops.map fun o => { o with la := o.la.map (· - 1) } := rfl
@[simp] theorem issueNow_cur_seq {s} : (issueNow s).cur.seq = s.cur.seq + 1 := rfl
@[simp] theorem issueNow_cur_window {s} : (issueNow s).cur.window = [] := rfl
/-! Lists of records by key -/

/-- What is found of a record that has just been put in. -/
theorem find?_upsert {α : Type} (p : α → Bool) (f : α → α) (new : α) (l : List α) (hn : p (f new) = true)
    (hf : ∀ x, p x = true → p (f x) = true) :
    (upsert p f new l).find? p = some (f ((l.find? p).getD new)) := by
  induction l with
  | nil => simp [upsert, hn]
  | cons x l ih =>
    unfold upsert
    split
    · simp [*]
    · simp [*]
/-- Another record is found as before. -/
theorem find?_upsert_other {α : Type} (p q : α → Bool) (f : α → α) (new : α) (l : List α) (hn : q (f new) = false)
    (hf : ∀ x, p x = true → q x = false ∧ q (f x) = false) : (upsert p f new l).find? q = l.find? q := by
  induction l with
  | nil => simp [upsert, hn]
  | cons x l ih =>
    unfold upsert
    split
    · simp [hf x ‹_›]
    · simp only [List.find?_cons, ih]
/-- A core that has been changed, read back. -/
theorem getCore_onCore (s : State) (c : CoreId) (f : Core → Core) (hf : ∀ k, (f k).id = k.id) :
    getCore (onCore s c f) c = f (getCore s c) := by
  simp only [getCore, onCore]
  rw [find?_upsert] <;> simp [hf]
/-- Another core is as before. -/
theorem getCore_onCore_other (s : State) (c d : CoreId) (f : Core → Core) (hf : ∀ k, (f k).id = k.id) (h : c ≠ d) :
    getCore (onCore s c f) d = getCore s d := by
  simp only [getCore, onCore]
  rw [find?_upsert_other]
  · simpa [hf] using h
  · intro x hx
    simp only [beq_iff_eq] at hx
    simp [hf, hx, h]

end Sys2Proof.Machine
end

