-- ==== Sys2Proof/Tests/Slice0.lean ====
section
/-! SUPPORT. Tests of the model, each on one small state or word: the decoder on words written out from the spec's encodings,
the well-formedness checks, single instructions with the results that the spec's rules give, and, for each obligation with
hypotheses, a state and operands that meet them. -/

namespace Sys2Proof.Tests

-- One theorem at a time: the kernel's evaluations otherwise wait for each other, each on a thread of its own.
set_option Elab.async false

open Sys2Proof Sys2Proof.Machine Sys2Proof.Says

/-! ## States to test on -/

/-- An entry of the object table (R34). -/
def objEntry (len perm sh kind coh ext cnt : Nat) : Nat :=
  len + perm * 2 ^ 40 + sh * 2 ^ 43 + kind * 2 ^ 44 + coh * 2 ^ 46 + 2 ^ 50 + ext / 64 * 2 ^ 70 + cnt * 2 ^ 112
/-- An entry of an extent list (R36). -/
def extent (pages frame : Nat) : Nat := pages * 2 ^ 40 + frame
/-- Objects 1 to 6 (code, data, trap frames, a shadow of the data, host memory, save areas) with their extent lists. -/
def entries : List (Nat × Nat × Nat) := [
  (0x10020, 32, objEntry 0x10000 4 0 0 0 0x20000 1), (0x10040, 32, objEntry 0x20000 3 0 0 0 0x20040 1),
  (0x10060, 32, objEntry 0x3000000 3 0 0 0 0x20080 1), (0x10080, 32, objEntry 0x20000 2 1 0 0 0x200C0 1),
  (0x100A0, 32, objEntry 0x20000 3 0 2 2 0x20100 1), (0x100C0, 32, objEntry 0x40000 3 0 0 0 0x20140 1),
  (0x20000, 8, extent 1 3), (0x20040, 8, extent 2 4), (0x20080, 8, extent 0x300 0x100), (0x200C0, 8, extent 2 8),
  (0x20100, 8, extent 2 2), (0x20140, 8, extent 4 12)]
/-- A memory that holds some numbers, each with its address and its bytes. -/
def memOf (xs : List (Nat × Nat × Nat)) : Memory := xs.foldl (fun m x => memPut m x.1 (bytesOf x.2.1 x.2.2)) []
/-- The memory that holds these entries. -/
def tables : Memory := [
  (0x10022, 1), (0x10025, 4), (0x10026, 4), (0x1002A, 2), (0x1002E, 1), (0x10042, 2), (0x10045, 3), (0x10046, 4), (0x10048,
  64), (0x1004A, 2), (0x1004E, 1), (0x10063, 3), (0x10065, 3), (0x10066, 4), (0x10068, 128), (0x1006A, 2), (0x1006E, 1),
  (0x10082, 2), (0x10085, 10), (0x10086, 4), (0x10088, 192), (0x1008A, 2), (0x1008E, 1), (0x100A2, 2), (0x100A5, 163),
  (0x100A6, 4), (0x100A9, 1), (0x100AA, 2), (0x100AE, 1), (0x100C2, 4), (0x100C5, 3), (0x100C6, 4), (0x100C8, 64), (0x100C9,
  1), (0x100CA, 2), (0x100CE, 1), (0x20000, 3), (0x20005, 1), (0x20040, 4), (0x20045, 2), (0x20081, 1), (0x20086, 3),
  (0x200C0, 8), (0x200C5, 2), (0x20100, 2), (0x20105, 2), (0x20140, 12), (0x20145, 4)]
theorem tables_eq : tables = memOf entries := by decide +kernel
/-- A context over these objects, with a trap entry at word 8, a resume entry at word 16, and 4 save areas of 64 KiB. -/
def ctx1 : Ctx := { pkg := 0, id := 1, active := true, otbase := 1, otlen := 16, vdt := 0xFFFFFF10
                    trapdesc := BitVec.ofNat 128 (8 + 16 * 2 ^ 24 + 3 * 2 ^ 56 + 2 ^ 80 + 4 * 2 ^ 88 + 6 * 2 ^ 104) }
/-- A wave in slot 0 of partition 0 of core 0 of die 0, with all lanes active, in FP32. -/
def wave1 : Wave :=
  { Wave.empty ⟨0, 0, 0, 0⟩ with
    live := true, blk := ⟨1, 0⟩, ctx := 1, vlimit := 192, code := 1, active := true, a := { WaveArch.zero with em := BitVec.allOnes 96 } }
/-- Its block, alone in its launch, with 4 KiB of scratchpad. -/
def block1 : Block :=
  { id := ⟨1, 0⟩, pkg := 0, ctx := 1, core := ⟨0, 0⟩, base := 0, size := 4096, vregs := 192, nwaves := 1, csize := 1
    state := .resident, recs := [], matrix := false, written := false, liveW := [], area := 0, oldArea := none, erets := 0, placed := 0 }
/-- L1 TLB entries of the first pages of objects 1, 2, 3 and 5. -/
def tlb1 : List TlbEntry := [
  ⟨1, 1, 0, 3, 0x10000, 4, false, .dev, .pkg⟩, ⟨1, 2, 0, 4, 0x20000, 3, false, .dev, .pkg⟩, ⟨1, 3, 0, 0x100, 0x3000000, 3, false, .dev, .pkg⟩,
  ⟨1, 5, 0, 2, 0x20000, 3, false, .host, .none⟩]
/-- Security of a package whose firmware is verified. -/
def runs1 : Security := { verified := [.security, .iod, .compute, .memside] }
/-- A package in which dies run and firmware is verified. -/
def machine : State :=
  { State.reset with
    mem := tables, ctxs := [ctx1], cores := [{ id := ⟨0, 0⟩, lastCtx := 1, tlb := tlb1 }]
    cds := (List.range 8).map fun u => { unit := u }
    mds := (List.range 8).map fun u => { unit := 8 + u }
    pkgs := [{ id := 0, sec := runs1 }] }
/-- The wave on that machine, about to issue. -/
def st1 : State :=
  { machine with
    nextId := 20, cur := wave1, blocks := [block1], groups := [{ ref := .block ⟨1, 0⟩, members := [⟨⟨1, 0⟩, 0⟩] }] }
/-- st1 with other registers. -/
def withArch (f : WaveArch → WaveArch) : State := { st1 with cur := { wave1 with a := f wave1.a } }
/-- st1 with the elements of MODE.ETYPE 8 (32-bit signed integers). -/
def stInt : State := withArch fun a => { a with mode := 8 }
/-- st1 with 8-bit integers. -/
def stByte : State := withArch fun a => { a with mode := 12 }
/-- st1 in FP16. -/
def stHalf : State := withArch fun a => { a with mode := 1 }
/-- st1 in trap state, its frame in object 3. -/
def stTrap : State := withArch fun a => { a with trap := true, tfaddr := 0x30000000000 }
/-- A scalar register set. -/
def setScalars (xs : List (SReg × Word)) (a : WaveArch) : WaveArch := xs.foldl (fun a x => writeS false a x.1 x.2) a
/-- st1 with some scalars. -/
def stWith (xs : List (SReg × Word)) : State := withArch (setScalars xs)

/-- The operation 7 of a wave, an instruction that is outstanding under flag 2. -/
def op7 : Op :=
  { id := 7, seq := 1, kind := .vl, pc := 0, flag := some 2, la := some 3, acc := [], dst := 5, nreg := 1, mask := BitVec.allOnes 96
    order := .plain, scope := .pkg, left := true, rlt := false, res := Vector.replicate 96 9, stat := 0, shift := 0, clash := []
    sampled := none, replays := 0, done := [], lock := none }
/-- One lane's access of 4 bytes. -/
def accAt (sp : Space) (ad : Nat) (c : Coh) (x : Nat) : LaneAcc := ⟨0, ⟨sp, ad, .dev, c⟩, 0, 4, x, 0⟩
/-- st1 with another issuing wave. -/
def withWave (f : Wave → Wave) : State := { st1 with cur := f wave1 }
/-- st1 with an operation outstanding and its flag up. -/
def withOp (o : Op) : State :=
  withWave fun w => { w with seq := 3, ops := [o], a := { w.a with flags := w.a.flags.set 2 1 } }
/-- The place of the word at PC 0 of the test wave's code, and a sector of its code at die 0 with a token and a word at PC 0; the same with an
`else` at PC 8. -/
def codePlace : Target := ⟨.dev, 0x30000, .dev, .pkg⟩
def codeSec (w : Word) : DieSector := { cd := 0, sector := 0xC00, tokens := 1, valid := true, data := w.setWidth 512 }
def elseSec : DieSector := { codeSec 0 with data := BitVec.ofNat 512 (0x28400002 * 2 ^ 64) }
/-- The sector of the table entry and that of the extent list of object 2, at die 0 with a token. -/
def tableSecs : List DieSector :=
  [0x401, 0x801].map fun x => { cd := 0, sector := x, tokens := 1, valid := true, data := BitVec.ofNat 512 (memNat tables (64 * x) 64) }
/-! ## Every word issues somewhere -/

theorem witness_issues_st1_1 : ∀ i ∈ ([
    .sadd 6 6 6, .ssub 6 6 6, .sand 6 6 6, .sor 6 6 6, .sxor 6 6 6, .sandn 6 6 6, .sshl 6 6 6, .sshr 6 6 6, .ssar 6 6 6,
    .smul 6 6 6, .smulhs 6 6 6, .smulhu 6 6 6, .smin 6 6 6, .smax 6 6 6, .sminu 6 6 6, .smaxu 6 6 6, .sslt 6 6 6, .ssltu 6 6
    6, .sseq 6 6 6, .sclz 6 6, .spopc 6 6, .ssext8 6 6, .ssext16 6 6, .sadd64 6 6 6, .ssub64 6 6 6, .saddi 6 6 1, .sandi 6 6
    1, .sori 6 6 1, .sxori 6 6 1, .sld 6 6 1, .slui 6 1, .sst 6 6 1, .bz 6 1, .bnz 6 1, .bltz 6 1, .bgez 6 1, .bgtz 6 1,
    .blez 6 1, .bany 6 1, .ball 6 1, .bnone 6 1, .split 6 1, .elseW 1, .merge, .breakv 6 1, .breakvOpen 1, .contv 6 1,
    .branch 1, .call 6 1, .nop, .ret 6, .exitW, .exitv 6, .waitW 1, .setmode 6 .mode, .setmodeM 6 6 .mode, .getmode 6 .mode,
    .trapW 1, .sleep 6, .mand 6 6 6, .mor 6 6 6, .mxor 6 6 6, .mandn 6 6 6, .mnot 6 6, .mset 6, .mclr 6, .mcnt 6 6, .mfirst 6
    6, .mlane 6 6, .sysr 6 16] : List Instr),
    Issues i st1 ∧ encode i ≠ none ∧ wellFormed i = true := by
  unfold Issues
  decide +kernel
theorem witness_issues_st1_2 : ∀ i ∈ ([
    .sysw 6 16, .vand 4 4 4, .vor 4 4 4, .vxor 4 4 4, .vandn 4 4 4, .fcmp .set .eq 1 4 4, .fadd 4 4 4, .fsub 4 4 4, .fmul 4 4
    4, .fmin 4 4 4, .fmax 4 4 4, .fminp 4 4 4, .fmaxp 4 4 4, .ffma 4 4 4, .ffms 4 4 4, .ffnma 4 4 4, .ffnms 4 4 4, .vnot 4 4,
    .popc 4 4, .clz 4 4, .brev 4 4, .fneg 4 4, .fabs 4 4, .ffloor 4 4, .fceil 4 4, .ftrunc 4 4, .frnd 4 4, .cvt 4 1 .i16 4,
    .vsplat 4 6, .vlaneid 4, .vmask 4 3, .vperm 4 4 4, .vbcst 4 4 4, .vshf 4 4 4, .vbfly 4 4 4, .mov 4 4, .sel 4 4 4, .vrdl 6
    4 6, .vwrl 4 6 6, .fdiv 4 1 1 2 15, .fsqrt 4 1 2 15, .frcp 4 1 2 15, .frsq 4 1 2 15, .fexp2 4 1 2 15, .flog2 4 1 2 15,
    .fsinpi 4 1 2 15, .fcospi 4 1 2 15, .ftanh 4 1 2 15, .rsum 4 1 2 15, .rmin 4 1 2 15, .rmax 4 1 2 15, .rand 4 1 2 15, .ror
    4 1 2 15, .rxor 4 1 2 15, .ld8u 4 1 7 2 15, .ld8s 4 1 7 2 15, .ld16u 4 1 7 2 15, .ld16s 4 1 7 2 15, .ld32 4 1 7 2 15,
    .ld64 4 1 7 2 15, .ld128 4 1 7 2 15, .ld8uAcq 4 1 7 2 15, .ld8sAcq 4 1 7 2 15, .ld16uAcq 4 1 7 2 15, .ld16sAcq 4 1 7 2
    15, .ld32Acq 4 1 7 2 15, .ld64Acq 4 1 7 2 15, .ld128Acq 4 1 7 2 15, .st8 4 1 7 2 15, .st16 4 1 7 2 15] : List Instr),
    Issues i st1 ∧ encode i ≠ none ∧ wellFormed i = true := by
  unfold Issues
  decide +kernel
theorem witness_issues_st1_3 : ∀ i ∈ ([
    .st32 4 1 7 2 15, .st64 4 1 7 2 15, .st128 4 1 7 2 15, .st8Rel 4 1 7 2 15, .st16Rel 4 1 7 2 15, .st32Rel 4 1 7 2 15,
    .st64Rel 4 1 7 2 15, .st128Rel 4 1 7 2 15, .atomAdd 4 1 7 2 15, .atomAnd 4 1 7 2 15, .atomOr 4 1 7 2 15, .atomXor 4 1 7 2
    15, .atomMin 4 1 7 2 15, .atomMax 4 1 7 2 15, .atomMinu 4 1 7 2 15, .atomMaxu 4 1 7 2 15, .atomSwap 4 1 7 2 15, .atomCas
    4 1 7 2 15, .atomFadd 4 1 7 2 15, .atomAdd64 4 1 7 2 15, .atomSwap64 4 1 7 2 15, .atomCas64 4 1 7 2 15, .atomInc 4 1 7 2
    15, .atomArAdd .acq 4 1 7 2 15, .atomArSwap .acq 4 1 7 2 15, .atomArCas .acq 4 1 7 2 15, .atomArCas64 .acq 4 1 7 2 15,
    .mcst 6 2 15, .redst 6 .i32 2 15, .bulkrd 6 6 2 15, .copy 6 6 2 15, .copymc 6 6 2 15, .nmopFill 6 2 15, .nmopCopy 6 2 15,
    .nmopCmp 6 2 15, .nmopRed 6 .i32 2 15, .xlat 6 .t0, .layreg 6 6, .layrel 6, .publ 6 6, .fenceAcq .pkg, .fenceRel .pkg,
    .fenceAr .pkg, .fenceSc .pkg, .bar 6 6 .b0, .barr 6 .b0, .gjoin 6 6 .core, .gleave, .ginfo 6 .count, .waita 6 6 .eq,
    .mwait 6 6, .dist 6 6, .lnch 6 6, .msetm 6 2 15, .mcb 1 6 2 15, .mld 6 1 2 15, .mldsw 6 1 2 15, .mldsa 6 1 2 15, .mldc 1
    6 1 2 15, .mstc 1 6 1 2 15, .mzero 1 2 15, .mstr 1 6 2 15, .mstrs 1 6 2 15, .mstrx 1 6 2 15, .mrdc 1 6 2 15, .mwrc 1 6 2
    15, .msync 2 15] : List Instr),
    Issues i st1 ∧ encode i ≠ none ∧ wellFormed i = true := by
  unfold Issues
  decide +kernel
theorem witness_issues_stInt : ∀ i ∈ ([
    .iadd 4 4 4, .isub 4 4 4, .imul 4 4 4, .imulh 4 4 4, .imad 4 4 4, .imin 4 4 4, .imax 4 4 4, .iabsd 4 4 4, .shl 4 4 4,
    .shr 4 4 4, .sar 4 4 4, .irot 4 4 4, .icmp .set .eq 1 4 4, .ineg 4 4, .iabs 4 4, .idiv 4 1 1 2 15, .irem 4 1 1 2 15] : List Instr),
    Issues i stInt ∧ encode i ≠ none ∧ wellFormed i = true := by
  unfold Issues
  decide +kernel
theorem witness_issues_stByte : ∀ i ∈ ([
    .idp 4 4 4] : List Instr),
    Issues i stByte ∧ encode i ≠ none ∧ wellFormed i = true := by
  unfold Issues
  decide +kernel
theorem witness_issues_stHalf : ∀ i ∈ ([
    .fdp2 4 4 4] : List Instr),
    Issues i stHalf ∧ encode i ≠ none ∧ wellFormed i = true := by
  unfold Issues
  decide +kernel
theorem witness_issues_stTrap : ∀ i ∈ ([
    .eret, .cacheopInvx 6, .cacheopWb 6, .cacheopWbinv 6, .dbgbrk 1, .keywipeAll, .keywipeContext, .halt] : List Instr),
    Issues i stTrap ∧ encode i ≠ none ∧ wellFormed i = true := by
  unfold Issues
  decide +kernel

/-! ## Decoding: words written out field by field from the layouts of R204 and the chapters' tables -/

/-- Every word of a list decodes to its instruction. -/
def decodesAll (ws : List (Word × Instr)) : Bool := ws.all fun p => decodeTableWord 32 p.1.toNat == some p.2
/-- A word of format SR. -/
def srWord (maj d a b : BitVec 6) (fn : BitVec 8) : Word := maj ++ d ++ a ++ b ++ fn
/-- A word of format BR. -/
def brWord (maj : BitVec 6) (cnd : BitVec 4) (sc : BitVec 6) (off : BitVec 16) : Word := maj ++ cnd ++ sc ++ off
/-- A word of format VB, VU or VX. -/
def vbWord (maj : BitVec 6) (sub : BitVec 2) (d a b : BitVec 8) : Word := maj ++ sub ++ d ++ a ++ b
/-- A word of format VL. -/
def vlWord (maj : BitVec 6) (fn : BitVec 4) (d : BitVec 8) (a b : BitVec 3) (f la : BitVec 4) : Word := maj ++ fn ++ d ++ a ++ b ++ f ++ la
/-- A word of format MS. -/
def msWord (maj : BitVec 6) (fn : BitVec 4) (a b : BitVec 6) (sub : BitVec 2) (f la : BitVec 4) : Word := maj ++ fn ++ a ++ b ++ sub ++ f ++ la
/-- A word of format T. -/
def tWord (fn : BitVec 5) (ct : BitVec 4) (a : BitVec 6) (p : BitVec 2) (f la : BitVec 4) : Word :=
  0b111101#6 ++ fn ++ ct ++ a ++ p ++ 0#1 ++ f ++ la
/-- A word of format Y. -/
def yWord (maj : BitVec 6) (fn : BitVec 10) (a b : BitVec 6) (imm : BitVec 4) : Word := maj ++ fn ++ a ++ b ++ imm

theorem test_decode_scalar : decodesAll [
    (srWord 0b000001 5 4 3 0b00000000, .sadd 5 4 3), (srWord 0b000001 5 4 3 0b00001000, .ssar 5 4 3),
    (srWord 0b000001 5 4 0 0b00010011, .sclz 5 4), (srWord 0b000001 6 4 2 0b00100001, .ssub64 6 4 2),
    (0b000010#6 ++ 5#6 ++ 4#6 ++ (-3 : BitVec 14), .saddi 5 4 (-3)), (0b000111#6 ++ 6#6 ++ 0x12345#20, .slui 6 0x12345),
    (0b000110#6 ++ 5#6 ++ 4#6 ++ 8#14, .sld 5 4 8), (0b001110#6 ++ 5#6 ++ 4#6 ++ 8#14, .sst 5 4 8)] = true := by decide +kernel
theorem test_decode_mask : decodesAll [
    (srWord 0b001101 9 6 3 0b00000011, .mandn 9 6 3), (srWord 0b001101 9 0 0 0b00000101, .mset 9),
    (srWord 0b001101 7 6 0 0b00001000, .mfirst 7 6), (srWord 0b001101 9 7 0 0b00001001, .mlane 9 7)] = true := by decide +kernel
theorem test_decode_control : decodesAll [
    (brWord 0b001000 0b0100 9 0xFFFE, .bgtz 9 0xFFFE), (brWord 0b001001 0b0010 9 5, .bnone 9 5),
    (brWord 0b001011 0b0000 0 7, .branch 7), (brWord 0b001011 0b0001 9 7, .call 9 7),
    (yWord 0b001100 1 9 0 0, .ret 9), (yWord 0b001100 0b11 9 0 0, .exitv 9), (yWord 0b001100 0b100 0b000011 0b100001 0, .waitW 0xE1),
    (yWord 0b001100 0b110 9 8 2, .setmodeM 9 8 .stat), (yWord 0b001100 0b1001 9 0 0, .sleep 9)] = true := by decide +kernel
theorem test_decode_divergence : decodesAll [(0x280C0003, .split 12 3), (0x28400002, .elseW 2), (0x28800000, .merge), (0x28CF0007, .breakv 15 7),
    (0x28FF000F, .breakvOpen 15)] = true := by decide +kernel
theorem test_decode_privileged : decodesAll [
    (yWord 0b111111 0 8 0b000001 0b0010, .sysr 8 0x012), (yWord 0b111111 1 8 0b000011 0b0110, .sysw 8 0x036), (yWord 0b111111 2 0 0 0, .eret),
    (yWord 0b111111 4 0 0 7, .dbgbrk 7), (yWord 0b111111 6 0 0 0, .halt)] = true := by decide +kernel
theorem test_decode_vector : decodesAll [
    (vbWord 0b010000 0 4 4 5, .iadd 4 4 5), (vbWord 0b011110 0 9 8 0xF6, .fadd 9 8 0xF6), (vbWord 0b101011 0 0xC1 4 0, .mov 0xC1 4),
    (vbWord 0b101010 0b10 6 4 0xD1, .vshf 6 4 0xD1), (0xA4040100, .vlaneid 4), (0xA4050016, .vsplat 5 22)] = true := by decide +kernel
theorem test_decode_long : decodesAll [
    (vlWord 0b101100 0b0001 7 1 2 3 4, .irem 7 1 2 3 4), (vlWord 0b101100 0b0011 7 1 0 3 4, .fsqrt 7 1 3 4),
    (vlWord 0b101101 0b1010 7 1 0 3 4, .rmax 7 1 3 4)] = true := by decide +kernel
theorem test_decode_memory : decodesAll [
    (vlWord 0b110000 0b0100 8 2 1 2 3, .ld32 8 2 1 2 3), (vlWord 0b110010 0b0100 9 2 1 3 0, .st32 9 2 1 3 0),
    (vlWord 0b110100 0b0000 12 3 7 4 1, .atomAdd 12 3 7 4 1), (vlWord 0b110101 0b0110 12 3 7 4 1, .atomArCas .rel 12 3 7 4 1)] = true := by
  decide +kernel
theorem test_decode_requests : decodesAll [
    (msWord 0b110110 1 6 0 0b10 3 4, .redst 6 .bf16 3 4), (msWord 0b111000 0 6 9 0 3 4, .bulkrd 6 9 3 4),
    (msWord 0b111001 1 6 9 0 3 4, .copymc 6 9 3 4), (msWord 0b111010 3 6 0 3 3 4, .nmopRed 6 .maxf32 3 4)] = true := by decide +kernel
theorem test_decode_sync : decodesAll [
    (yWord 0b111011 0 6 0 2, .xlat 6 .t2), (yWord 0b111011 1 63 22 0, .layreg 63 22), (yWord 0b111011 3 6 8 0, .publ 6 8),
    (yWord 0b111100 3 0 0 3, .fenceSc .pkg), (yWord 0b111100 0b10000 11 10 1, .bar 11 10 .b1), (yWord 0b111100 0b110000 6 9 2, .waita 6 9 .geu),
    (yWord 0b111100 0b1010000 6 9 0, .lnch 6 9)] = true := by decide +kernel
theorem test_decode_tile : decodesAll [
    (tWord 0 0 6 0 1 4, .msetm 6 1 4), (tWord 1 5 6 0 1 4, .mcb 5 6 1 4), (tWord 2 0 20 1 1 4, .mld 20 1 1 4), (tWord 6 3 24 0 2 1, .mstc 3 24 0 2 1),
    (tWord 7 3 0 0 3 15, .mzero 3 3 15), (tWord 13 0 0 0 4 0, .msync 4 0)] = true := by decide +kernel

/-- Words that no instruction has: the all-zero word, a reserved major, a reserved bit, an unallocated function. -/
theorem test_decode_rejects : ∀ w ∈ ([0, 0x3C000000, 0xF440A314, 0xF5C00000, 0x04000017, 0x21800000] : List Nat),
    decodeTableWord 32 w = none := by decide +kernel
/-- A nonzero SB of `sclz` is a must-be-zero field and not an unallocated function (R226). -/
theorem test_decode_field : (match decode (srWord 0b000001 5 4 3 0b00010011) with
    | .error (.field i) => i == .sclz 5 4
    | _ => false) = true := by decide +kernel

/-! ## Well-formedness: one ill-formed term for each check -/

theorem test_ill_source : wellFormed (.iadd 4 0xCA 5) = false := by decide
theorem test_ill_destination : wellFormed (.iadd 0xD0 4 5) = false := by decide
theorem test_ill_span : wellFormed (.ld128 190 1 7 2 0) = false := by decide
theorem test_ill_pair_odd : wellFormed (.sadd64 5 4 6) = false := by decide
theorem test_ill_pair_high : wellFormed (.sadd64 4 56 6) = false := by decide
theorem test_ill_block : wellFormed (.waita 55 6 .eq) = false := by decide
theorem test_ill_triple : wellFormed (.mand 3 7 6) = false := by decide
theorem test_ill_triple_high : wellFormed (.mand 3 63 6) = false := by decide
theorem test_ill_compare_triple : wellFormed (.icmp .set .eq 19 4 5) = false := by decide
theorem test_ill_flag : wellFormed (.ld32 4 1 7 12 0) = false := by decide
theorem test_ill_system_register : wellFormed (.sysr 6 0x111) = false := by decide
theorem test_well_formed : wellFormed (.ld128 188 1 7 11 0) = true ∧ wellFormed (.mand 60 57 0) = true := by decide

/-! ## States and operands that meet the hypotheses of the obligations -/

theorem witness_mode_values : legalMode 8 = some 8 ∧ legalMode 6 = none ∧ legalMmode 0x44000 = some 0x44000 ∧ legalMmode 0x50000 = none := by
  decide
theorem witness_element_types : modeEtype st1.cur.a.mode = some .fp32 ∧ modeEtype stInt.cur.a.mode = some .i32 ∧
    modeEtype stByte.cur.a.mode = some .i8 ∧ modeEtype stHalf.cur.a.mode = some .fp16 ∧ isIntType .i32 = true ∧ isIntType .fp32 = false := by decide
theorem witness_saturation :
    let s := withArch fun a => { a with mode := 0x1008, v := a.v.set 4 (Vector.replicate 96 0x7FFFFFFF) }
    Issues (.iadd 5 4 4) s ∧ modeSat s.cur.a.mode = true ∧ s.cur.a.em.getLsbD 95 = true ∧
    greatest .i32 32 < num .i32 (elt s.cur.a .i32 4 95 0) + num .i32 (elt s.cur.a .i32 4 95 0) := by
  unfold Issues
  decide +kernel
theorem witness_branches : (readS st1.cur.a 6 = 0) ∧ readS (stWith [(6, 8)]).cur.a 6 ≠ 0 ∧ (readS (stWith [(6, 0x80000000)]).cur.a 6).slt 0 = true ∧
    4 ∣ (readS (stWith [(6, 8)]).cur.a 6).toNat ∧ ¬4 ∣ (readS (stWith [(6, 7)]).cur.a 6).toNat ∧
    (∀ x ∈ ([0, 7, 8] : List Nat), Issues (.ret 6) (stWith [(6, BitVec.ofNat 32 x)]) ∧ Issues (.bltz 6 1) (stWith [(6, BitVec.ofNat 32 x)])) := by
  unfold Issues
  decide +kernel
theorem witness_encodings : fieldAt 0x04510300 26 6 = 1 ∧ fieldAt 0x34000001 26 6 = 0x0D ∧ fieldAt 0x20000000 26 6 = 8 ∧ fieldAt 0x24000000 26 6 = 9 ∧
    fieldAt 0xA8000000 26 6 = 0x2A := by decide
theorem witness_system_registers :
    (∀ n ∈ [0x010, 0x012, 0x014, 0x018, 0x01A, 0x030, 0x032, 0x034, 0x035, 0x036, 0x037, 0x040, 0x042, 0x044, 0x046, 0x048, 0x04A],
      Issues (.sysr 6 n) stTrap ∧ Issues (.sysw 6 n) stTrap) ∧ stTrap.cur.window = [] ∧
    stTrap.cur.id.cd % 16 < 8 ∧ stTrap.cur.id.cd < 0x100000 ∧ clockRuns (getCd stTrap 0) = true ∧
    clockRuns (getCd { stTrap with cds := [{ unit := 0, power := .coreStop }] } 0) = false := by
  unfold Issues
  decide +kernel
/-- No wave; a check that fails; a full flag that holds the instruction. -/
theorem witness_guards : State.reset.cur.live = false ∧ encode (.iadd 4 5 6) ≠ none ∧ decodeTrap (.halt) st1.cur = some .priv ∧
    decodeTrap (.iadd 4 5 6) st1.cur = some .ill ∧
    (let s := withArch fun a => { a with flags := a.flags.set 2 15 }
     s.cur.live = true ∧ decodeTrap (.ld32 4 1 7 2 15) s.cur = none ∧ mayIssue (.ld32 4 1 7 2 15) s.cur = false) := by decide +kernel
theorem witness_privilege : st1.cur.live = true ∧ st1.cur.a.trap = false ∧ st1.cur.priv = false ∧ (0x030 : BitVec 10) ∉ [0x010, 0x012, 0x014, 0x018, 0x01A] ∧
    (withWave fun w => { w with priv := true }).cur.priv = true := by decide +kernel
theorem witness_trap_entry : st1.cur.live = true ∧ st1.cur.a.trap = false ∧ st1.cur.handler = none ∧ (∀ o ∈ st1.cur.ops, o.flag = none) ∧
    st1.cur.id.cd % 16 < 8 ∧ st1.cur.id.cd < 0x100000 ∧
    (let ad := frameAddr (getCtx st1 (pkgOf st1.cur.id.cd) st1.cur.ctx) st1.cur.id
     translate st1 st1.cur 0b010 (ad.extractLsb' 40 24) (ad.extractLsb' 0 40).toNat 1024 = .ok ⟨.dev, 0x1000000, .dev, .pkg⟩) := by decide +kernel
theorem witness_trap_waits : (withOp op7).cur.a.trap = false ∧ (withOp op7).cur.handler = none ∧ (∃ o ∈ (withOp op7).cur.ops, o.flag ≠ none) := by
  decide +kernel
theorem witness_trap_pending : ∃ (v : Wave) (r : FaultRec), let s := withWave fun _ => v
    getWave s v.id = some v ∧ v.hold = .trapPending r 0 ∧ (∀ o ∈ v.ops, o.flag = none) ∧ r.cause ≠ .preempt ∧ v.focus = none ∧ partitionRuns s v.id = true :=
  ⟨{ wave1 with hold := .trapPending (plainRec 0 0 .ill 0 0) 0 }, plainRec 0 0 .ill 0 0, rfl, rfl, by decide +kernel⟩
theorem witness_trap_state : stTrap.cur.live = true ∧ stTrap.cur.a.trap = true := by decide +kernel
/-- stTrap with its frame in host memory, object 5. -/
def stReturn (m : Memory) : State :=
  { stTrap with cur := { stTrap.cur with a := { stTrap.cur.a with tfaddr := 0x50000000000 } }, hostMem := m }
theorem witness_return : Issues .eret (stReturn []) ∧ ownReleased (stReturn []).cur (stReturn []).nextId = true ∧
    (stReturn []).cur.a.tsaddr = 0 ∧ scrStores (stReturn []).cur = false ∧
    translate (stReturn []) (stReturn []).cur 0b001 ((stReturn []).cur.a.tfaddr.extractLsb' 40 24) ((stReturn []).cur.a.tfaddr.extractLsb' 0 40).toNat 1024 =
      .ok ⟨.host 0, 0x20000, .host, .none⟩ ∧
    (match tryRead (stReturn []) (stReturn []).cur (stReturn []).nextId
        (piecesOf (stReturn []).cur.a.tfaddr ⟨.host 0, 0x20000, .host, .none⟩ (List.replicate 1024 0)) with
      | .got _ none _ => true
      | _ => false) = true ∧
    frameOk (frameAt (stReturn [(0x20060, 6)]) ⟨.host 0, 0x20000, .host, .none⟩) = false := by
  unfold Issues frameAt
  decide +kernel
/-- A frame of zeros obeys R366. -/
theorem zero_frame (n : Nat) : frameOk (List.replicate n 0) = true := by
  have z : ∀ k, leNat (List.replicate k 0) = 0 := fun k => by
    induction k with
    | zero => rfl
    | succ k ih => rw [List.replicate_succ, leNat, ih]; rfl
  have h : ∀ o l, frameNat (List.replicate n 0) o l = 0 := fun o l => by
    rw [frameNat, List.drop_replicate, List.take_replicate, z]
  simp only [frameOk, h]
  decide +kernel
theorem witness_return_frame : let fr := frameAt (stReturn []) ⟨.host 0, 0x20000, .host, .none⟩
    frameOk fr = true ∧ frameTx fr = [] := by
  intro fr
  have h : frameAt (stReturn []) ⟨.host 0, 0x20000, .host, .none⟩ = List.replicate 1024 0 := by unfold frameAt; decide +kernel
  rw [show fr = _ from h]
  exact ⟨zero_frame _, by decide +kernel⟩
theorem witness_wait : (∀ n : Fin 12, (3#12).getLsbD n.val = true → st1.cur.a.flags[n] = 0) ∧
    Issues (.waitW 4) (withOp op7) ∧ ∃ n : Fin 12, (4#12).getLsbD n.val = true ∧ (withOp op7).cur.a.flags[n] ≠ 0 := by
  unfold Issues
  decide +kernel
theorem witness_sleep : Issues (.sleep 6) st1 ∧ readS st1.cur.a 6 = 0 ∧ Issues (.sleep 6) (stWith [(6, 5)]) ∧ readS (stWith [(6, 5)]).cur.a 6 ≠ 0 := by
  unfold Issues
  decide +kernel
theorem witness_debug_port : (getPkg stTrap 0).sec.port = false ∧ (let s := { stTrap with pkgs := [{ id := 0, sec := { port := true } }] }
    Issues (.dbgbrk 3) s ∧ Issues .halt s ∧ (getPkg s 0).sec.port = true ∧ s.cur.id.part < 4) := by
  unfold Issues
  decide +kernel
/-- A `cacheop` of object 0, of the cluster window, of object 2, and of an object without an entry. -/
theorem witness_cacheop : ∀ p ∈ ([(0, 0), (0xFFFFFF00, 0xFFFFFF), (0x200, 2), (0x900, 9)] : List (Nat × Nat)),
    let s := withArch fun a => setScalars [(7, BitVec.ofNat 32 p.1)] { a with trap := true, tfaddr := 0x30000000000 }
    Issues (.cacheopWb 6) s ∧ Issues (.cacheopInvx 6) s ∧ s.cur.window = [] ∧
    ((readS s.cur.a 7 ++ readS s.cur.a 6).extractLsb' 40 24).toNat = p.2 ∧ released s s.cur .pkg = true ∧ countedDies s 0 ≠ [] ∧
    (p.2 = 2 → validEntry s (getCtx s 0 1) 2 ≠ none) ∧ (p.2 = 9 → validEntry s (getCtx s 0 1) 9 = none) := by
  unfold Issues
  decide +kernel
/-- A write-back of object 2 whose die may read its table sectors, one whose die lacks them, one of object 9, which has no entry, in a sector
that the die may read, and one in a package without a counted die. -/
theorem witness_cacheop_tables : let s := withArch fun a => setScalars [(7, 0x200)] { a with trap := true, tfaddr := 0x30000000000 }
    let t := { s with sectors := tableSecs }
    tableNeeds s 0 1 2 = [0x401] ∧ tableNeeds t 0 1 2 = [] ∧ (∀ x ∈ tableSectors t 0 1 2, (getSec t 0 x).req = none) ∧ entryAt t 0 1 2 ≠ none ∧
    tableNeeds { s with sectors := [{ cd := 0, sector := 0x404, tokens := 1, valid := true }] } 0 1 9 = [] ∧
    entryAt { s with sectors := [{ cd := 0, sector := 0x404, tokens := 1, valid := true }] } 0 1 9 = none ∧
    countedDies { t with cds := [] } 0 = [] ∧ Issues (.cacheopWb 6) { t with cds := [] } := by
  unfold Issues
  decide +kernel
theorem witness_vl_completion : ∃ v, let s := withOp op7
    getWave s ⟨0, 0, 0, 0⟩ = some v ∧ v.hold ≠ .ended ∧ v.ops.find? (·.id == 7) = some op7 ∧ op7.kind = .vl ∧ op7.flag = some 2 ∧ op7.clash = [] ∧
    op7.dst.toNat < 200 ∧ unitTurn s ⟨0, 0, 0, 0⟩ op7 = true := ⟨(withOp op7).cur, rfl, by decide +kernel⟩
theorem witness_rounding : fdec .fp32 false 0x3F800001 = .fin false 0x800001 (-23) ∧ fdec .e2m1 false 7 = .fin false 3 1 := by decide +kernel
/-- A number halfway between 1 and its neighbour, one between the two least magnitudes, one between the greatest that is too small and the least
that is not, and one above the greatest. -/
theorem witness_inexact : (Magnitude .fp32 0x3F800000 0x1000000 (-24) ∧ Magnitude .fp32 0x3F800001 0x1000002 (-24)) ∧
    (Magnitude .fp32 1 2 (-150) ∧ Magnitude .fp32 2 4 (-150)) ∧ (Magnitude .fp32 0x7FFFFF 0xFFFFFE (-150) ∧ Magnitude .fp32 0x800000 0x1000000 (-150)) ∧
    (Magnitude .fp32 0x7F7FFFFE 0x1FFFFFC 103 ∧ Magnitude .fp32 0x7F7FFFFF 0x1FFFFFE 103) ∧
    ((0x1000000 < 0x1000001 ∧ 0x1000001 < 0x1000002) ∧ (2 < 3 ∧ 3 < 4) ∧ (0xFFFFFE < 0xFFFFFF ∧ 0xFFFFFF < 0x1000000) ∧ 0x1FFFFFE < 0x1FFFFFF) ∧
    2 ^ manBits .fp32 = 0x800000 :=
  ⟨⟨⟨_, _, rfl, by decide, by decide⟩, ⟨_, _, rfl, by decide, by decide⟩⟩, ⟨⟨_, _, rfl, by decide, by decide⟩, ⟨_, _, rfl, by decide, by decide⟩⟩,
    ⟨⟨_, _, rfl, by decide, by decide⟩, ⟨_, _, rfl, by decide, by decide⟩⟩, ⟨⟨_, _, rfl, by decide, by decide⟩, ⟨_, _, rfl, by decide, by decide⟩⟩, by decide, by decide⟩
/-- 1 + 1 and 1 · 1 + 1 are not 0, nor is the dot product of two pairs of ones with 0 added. -/
theorem witness_sums : units 0 false 1 0 + units 0 false 1 0 ≠ 0 ∧ units 0 ((false != false) != false) (1 * 1) (0 + 0) + units 0 false 1 0 ≠ 0 ∧
    (∀ k < 2, fdec .fp16 false ((0x3C003C00 : Word).toNat / 2 ^ (16 * k) % 2 ^ 16) = .fin false 1024 (-10)) ∧ fdec .fp32 false (0 : Word).toNat = .fin false 0 (-149) ∧
    units (-149) false (1024 * 1024) (-20) + units (-149) false (1024 * 1024) (-20) + units (-149) false 0 (-149) ≠ 0 := by decide +kernel

/-- A joint translation that goes on with n lanes. -/
def goesOn (n : Nat) : Joint → Bool
  | .go ls => ls.length == n
  | _ => false
/-- A read that is complete with one lane's value. -/
def readsTo (lane x : Nat) : ReadTry → Bool
  | .got [(l, y)] none _ => l == lane && x == y
  | _ => false
/-- The scratchpad of core 0. -/
abbrev scr0 : Space := .scr ⟨0, 0⟩
/-- Every size and permission of `VectorMemory` translates for all 96 lanes in the scratchpad, and no entry of the buffer is in use. -/
theorem witness_vector_memory : (∀ p ∈ ([(1, 1), (1, 2), (1, 4), (1, 8), (1, 16), (2, 1), (2, 2), (2, 4), (2, 8), (2, 16), (3, 4), (3, 8)] : List (Nat × Nat)),
      goesOn 96 (joint (laneTrs st1 st1.cur (BitVec.ofNat 3 p.1) 7 1 p.2)) = true) ∧ (getCore st1 (coreId st1.cur.id)).wc.length < 64 := by
  decide +kernel
theorem witness_empty_mask : let s := withArch fun a => { a with em := 0 }
    s.cur.a.em = 0 ∧ (getCd s s.cur.id.cd).trace.sampctl.getLsbD 31 = false ∧
    (∀ i ∈ ([.ld8u 4 1 7 2 3, .ld128Acq 4 1 7 2 3, .st128 4 1 7 2 3, .atomCas64 4 1 7 2 3, .atomArAdd .acq 4 1 7 2 3, .st8Rel 4 1 7 2 3,
      .st128Rel 4 1 7 2 3, .atomArAdd .rel 4 1 7 2 3, .atomArCas64 .acqrel 4 1 7 2 3] : List Instr), Issues i s) := by
  unfold Issues
  decide +kernel
/-- A release store and a release atomic without lanes, with no older store of the wave under way and with one. -/
theorem witness_empty_release : ∀ p ∈ ([(.store, .rel), (.atom .add, .acqrel)] : List (OpKind × Order)), ∀ l ∈ [true, false], ∃ v o,
    let o0 : Op := { op7 with id := 3, kind := .store, flag := none, acc := [accAt scr0 8 .none 5], left := l }
    let s := withWave fun w => { w with ops := if l = true then [o] else [o0, o], a := { w.a with flags := w.a.flags.set 2 1 } }
    getWave s ⟨0, 0, 0, 0⟩ = some v ∧ v.hold ≠ .ended ∧ v.ops.find? (·.id == 7) = some o ∧ o.acc = [] ∧ o.done = [] ∧ o.lock = none ∧ o.left = true ∧
    o.flag = some 2 ∧ o.mask = 0 ∧ o.sampled = none ∧ (o.kind, o.order) = p ∧ releasedBefore s v o.scope o.id = l := by
  intro p hp l hl
  refine ⟨_, { op7 with kind := p.1, order := p.2, mask := 0 }, rfl, ?_⟩
  revert p l
  decide +kernel
/-- All lanes at the first byte behind the allocation, for a load, a store and an atomic. -/
theorem witness_vector_parks : let s := withArch fun a => { a with w := a.w.set 1 (Vector.replicate 96 4096) }
    (∀ i ∈ ([.ld32 4 1 7 2 15, .st128Rel 4 1 7 2 15, .atomCas64 4 1 7 2 15] : List Instr), Issues i s) ∧ s.cur.a.trap = false ∧ s.cur.handler = none ∧
    ∀ p ∈ ([(1, 4), (2, 16), (3, 8)] : List (Nat × Nat)), let ls := laneTrs s s.cur (BitVec.ofNat 3 p.1) 7 1 p.2
      walkPages ls = [] ∧ (match joint ls with
        | .fault c ad plm => c == .bounds && ad == 4096 && plm == BitVec.allOnes 96
        | _ => false) = true := by
  unfold Issues
  decide +kernel
/-- A load of lane 0 from byte 8 of the scratchpad. -/
def ldOp : Op := { op7 with kind := .load false, acc := [accAt scr0 8 .none 0], mask := 1 }
theorem witness_load_completes : ∃ v, let s := withOp ldOp
    getWave s ⟨0, 0, 0, 0⟩ = some v ∧ v.hold ≠ .ended ∧ v.ops.find? (·.id == 7) = some ldOp ∧ ldOp.flag = some 2 ∧ ldOp.clash = [] ∧
    ldOp.sampled = none ∧ ldOp.dst.toNat + ldOp.nreg ≤ 192 ∧ ldOp.acc ≠ [] ∧ (∀ x ∈ ldOp.acc ++ ldOp.done, x.sz = 4) ∧
    readsTo 0 0 (tryRead s v 7 ldOp.acc) = true := ⟨(withOp ldOp).cur, rfl, by decide +kernel⟩
/-- A load of a poisoned byte, and one of host memory whose link is down. -/
theorem witness_load_fails : (∃ v, let s := { withOp ldOp with cores := [{ id := ⟨0, 0⟩, lastCtx := 1, scrPoison := [1] }] }
      getWave s ⟨0, 0, 0, 0⟩ = some v ∧ v.hold ≠ .ended ∧ v.ops.find? (·.id == 7) = some ldOp ∧ (match tryRead s v 7 ldOp.acc with
        | .poison ad _ => ad == 0
        | _ => false) = true) ∧
    (let s := { st1 with pkgs := [{ id := 0, linkUp0 := false, linkUp1 := false }] }
     lostHome s 0 1 (accAt (.host 0) 0x20000 .none 0).tgt = true ∧ s.cur.id = ⟨0, 0, 0, 0⟩) :=
  ⟨⟨(withOp ldOp).cur, rfl, by decide +kernel⟩, by decide +kernel⟩
/-- Scratchpad, host memory, and a token-coherent sector that the die may not read yet. -/
theorem witness_reads : ∀ x ∈ ([accAt scr0 8 .none 0, accAt (.host 0) 0x20000 .none 0, accAt .dev 0x40000 .pkg 0] : List LaneAcc),
    noClash st1.cur 9 [x] ∧ lostHome st1 0 1 x.tgt = false ∧ (∀ k ∈ (getCore st1 ⟨0, 0⟩).scrPoison, ¬(x.tgt.addr / 8 ≤ k ∧ k ≤ (x.tgt.addr + x.sz - 1) / 8)) ∧
    wcLine (getCore st1 ⟨0, 0⟩) x = false ∧ hostLocked st1 x.tgt = false ∧ st1.cur.ops = [] ∧ x.sz ≠ 0 ∧ canRead (getSec st1 0 (x.tgt.addr / 64)) = false := by
  unfold noClash
  decide +kernel
/-- A window of one instruction with a store of its own. -/
def stOp : Op := { op7 with kind := .store, flag := none, acc := [accAt scr0 8 .none 5], seq := 3 }
theorem witness_window : ∃ v, let s := withWave fun w => { w with window := [⟨3, w.a⟩], ops := [stOp] }
    getWave s ⟨0, 0, 0, 0⟩ = some v ∧ (∃ h, v.window = [h]) ∧ (∀ o ∈ v.ops, buffered s v o = false ∧ o.sampled = none) ∧ (v.ops.map (·.id)).Nodup :=
  ⟨_, rfl, ⟨_, rfl⟩, by decide +kernel⟩
/-- A store to the scratchpad, to host memory, to a sector that the die may write, and to one that it may not. -/
theorem witness_store : ∀ x ∈ ([accAt scr0 8 .none 5, accAt (.host 0) 0x20000 .none 5, accAt .dev 0x40000 .pkg 5, accAt .dev 0x40040 .pkg 5] : List LaneAcc),
    let o := { stOp with acc := [x] }
    let s := { withOp o with sectors := [{ cd := 0, sector := 0x1000, tokens := 64, own := true, valid := true }] }
    ((getWave s ⟨0, 0, 0, 0⟩).bind fun v => v.ops.find? (·.id == 7)) = some o ∧ o.kind = .store ∧ o.left = true ∧ o.flag = none ∧
    o.done = [] ∧ hostLocked s x.tgt = false ∧ isRelease o.order = false ∧ maintLine s s.cur o.acc = false ∧ lostHome s 0 1 x.tgt = false ∧ noClash s.cur 7 o.acc ∧
    memWf (getCore s ⟨0, 0⟩).scr = true ∧ memWf s.hostMem = true ∧ canWrite (getSec s 0 0x1000) = true ∧
    (getSec s 0 0x1000).poison = false ∧ canWrite (getSec s 0 0x1001) = false := by
  unfold noClash
  decide +kernel
theorem witness_buffer : let e : WcEntry := ⟨.host 0, 0x400, 0, 1, true, 0, 0⟩
    let s := { st1 with cores := [{ id := ⟨0, 0⟩, lastCtx := 1, wc := [e] }] }
    (getCore s ⟨0, 0⟩).wc[0]? = some e ∧ (∃ k ∈ s.cores, k.id = ⟨0, 0⟩) ∧ e.draining = true ∧ (getCore s ⟨0, 0⟩).wcWait = [] ∧ (getCore s ⟨0, 0⟩).wc.take 0 = [] ∧
    (∀ h ∈ [128 * e.line, 128 * e.line + 64], hostLocked s ⟨.host 0, h, .host, .none⟩ = false) ∧
    drainLost s ⟨0, 0⟩ e = false ∧ memWf s.hostMem = true := by decide +kernel
theorem levelReady_of (s : State) (v : Wave) (sc : Scope) (xs : List LaneAcc) (h : (levelReady s v sc xs).1 = true) :
    levelReady s v sc xs = (true, s) := by
  revert h
  simp only [levelReady, homeGather]
  split
  · simp
  · split <;> simp
/-- Two lanes on one word of the scratchpad, of host memory, of COH = NONE memory, and of token-coherent memory under a scope within the die
and under the package's. -/
theorem witness_atomic : ∀ p ∈ ([(scr0, .none, .pkg), (.host 0, .none, .pkg), (.dev, .none, .pkg), (.dev, .pkg, .group), (.dev, .pkg, .pkg)] :
      List (Space × Coh × Scope)), ∃ v o, let xs := [accAt p.1 0x40000 p.2.1 5, { accAt p.1 0x40000 p.2.1 6 with lane := 1 }]
    let s := { withOp o with sectors := [{ cd := 0, sector := 0x1000, tokens := if p.2.2 = .pkg then 0 else 64, own := true, valid := true }] }
    getWave s ⟨0, 0, 0, 0⟩ = some v ∧ v.hold ≠ .ended ∧ v.ops.find? (·.id == 7) = some o ∧ (o.kind, o.acc, o.scope) = (.atom .add, xs, p.2.2) ∧
    mayAtom s v o o.acc = true ∧ linesLocked s o o.acc = false ∧ o.flag = some 2 ∧ o.clash = [] ∧ o.sampled = none ∧ o.done = [] ∧ o.lock = none ∧
    (∀ y ∈ o.acc, y.sz = 4 * o.nreg ∧ y.lane < 96 ∧ o.mask.getLsbD y.lane = true ∧ lostHome s 0 v.ctx y.tgt = false ∧
      (isNone y.tgt = true → wcLine (getCore s ⟨0, 0⟩) y = false)) ∧ o.nreg = 1 ∧ o.dst.toNat + o.nreg ≤ 192 ∧ (o.acc.map (·.lane)).Nodup ∧
    levelReady s v o.scope o.acc = (true, s) ∧
    ∀ y ∈ o.acc, accPoison (countDirect s 0 (o.acc.filter fun y => isNone y.tgt)) [] y = false := by
  intro p hp
  refine ⟨_, { op7 with kind := .atom .add, acc := [accAt p.1 0x40000 p.2.1 5, { accAt p.1 0x40000 p.2.1 6 with lane := 1 }], mask := 3, scope := p.2.2 }, rfl,
    ?_, ?_, rfl, ?_, ?_, rfl, rfl, rfl, rfl, rfl, ?_, rfl, ?_, ?_, levelReady_of _ _ _ _ ?_, ?_⟩ <;> revert p <;> decide +kernel
/-- A scalar access of object 2, which the L1 TLB holds, and one of object 0, which faults. -/
theorem witness_scalar_memory : let s := stWith [(7, 0x200)]
    Issues (.sld 8 6 4) s ∧ translateAddr s s.cur 0b001 ((readS s.cur.a 7 ++ readS s.cur.a 6) + (4#14).signExtend 64) 4 = .ok ⟨.dev, 0x40004, .dev, .pkg⟩ ∧
    Issues (.sst 8 6 4) s ∧ translateAddr s s.cur 0b010 ((readS s.cur.a 7 ++ readS s.cur.a 6) + (4#14).signExtend 64) 4 = .ok ⟨.dev, 0x40004, .dev, .pkg⟩ ∧
    isNone ⟨.dev, 0x40004, .dev, .pkg⟩ = false ∧
    Issues (.sld 8 6 4) st1 ∧ translateAddr st1 st1.cur 0b001 ((readS st1.cur.a 7 ++ readS st1.cur.a 6) + (4#14).signExtend 64) 4 = .fault 2 .bounds := by
  unfold Issues
  decide +kernel
theorem witness_scalar_returns : ∃ v, let x := accAt scr0 8 .none 0
    let s := withWave fun w => { w with hold := .sld 8 x }
    getWave s ⟨0, 0, 0, 0⟩ = some v ∧ v.hold = .sld 8 x ∧ readsTo 0 0 (tryRead s v s.nextId [x]) = true := ⟨_, rfl, rfl, by decide +kernel⟩

/-- st1 with a path stack, and lanes in the triple at s6. -/
def stPath (st : List PathEntry) (m : Mask) : State := withArch fun a => writeTriple false { a with stack := st, depth := st.length } 6 m
/-- A `split` to an `else` at PC 8, and to a word that is none. -/
theorem witness_split : ∀ c ∈ [true, false], let s := { stPath [] 1 with sectors := [if c then elseSec else codeSec 0] }
    InHardware s 2 ∧ Issues (.split 6 2) s ∧ fetchOut s s.cur (s.cur.a.pc + 4 * (2#16).signExtend 32) = .ok ⟨.dev, 0x30008, .dev, .pkg⟩ ∧
    fetchNeeds s s.cur ⟨.dev, 0x30008, .dev, .pkg⟩ = none ∧ isElse (fetchWord s s.cur ⟨.dev, 0x30008, .dev, .pkg⟩).toNat = c := by
  unfold Issues InHardware
  decide +kernel
theorem witness_else_merge : InHardware (stPath [⟨.els, 1, 0, 4⟩, ⟨.merge, 3, 0, 0⟩] 0) 2 ∧ Issues (.elseW 2) (stPath [⟨.els, 1, 0, 4⟩, ⟨.merge, 3, 0, 0⟩] 0) ∧
    (∀ k ∈ [PKind.merge, .cont], InHardware (stPath [⟨k, 3, 0, 0⟩] 0) 2 ∧ Issues .merge (stPath [⟨k, 3, 0, 0⟩] 0)) ∧ Issues (.breakvOpen 2) (stPath [] 0) := by
  unfold Issues InHardware
  decide +kernel
/-- Loops with a break entry whose continuation is offset 8, and with a continue entry over it. -/
def stLoop : List PathEntry := [⟨.cont, 0, 0, 4⟩, ⟨.brk, 0, 0, 8⟩]
theorem witness_leaves (m : Mask) : (let s := stPath stLoop m
    Leaves s 6 2 (.exitv 6) (stLoop.map (without (takenLanes s 6))) (s.cur.a.xl ||| takenLanes s 6)) ∧
    (let s := stPath stLoop m
     Leaves s 6 2 (.breakv 6 2) [without (takenLanes s 6) ⟨.cont, 0, 0, 4⟩, ⟨.brk, 0 ||| takenLanes s 6, 0, 8⟩] 0) ∧
    (let s := stPath stLoop m
     Leaves s 6 2 (.contv 6 2) [⟨.cont, 0 ||| takenLanes s 6, 0, s.cur.a.pc + 4 * (2#16).signExtend 32⟩, ⟨.brk, 0, 0, 8⟩] 0) := by
  refine ⟨?_, ?_, ?_⟩
  · exact Or.inl ⟨rfl, rfl, rfl⟩
  · exact Or.inr (Or.inl ⟨rfl, rfl, [⟨.cont, 0, 0, 4⟩], ⟨.brk, 0, 0, 8⟩, [], rfl, rfl, rfl, by simp, rfl⟩)
  · exact Or.inr (Or.inr ⟨rfl, rfl, [], ⟨.cont, 0, 0, 4⟩, ⟨.brk, 0, 0, 8⟩, [], rfl, rfl, rfl, by decide, rfl⟩)
/-- With one lane in the triple lanes run on, with all lanes none does. -/
theorem witness_lanes_left : (∀ m ∈ [1, 2 ^ 96 - 1], let s := stPath stLoop (BitVec.ofNat 96 m)
      InHardware s 2 ∧ Issues (.exitv 6) s ∧ Issues (.breakv 6 2) s ∧ Issues (.contv 6 2) s) ∧
    (let s := stPath stLoop 1
     s.cur.a.em &&& ~~~takenLanes s 6 ≠ 0) ∧
    (let s := stPath stLoop (BitVec.allOnes 96)
     s.cur.a.em &&& ~~~takenLanes s 6 = 0) := by
  unfold Issues InHardware
  decide +kernel
/-- The next path of an `exitv` of all lanes: an else entry that keeps a lane, above nothing and below an empty entry; and no path. -/
theorem witness_resumes : let e : PathEntry := ⟨.els, 3, 0, 12⟩
    e.mask &&& ~~~(1 : Mask) ≠ 0 ∧ (⟨.merge, 1, 0, 8⟩ : PathEntry).mask &&& ~~~(1 : Mask) = 0 ∧ e.kind ≠ .merge ∧
    ∀ g ∈ stLoop.map (without (BitVec.allOnes 96)), g.mask &&& ~~~(BitVec.allOnes 96) = 0 := by decide +kernel
theorem witness_pstack : let s := stPath [] 1
    InHardware s 0 ∧ (∀ i ∈ ([.split 6 2, .elseW 2, .merge, .breakv 6 2, .contv 6 2] : List Instr), Issues i s) ∧
    fetchOut s s.cur (s.cur.a.pc + 4 * (2#16).signExtend 32) = .ok ⟨.dev, 0x30008, .dev, .pkg⟩ ∧
    (let t := stPath (List.replicate 15 ⟨.els, 1, 0, 4⟩) 1
     InHardware t 0 ∧ Issues (.breakvOpen 2) t ∧ t.cur.a.stack.length > 14 ∧ spillAddr t t.cur 0 = none) := by
  unfold Issues InHardware
  decide +kernel
/-- A merge entry without an address comes up with lane 1; a loop whose break entry is under an else entry; 255 entries, most of them spilled; and a
`split` without room to spill. -/
theorem witness_pstack_more : (let s := withArch fun a => writeTriple false { a with em := 1, stack := [⟨.merge, 3, 0, 0⟩, ⟨.brk, 0, 0, 8⟩], depth := 2 } 6 1
      Issues (.breakv 6 2) s ∧ s.cur.a.em &&& ~~~takenLanes s 6 = 0 ∧ (without (takenLanes s 6) ⟨.merge, 3, 0, 0⟩).mask &&& ~~~s.cur.a.xl ≠ 0) ∧
    (let s := stPath [⟨.els, 1, 0, 4⟩, ⟨.brk, 0, 0, 8⟩] 1
     InHardware s 0 ∧ Issues (.contv 6 2) s ∧ [⟨.els, 1, 0, 4⟩].getLast? = some (⟨.els, 1, 0, 4⟩ : PathEntry) ∧ PKind.els ≠ .cont) ∧
    (∀ d ∈ [15, 255], let s := { (withArch fun a => { a with stack := List.replicate 15 ⟨.els, 1, 0, 4⟩, depth := d }) with sectors := [elseSec] }
      Issues (.breakvOpen 2) s ∧ Issues (.split 6 2) s ∧ s.cur.a.stack.length = 15 ∧ (255 ≤ s.cur.a.depth ↔ d = 255) ∧ spillAddr s s.cur 0 = none ∧
      fetchOut s s.cur (s.cur.a.pc + 4 * (2#16).signExtend 32) = .ok ⟨.dev, 0x30008, .dev, .pkg⟩ ∧ fetchNeeds s s.cur ⟨.dev, 0x30008, .dev, .pkg⟩ = none) := by
  unfold Issues InHardware
  decide +kernel
/-- A launch of one wave of V = 192 with a spill object. -/
def launch1 : Launch :=
  { tag := 1, pkg := 0, queue := 0, slot := 0, ctx := 1, image := 0, code := 1, kernel := ⟨0, 0x10000, 192, 4096, []⟩, nwaves := 1, csize := 1
    gx := 1, gy := 1, gz := 1, dmask := 1, flags := 0, mode := 0, mexcl := false, args := 0, spill := 0x20000000000, signal := 0, sigval := 0
    placed := 1, retired := 0, owed := none }
theorem witness_spill : let s := { stPath (List.replicate 16 ⟨.els, 1, 0, 4⟩) 1 with launches := [launch1] }
    InHardware s 0 ∧ Issues (.breakvOpen 2) s ∧ s.cur.a.stack.length = 16 ∧ ∀ k ≤ 1, spillAddr s s.cur k = some (2, 24 * k) ∧
      (match spillPieces s s.cur 0b010 (2, 24 * k) with
        | .ok ts => ts == (List.range 3).map fun j => ⟨.dev, 0x40000 + 24 * k + 8 * j, .dev, .pkg⟩
        | _ => false) = true := by
  unfold Issues InHardware
  decide +kernel

theorem witness_acquire : acquirePending st1.cur = false ∧ acquirePending (withOp { op7 with kind := .load false, order := .acq }).cur = true := by decide +kernel
theorem witness_fences : released st1 st1.cur .sys = true ∧ released (withOp { stOp with left := false }) (withOp { stOp with left := false }).cur .sys = false ∧
    Issues (.fenceSc .sys) (withOp { stOp with left := false }) := by
  unfold Issues
  decide +kernel
theorem witness_distance : let c := getCtx st1 0 1
    physDie c 0 = some 0 ∧ physDie c 1 = some 1 ∧ physDie c 2 = none ∧ physDie c 7 = none ∧ physDie c 8 = some 8 ∧ physDie c 15 = some 15 ∧ physDie c 16 = none := by
  decide +kernel
/-- `waita` on a misaligned word, outside the allocation, on its last word met and not met, without and with a timeout. -/
theorem witness_waita : ∀ p ∈ ([(2, 0, 0), (4096, 0, 0), (4092, 0, 0), (4092, 1, 0), (4092, 1, 5)] : List (Nat × Nat × Nat)),
    let s := stWith [(6, BitVec.ofNat 32 p.1), (7, BitVec.ofNat 32 p.2.1), (8, BitVec.ofNat 32 p.2.2)]
    Issues (.waita 6 9 .eq) s ∧ (blockOf s s.cur).size = 4096 ∧ scrBusy s.cur ⟨0, 0⟩ 4092 4 = false ∧ viewPoison s s.cur ⟨scr0, 4092, .dev, .none⟩ 4 = false ∧
    viewNat s s.cur ⟨scr0, 4092, .dev, .none⟩ 4 = 0 := by
  unfold Issues
  decide +kernel
/-- A sector of object 2 that the die may read, as other sectors' monitors stand. -/
def stMonitor (x : Nat) (ms : List DieSector) : State :=
  { stWith [(7, 0x200), (8, BitVec.ofNat 32 x)] with sectors := { cd := 0, sector := 0x1000, tokens := 1, valid := true, data := 5 } :: ms }
theorem witness_mwait : (∀ x ∈ [4, 5], let s := stMonitor x []
      let e := getSec s 0 0x1000
      Issues (.mwait 6 10) s ∧ (readS s.cur.a 7 ++ readS s.cur.a 6).toNat % 4 = 0 ∧ (readS s.cur.a 7 ++ readS s.cur.a 6).extractLsb' 40 24 ≠ clusterId ∧
      translate s s.cur 0b001 2 0 4 = .ok ⟨.dev, 0x40000, .dev, .pkg⟩ ∧ isCoherent ⟨.dev, 0x40000, .dev, .pkg⟩ = true ∧
      lostHome s 0 1 ⟨.dev, 0x40000, .dev, .pkg⟩ = false ∧ canRead e = true ∧ e.wakeDue = false ∧ e.poison = false ∧ e.req = none ∧ e.monitor = false ∧
      devNat s 0x40000 4 = 5 ∧ (readS s.cur.a 8).toNat = x ∧ monitorsUsed s 0 < 512) ∧
    monitorsUsed (stMonitor 5 ((List.range 512).map fun k => { cd := 0, sector := k, monitor := true })) 0 ≥ 512 ∧
    (∀ p ∈ ([(0x200, 2), (0xFFFFFF00, 0), (0x500, 0)] : List (Nat × Nat)), Issues (.mwait 6 10) (stWith [(6, BitVec.ofNat 32 p.2), (7, BitVec.ofNat 32 p.1)])) ∧
    translate st1 st1.cur 0b001 5 0 4 = .ok ⟨.host 0, 0x20000, .host, .none⟩ ∧ isCoherent ⟨.host 0, 0x20000, .host, .none⟩ = false ∧
    (∀ x ∈ [4, 0xFFFFFFFF], ∀ n ∈ [0, 512], let s := { stMonitor x ((List.range n).map fun k => { cd := 0, sector := k, monitor := true }) with
        mds := (List.range 8).map fun u => { unit := 8 + u, unreachable := true } }
      Issues (.mwait 6 10) s ∧ lostHome s 0 1 ⟨.dev, 0x40000, .dev, .pkg⟩ = true ∧ s.cur.window = [] ∧ s.cur.hold = .ready ∧
      translate s s.cur 0b001 2 0 4 = .ok ⟨.dev, 0x40000, .dev, .pkg⟩ ∧ (512 ≤ monitorsUsed s 0 ↔ n = 512)) := by
  unfold Issues
  decide +kernel
theorem witness_asleep : (∃ v, let s := withWave fun w => { w with hold := .waita 9 (accAt scr0 0 .none 0) 0 .eq (some 7) }
      getWave s ⟨0, 0, 0, 0⟩ = some v ∧ v.hold = .waita 9 (accAt scr0 0 .none 0) 0 .eq (some 7) ∧ viewPoison s v (accAt scr0 0 .none 0).tgt 4 = false) ∧
    (∃ v, let s := { withWave (fun w => { w with hold := .mwait 9 0x1000 (some 7) }) with sectors := [{ cd := 0, sector := 0x1000, monitor := true, wakeDue := true }] }
      getWave s ⟨0, 0, 0, 0⟩ = some v ∧ v.hold = .mwait 9 0x1000 (some 7) ∧ (getSec s 0 0x1000).wakeDue = true) ∧
    (∃ v, let s := withWave fun w => { w with hold := .sleep 7 }
      getWave s ⟨0, 0, 0, 0⟩ = some v ∧ v.hold = .sleep 7 ∧ ∃ e ∈ s.cds, e.unit = 0) :=
  ⟨⟨_, rfl, rfl, by decide +kernel⟩, ⟨_, rfl, rfl, by decide +kernel⟩, ⟨_, rfl, rfl, by decide +kernel⟩⟩

/-- A group event of the waiting wave, at the home of a group. -/
def stGroup (e : GroupEv) (h : Hold) (g : Group) : State :=
  { withWave (fun w => { w with hold := h, seq := 2 }) with groups := [g], groupMsgs := [⟨2, e⟩] }
/-- The block's group and a joined one. -/
def ownGroup : GroupRef := .block ⟨1, 0⟩
def coreGroup : GroupRef := .core 1 ⟨0, 0⟩ 0
theorem witness_group_words : Issues (.bar 6 9 .b0) st1 ∧ released st1 st1.cur .group = true ∧
    released (withOp { stOp with left := false }) (withOp { stOp with left := false }).cur .group = false ∧
    (blockOf st1 st1.cur).csize = 1 ∧ (readS st1.cur.a 6).toNat < 1 ∧ 1 ≤ (readS (stWith [(6, 1)]).cur.a 6).toNat ∧
    (clusterMember st1 st1.cur.blk 0).isSome = true ∧
    clusterMember { st1 with blocks := [{ block1 with csize := 2 }] } st1.cur.blk 1 = none ∧
    (∀ i ∈ ([.barr 6 .b0, .gjoin 6 9 .core, .gleave] : List Instr), Issues i (stWith [(6, 1)]) ∧ Issues i st1) ∧
    (let s := withWave fun w => { w with groups := [coreGroup] }
     Issues (.gjoin 6 9 .core) s ∧ currentGroup s.cur = .core s.cur.ctx (coreId s.cur.id) (readS s.cur.a 6) ∧ s.cur.groups = [] ++ [coreGroup] ∧
     joinWaits s s.cur coreGroup = false ∧ joinWaits { s with blocks := [{ block1 with state := .stopping }] } s.cur coreGroup = true) ∧
    (let s := withWave fun w => { w with groups := [coreGroup, .core 1 ⟨0, 0⟩ 2, .core 1 ⟨0, 0⟩ 1] }
     (joinedGroups s s.cur).length = 3 ∧ coreGroup ∈ joinedGroups s s.cur ∧ currentGroup s.cur ≠ .core s.cur.ctx (coreId s.cur.id) (readS s.cur.a 6)) := by
  unfold Issues
  decide +kernel
/-- An arrival that completes its phase, one that waits for a second member, and one at an abandoned group. -/
theorem witness_arrival : ∀ p ∈ ([(1, false), (2, false), (1, true)] : List (Nat × Bool)),
    let g : Group := { ref := ownGroup, members := (List.range p.1).map fun k => ⟨⟨1, 0⟩, k⟩, abandoned := p.2 }
    let s := stGroup (.arrive ⟨0, 0, 0, 0⟩ ownGroup .b0 0) (.bar ownGroup .b0 9 false) g
    s.groupMsgs[0]?.isSome = true ∧ groupMsgReady s ⟨2, .arrive ⟨0, 0, 0, 0⟩ ownGroup .b0 0⟩ = true ∧ getGroup s ownGroup = some g ∧
    remoteWaits s (.arrive ⟨0, 0, 0, 0⟩ ownGroup .b0 0) = false ∧ s.cur.hold = .bar ownGroup .b0 9 false ∧ (∀ k : Fin 4, g.bars[k].arrived = []) ∧
    (1 ≤ g.members.length ∧ g.members.length ≤ g.bars[barNum .b0].arrived.length + 1 ∧ Nat.max g.bars[barNum .b0].q 0 ≤ g.bars[barNum .b0].r ↔ p.1 = 1) := by
  decide +kernel
/-- Another wave waits at barrier 0 for the last arrival, for a member that leaves, and for a remote arrival. -/
theorem witness_phase_end : ∀ e ∈ ([.arrive ⟨0, 0, 0, 0⟩ ownGroup .b0 0, .leave ⟨0, 0, 0, 0⟩ ownGroup true ⟨⟨1, 0⟩, 0⟩, .remote ⟨0, 0, 0, 0⟩ ownGroup .b0] :
      List GroupEv), ∃ v,
    let ms := match e with
      | .remote .. => [⟨⟨1, 0⟩, 1⟩]
      | _ => [⟨⟨1, 0⟩, 0⟩, ⟨⟨1, 0⟩, 1⟩]
    let q := match e with
      | .remote .. => 1
      | _ => 0
    let g : Group := { ref := ownGroup, members := ms, bars := (Vector.replicate 4 {}).set 0 { arrived := [⟨0, 0, 0, 1⟩], q := q } }
    let s := { stGroup e (.bar ownGroup .b0 9 false) g with waves := [{ wave1 with id := ⟨0, 0, 0, 1⟩, k := 1, hold := .bar ownGroup .b0 9 true }] }
    groupMsgReady s ⟨2, e⟩ = true ∧ getGroup s ownGroup = some g ∧ remoteWaits s e = false ∧ g.bars[barNum .b0].arrived = [⟨0, 0, 0, 1⟩] ∧
    getWave s ⟨0, 0, 0, 1⟩ = some v ∧ v.hold = .bar ownGroup .b0 9 true := by
  intro e he
  exact ⟨{ wave1 with id := ⟨0, 0, 0, 1⟩, k := 1, hold := .bar ownGroup .b0 9 true }, by revert e; decide +kernel⟩
theorem witness_join_leave : (let g : Group := { ref := coreGroup }
      let s := stGroup (.join ⟨0, 0, 0, 0⟩ coreGroup 9) (.join 9) g
      groupMsgReady s ⟨2, .join ⟨0, 0, 0, 0⟩ coreGroup 9⟩ = true ∧ getGroup s coreGroup = some g ∧ (∀ k : Fin 4, g.bars[k].arrived = []) ∧
      (∀ c ∈ newEntries s coreGroup (coreId s.cur.id), groupEntries s c < 16)) ∧
    (let g : Group := { ref := coreGroup, members := [⟨⟨1, 0⟩, 0⟩] }
      let s := stGroup (.leave ⟨0, 0, 0, 0⟩ coreGroup true ⟨⟨1, 0⟩, 0⟩) .leave g
      groupMsgReady s ⟨2, .leave ⟨0, 0, 0, 0⟩ coreGroup true ⟨⟨1, 0⟩, 0⟩⟩ = true ∧ getGroup s coreGroup = some g) ∧
    (let g : Group := { ref := ownGroup, members := [⟨⟨1, 0⟩, 0⟩] }
      let s := stGroup (.remote ⟨0, 0, 0, 0⟩ ownGroup .b0) .barr g
      groupMsgReady s ⟨2, .remote ⟨0, 0, 0, 0⟩ ownGroup .b0⟩ = true ∧ getGroup s ownGroup = some g ∧ remoteWaits s (.remote ⟨0, 0, 0, 0⟩ ownGroup .b0) = false ∧
      g.bars[barNum .b0].arrived = []) ∧
    (let g : Group := { ref := ownGroup, members := [⟨⟨1, 0⟩, 0⟩, ⟨⟨1, 0⟩, 1⟩], bars := (Vector.replicate 4 {}).set 0 { arrived := [⟨0, 0, 0, 0⟩] } }
      let s := stGroup (.kill ⟨⟨1, 0⟩, 1⟩ [ownGroup]) (.bar ownGroup .b0 9 true) g
      groupMsgReady s ⟨2, .kill ⟨⟨1, 0⟩, 1⟩ [ownGroup]⟩ = true ∧ getGroup s ownGroup = some g ∧ ⟨0, 0, 0, 0⟩ ∈ g.bars[(0 : Fin 4)].arrived ∧
      s.cur.hold = .bar ownGroup .b0 9 true) := by decide +kernel

/-- `xlat` of object 0, of the cluster window, of object 2 with its walk at hand, and of object 2 without. -/
theorem witness_xlat : (∀ p ∈ ([(0, 0), (0xFFFFFF00, 0xFFFFFF), (0x200, 2)] : List (Nat × Nat)), let s := stWith [(7, BitVec.ofNat 32 p.1)]
      Issues (.xlat 6 .t2) s ∧ ((readS s.cur.a 7 ++ readS s.cur.a 6).extractLsb' 40 24).toNat = p.2 ∧ s.cur.xres = [] ∧
      (getCd s s.cur.id.cd).walks.length < 16) ∧
    (let r : WalkRes := ⟨2, 0, .absent⟩
     let s := { stWith [(7, 0x200)] with cur := { (stWith [(7, 0x200)]).cur with xres := [r] } }
     s.cur.xres.find? (fun r => r.id == 2 && r.page == 0) = some r) := by
  unfold Issues
  decide +kernel
/-- The bounds of a window: an address at the length, and one in the second page of a run. -/
theorem witness_window_bounds : (0x20000 : Nat) ≤ 0x20000 ∧ (0x1FFFF : Nat) < 0x20000 ∧ 65536 ∣ 0x10000 ∧ 0x10000 ≤ 0x1FFFF ∧
    0x1FFFF / 65536 - 0x10000 / 65536 ≤ (5 : BitVec 40).toNat ∧ 0x20000 ≤ 2 ^ 40 := by decide
/-- A die with a walk, an invalidation of object 2, and a write-back. -/
def inv2 : Inval := { k := 5, pkg := 0, ctx := 1, id := 2, first := 0, count := 0, todo := [0], acks := [0], marks := [(0, 20)], iod := none }
theorem witness_walk : ∃ v, let s := { withWave (fun w => { w with hold := .walk [(2, 0)] }) with
                                     cds := [{ unit := 0, walks := [⟨1, 2, 0, none, 0, 0⟩] }]
                                     sectors := tableSecs }
    (getCd s 0).walks[0]? = some ⟨1, 2, 0, none, 0, 0⟩ ∧ getWave s ⟨0, 0, 0, 0⟩ = some v ∧ v.ctx = 1 ∧ v.hold = .walk [(2, 0)] ∧
    entryAddr (getCtx s 0 1) 2 / 64 = 0x401 ∧ (devNat s (entryAddr (getCtx s 0 1) 2) 32 >>> 112) % 65536 = 1 ∧
    extentAddr 0 (devNat s (entryAddr (getCtx s 0 1) 2) 32) 0 / 64 = 0x801 ∧
    (∀ x ∈ [0x401, 0x801], walkLost s 0 x = false ∧ canRead (getSec s 0 x) = true) := ⟨_, by decide +kernel, rfl, rfl, rfl, by decide +kernel⟩
/-- What the walks of page 0 and page 5 of object 2 and of page 0 of object 0 rest on: a valid entry of kind DEV and COH pkg, one run of two
pages, and no entry. -/
theorem witness_walk_finds : let e : BitVec 256 := BitVec.ofNat 256 (devNat st1 0x10040 32)
    let x : BitVec 64 := BitVec.ofNat 64 (devNat st1 0x20040 8)
    (getCtx st1 0 1).otbase = 1 ∧ (getCtx st1 0 1).otlen = 16 ∧ e.getLsbD 50 = true ∧ e.getLsbD 49 = false ∧ e.extractLsb' 144 48 = 0 ∧
    e.extractLsb' 105 7 = 0 ∧ e.extractLsb' 51 19 = 0 ∧ (e.extractLsb' 44 2, e.extractLsb' 46 2) = (0, 0) ∧ e.extractLsb' 112 16 = 1 ∧
    (e.extractLsb' 70 35).toNat * 64 = 0x20040 ∧ x.extractLsb' 40 22 = 2 ∧ x.getLsbD 62 = false ∧ x.extractLsb' 0 40 = 4 := by decide +kernel
theorem witness_invalidation : (∃ v, let s := withWave fun w => { w with hold := .migration 2 }
      getWave s ⟨0, 0, 0, 0⟩ = some v ∧ v.hold = .migration 2) ∧
    ({ st1 with invals := [inv2] }.invals.find? (·.k == 5) = some inv2 ∧ 0 ∈ inv2.todo) ∧
    (∃ v, let s := { withWave (fun w => { w with hold := .inval [5] }) with invals := [inv2] }
      inv2.acks = [0] ∧ inv2.marks.find? (·.1 == 0) = some (0, 20) ∧ openAccess s inv2 0 20 = false ∧ getWave s ⟨0, 0, 0, 0⟩ = some v ∧
      v.hold = .inval [5] ∧ pkgOf 0 = inv2.pkg) :=
  ⟨⟨_, rfl, rfl⟩, by decide +kernel, ⟨_, rfl, rfl, by decide +kernel, rfl, rfl, by decide⟩⟩
theorem witness_driver_invalidation : (∃ q ∈ st1.pkgs, q.id = 0) ∧ (∀ j ∈ st1.invals, j.pkg ≠ 0) ∧ countedDies st1 0 ≠ [] ∧ (∀ j ∈ st1.invals, j.k ≠ st1.nextId) ∧
    (∀ iod < 2, ∃ j ∈ { st1 with invals := [{ inv2 with iod := some iod }] }.invals, j.pkg = 0 ∧ j.iod = some iod) ∧ iodRuns st1 0 = true ∧
    iodRuns { st1 with pkgs := [{ id := 0 }] } 0 = false ∧ countedDies { st1 with cds := [] } 0 = [] := by decide +kernel
theorem witness_writeback : ∃ v, let b : Writeback := ⟨6, 0, none, false, [0], none⟩
    let m : Msg := { src := 0x100000, dst := 0, body := .writeback 6 }
    let s := { withWave (fun w => { w with hold := .writeback 6 }) with wbs := [b], net := [m] }
    s.net[0]? = some m ∧ s.wbs.find? (·.k == 6) = some b ∧ b.owed = [m.dst] ∧ (∀ x ∈ wbSectors s m.dst b, (getSec s m.dst x).frozen = false ∧ (getSec s m.dst x).req = none) ∧
    getWave s ⟨0, 0, 0, 0⟩ = some v ∧ v.hold = .writeback 6 := ⟨_, rfl, by decide +kernel, rfl, by decide +kernel, rfl, rfl⟩

/-- A write-back, with and without invalidation, of sectors that die 0 holds modified and unmodified, all of whose tokens came from their homes. -/
theorem witness_writeback_returns : ∀ c ∈ [true, false], let b : Writeback := ⟨6, 0, none, c, [0], none⟩
    let s := { withWave (fun w => { w with hold := .writeback 6 }) with
      wbs := [b], net := [{ src := 0x100000, dst := 0, body := .writeback 6 }]
      sectors := [{ cd := 0, sector := 0x1000, tokens := 2, own := true, valid := true, modified := true, data := 7 },
        { cd := 0, sector := 0x1001, tokens := 1, valid := true }]
      homes := [{ sector := 0x1000, own := false, tokens := 62 }, { sector := 0x1001, tokens := 63 }] }
    wbSectors s 0 b = [0x1000, 0x1001] ∧ memWf s.mem = true ∧
    (∀ y ∈ wbSectors s 0 b, (getHome s y).trump = none ∧ (getMd s (homeUnit y)).flip = none ∧ (getSec s 0 y).serial = (getHome s y).serial ∧
      (getSec s 0 y).frozen = false ∧ (getSec s 0 y).req = none) := by decide +kernel

/-- A layout record of 16 words of object 2, and its 32 bytes at the start of the scratchpad. -/
def lay1 : LayRec :=
  { image := 0, addr := 0x20000000000, dimx := 16, dimy := 1, pitch := 64, esz := 2, rd := true, wr := true, sh := false, kind := .dev, coh := .pkg
    frames := [(0, 4)] }
def stLayout : State := { st1 with cores := [{ id := ⟨0, 0⟩, lastCtx := 1, tlb := tlb1, scr := [(5, 2), (8, 16), (12, 1), (16, 64), (22, 2)] }] }
/-- st1 with n records registered. -/
def stRecords (n : Nat) : State := { st1 with blocks := [{ block1 with recs := (List.range n).map fun h => (h, lay1) }] }
/-- The same with and without L1 TLB entries. -/
def stCached (c : Bool) : State := if c then stLayout else { stLayout with cores := stLayout.cores.map fun k => { k with tlb := [] } }
theorem witness_layreg : Issues (.layreg 6 9) stLayout ∧ scrBusy stLayout.cur ⟨0, 0⟩ 0 32 = false ∧ scrViewPois stLayout stLayout.cur ⟨0, 0⟩ 0 32 = false ∧
    (∀ c ∈ [true, false], (match register (pageView (stCached c) (stCached c).cur) 0 (BitVec.ofNat 256 (scrView stLayout stLayout.cur ⟨0, 0⟩ 0 32)) with
      | .ok l => c && l.frames == [(0, 4)] && l.dimx == 16
      | .walks ps => !c && ps == [(2, 0)]
      | _ => false) = true) ∧
    (match register (pageView st1 st1.cur) 0 (BitVec.ofNat 256 (scrView st1 st1.cur ⟨0, 0⟩ 0 32)) with
      | .fault c ad => c == .rsvf && ad == 0
      | _ => false) = true ∧
    stLayout.cur.window = [] ∧ getBlock stLayout ⟨1, 0⟩ = some block1 ∧ block1.unreg = [] ∧ Gathers stLayout [(entryAddr (getCtx stLayout 0 1) 2 + 16) / 64] ∧
    memWf stLayout.mem = true ∧ coreRecords stLayout ⟨0, 0⟩ < 32 ∧ Issues (.layreg 6 9) (stCached false) ∧ (blockOf (stRecords 8) (stRecords 8).cur).recs.length ≥ 8 ∧
    Issues (.layreg 6 9) (stWith [(6, 4064)]) ∧ Issues (.layreg 6 9) (stWith [(6, 4096)]) ∧ Issues (.layreg 6 9) (stWith [(6, 16)]) := by
  unfold Issues Gathers
  decide +kernel
theorem witness_layrel : (∀ k ≤ 1, Issues (.layrel 6) (stRecords k)) ∧ (blockOf (stRecords 0) (stRecords 0).cur).recs = [] ∧
    (blockOf (stRecords 1) (stRecords 1).cur).recs.find? (·.1 == 0) = some (0, lay1) ∧ (getCore (stRecords 1) ⟨0, 0⟩).reqs = [] ∧
    Gathers (stRecords 1) [(entryAddr (getCtx (stRecords 1) 0 1) 2 + 16) / 64] := by
  unfold Issues Gathers
  decide +kernel
theorem witness_publish : let s := stWith [(7, 0x200), (9, 0x400)]
    Issues (.publ 6 8) s ∧ (match publCheck s 0 1 2 4 with
      | .ok _ _ => true
      | _ => false) = true ∧ publCheck s 0 1 9 4 = .fault .noxl false ∧ released s s.cur .sys = true ∧ s.cur.window = [] ∧
    Gathers s [entryAddr (getCtx s 0 1) 2 / 64, entryAddr (getCtx s 0 1) 4 / 64] ∧ memWf s.mem = true := by
  unfold Issues Gathers
  decide +kernel

/-- A collective of n bytes from byte `src` with k destinations from byte `list` on; at byte 64 stands one of object `id`. -/
def stColl (id src n list k : Nat) : State :=
  { stWith [(6, BitVec.ofNat 32 src), (7, BitVec.ofNat 32 n), (8, BitVec.ofNat 32 list), (9, BitVec.ofNat 32 k)] with
    cores := [{ id := ⟨0, 0⟩, lastCtx := 1, tlb := tlb1, scr := if id = 0 then [] else [(69, BitVec.ofNat 8 id)] }] }
/-- Each check of a collective failed in turn, the bounds of its list and of its sizes, and a sound one. -/
theorem witness_collective : (∀ p ∈ ([(2, 4, 64, 1), (0, 4, 68, 1), (0, 2, 64, 1), (0, 4100, 64, 1), (0, 4, 64, 0), (0, 4, 64, 17), (4094, 4, 64, 1), (0, 4, 4096, 1),
      (0, 4, 64, 1)] : List (Nat × Nat × Nat × Nat)), let s := stColl 2 p.1 p.2.1 p.2.2.1 p.2.2.2
      Issues (.mcst 6 2 3) s ∧ Issues (.redst 6 .f32 2 3) s ∧ scrBusy s.cur ⟨0, 0⟩ p.1 p.2.1 = false ∧
      scrBusy s.cur ⟨0, 0⟩ p.2.2.1 (8 * min p.2.2.2 ((4096 - p.2.2.1) / 8)) = false ∧
      (scalarNat s 6 0, scalarNat s 6 1, scalarNat s 6 2, scalarNat s 6 3, (blockOf s s.cur).size) = (p.1, p.2.1, p.2.2.1, p.2.2.2, 4096) ∧
      scrView s s.cur ⟨0, 0⟩ 64 8 = 2 * 2 ^ 40) ∧
    (∀ c ∈ [0, 1, 2], (match destOut (stColl c 0 4 64 1) { (stColl c 0 4 64 1).cur with ctx := if c = 1 then 2 else 1 } 0b011 [BitVec.ofNat 64 (c * 2 ^ 40)] 4 with
      | .ok ds => c == 2 && ds.length == 1
      | .walks ps => c == 1 && ps == [(1, 0)]
      | .fault k ad => c == 0 && k == .bounds && ad == 0
      | _ => false) = true) := by
  unfold Issues
  decide +kernel
theorem witness_held_range : HeldRange (stColl 2 0 4 64 1) (stColl 2 0 4 64 1).cur 0b011 4 0x20000000000 := by
  refine ⟨by decide, by decide, 0x20000, by decide, by decide, fun p _ h => ?_⟩
  obtain rfl : p = 0 := Nat.le_zero.mp h
  exact ⟨⟨1, 2, 0, 4, 0x20000, 3, false, .dev, .pkg⟩, by decide +kernel, rfl, rfl, by decide, nofun⟩
/-- A collective operation with one word to go, at each kind of place; and one for which a tree of group 0 leads to package 1. -/
theorem witness_collective_end : (∀ p ∈ ([(none, .dev, .pkg), (none, .dev, .none), (none, .host 0, .none), (some .i32, .dev, .pkg), (some .i32, .dev, .none),
      (some .i32, .host 0, .none)] : List (Option RedOp × Space × Coh)), ∃ v o, let x := accAt p.2.1 0x40000 p.2.2 5
    let s := { withOp o with sectors := [{ cd := 0, sector := 0x1000, tokens := if p.1 = none then 64 else 0, own := true, valid := true }] }
    getWave s ⟨0, 0, 0, 0⟩ = some v ∧ v.hold ≠ .ended ∧ v.ops.find? (·.id == 7) = some o ∧ o.left = true ∧ o.flag = some 2 ∧ noClash v 7 o.acc ∧
    (o.kind, o.acc) = (.coll p.1, [x]) ∧ collUnsent s v o = false ∧ reached s v o x = true ∧ lostHome s 0 v.ctx x.tgt = false ∧ hostLocked s x.tgt = false ∧
    wcLine (getCore s ⟨0, 0⟩) x = false ∧ (p.1 = none → canWrite (getSec s 0 0x1000) = true ∧ (getSec s 0 0x1000).poison = false) ∧
    memWf s.mem = true ∧ memWf s.hostMem = true ∧ (p.1 ≠ none → levelReady s v o.scope [x] = (true, s) ∧ accPoison s [] x = false)) ∧
    (∃ v o, let s := { withOp o with
        ctxs := [{ ctx1 with cflags := 32 }], pkgs := machine.pkgs ++ [{ id := 1, mcgroups := [(0, 0x100000000)] }] }
     getWave s ⟨0, 0, 0, 0⟩ = some v ∧ v.hold ≠ .ended ∧ v.ops.find? (·.id == 7) = some o ∧ o.left = true ∧ o.flag = some 2 ∧ noClash v 7 o.acc ∧
     o.kind = .coll none ∧ collUnsent s v o = true) := by
  constructor
  · intro p hp
    refine ⟨_, { op7 with kind := .coll p.1, acc := [accAt p.2.1 0x40000 p.2.2 5] }, rfl, ?_, ?_, rfl, rfl, ?_, rfl, ?_, ?_, ?_, ?_, ?_, ?_, ?_, ?_,
      fun h => ⟨levelReady_of _ _ _ _ ?_, ?_⟩⟩ <;> revert p <;> (try unfold noClash) <;> decide +kernel
  · exact ⟨_, { op7 with kind := .coll none, acc := [⟨0, ⟨.dev, 2 ^ 44, .pod, .pod⟩, 0, 4, 5, 0⟩] }, rfl, by unfold noClash; decide +kernel⟩

/-- A request of width w for the record of handle 0 in a kernel with one handler. -/
def stEngine (w : Nat) : State :=
  { stWith [(9, BitVec.ofNat 32 w), (10, 1), (12, 64)] with
    blocks := [{ block1 with recs := [(0, lay1)] }], launches := [{ launch1 with kernel := { launch1.kernel with handlers := [0x100] } }] }
theorem witness_engine_issue : (∀ w ∈ [0, 16], ∀ i ∈ ([.bulkrd 6 20 2 3, .copy 6 20 2 3, .copymc 6 20 2 3] : List Instr), Issues i (stEngine w)) ∧
    (∀ k ∈ [EngKind.bulkrd, .copy, .copymc], engCheck (stEngine 16) (stEngine 16).cur 6 (engArgs (stEngine 16) (stEngine 16).cur k 6 20) = none ∧
      engCheck (stEngine 0) (stEngine 0).cur 6 (engArgs (stEngine 0) (stEngine 0).cur k 6 20) = some (.rsvf, 0, 0)) ∧
    (stEngine 16).cur.preempt = false ∧ (getCore (stEngine 16) ⟨0, 0⟩).reqs.length < 512 := by
  unfold Issues
  decide +kernel
/-- st1 with a request's scalars from s6 on and its last operand in s20. -/
def stRequest (l : LayRec) (xs : List Nat) (sb : Nat) : State :=
  { stWith ((xs.zipIdx.map fun x => (BitVec.ofNat 6 (6 + x.2), BitVec.ofNat 32 x.1)) ++ [(20, BitVec.ofNat 32 sb)]) with
    blocks := [{ block1 with recs := [(0, l)] }], launches := [{ launch1 with kernel := { launch1.kernel with handlers := [0x100] } }] }
/-- Each check of a request failed in turn: a misaligned record, a reserved bit, a member beyond the cluster, a handle without a record, a record
without the right to read, and an area beyond the allocation, its own and a member's. -/
theorem witness_engine_checks : ∀ p ∈ ([(lay1, [0, 0, 0, 16, 1, 0, 4], 0, Cause.align), (lay1, [8, 0, 0, 16, 1, 0, 64], 0, .rsvf), (lay1, [0, 0, 0, 16, 1, 0, 64], 2, .mcrange),
      (lay1, [1, 0, 0, 16, 1, 0, 64], 0, .noxl), ({ lay1 with rd := false }, [0, 0, 0, 16, 1, 0, 64], 0, .perm), (lay1, [0, 0, 0, 16, 1, 4090, 64], 0, .bounds),
      (lay1, [0, 0, 0, 16, 1, 4090, 64], 1, .bounds)] : List (LayRec × List Nat × Nat × Cause)),
    let s := stRequest p.1 p.2.1 p.2.2.1
    let k := if p.2.2.1 = 0 then EngKind.copy else .copymc
    Issues (.copy 6 20 2 3) s ∧ Issues (.copymc 6 20 2 3) s ∧ (engCheck s s.cur 6 (engArgs s s.cur k 6 20)).map (·.1) = some p.2.2.2 ∧ clusterMember s ⟨1, 0⟩ 0 ≠ none := by
  unfold Issues
  decide +kernel
/-- The request of a kind, with n units issued, those of a list in flight, under an operation of its wave. -/
def req1 (k : EngKind) (n : Nat) (fl : List (Nat × Int)) : EngReq :=
  { engArgs (stEngine 16) (stEngine 16).cur k 6 20 with op := 7, nextB := n, flying := fl, joined := 0 }
def stReq (q : EngReq) : State :=
  { withOp { op7 with kind := .engine 0 } with
    blocks := [{ block1 with recs := [(0, lay1)] }], cores := [{ id := ⟨0, 0⟩, lastCtx := 1, tlb := tlb1, reqs := [q] }]
    sectors := [{ cd := 0, sector := 0x1000, tokens := 1, valid := true }] }
theorem witness_engine_burst : let q := req1 .bulkrd 0 []
    findReq (stReq q) ⟨0, 0⟩ 0 = some q ∧ q.gather = false ∧ q.nextB < q.total ∧ burstsOut (stReq q) ⟨0, 0⟩ < 64 ∧
    servedNext (stReq q) ⟨0, 0⟩ 0 = true ∧ engineMayStart (stReq q) q.issuer q.op = true := by decide +kernel
theorem ready_of (s : State) (cd : Nat) (ts : List Target) (h : ts.any (hostLocked s) = false)
    (r : (((ts.filter isCoherent).map fun t => sectorOf t.addr).all fun x => canRead (getSec s cd x)) = true) :
    engReady s cd ts = (true, s) := by
  rw [engReady, h, dieRead, r]
  rfl
theorem witness_engine_ready : ∀ k ∈ [EngKind.bulkrd, .copy], let q := req1 k 1 [(0, 0)]
    engReady (stReq q) 0 (engPlaces (stReq q) 0 q (srcPlaces 0 q 0 0)) = (true, stReq q) := by
  intro k hk q
  apply ready_of
  · revert k; decide +kernel
  · revert k; decide +kernel
theorem witness_engine_land : let q := req1 .copy 1 [(0, 0)]
    findReq (stReq q) ⟨0, 0⟩ 0 = some q ∧ q.dir = false ∧ q.flying.find? (·.1 == 0) = some (0, 0) ∧ q.dests = [(⟨0, 0⟩, 0)] ∧ q.got = [] ∧ q.put = [] ∧
    memWf (getCore (stReq q) ⟨0, 0⟩).scr = true ∧ (engBytes (stReq q) 0 q 0 0 (List.range (unitSize q 0))).all (fun x => !x.2.pois && !x.2.lost) = true := by
  decide +kernel
/-- The first byte of a unit of a read, and that of a write inside the tensor and beside it. -/
theorem witness_engine_bytes : let q := req1 .copy 0 []
    q.lay.esz ≤ 3 ∧ q.bound = none ∧ (0 : Nat) < min 128 ((q.width - 0 % ((q.width * 4 + 127) / 128) * 128 / 4) * 4) ∧ q.lay.dimx = 16 ∧ q.lay.dimy = 1 ∧ q.x0 = 0 ∧
    (destPlaces 0 { q with dir := true } 0 0).length = 64 ∧ destPlaces 0 { q with dir := true, x0 := 16 } 0 0 = [] := by decide +kernel
theorem witness_engine_birth : let q := req1 .bulkrd 1 [(0, 0)]
    findReq (stReq q) ⟨0, 0⟩ 0 = some q ∧ q.flying.find? (·.1 == 0) = some (0, 0) ∧ handlerSlot (stReq q) ⟨0, 0⟩ q.issuer.part = some ⟨0, 0, 0, 16⟩ ∧
    (getWave (stReq q) q.issuer).isSome = true ∧ q.issuer ≠ ⟨0, 0, 0, 16⟩ ∧ (getCore (stReq q) ⟨0, 0⟩).bursts = [] ∧ q.got = [] ∧
    (engBytes (stReq q) 0 q 0 0 (List.range (unitSize q 0))).all (fun x => !x.2.pois && !x.2.lost) = true := by decide +kernel
theorem witness_engine_end : ∃ v, let q := req1 .copy 1 []
    let s := stReq q
    q.nextB = q.total ∧ q.flying = [] ∧ handlersDone s ⟨0, 0⟩ 0 = true ∧ (getCore s ⟨0, 0⟩).bursts = [] ∧ q.wrote = 0 ∧ q.dir = false ∧ q.dests = [(⟨0, 0⟩, 0)] ∧
    v.hold ≠ .ended ∧ v.ops.find? (·.id == 7) = some { op7 with kind := .engine 0 } ∧ noClash v 7 [] ∧ v.handler = none ∧ getWave s q.issuer = some v :=
  ⟨(withOp { op7 with kind := .engine 0 }).cur, by unfold noClash; decide +kernel⟩
theorem witness_handler_drain : let v := { wave1 with handler := some ⟨0, 0, wave1.a, ownGroup, 0, 0⟩ }
    let s := { st1 with cur := v, blocks := [{ block1 with state := .stopping }] }
    getWave s ⟨0, 0, 0, 0⟩ = some v ∧ v.handler.isSome = true ∧ v.hold ≠ .ended ∧ (blockOf s v).state = .stopping := by decide +kernel

/-- A near-memory operation of one sector of object 4, the shadow, with its source in object 2, and of object 9, which has no entry; the walks of both
have been made. -/
def stNear (d : Nat) : State :=
  let s := stWith [(7, BitVec.ofNat 32 (256 * d)), (9, 0x200), (10, 64)]
  { s with cur := { s.cur with xres := [⟨4, 0, walkPage s 0 1 4 0⟩, ⟨9, 0, .absent⟩] } }
/-- What its wave sees of the range of its destination, and of another's pages. -/
def nearRange (d need : Nat) (sh : Bool) : RangeOut :=
  nmRange (pageView (stNear d) (stNear d).cur) 0 false (BitVec.ofNat 3 need) sh (readS (stNear d).cur.a 7 ++ readS (stNear d).cur.a 6) 64
theorem witness_near : (∀ d ∈ [2, 4, 9], ∀ i ∈ ([.nmopFill 6 2 3, .nmopCopy 6 2 3, .nmopCmp 6 2 3, .nmopRed 6 .i32 2 3] : List Instr), Issues i (stNear d)) ∧
    (∀ p ∈ ([(4, 2, true), (2, 1, false), (2, 3, false), (9, 2, true), (1, 2, true), (6, 2, true)] : List (Nat × Nat × Bool)),
      (match nearRange p.1 p.2.1 p.2.2 with
      | .ok _ _ => p.1 == 4 || p.1 == 2
      | .fault c _ => (p.1 == 9 && c == .noxl) || (p.1 == 1 && c == .perm)
      | .walks ps => p.1 == 6 && ps == [(6, 0)]
      | _ => false) = true) ∧ (scalarNat (stNear 4) 6 4, scalarNat (stNear 4) 6 5, (blockOf (stNear 4) (stNear 4).cur).size) = (64, 0, 4096) := by
  unfold Issues
  decide +kernel
/-- A request with pieces left. -/
def nm1 (n : Nat) : NmReq :=
  { op := 7, wave := ⟨0, 0, 0, 0⟩, blk := ⟨1, 0⟩, fn := 0, red := .i32, pattern := 5, recAddr := 64, left := n, result := 0, npois := 0, objs := [4] }
def stNm (n : Nat) : State :=
  { withOp { op7 with kind := .nmop } with
    cores := [{ id := ⟨0, 0⟩, lastCtx := 1, nm := [nm1 n] }]
    mds := [{ unit := 8, pieces := [⟨⟨0, 0⟩, 7, 0x80000, none, 64, 0, []⟩] }] }
theorem witness_near_piece : let s := stNm 1
    (getMd s 8).pieces = [⟨⟨0, 0⟩, 7, 0x80000, none, 64, 0, []⟩] ∧ findNm s ⟨0, 0⟩ 7 = some (nm1 1) ∧ engineMayStart s ⟨0, 0, 0, 0⟩ 7 = true ∧
    (getMd s 8).unreachable = false ∧ (∀ x ∈ span (sectorOf 0x80000) 1, (getMd s (homeUnit x)).unreachable = false) ∧ Gathers s (span (sectorOf 0x80000) (64 / 64)) ∧ memWf s.mem = true := by
  unfold Gathers
  decide +kernel
/-- A piece of a copy, a comparison and a reduction of one sector, its source another sector of home. -/
theorem witness_near_pieces : ∀ fn ∈ [1, 2, 3], let s := { stNm 1 with
      cores := [{ id := ⟨0, 0⟩, lastCtx := 1, nm := [{ nm1 1 with fn := fn }] }], mds := [{ unit := 8, pieces := [⟨⟨0, 0⟩, 7, 0x80000, some 0x40000, 64, 0, []⟩] }] }
    (getMd s 8).pieces = [⟨⟨0, 0⟩, 7, 0x80000, some 0x40000, 64, 0, []⟩] ∧ findNm s ⟨0, 0⟩ 7 = some { nm1 1 with fn := fn } ∧ engineMayStart s ⟨0, 0, 0, 0⟩ 7 = true ∧
    (getMd s 8).unreachable = false ∧ (∀ x ∈ [0x2000, 0x1000], (getMd s (homeUnit x)).unreachable = false ∧ (getHome s x).own = true ∧ hostFree s x = true) ∧
    Gathers s [0x2000] ∧ span (0x80000 / 64) 1 = [0x2000] ∧ span (0x40000 / 64) 1 = [0x1000] ∧ memWf s.mem = true := by
  unfold Gathers
  decide +kernel
theorem witness_near_end : ∃ v, let s := stNm 0
    findNm s ⟨0, 0⟩ 7 = some (nm1 0) ∧ getWave s ⟨0, 0, 0, 0⟩ = some v ∧ v.hold ≠ .ended ∧ v.ops.find? (·.id == 7) = some { op7 with kind := .nmop } ∧
    noClash v 7 [] ∧ (getBlock s ⟨1, 0⟩).map (·.core) = some ⟨0, 0⟩ ∧ memWf (getCore s ⟨0, 0⟩).scr = true :=
  ⟨(withOp { op7 with kind := .nmop }).cur, by decide +kernel, rfl, by decide +kernel, by decide +kernel, by unfold noClash; decide +kernel, by decide +kernel, by decide +kernel⟩

/-- A tile task of the wave. -/
def task (fn : Nat) (started : Bool) (progress : Nat) : TileTask :=
  { wave := ⟨0, 0, 0, 0⟩, blk := ⟨1, 0⟩, k := 0, op := 7, fn := BitVec.ofNat 5 fn, ct := 3, pl := 0, flag := 2, mmode := 0
    scal := List.replicate 7 0, base := 0, dest := [], pc := 0, started := started, progress := progress, saved := false }
def stTile (q : TileTask) : State :=
  { withOp { op7 with kind := .tile } with cores := [{ id := ⟨0, 0⟩, lastCtx := 1, tiles := [q] }] }
theorem witness_tile_issue : Issues (.mldsw 6 1 2 3) st1 ∧ Issues (.mldsw 6 1 2 3) (stWith [(6, 2)]) ∧ Issues (.mldsw 6 1 2 3) (stWith [(6, 4092)]) ∧
    st1.cur.preempt = false ∧ (getCore st1 ⟨0, 0⟩).tiles.length < 64 ∧ tileChecks (0 % 4 == 0) true block1 [(0, 64)] = .ok [] ∧
    tileChecks (2 % 4 == 0) true block1 [(2, 64)] = .fault .align 0 ∧ tileChecks (4092 % 4 == 0) true block1 [(4092, 64)] = .fault .bounds 0 ∧
    tileChecks true (2 ≤ 1) block1 [] = .fault .rsvf 0 ∧
    64 ≤ (getCore { st1 with cores := [{ id := ⟨0, 0⟩, lastCtx := 1, tiles := List.replicate 64 (task 7 false 0) }] } ⟨0, 0⟩).tiles.length := by
  unfold Issues
  decide +kernel
theorem witness_tile_mode : (∀ x ∈ [0, 0x46000, 0x50000], Issues (.msetm 6 2 3) (stWith [(6, BitVec.ofNat 32 x)])) ∧ legalMmode 0 = some 0 ∧ mmodePass 0 = true ∧
    legalMmode 0x46000 = some 0x46000 ∧ mmodePass 0x46000 = false ∧ legalMmode 0x50000 = none := by
  unfold Issues
  decide +kernel
/-- The scalars of a tile store: offset, high word, pitch, control word, offset of the scales. -/
def storeScalars (xs : List Nat) : List Word := (xs ++ [0, 0, 0, 0, 0]).take 7 |>.map (BitVec.ofNat 32)
/-- The checks of `mstrs` with its destination in object 4, the shadow, in an object whose walk is to be made, and in one whose walk found nothing. -/
theorem witness_tile_dest : ∀ id ∈ [4, 6, 9],
    (match storeChk 9 (stNear 4) (stNear 4).cur block1 [0, 256 * id, 32, 0x80050000, 0, 0, 0] with
      | .ok d => id == 4 && d == [(0, ⟨.dev, 0x80000, .dev, .pkg⟩)]
      | .walks ps => id == 6 && ps == [(6, 0)]
      | .fault c _ => id == 9 && c == .noxl
      | _ => false) = true := by decide +kernel
theorem witness_tile_start : ∀ p ∈ ([(1, []), (2, []), (3, []), (4, []), (5, []), (7, []), (8, [0, 0, 256]), (9, [0, 0, 32, 0x50000]), (10, [0, 0, 64, 0x30000, 4096]), (11, []),
      (12, [])] : List (Nat × List Nat)), let q := { task p.1 false 0 with scal := storeScalars p.2 }
      let s := stTile q
      findTask s ⟨0, 0⟩ 7 = some q ∧ enginesRun s ⟨0, 0⟩ q = true ∧ taskChosen s (getCore s ⟨0, 0⟩) q = true ∧
      q.saved = false ∧ q.got = [] ∧ q.put = [] ∧ memWf (getCore s ⟨0, 0⟩).scr = true ∧
      memWf (getCore s ⟨0, 0⟩).acc = true ∧ (getCore s ⟨0, 0⟩).accPoison.getLsbD 3 = false ∧ stObj q.sc = false ∧
      (8 ≤ p.1 → p.1 ≤ 10 → StoreTask q ∧ (p.1 = 10 → 63 * stPitch q.sc + stRow q.sc ≤ stZ q.sc)) := by
  unfold StoreTask
  decide +kernel
/-- A store of a tile to object 2 in 4-bit elements, whose 32 sectors the die may write. -/
def objTask : TileTask := { task 9 false 0 with scal := storeScalars [0, 0x200, 32, 0x80050000], dest := [(0, ⟨.dev, 0x40000, .dev, .pkg⟩)] }
def stObjTask : State :=
  { stTile objTask with sectors := (List.range 32).map fun k => { cd := 0, sector := 0x1000 + k, tokens := 64, own := true, valid := true } }
def objPlaces : List (Target × Byte × Bool) :=
  ((List.range 64).flatMap fun m => [(stOff objTask.sc + m * stPitch objTask.sc, bytesOf (stRow objTask.sc) (outRow (getCore stObjTask ⟨0, 0⟩) objTask m).1)]).flatMap
    fun r => r.2.zipIdx.map fun b => (destPlace objTask.dest (r.1 + b.2), b.1, false)
theorem mem_of_mem_dedup {α : Type} [BEq α] (l : List α) (x : α) (h : x ∈ dedup l) : x ∈ l := by
  have key : ∀ (l acc : List α), x ∈ l.foldl (fun acc x => if acc.contains x then acc else acc ++ [x]) acc → x ∈ acc ∨ x ∈ l := by
    intro l
    induction l with
    | nil => exact fun acc h => .inl h
    | cons y l ih =>
      intro acc h
      rcases ih _ h with h | h
      · dsimp only at h
        by_cases c : acc.contains y = true
        · rw [if_pos c] at h
          exact .inl h
        · rw [if_neg c] at h
          rcases List.mem_append.mp h with h | h
          · exact .inl h
          · exact .inr (by rw [List.mem_singleton.mp h]; exact List.mem_cons_self)
      · exact .inr (List.mem_cons_of_mem _ h)
  rcases key l [] h with h | h
  · cases h
  · exact h
/-- An engine may write where no line is locked, no byte is poisoned and its die may write each sector. -/
theorem engWrite_ready (s : State) (cd : Nat) (xs : List (Target × Byte × Bool))
    (l : (xs.all fun p => !hostLocked s ⟨p.1.space, 64 * (p.1.addr / 64), .host, .none⟩) = true)
    (c : (xs.all fun p => !p.2.2) = true) (w : (xs.all fun p => canWrite (getSec s cd (sectorOf p.1.addr))) = true) : (engWrite s cd xs).1 = true := by
  rw [engWrite, if_neg, if_neg, dieGather, if_pos]
  · rfl
  · refine List.all_eq_true.mpr fun k hk => ?_
    obtain ⟨p, hp, rfl⟩ := List.mem_map.mp (mem_of_mem_dedup _ _ hk)
    exact List.all_eq_true.mp w p (List.mem_filter.mp hp).1
  · intro h
    obtain ⟨p, hp, h⟩ := List.any_eq_true.mp h
    have := List.all_eq_true.mp c p hp
    simp_all
  · intro h
    obtain ⟨k, hk, h⟩ := List.any_eq_true.mp h
    obtain ⟨p, hp, rfl⟩ := List.mem_map.mp (mem_of_mem_dedup _ _ hk)
    have := List.all_eq_true.mp l p hp
    simp_all
theorem witness_tile_object : findTask stObjTask ⟨0, 0⟩ 7 = some objTask ∧ enginesRun stObjTask ⟨0, 0⟩ objTask = true ∧
    taskChosen stObjTask (getCore stObjTask ⟨0, 0⟩) objTask = true ∧ StoreTask objTask ∧ stObj objTask.sc = true ∧
    (getCore stObjTask ⟨0, 0⟩).accPoison.getLsbD 3 = false ∧ (objPlaces.all fun p => p.1.space == .dev && !lostHome stObjTask 0 0 p.1) = true ∧
    (engWrite stObjTask 0 objPlaces).1 = true := by
  unfold StoreTask
  exact ⟨by decide +kernel, by decide +kernel, by decide +kernel, by decide +kernel, by decide +kernel, by decide +kernel, by decide +kernel,
    engWrite_ready _ _ _ (by decide +kernel) (by decide +kernel) (by decide +kernel)⟩
theorem witness_tile_pass : (∀ p ∈ ([(false, 0), (true, 7)] : List (Bool × Nat)), let q := task 6 p.1 p.2
      let s := stTile q
      findTask s ⟨0, 0⟩ 7 = some q ∧ enginesRun s ⟨0, 0⟩ q = true ∧ memWf (getCore s ⟨0, 0⟩).acc = true ∧ q.progress < 8 ∧ q.got = [] ∧
      (p.1 = true → (getBlock s q.blk).map (·.state) = some .resident) ∧ (p.1 = false → taskChosen s (getCore s ⟨0, 0⟩) q = true)) := by decide +kernel
/-- Elements of a pass of zeros over a plane of zeros, real and complex, and one whose old element is a NaN. -/
theorem witness_pass_element : (∀ k ∈ [0, 4], let p : PassArgs := ⟨BitVec.ofNat 32 k, {}, 0⟩
      (mmCplx p.mm = true ↔ k = 4) ∧ mmAscl p.mm ≠ 1 ∧ mmWscl p.mm ≠ 1 ∧ fdec .fp32 false 0 = .fin false 0 (-149) ∧
      (∀ j < 32, mmElem (mmAfmt p.mm) 0 (0 / 2 ^ (mmWidth (mmAfmt p.mm) * j) % 2 ^ mmWidth (mmAfmt p.mm)) = .fin false 0 (-133)) ∧
      ∀ j < 32, ∀ c < 2, p.weight j c = .fin false 0 (-133)) ∧ fdec .fp32 false 0x7FC00001 = .nan false := by decide +kernel
theorem witness_tile_end : ∃ v, let s := stTile (task 11 true 0)
    findTask s ⟨0, 0⟩ 7 = some (task 11 true 0) ∧ getWave s ⟨0, 0, 0, 0⟩ = some v ∧ v.hold ≠ .ended ∧
    v.ops.find? (·.id == 7) = some { op7 with kind := .tile } ∧ noClash v 7 [] ∧ memWf (getCore s ⟨0, 0⟩).scr = true :=
  ⟨(withOp { op7 with kind := .tile }).cur, by decide +kernel, rfl, by decide +kernel, by decide +kernel, by unfold noClash; decide +kernel, by decide +kernel⟩

/-! ## Token coherence -/
/-- A machine with one message under way and one sector at a die. -/
def stMsg (m : Msg) (es : List DieSector) : State := { machine with net := [m], sectors := es }
/-- The sector 0x1000 at die 0 with n tokens, the owner token among them; its home is unit 12. -/
def sec0 (n : Nat) : DieSector := { cd := 0, sector := 0x1000, tokens := n, own := true, valid := true, data := 5 }
/-- A request of a die for it. -/
def req0 : DieReq := { wr := false, tag := 5, reissues := 0, trump := false }
theorem witness_token_requests : (∀ n ∈ [1, 2, 64], ∀ b ∈ ([.rdreq 0x1000 1 5, .wrreq 0x1000 1 5] : List MsgBody),
      let m : Msg := { src := 1, dst := 0, body := b }
      Arrives (stMsg m [sec0 n]) 0 m ∧ m.dst ≠ 1 ∧ isCd m.dst = true ∧ Serves (getSec (stMsg m [sec0 n]) 0 0x1000)) ∧
    (∀ b ∈ ([.rdreq 0x1000 1 5, .wrreq 0x1000 1 5] : List MsgBody), let m : Msg := { src := 1, dst := 12, body := b }
      let s := stMsg m []
      let h := getHome s 0x1000
      Arrives s 0 m ∧ m.dst = homeUnit 0x1000 ∧ isCd m.dst = false ∧ inFlip s 0x1000 = false ∧ h.biOwed = 0 ∧ hostBiased s 0x1000 = false ∧
      h.hostHeld = false ∧ h.trump = none ∧ h.frozen = false ∧ h.pod = false ∧ h.own = true ∧ 1 < h.tokens) := by
  unfold Arrives Serves
  decide +kernel
/-- Tokens that were asked for, that were not, of an old serial, and at the home, of its serial and of an old one. -/
theorem witness_token_arrivals : (∀ p ∈ ([(5, 0), (6, 0), (5, 3)] : List (Nat × Nat)),
      let m : Msg := { src := 1, dst := 0, body := .tok 0x1000 0 1 false none false false (BitVec.ofNat 12 p.1) false }
      let e := { sec0 0 with own := false, valid := false, req := some req0, newest := some (BitVec.ofNat 16 p.2) }
      let s := stMsg m [e]
      Arrives s 0 m ∧ isCd m.dst = true ∧ getSec s 0 0x1000 = e ∧ (req0.tag = BitVec.ofNat 12 p.1 ↔ p.1 = 5) ∧
      (newer (BitVec.ofNat 16 p.2) 0 = true ↔ p.2 = 3) ∧ e.frozen = false ∧ e.act = none ∧ ∃ q ∈ s.cds, q.unit = m.dst) ∧
    (∀ r ∈ [0, 1], let m : Msg := { src := 0, dst := 12, body := .tok 0x1000 0 1 true (some 5) true false 0 false }
     let s := { stMsg m [] with homes := [{ sector := 0x1000, own := false, tokens := 63, serial := BitVec.ofNat 16 r }] }
     Arrives s 0 m ∧ isCd m.dst = false ∧ m.dst = homeUnit 0x1000 ∧ (getHome s 0x1000).serial.toNat = r ∧ (getHome s 0x1000).frozen = false ∧
     (getHome s 0x1000).trump = none ∧ (getMd s m.dst).flip = none ∧ (∃ q ∈ s.mds, q.unit = m.dst) ∧ memWf s.mem = true) := by
  unfold Arrives
  decide +kernel
/-- A trump request at a home, in a phase. -/
def trump0 (ph : HomePhase) (owed due : List Nat) : Trump :=
  { winner := 1, tag := 5, phase := ph, owed := owed, due := due, reports := [], gathered := false, released := false }
def stHome (b : MsgBody) (h : Home) : State := { stMsg { src := 1, dst := 12, body := b } [] with homes := [h] }
theorem witness_trump_at_die : (∀ b ∈ ([.act 0x1000 1 0, .deact 0x1000 1 0, .census 0x1000 0, .census 0x1000 1, .rebuild 0x1000 0, .wakepend 0x1000,
      .holdreply 0x1000] : List MsgBody), let m : Msg := { src := 12, dst := 0, body := b }
      let e := { sec0 3 with req := some req0 }
      Arrives (stMsg m [e]) 0 m ∧ isCd m.dst = true ∧ m.dst ≠ 1 ∧ getSec (stMsg m [e]) 0 0x1000 = e ∧ e.act = none ∧ e.heldReqs = []) ∧
    (∀ p ∈ ([(3, 2, req0), (0, 64, req0), (0, 64, { req0 with trump := true }), (0, 64, { req0 with trump := true, done := true })] : List (Nat × Nat × DieReq)),
      let m : Msg := { src := 12, dst := 0, body := .rebuild 0x1000 0 }
      let e := { sec0 p.2.1 with act := some p.1, req := some p.2.2 }
      Arrives (stMsg m [e]) 0 m ∧ isCd m.dst = true ∧ getSec (stMsg m [e]) 0 0x1000 = e ∧ e.heldReqs = []) ∧
    (let m : Msg := { src := 12, dst := 0, body := .dataReq 0x1000 0 }
     let q := { trump0 (.fetch 0) [] [] with reports := [⟨3, 1, false, true, 0, false⟩, ⟨0, 3, false, true, 0, false⟩] }
     let s := { stMsg m [sec0 3] with homes := [{ sector := 0x1000, trump := some q }] }
     Arrives s 0 m ∧ isCd m.dst = true ∧ (getHome s 0x1000).trump = some q ∧ (leastReport (q.reports.filter (·.valid))).map (·.die) = some m.dst ∧
     memWf s.mem = true) := by
  unfold Arrives
  decide +kernel
theorem witness_trump_at_home : (∀ p ∈ ([(.trumpreq 0x1000 1 5, { sector := 0x1000, own := false, tokens := 0 }),
      (.trumpreq 0x1000 2 5, { sector := 0x1000, trump := some (trump0 .gather [] []) }),
      (.gathered 0x1000 1 5, { sector := 0x1000, trump := some (trump0 .gather [] []) }),
      (.release 0x1000 1 5, { sector := 0x1000, trump := some (trump0 .gather [] []) }),
      (.ack 0x1000 3, { sector := 0x1000, trump := some (trump0 .act [3, 4] []) }),
      (.ack 0x1000 3, { sector := 0x1000, trump := some (trump0 .act [3] []) }),
      (.report 0x1000 3 0 1 false false 0 false, { sector := 0x1000, trump := some (trump0 .census [3] [3]) }),
      (.late 0x1000 3 0 1 false false 0 false, { sector := 0x1000, trump := some (trump0 .settle [] []) })] : List (MsgBody × Home)),
    let s := stHome p.1 p.2
    Arrives s 0 { src := 1, dst := 12, body := p.1 } ∧ isCd 12 = false ∧ getHome s 0x1000 = p.2 ∧ p.2.waiting = [] ∧ p.2.round = [] ∧ p.2.pod = false ∧
    1 ≠ homeUnit 0x1000 ∧ NoHost s 0x1000 ∧ groupDies s 0x1000 ≠ [] ∧ (getMd s (homeUnit 0x1000)).flip = none) := by
  unfold Arrives NoHost
  decide +kernel
/-- A message to package 2 over a link from package 0, at its limit and before it; and one inside a package. -/
def stFlit (dst n : Nat) : State :=
  let m : Msg := { src := 1, dst := dst, body := .tok 0x1000 0 1 false none false false 5 false, retries := n }
  { stMsg m [] with pkgs := [{ id := 0, links := [{ id := 3, far := some 2, port := 3 }], froute := [(2, 0x800001005)], sec := runs1 }, { id := 2, sec := runs1 }] }
theorem witness_flits : (∀ n ∈ [7, 8], ∃ m, (stFlit 2 n).net[0]? = some m ∧ arrived m = true ∧ m.retries = n ∧ m.pos = none ∧ isCd m.src = true ∧
      ∃ q ∈ (stFlit 2 n).cds, q.unit = m.src) ∧
    (∀ n ∈ [15, 16], ∃ m, (stFlit 0x20 n).net[0]? = some m ∧ arrived m = false ∧ m.retries = n ∧ unroutable (stFlit 0x20 n) m = false ∧
      hopsOf (stFlit 0x20 n) m = [(3, false)] ∧ ∃ q ∈ (stFlit 0x20 n).pkgs, q.id = msgPkg m) := by
  constructor <;> (intro n hn; refine ⟨_, rfl, ?_⟩; revert n; decide +kernel)
/-- A sector of n tokens at its home under a request in a phase, with reports. -/
def stSettle (ph : HomePhase) (p : Nat × Bool × List Report) : State :=
  { machine with homes := [{ sector := 0x1000, own := p.2.1, tokens := p.1, trump := some { trump0 ph [] [] with reports := p.2.2 } }] }
theorem witness_settles : Settles (stSettle .settle (5, true, [])) 0x1000 (trump0 .settle [] []) (homeData (stSettle .settle (5, true, [])) 0x1000) false false ∧
    (let r : Report := ⟨3, 1, true, true, 7, false⟩
     Settles (stSettle .settle (5, false, [r])) 0x1000 { trump0 .settle [] [] with reports := [r] } 7 false false) ∧
    Settles (stSettle .settle (5, false, [])) 0x1000 (trump0 .settle [] []) ones512 true true :=
  ⟨.inl (by decide +kernel), .inr (.inl (by decide +kernel)), .inr (.inr (by decide +kernel))⟩
/-- Timers of requests, of homes and of dies. -/
theorem witness_coherence_timers : (∀ r ∈ [req0, { req0 with reissues := 2 }, { req0 with wakes := [12] }], let e := { sec0 0 with own := false, req := some r }
      getSec { machine with sectors := [e] } 0 0x1000 = e ∧ e.req = some r ∧ r.hold = false ∧ r.trump = false) ∧
    (∀ ph ∈ [HomePhase.gather, .settle], ∀ p ∈ ([(64, false, []), (5, true, []), (5, false, [⟨3, 1, true, true, 7, false⟩]), (5, false, [⟨3, 1, false, true, 0, false⟩]),
        (5, false, [])] : List (Nat × Bool × List Report)), let q := { trump0 ph [] [] with reports := p.2.2 }
      let s := stSettle ph p
      (getHome s 0x1000).trump = some q ∧ q.gathered = false ∧ q.hold = false ∧ 1 ≠ homeUnit 0x1000 ∧ (getHome s 0x1000).pod = false ∧
      (getHome s 0x1000).hostHeld = false ∧ (getHome s 0x1000).biOwed = 0 ∧ inFlip s 0x1000 = false ∧
      groupDies s 0x1000 ≠ [] ∧ groupDies s 0x1000 = countedDies s (pkgOf (homeUnit 0x1000)) ∧ memWf s.mem = true ∧
      ((getHome s 0x1000).tokens + (q.reports.map (·.tokens)).sum = 64 ↔ p.1 = 64)) ∧
    (pkgOf 1 = pkgOf 0 ∧ isCd 0 = true ∧ (getCd machine 0).present = true ∧ (getCd machine 0).unreachable = false ∧ (getCd machine 0).power = .run ∧
      (getCd machine 0).held = false) ∧
    (let s := { machine with cds := [{ unit := 0, power := .reset }] }
     (∃ q ∈ s.cds, q.unit = 0) ∧ (getCd s 0).present = true ∧ (getCd s 0).power = .reset ∧ iodRuns s (pkgOf 0) = true ∧ FwTarget.compute ∈ (getPkg s (pkgOf 0)).sec.verified) ∧
    (let s := { machine with mds := [{ unit := 8, unreachable := true }] }
     (∃ q ∈ s.mds, q.unit = 8) ∧ (getMd s 8).unreachable = true ∧ iodRuns s (pkgOf 8) = true ∧ FwTarget.memside ∈ (getPkg s (pkgOf 8)).sec.verified) := by
  decide +kernel

/-! ## Launches, blocks and pre-emption -/

/-- A queue of context 1 with two slots, the record of its head at byte 0x30080. -/
def queue1 : Queue := { pkg := 0, q := 0, qbase := BitVec.ofNat 64 (2 ^ 48 + 0x30080), qctl := 0x80000001, tail := 1 }
/-- A record of kernel 0 of image 0 of context 1: one wave, one block, virtual die 0. -/
def record1 : Nat := 0x10000 + 2 ^ 48 + 2 ^ 56 + 2 ^ 64 + 2 ^ 80 + 2 ^ 96 + 2 ^ 112
/-- The machine with that queue and a launch of it: `r` is the record that the slot holds. -/
def stQueue (r : Nat) : State :=
  { machine with
    mem := memPut tables 0x30080 (bytesOf 128 r), queues := [queue1]
    pkgs := [{ id := 0, sec := runs1, images := [{ pkg := 0, slot := 0, ctx := 1, code := 1, kernels := [launch1.kernel] }] }] }
theorem witness_record : (∀ r ∈ [0, record1], let s := stQueue r
      getQueue s 0 0 = queue1 ∧ mayTake s 0 queue1 = true ∧ headRecord s queue1 = r ∧ serHolds s 0 queue1 r = false ∧ recDeps r = [] ∧
      (r = 0 → recordOut s 0 1 r = .fail) ∧ (r = record1 → recordOut s 0 1 r = .sound ∧ (recKernel s 0 1 r).isSome = true ∧ iodRuns s 0 = true ∧ slotPending s 0 queue1 = false)) ∧
    (let s := { stQueue 0 with pkgs := [{ id := 0, hostReqs := [⟨0, 0x30080, 0xC02, .write 0⟩] }] }
     iodRuns s 0 = false ∧ slotPending s 0 queue1 = true) ∧
    confidential (stQueue record1) 0 1 = false ∧
    (let s := { stQueue 0 with launches := [{ launch1 with placed := 0 }] }
     ∃ l ∈ queueLaunches s 0 0, launchWaits s l = true) := by decide +kernel
/-- A record of zeros fails, as it names no image of the queue's context. -/
theorem witness_record_fails : RecordFails (stQueue 0) 0 1 0 := .inr (.inl (by decide +kernel))
theorem witness_lnch : ∀ p ∈ ([(256, 0), (0, 0), (0, 1)] : List (Nat × Nat)),
    let s := { stWith [(6, BitVec.ofNat 32 p.1)] with queues := [{ queue1 with tail := BitVec.ofNat 16 p.2 }] }
    Issues (.lnch 6 9) s ∧ released s s.cur .sys = true ∧ (readS s.cur.a 7).toNat % 64 = 0 ∧ (blockOf s s.cur).size = 4096 ∧
    scrPois (getCore s (blockOf s s.cur).core) (blockOf s s.cur).base 128 = false ∧ s.cur.window = [] ∧ memWf s.mem = true ∧
    (p.1 = 0 → let q := getQueue s 0 0
      ((q.tail.toNat + 1) % ringSize q = q.head.toNat % ringSize q ↔ p.2 = 1) ∧
      ∀ k ∈ [slotAddr q q.tail.toNat / 64, slotAddr q q.tail.toNat / 64 + 1], homeReady s k = true) := by
  unfold Issues
  decide +kernel
/-- A launch of one block, not yet placed. -/
def stPlace : State := { machine with launches := [{ launch1 with placed := 0 }], queues := [queue1] }
theorem witness_placement : let l := { launch1 with placed := 0 }
    getLaunch stPlace l.tag = some l ∧ l.csize = 1 ∧ l.placed < launchSize l ∧ dieOffers stPlace l 0 = true ∧ offered stPlace l 0 = true ∧
    canResume stPlace l 0 = false ∧ findCores stPlace l 0 [(false, 0)] [] = some [0] ∧ accepts stPlace l ⟨0, 0⟩ 3 false 0 = some 3 ∧
    NoTrace stPlace 0 := by
  unfold NoTrace
  decide +kernel
/-- A block whose wave has ended, and the message that counts it. -/
def stEnded : State := { withWave fun w => { w with hold := .ended } with launches := [launch1] }
theorem witness_launch_end : (getBlock stEnded ⟨1, 0⟩ = some block1 ∧ block1.state = .resident ∧ blockDone stEnded block1 = true ∧ block1.recs = [] ∧
      NoTrace stEnded 0 ∧ confidential stEnded 0 1 = false) ∧
    (let s := { stEnded with net := [{ src := 0, dst := 0x100000, body := .retired 1 }] }
     getLaunch s 1 = some launch1 ∧ launchSize launch1 ≤ launch1.retired + 1 ∧ launch1.owed = none ∧
     (maskDies s 0 1 launch1.dmask.toNat).filter (fun d => (countedDies s 0).contains d) ≠ []) ∧
    (∀ g ∈ [0, 0x20000000040, 0x50000000040, 0x90000000000], let l := { launch1 with owed := some 4, signal := BitVec.ofNat 64 g }
      let s := { stEnded with launches := [l] }
      getLaunch s 1 = some l ∧ (∀ b ∈ s.wbs, b.k ≠ 4) ∧
      (g = 0x20000000040 → recWord s 0 1 0b010 false l.signal = .ok ⟨.dev, 0x40040, .dev, .pkg⟩ ∧ lostHome s 0 1 ⟨.dev, 0x40040, .dev, .pkg⟩ = false ∧
        Gathers s [0x1001] ∧ memWf s.mem = true) ∧
      (g = 0x50000000040 → recWord s 0 1 0b010 false l.signal = .ok ⟨.host 0, 0x20040, .host, .none⟩ ∧
        lostHome s 0 1 ⟨.host 0, 0x20040, .host, .none⟩ = false ∧ hostLocked s ⟨.host 0, 0x20040, .host, .none⟩ = false ∧ memWf s.hostMem = true) ∧
      (g = 0x90000000000 → (match recWord s 0 1 0b010 false l.signal with
        | .fault _ _ => true
        | _ => false) = true)) := by
  unfold NoTrace Gathers
  decide +kernel
/-- A full die: block k of launch 1 holds core k, all 88 of them, and a launch of queue 1 waits. -/
def waiting1 : Launch := { launch1 with tag := 2, queue := 1, placed := 0 }
def full1 : Block := { block1 with size := 262144 }
def stFull : State :=
  { st1 with
    launches := [{ launch1 with gx := 88, placed := 88 }, waiting1]
    queues := [queue1, { queue1 with q := 1, eff := 4 }]
    blocks := (List.range 88).map fun k => { full1 with id := ⟨1, k⟩, core := ⟨0, k⟩, placed := k } }
theorem witness_preemption : let b : BlockId := ⟨1, 87⟩
    let x := { full1 with id := b, core := ⟨0, 87⟩, placed := 87 }
    raisesFor stFull 0 1 0 = some waiting1 ∧ lowestPrio stFull 0 = some 0 ∧ bits (schctl stFull 0 1) 19 12 ≠ 0 ∧
    0 + pgap (schctl stFull 0 1) ≤ (getQueue stFull 0 1).eff ∧ newestVictim stFull 0 0 = some b ∧ getBlock stFull b = some x ∧ x.erets = 0 ∧
    freeAreas stFull x.pkg x.ctx = [0, 1, 2, 3] := by decide +kernel
theorem witness_victim_set : closedSet stFull .resident [⟨1, 87⟩] = [⟨1, 87⟩] := by decide +kernel
theorem witness_room : roomAfter (stopBlock stFull 0 ⟨1, 87⟩) waiting1 0 = true := by decide +kernel
/-- A victim block of one wave. -/
def victim1 : Block := { block1 with state := .stopping, area := 1 }
theorem witness_preempt_trap : (let s := { withWave (fun w => { w with preempt := true }) with blocks := [victim1] }
      let v := s.cur
      (v.id, v.live) = (⟨0, 0, 0, 0⟩, true) ∧ getBlock s v.blk = some victim1 ∧ v.k ∉ victim1.liveW ∧ v.a.trap = false ∧ v.handler = none ∧ v.rlost = [] ∧
      pendingLongNoTile v = false ∧ partitionRuns s v.id = true ∧ v.focus = none ∧ drained s victim1 = true ∧ v.hold = .ready ∧
      (match translateNow s 0 1 0b010 true (saveFrameAddr (getCtx s 0 1) 1 0) 1024 with
        | .ok y => y.space == .dev
        | _ => false) = true) ∧
    (let x := { victim1 with written := true }
     let s := { stEnded with blocks := [x] }
     getBlock s ⟨1, 0⟩ = some x ∧ x.state = .stopping ∧ x.written = true ∧ blockDone s x = true ∧ x.recs = []) := by decide +kernel
/-- A saved block. -/
def saved1 : Block := { block1 with state := .saved, area := 0, written := true, liveW := [0] }
def stSaved : State := { machine with mem := memPut (memPut tables 0x20140 [0]) 4 [1], launches := [launch1], queues := [queue1], blocks := [saved1] }
theorem witness_resumption : getLaunch stSaved 1 = some launch1 ∧ (savedSets stSaved launch1).find? (fun set => set.any (·.id == ⟨1, 0⟩)) = some [saved1] ∧
    areaWaits stSaved saved1 = false ∧ areaSectors stSaved saved1 = span 0 64 ∧ Gathers stSaved (span 0 64) ∧ dieOffers stSaved launch1 0 = true ∧
    offered stSaved launch1 0 = true ∧ findCores stSaved launch1 0 [savedNeed saved1] [] = some [0] ∧
    accepts stSaved launch1 ⟨0, 0⟩ 0 (savedNeed saved1).1 (savedNeed saved1).2 = some 0 ∧ NoTrace stSaved 0 := by
  unfold NoTrace Gathers
  decide +kernel
theorem witness_saved_record : savedRecord stSaved saved1 = 2 ^ 32 ∧ (recWaves (2 ^ 32) 1).filter saved1.liveW.contains = [0] ∧
    recImages (2 ^ 32) = [] ∧ registerAll stSaved 0 1 [] = ([], []) ∧ bitOf (recField (2 ^ 32) 6 1) 0 = false := by decide +kernel

/-! ## The active set, kills, strikes, and the fault log -/

/-- A pending wave in slot 9 of partition 0, and n active ones. -/
def pend1 : Wave := { wave1 with id := ⟨0, 0, 0, 9⟩, active := false, k := 9 }
def stActive (n : Nat) (h : Hold) : State :=
  { machine with cur := pend1, waves := (List.range n).map fun k => { wave1 with id := ⟨0, 0, 0, k⟩, hold := h, k := k } }
theorem stActive_pending (n : Nat) (h : Hold) : getWave (stActive n h) pend1.id = some pend1 := rfl
theorem witness_wave_swap : ∀ p ∈ ([(0, .ready), (8, .stall .long), (8, .ready)] : List (Nat × Hold)), let s := stActive p.1 p.2
    pend1.active = false ∧ isHandler pend1 = false ∧ pend1.hold = .ready ∧
    (∀ x ∈ allWaves s, x.active = false → x.id = pend1.id) ∧
    let peers := (allWaves s).filter fun x => samePart x.id ⟨0, 0, 0, 9⟩ && x.active && !isHandler x
    peers.length = p.1 ∧ (p.2 = .stall .long → (peers.find? fun x => longStall x && decide (swapOf s x < 2)).map (·.id) = some ⟨0, 0, 0, 0⟩) ∧
    (p.2 = .ready → ∀ x ∈ peers, longStall x = false) := by decide +kernel
theorem st1_wave : getWave st1 ⟨0, 0, 0, 0⟩ = some wave1 := rfl
theorem withWave_cur (f : Wave → Wave) (h : (f wave1).id = ⟨0, 0, 0, 0⟩) (l : (f wave1).live = true) : getWave (withWave f) ⟨0, 0, 0, 0⟩ = some (f wave1) := by
  simp [getWave, withWave, h, l]
theorem witness_wave_events : (wave1.hold ≠ .ended ∧ wave1.handler = none ∧ NoTrace st1 0) ∧
    (let s := withWave fun w => { w with window := [⟨3, w.a⟩] }
     (getCd s 0).present = true ∧ ((allWaves s).map (·.id)).Nodup ∧ (s.cur.id, s.cur.live) = (⟨0, 0, 0, 0⟩, true) ∧ (⟨0, 0, 0, 0⟩ : WaveId).core / 6 = 0 ∧
     s.cur.window.map (·.seq) = [3]) := by
  unfold NoTrace
  decide +kernel
/-- A record for a log of two slots at byte 0x300000, with room and without. -/
theorem witness_fault_log : ∀ tail ∈ [0, 1], let r := plainRec 0 0 .ill 0 0
    let s := { st1 with faults := [r], pkgs := [{ id := 0, flogbase := 0x300002, flogTail := BitVec.ofNat 12 tail }] }
    s.faults[0]? = some r ∧ recCommitted s r = true ∧ r.waiter = none ∧ bits (getPkg s 0).flogbase.toNat 11 0 = 2 ∧ Gathers s [0x300000 / 64] ∧
    memWf s.mem = true := by
  unfold Gathers
  decide +kernel

/-! ## Contexts, the loader, the host and the fabric -/

/-- The descriptor of context 1 with an identity binding of the dies, as a number. -/
def descriptor1 : Nat :=
  2 ^ 16 + 16 * 2 ^ 64 + 0x76543210 * 2 ^ 128 + (8 + 16 * 2 ^ 24 + 3 * 2 ^ 56 + 6 * 2 ^ 80 + 6 * 2 ^ 104) * 2 ^ 256
/-- The machine with a context table at 1 MiB, which holds x for context 1. -/
def stCtx (x : Nat) (c : Ctx) : State :=
  { machine with mem := memPut tables 0x100100 (bytesOf 256 x), ctxs := [c], pkgs := [{ id := 0, ctxtbl0 := 0x100001, sec := { verified := [.iod] } }] }
/-- A command of each kind that counts, a command while it does, and the acknowledgement that it waits for. -/
theorem witness_command : ∀ op ∈ [CtxOp.activate, .update, .retire], ∀ owed ∈ ([[0, 1], []] : List (List Nat)), let k : CtxCmd := ⟨op, 1, 0, owed⟩
    let s := { machine with pkgs := [{ id := 0, ctxCmd := some k, sec := { verified := [.iod] } }] }
    iodRuns s 0 = true ∧ (getPkg s 0).ctxCmd = some k ∧ (k.owed = [] ∨ 0 ∈ k.owed) := by decide +kernel
/-- An activation as confidential whose dies have acknowledged it, in a lifecycle that permits it and in one that does not. -/
theorem witness_command_banned : ∀ l ∈ [Lifecycle.prod, .rma], let k : CtxCmd := ⟨.activate, 1, 2 ^ 196, []⟩
    let s := { machine with pkgs := [{ id := 0, ctxCmd := some k, sec := { runs1 with lifecycle := l } }] }
    iodRuns s 0 = true ∧ (getPkg s 0).ctxCmd = some k ∧ k.desc / 2 ^ 196 % 2 = 1 ∧ ((getPkg s 0).sec.lifecycle ≠ .prod ↔ l = .rma) := by decide +kernel
theorem witness_context : iodRuns (stCtx 0 ctx1) 0 = true ∧ (ctxtbl (getPkg (stCtx 0 ctx1) 0)).getLsbD 0 = true ∧ descriptor (stCtx 0 ctx1) 0 1 = 0 ∧
    descriptorOk (stCtx 0 ctx1) 0 1 0 = false ∧ descriptor (stCtx descriptor1 ctx1) 0 1 = descriptor1 ∧
    (∀ a ∈ [true, false], descriptorOk (stCtx descriptor1 { ctx1 with active := a }) 0 1 descriptor1 = true) ∧
    (ctxtbl (getPkg { machine with pkgs := [{ id := 0 }] } 0)).getLsbD 0 = false ∧
    (∀ st ∈ [BlkState.resident, .stopping, .saved], ∃ b ∈ { stCtx descriptor1 ctx1 with blocks := [{ block1 with state := st }] }.blocks,
      b.pkg = 0 ∧ b.ctx = 1 ∧ b.state = st) ∧
    (∃ q ∈ { stCtx descriptor1 ctx1 with queues := [queue1] }.queues, q.pkg = 0 ∧ qEn q = true ∧ qCtx q = 1) := by decide +kernel
/-- An image header with two segments, the first a code segment of 64 KiB, whose object is sealed in the second memory; and a load of it in a phase. -/
def image1 : Nat := 0x4B4C5256 + 2 ^ 32 + 2 * 2 ^ 48 + 2 ^ 512 + 2 * 2 ^ 520 + 64 * 2 ^ 544 + 0x10000 * 2 ^ 608
def sealed1 : Memory := memPut tables 0x10020 (bytesOf 32 (objEntry 0x10000 2 1 0 0 0x20000 1))
def stImage (m : Memory) (l : Option Load) : State :=
  { machine with
    mem := memPut m 0x30000 (bytesOf 128 image1)
    pkgs := [{ id := 0, ldrsrc := 0x30000, ldrlen := 0x8000, ldrobja := BitVec.ofNat 64 (2 ^ 48 + 2 ^ 24), load := l, sec := { verified := [.iod] } }] }
theorem witness_load : iodRuns (stImage tables none) 0 = true ∧ freeImage (getPkg (stImage tables none) 0) = some 0 ∧ (getCtx (stImage tables none) 0 1).active = true ∧
    headerOk { machine with pkgs := [{ id := 0 }] } 0 = false ∧ headerOk (stImage tables none) 0 = true ∧ (getCtx (stImage tables none) 0 2).active = false ∧
    (getPkg (stImage tables (some ⟨0, 1, [], .objects⟩)) 0).load ≠ none ∧
    (∃ l ∈ { stImage tables none with launches := [launch1], blocks := [block1] }.launches, l.pkg = 0 ∧ l.image = 0 ∧ ∃ b ∈ [block1], b.id.launch = l.tag ∧
      b.state ≠ .retired) := by decide +kernel
/-- A load at each of its steps. A signature's verification is a free function, of which no value can be shown. -/
theorem witness_load_steps : (∀ ph ∈ ([.objects, .seg 0, .seg 1, .seg 2, .inval 0 5, .revoke 0 [] none, .revoke 0 [1] none] : List LoadPhase), ∀ c ∈ [1, 2],
      let segs := imgSegs (stImage sealed1 none) 0
      let l : Load := ⟨0, c, segs, ph⟩
      let s := stImage sealed1 (some l)
      (getPkg s 0).load = some l ∧ memWf s.mem = true ∧ ((getCtx s 0 c).active = true ↔ c = 1) ∧
      (c = 1 → objectsOut (stImage tables (some l)) 0 1 segs = .bad ∧ objectsOut s 0 1 segs = .good) ∧ segs.length = 2 ∧
      segs.map (fun g => segEntryOk (getPkg s 0) segs 0 g) = [true, false] ∧ segObject (getPkg s 0) 1 = some 1 ∧ segObject (getPkg s 0) 4 = none ∧
      (kernelTable s 0 segs).isNone = true ∧ (kernelTable s 0 [⟨1, 2, 0, 0, 0, 0, 0⟩, ⟨4, 2, 0, 0, 0, 0, 0⟩]).isSome = true ∧
      (∀ v ∈ s.invals, v.k = 5 → v.acks = []) ∧ (c = 1 → (validEntry s (getCtx s 0 c) 1).isSome = true) ∧ Gathers s [entryAddr (getCtx s 0 c) 1 / 64]) := by
  unfold Gathers
  decide +kernel
/-- A load at each step that a device in SCRAP rejects. -/
theorem witness_load_scrap : ∀ ph ∈ ([.objects, .seg 0, .inval 0 5] : List LoadPhase), let s := stImage sealed1 (some ⟨0, 1, [], ph⟩)
    let t := { s with pkgs := s.pkgs.map fun p => { p with sec := { p.sec with lifecycle := .scrap } } }
    ((getPkg t 0).load.map (·.phase)) = some ph ∧ iodRuns t 0 = true ∧ (getCtx t 0 1).active = true ∧ (getPkg t 0).sec.lifecycle = .scrap := by decide +kernel
theorem witness_segment : (match segPlaces (stImage sealed1 none) 0 1 1 0x10000 with
      | .ok ps _ => ps.map (fun p => (p.1, p.2.1, p.2.2.addr)) == [(0, 0x10000, 0x30000)]
      | _ => false) = true := by decide +kernel
theorem witness_segment_sectors (xs : List Nat) : Gathers (stImage sealed1 none) xs := fun _ _ => rfl
theorem witness_apart (t : Target) (h : t.addr = 0x30000) : Apart (entryAddr (getCtx machine 0 1) 1) [(0, 0x10000, t)] := by
  refine ⟨?_, ?_⟩
  · intro p hp
    obtain rfl := List.mem_singleton.mp hp
    exact .inr (by rw [h]; decide +kernel)
  · intro p hp q hq n
    exact absurd ((List.mem_singleton.mp hp).trans (List.mem_singleton.mp hq).symm) n
theorem witness_hotness : HasMd machine 8 ∧ mdUp machine 8 = true ∧ iodRuns machine (pkgOf 8) = true ∧
    (let s := { machine with pkgs := [{ id := 0 }] }
     HasMd s 8 ∧ mdUp s 8 = true ∧ iodRuns s (pkgOf 8) = false ∧ pkgOf 8 = pkgOf 3) ∧ (let d := getMd machine 8
      d.hotctl.getLsbD 0 = false ∧ bits d.hotctl.toNat 29 16 ≠ 0) ∧
    (∀ tail ∈ [0, 1], let d : MDie := { unit := 8, hotctl := 0x03E80101, hotbuf := 0x300020, hotTail := BitVec.ofNat 8 tail }
      let s := { machine with mds := [d] }
      HasMd s 8 ∧ mdUp s 8 = true ∧ getMd s 8 = d ∧ d.hotctl.getLsbD 0 = true ∧ bits d.hotctl.toNat 29 16 ≠ 0 ∧ bits d.hotbuf.toNat 11 4 = 2 ∧
      ((d.hotHead.toNat % 2 + 1) % 2 = d.hotTail.toNat % 2 ↔ tail = 1) ∧ memWf s.mem = true ∧
      Gathers s (sectorsOf 0x300000 (hotRecord d 0).length)) := by
  unfold HasMd Gathers
  decide +kernel
/-- A move of frame 0 to frame 9, at its last sector and before it. -/
theorem witness_move : ∀ n ∈ [0, 1023], let s := { machine with mem := [], mds := [{ unit := 8, move := some ⟨9, 0, n⟩ }] }
    HasMd s 8 ∧ mdUp s 8 = true ∧ (getMd s 8).move = some ⟨9, 0, n⟩ ∧ n ≠ 9 * 1024 + n ∧ Gathers s [n] ∧ (getHome s n).trump = none ∧ memWf s.mem = true := by
  unfold HasMd Gathers
  decide +kernel
/-- Page 0 of die 8 under each bias, with and without a link that covers it; an answer to a snoop, without a flip and in one. -/
theorem witness_bias : (∀ k ∈ ([[], [0]] : List (List Nat)), ∀ h ∈ ([none, some (0, 2 ^ 41)] : List (Option (Nat × Nat))),
      let s := { machine with mds := [{ unit := 8, hostBias := k }], pkgs := [{ id := 0, hdm0 := h }] }
      HasMd s 8 ∧ mdUp s 8 = true ∧ (getMd s 8).flip = none ∧ 0 / 16 < 0x1800000 ∧ 0 / 16 % 8 = 8 % 16 - 8 ∧ (∀ x ∈ pageLines 0, homeHas s x = true) ∧
      (((pageLines 0).map fun x => (coveringLinks s x).length).sum = if h = none then 0 else 64)) ∧
    (∀ fl ∈ [false, true], ∀ f ∈ [none, some ⟨0, true, true, 1⟩, some ⟨0, true, true, 64⟩], let m : Msg := { src := 8, dst := 0x100000, body := .biSnp 0 3 true fl }
      let s := { machine with net := [m], mds := [{ unit := 8, flip := f }], homes := [{ sector := 3, hostHeld := true, biOwed := 1 }] }
      s.net[0]? = some m ∧ homeUnit 3 = 8 ∧ (getMd s 8).flip = f ∧ writeHeld s 3 0 = false ∧ (getHome s 3).tokens = 64 ∧ (getHome s 3).own = true ∧
      (getHome s 3).frozen = false ∧ (getHome s 3).trump = none ∧ memWf s.mem = true) := by
  unfold HasMd
  decide +kernel
/-- A flip to the host that waits no more, one that a host request holds, and a package whose I/O dies do not run. -/
theorem witness_bias_waits : (∀ q ∈ ([[], [⟨0, 192, 3, .read .none 0⟩]] : List (List HostReq)), let s := { machine with
      mds := [{ unit := 8, flip := some ⟨0, true, false, 0⟩ }], pkgs := [{ id := 0, sec := runs1, hostReqs := q }] }
    mdUp s 8 = true ∧ (getMd s 8).flip = some ⟨0, true, false, 0⟩ ∧ (∀ x ∈ pageLines 0, homeHas s x = true) ∧
    ((∀ r ∈ (getPkg s (pkgOf (homeUnit (0 * 64)))).hostReqs, r.sector / 64 ≠ 0) ↔ q = [])) ∧
    iodRuns { machine with pkgs := [{ id := 0 }] } (pkgOf 8) = false := by decide +kernel
/-- A host whose window starts at 0, with each bias of the page of sector 3; a line beyond installed memory; one of a confidential context. -/
theorem witness_host : (∀ k ∈ ([[], [0]] : List (List Nat)), let s := { machine with
      mds := (List.range 8).map fun u => { unit := 8 + u, hostBias := k }, pkgs := [{ id := 0, sec := runs1, hdm0 := some (0, 2 ^ 41) }] }
    linkUp s 0 0 = true ∧ hdmOffset (getPkg s 0) 0 192 = some 192 ∧ hdmOffset (getPkg s 0) 0 0x18000000000 = some 0x18000000000 ∧
    confFrame s 0 = false ∧ (getPkg s 0).hostReqs = [] ∧ mdUp s (homeUnit 3) = true ∧ inFlip s 3 = false ∧ (hostRules s 3 = true ↔ k = [0]) ∧
    (let h := getHome s 3
     h.hostHeld = false ∧ h.biOwed = 0 ∧ h.tokens = 64 ∧ h.own = true ∧ h.frozen = false ∧ h.trump = none ∧ h.poison = false) ∧ memWf s.mem = true) ∧
    (let s := { machine with ctxs := [{ ctx1 with cflags := 16 }], pkgs := [{ id := 0, sec := runs1, hdm0 := some (0, 2 ^ 41) }] }
     linkUp s 0 0 = true ∧ hdmOffset (getPkg s 0) 0 0x40000 = some 0x40000 ∧ confFrame s (0x40000 / 65536) = true) := by
  decide +kernel
/-- A host read of a sector whose owner token is at die 1, with another token there and as the die's last; and one that is held, behind another of
the sector and in a flip of its page. -/
theorem witness_host_read : (∀ n ∈ [1, 2], let e : DieSector := { cd := 1, sector := 3, tokens := n, own := true, valid := true, modified := true, data := 7 }
    let s := { machine with pkgs := [{ id := 0, sec := runs1, hdm0 := some (0, 2 ^ 41) }], sectors := [e], homes := [{ sector := 3, own := false, tokens := 64 - n }] }
    let h := getHome s 3
    linkUp s 0 0 = true ∧ hdmOffset (getPkg s 0) 0 192 = some 192 ∧ confFrame s 0 = false ∧ (getPkg s 0).hostReqs = [] ∧ mdUp s (homeUnit 3) = true ∧
    inFlip s 3 = false ∧ hostRules s 3 = false ∧ h.own = false ∧ ownerDie s 3 = some 1 ∧ getSec s 1 3 = e ∧ h.trump = none ∧ h.frozen = false ∧
    e.act = none ∧ e.frozen = false ∧ memWf s.mem = true) ∧
    (∀ c ∈ [true, false], let q : HostReq := ⟨0, 192, 3, .read .none 0⟩
     let s := { machine with
       pkgs := [{ id := 0, sec := runs1, hdm0 := some (0, 2 ^ 41), hostReqs := if c then [q] else [] }], mds := [{ unit := 8, flip := if c then none else some ⟨0, true, false, 0⟩ }]
       homes := if c then [] else [{ sector := 3, own := false, tokens := 63 }] }
     linkUp s 0 0 = true ∧ mdUp s (homeUnit 3) = true ∧ (if c then (getPkg s 0).hostReqs[0]? = some q ∧ (getHome s 3).own = true
       else inFlip s 3 = true ∧ (getHome s 3).own = false)) := by decide +kernel
/-- R86, R381: a host read of a sector that die 1 owns with two tokens answers that die's data, and one token comes home. -/
theorem test_host_read_owner : (let s := { machine with
      sectors := [{ cd := 1, sector := 3, tokens := 2, own := true, valid := true, data := 7 }], homes := [{ sector := 3, own := false, tokens := 62 }] }
    let r := homeRead s 3
    (r.1, (getHome r.2 3).tokens, (getHome r.2 3).own, (getSec r.2 1 3).tokens)) = (some (7, false), 63, false, 1) := by decide +kernel
/-- R38, R404: a debugger reads V and COH of a translation register as bits 119 and 122:121 of its image, in word 3. -/
theorem test_debug_read_tx : regValue { wave1.a with tx := wave1.a.tx.set 2 { v := true, perm := 0, kind := .dev, coh := .none } } (.tx 2 3) = 0x04800000 := by
  decide +kernel
/-- Two packages and a link between them, open and in training; flits of a group that the link belongs to, a coherence message and a collective; and
a message that is to go over the link. -/
def stPod (l : Link) (far : List Nat) : State :=
  let f : McFlit := { group := 1, body := .wakepend 3, src := 0x10, via := some 1 }
  { machine with
    net := [{ src := 0, dst := 8, body := .wakepend 3 }, { src := 1, dst := 0x20, body := .wakepend 3 }]
    pkgs := [{ id := 0, sec := runs1, links := [l], froute := [(2, 0x100001000)], mcgroups := [(1, 0x100000001)], mcIn := [f, { f with via := none }, { f with body := .coll 7 }]
               mcHeld := [(0, f)], removed := far }, { id := 1, links := [{ id := 0, far := some 0 }] },
             { id := 2, sec := runs1, links := [{ id := 5, far := some 0, port := 0, training := l.training, spareUsed := l.spareUsed }] }] }
theorem witness_fabric : (∀ l ∈ ([{ id := 0, far := some 2, port := 5 }, { id := 0, far := some 2, port := 5, training := true, spareUsed := true }] : List Link),
      let s := stPod l []
      HasPkg s 0 ∧ HasPkg s 1 ∧ HasPkg s 2 ∧ iodRuns s 0 = true ∧ getLink s 0 0 = some l ∧ (getLink s 2 l.port).map (fun y => (y.far, y.up)) = some (some 0, true) ∧ l.up = true ∧ isRemoved s 0 2 = false ∧ (getPkg s 0).mcIn.length = 3 ∧
      (∀ f ∈ (getPkg s 0).mcIn, (branches (getPkg s 0) f).map (·.id) = [0] ∧ (getPkg s 0).mcHeld.length + 1 ≤ 512 ∧ (mcEntry (getPkg s 0) f.group).getLsbD 32 = true) ∧
      (∀ p ∈ s.pkgs, 1 ∉ p.removed) ∧ (carries s l = true ↔ l.training = false) ∧
      ∃ m, s.net[1]? = some m ∧ msgPkg m = 0 ∧ arrived m = false ∧ unitPkg m.dst = 2 ∧ m.hops = 0 ∧ m.esc = false ∧
        (let e := route (getPkg s 0) 2
         e.getLsbD 12 = true ∧ bits e.toNat 4 0 = 0 ∧ e.getLsbD 32 = true)) ∧
    isRemoved (stPod { id := 0, far := some 2, port := 5 } [1]) 0 1 = true ∧ (∀ h ∈ machine.homes, ∀ q d, h.trump = some q → q.phase ≠ .fetch d) := by
  unfold HasPkg
  constructor
  · intro l hl
    exact ⟨by revert l; decide +kernel, by revert l; decide +kernel, by revert l; decide +kernel, by revert l; decide +kernel, by revert l; decide +kernel,
      by revert l; decide +kernel, by revert l; decide +kernel, by revert l; decide +kernel, by revert l; decide +kernel, by revert l; decide +kernel, by revert l; decide +kernel,
      by revert l; decide +kernel, _, rfl, by revert l; decide +kernel⟩
  · exact ⟨by decide +kernel, fun _ h => absurd h List.not_mem_nil⟩

/-! ## The platform -/

/-- Two packages in a pod whose reference is package 0, with a link; package 2 in none. -/
def stClock : State := { stPod { id := 0, far := some 2, port := 5 } [] with
  podRef := some 0, pkgs := [{ id := 0, inPod := true, links := [] }, { id := 1, inPod := true, time0 := { domain := true }, links := [{ id := 0, far := some 0 }] }, { id := 2, links := [] }] }
theorem witness_time : (∀ u ∈ [0, 8, 0x100000, 0x100001, 0x100002, 0x100004], Clocked stClock u) ∧ PodClocked stClock 0 ∧ timePkg 0 = 0 ∧
    0 ≠ grandmaster stClock 0 ∧ 0x100004 = grandmaster stClock 2 ∧ timePkg 0x100005 = 2 ∧ 0x100005 ≠ grandmaster stClock 2 ∧ Clocked stClock 0x100005 ∧
    (getPkg stClock 2).inPod = false ∧ (getPkg stClock 2).iod1 = false ∧ HasPkg stClock 2 ∧ (getPkg stClock 2).cold = false ∧
    (∀ b ∈ stClock.blocks, b.pkg = 2 → b.state ≠ .resident ∧ b.state ≠ .stopping) ∧
    timeRef stClock 0 = 0x100000 ∧ (timeSt stClock 0).err = 0xFFFF ∧ nearerPkgs stClock 1 0 = [0] ∧ Clocked stClock (grandmaster stClock 1) ∧
    (getPkg stClock 1).inPod = true ∧ nearerPkgs stClock 0 0 = [] ∧ isRemoved stClock 1 0 = false ∧ (getPkg stClock 0).inPod = true ∧
    timePkg 0x100002 = 1 ∧ timeRef stClock 0x100002 = grandmaster stClock 0 := by
  unfold PodClocked HasPkg Clocked
  decide +kernel
/-- A pod without a reference. -/
theorem witness_reference : HasPkg { stClock with podRef := none } 1 ∧ (getPkg { stClock with podRef := none } 1).cold = false ∧ stClock.podRef ≠ none := by
  unfold HasPkg
  decide +kernel
/-- A die within 0x10 of its reference, with a bound. -/
theorem witness_time_sample : let s := { machine with cds := [{ unit := 0, time := { time := 0x105, err := 0x10, lock := true } }]
                                                      pkgs := [{ id := 0, time0 := { time := 0x100, err := 0, lock := true } }] }
    Clocked s 0 ∧ Clocked s (timeRef s 0) ∧ timeRef s 0 ≠ 0 ∧ (timeSt s 0).err ≠ 0xFFFF ∧
    (timeSt s 0).time.toNat ≤ (timeSt s (timeRef s 0)).time.toNat + (timeSt s 0).err.toNat := by
  unfold Clocked
  decide +kernel
theorem witness_clocks : (∀ d ∈ ([{ unit := 0 }, { unit := 0, power := .coreStop }, { unit := 0, thermal := true }, { unit := 0, power := .gated },
      { unit := 0, power := .off }] : List CDie), let s := { machine with cds := [d] }
      NoTrace s 0 ∧ isCd 0 = true ∧ getCd s 0 = d ∧ d.present = true ∧ d.unreachable = false ∧ uncoreIdle s 0 = true ∧ dieBlocks s 0 = [] ∧
      s.net = [] ∧ (∃ e ∈ s.cds, e.unit = 0) ∧ FwTarget.compute ∈ (getPkg s (pkgOf 0)).sec.verified) := by
  unfold NoTrace
  decide +kernel
theorem witness_reset : HasPkg machine 0 ∧ (getPkg machine 0).sec.held = false ∧ memWf machine.mem = true ∧
    (getPkg { machine with pkgs := [{ id := 0, sec := { held := true } }] } 0).sec.held = true := by
  unfold HasPkg
  decide +kernel
/-- A package that runs, under each lifecycle and each alarm action, with its security firmware verified and not. A signature's verification is a free
function, of which no value can be shown. -/
theorem witness_security : (∀ l ∈ [Lifecycle.test, .prod, .rma, .scrap], let s := { machine with pkgs := [{ id := 0, sec := { runs1 with lifecycle := l } }] }
      securityRuns s 0 = true ∧ (getPkg s 0).sec.lifecycle = l ∧ (getPkg s 0).sec.leaf < 2 ^ 20) ∧
    (∀ a ∈ [0, 1, 2, 3], let s := { machine with pkgs := [{ id := 0, sec := { runs1 with almctl := Vector.replicate 5 a } }] }
      securityRuns s 0 = true ∧ ∀ k : Fin 5, (getPkg s 0).sec.almctl[k] = a) ∧
    pkgRuns machine 0 = true ∧ FwTarget.security ∈ (getPkg machine 0).sec.verified ∧
    FwTarget.security ∉ (getPkg { machine with pkgs := [{ id := 0 }] } 0).sec.verified ∧ securityRuns { machine with pkgs := [{ id := 0 }] } 0 = false ∧
    (∃ d ∈ ({ machine with mds := [{ unit := 8, inReset := true }] } : State).mds, pkgOf d.unit = 0 ∧ d.inReset = true ∧ d.unreachable = false) ∧
    (∃ d ∈ machine.cds, pkgOf d.unit = 0 ∧ d.present = true ∧ d.unreachable = false) := by decide +kernel
/-- The word is that of the instruction. -/
def decodes (w : Word) (i : Instr) : Bool := match decode w with
  | .ok j => i == j
  | .error _ => false
/-- A stopped partition under an open port. -/
def stStop (f : Wave → Wave) (m : Memory) : State :=
  { withWave f with mem := m, cores := [{ id := ⟨0, 0⟩, lastCtx := 1, tlb := tlb1, stopped := 1 }], pkgs := [{ id := 0, sec := { port := true } }] }
theorem witness_debug : (let s := stStop id tables
    portIsOpen s 0 = true ∧ inStop s ⟨0, 0, 0, 0⟩ = true ∧ (s.cur.id, s.cur.live) = (⟨0, 0, 0, 0⟩, true) ∧ s.cur.window.length = 0 ∧ (∃ e ∈ s.cds, e.unit = 0) ∧
    s.cur.focus = none ∧ s.cur.a.em.getLsbD 95 = true ∧ s.cur.hold = .ready ∧ s.cur.a.depth = s.cur.a.stack.length ∧ s.cur.a.stack.length < 16 ∧
    confidential s 0 s.cur.ctx = false ∧ confidential { s with ctxs := [{ ctx1 with cflags := 16 }] } 0 s.cur.ctx = true) ∧
    (stStop (fun w => { w with a := { w.a with stack := [⟨.els, 2, 5, 0⟩], depth := 1 } }) tables).cur.a.stack[0]? = some ⟨.els, 2, 5, 0⟩ := by
  decide +kernel
/-- A held die that has won a trump request whose operation waits, so that the home's census waits for it. -/
theorem witness_debug_hold : let e : DieSector := { sec0 64 with act := some 0, req := some { req0 with trump := true } }
    let s := { stStop id tables with
      cds := [{ unit := 0, held := true }], sectors := [e], homes := [{ sector := 0x1000, tokens := 0, own := false, trump := some { trump0 .gather [] [] with hold := true } }] }
    portIsOpen s 0 = true ∧ heldOwes s 0 0x1000 = true ∧ (∃ d ∈ s.sectors, d.cd = 0 ∧ d.sector = 0x1000) ∧ (getHome s 0x1000).trump ≠ none ∧ ∃ e ∈ s.cds, e.unit = 0 := by
  decide +kernel
/-- Under focus on lane 0, with the word of an instruction at the PC, which the die may read. -/
def stFocus (i : Instr) : State :=
  { stStop (fun w => { w with focus := some ⟨0, 0, 0, 2, none⟩, a := { w.a with em := 1, stack := [⟨.els, 2, 0xFFFFFFFC, 0⟩], depth := 1 } }) tables with
    sectors := [codeSec ((encode i).getD 0)] }
/-- An instruction that is permitted, one that is not, a word of no instruction, a word whose tokens the die lacks, a misaligned PC, one in
a moving page, one whose page has no TLB entry, and the end of the focus. -/
theorem witness_focus : (∀ i ∈ ([.vand 4 4 4, .nop] : List Instr), let s := stFocus i
      let y := focusOn s s.cur
      let z := fetched y y.cur y.cur.a.pc codePlace
      inStop s ⟨0, 0, 0, 0⟩ = true ∧ s.cur.focus = some ⟨0, 0, 0, 2, none⟩ ∧ fetchOut y y.cur y.cur.a.pc = .ok codePlace ∧
      fetchNeeds y y.cur codePlace = none ∧ decodes (fetchWord y y.cur codePlace) i = true ∧ decodeTrap i z.cur = none ∧ mayIssue i z.cur = true) ∧
    (let s := stFocus .nop
     s.cur.window.length = 0 ∧ s.cur.a.stack = [⟨.els, 2, 0xFFFFFFFC, 0⟩] ∧ s.cur.a.depth = 1) ∧
    (let s := { stFocus .nop with sectors := [codeSec 0] }
     fetchNeeds s s.cur codePlace = none ∧ (decode (fetchWord s s.cur codePlace)).toOption = none) ∧
    (let s := { stFocus .nop with sectors := [] }
     fetchNeeds s s.cur codePlace = some 0xC00) ∧
    (let s := stFocus .nop
     (match fetchOut s s.cur 2 with
      | .fault .. => true
      | _ => false) = true) ∧
    (let s := { stFocus .nop with cores := [{ id := ⟨0, 0⟩, lastCtx := 1, stopped := 1 }] }
     fetchOut s s.cur 0 = .walk 1 0 ∧
     fetchOut s { s.cur with xres := [⟨1, 0, .found 0x10000 4 false .dev .pkg .moving 0 0⟩] } 0 = .wait 1) := by decide +kernel
theorem witness_format : VectorFormat (.vand 4 4 4) ∧ ¬VectorFormat .nop := by
  refine ⟨⟨_, rfl, by decide⟩, ?_⟩
  rintro ⟨c, h, r⟩
  cases h
  revert r
  decide
/-- A record of no words behind its time. -/
def page1 : PageRec := { time := 5, err := 0, steps := 0, runs := 1, ty := 1, payload := 0, body := [] }
/-- A confidential context with an open trace page at die 0: without a key, without tokens, with a full ring, and with room and tokens. -/
def stTracePage (k : Option TenantKeys) (es : List DieSector) : State :=
  { machine with ctxs := [{ ctx1 with keys := k, ctrace := 0x300003, openPage := [(0, [page1])] }], sectors := es }
theorem witness_trace_page : (∀ x ∈ ([(none, []), (some ⟨0, 0, []⟩, []),
      (some ⟨0, 0, []⟩, [{ cd := 0, sector := 0xC000, tokens := 1, valid := true, data := BitVec.ofNat 512 (2 ^ 65) }]),
      (some ⟨0, 0, []⟩, ((0xC000 :: span 0xC040 64).map fun k => { cd := 0, sector := k, tokens := 64, own := true, valid := true }))] :
        List (Option TenantKeys × List DieSector)), let s := stTracePage x.1 x.2
      let c := getCtx s 0 1
      openRecs c 0 = [page1] ∧ (pageWords (lastSealed (getCd s 0).trace 1) (openRecs c 0)).length ≤ 508 ∧ (∃ e ∈ s.cds, e.unit = 0) ∧ (getCd s 0).pend = [] ∧
      bits c.ctrace.toNat 11 0 - 1 = 2 ∧ c.sealed = [] ∧
      (getSec s 0 0xC000).req = none ∧ (getSec s 0 0xC000).poison = false ∧ (c.keys = none ↔ x.1 = none) ∧
      (canRead (getSec s 0 0xC000) = true ↔ x.2 ≠ []) ∧
      (let page := fun n : Nat => if 1 ≤ n ∧ n ≤ 2 then n else 1
       let h := page (devNat s 0x300000 8)
       ((if h = 2 then 1 else h + 1) = page (devNat s 0x300008 8) ↔ x.2.length = 1)) ∧
      ((∀ k ∈ 0xC000 :: span 0xC040 64, canWrite (getSec s 0 k) = true) ↔ x.2.length = 65)) := by decide +kernel
/-- A record of 60 words that a page has no room for nine of, and an open page of nine of them. -/
theorem witness_trace_carry : let rs := List.replicate 9 { page1 with body := List.replicate 60 1 }
    let s := { stTracePage (some ⟨0, 0, []⟩) [] with ctxs := [{ ctx1 with keys := some ⟨0, 0, []⟩, ctrace := 0x300003, openPage := [(0, rs)] }] }
    openRecs (getCtx s 0 1) 0 = rs ∧ 508 < (pageWords (lastSealed (getCd s 0).trace 1) rs).length ∧ (getCd s 0).pend = [] := by decide +kernel
theorem witness_registers : iodRuns machine 0 = true ∧ iodRuns { machine with pkgs := [{ id := 0 }] } 0 = false ∧ regPkg (.cycle 3) = 0 ∧ pkgOf 8 = 0 ∧ HasMd machine 8 ∧ pkgOf 3 = 0 ∧ ∃ e ∈ machine.cds, e.unit = 3 := by
  unfold HasMd
  decide +kernel
/-- An even tick with an empty agenda and a readable word at the PC of the one wave; a word that no instruction has; and an event on the agenda. -/
theorem witness_step : (∀ i ∈ ([some .nop, none] : List (Option Instr)), let s := { withWave id with
        sectors := [codeSec ((i.bind encode).getD 0)], tick := 2 }
      let s1 := { s with tick := s.tick + 1 }
      s.agenda = [] ∧ s.tick % 2 = 0 ∧ (pickWave s1).map (·.id) = some ⟨0, 0, 0, 0⟩ ∧ wave1.rlost = [] ∧
      fetchOut s1 s1.cur s1.cur.a.pc = .ok codePlace ∧ fetchNeeds s1 s1.cur codePlace = none ∧
      (i = none → isStalled (trapAt (fetched s1 s1.cur s1.cur.a.pc codePlace) .ill).cur = false) ∧
      (match decode (fetchWord s1 s1.cur codePlace) with
        | .ok j => i == some j
        | .error .major => i == none
        | _ => false) = true) ∧
    (∃ t, exec (.priorityAging 0 0) { st1 with agenda := [] } = .next t) := ⟨by decide +kernel, _, rfl⟩
theorem witness_memory_kept : memoryWf State.reset = true ∧ ∃ t, exec (.priorityAging 0 0) State.reset = .next t := ⟨by decide +kernel, _, rfl⟩

end Sys2Proof.Tests
end

/-! Proofs of the scalar and mask statements (R225 to R227, R230): what an instruction that only changes registers answers,
the values that the model's helpers compute, and the words that their decode checks refuse. -/

namespace Sys2Proof.ScalarControl

open Sys2Proof Sys2Proof.Machine Sys2Proof.Says Sys2Proof.Laws

/-! ## What a register instruction answers -/

/-- An instruction that only changes registers leaves the machine as `after` says (R225). -/
theorem simple_issues {i s f} (hd : shortDsts i = []) (h : Issues i s) :
    simple i s f = .next (after s (onward (f s.cur.a))) := by
  obtain ⟨hlive, hchecks, hissue⟩ := h
  rw [simple_plain hlive hchecks hissue hd]
  rfl

/-- Whenever the instruction issues, it leaves the machine that its value determines. -/
def Answers {α : Type} (s : State) (result : α → State) (p : Instr × α) : Prop :=
  Issues p.1 s → exec p.1 s = .next (result p.2)

section
variable {α : Type} {i : Instr} {s : State} {d : SReg}

/-- A register instruction that reads a value f and hands it to a write answers that write of the value. -/
theorem answers_write {write : WaveArch → α → WaveArch} {f : WaveArch → α} {v : α}
    (he : exec i s = simple i s fun a => write a (f a)) (hd : shortDsts i = []) (hv : f s.cur.a = v) :
    Answers s (fun x => after s (onward (write s.cur.a x))) (i, v) := by
  subst hv
  exact fun h => he.trans (simple_issues hd h)
theorem answers_scalar {f : WaveArch → Word} {v : Word}
    (he : exec i s = simple i s fun a => writeS (isHandler s.cur) a d (f a)) (hd : shortDsts i = []) (hv : f s.cur.a = v) :
    Answers s (scalarTo s d) (i, v) := answers_write he hd hv
theorem answers_pair {f : WaveArch → BitVec 64} {v : BitVec 64}
    (he : exec i s = simple i s fun a => writePair (isHandler s.cur) a d (f a)) (hd : shortDsts i = []) (hv : f s.cur.a = v) :
    Answers s (pairTo s d) (i, v) := answers_write he hd hv
theorem answers_triple {f : WaveArch → Mask} {v : Mask}
    (he : exec i s = simple i s fun a => writeTriple (isHandler s.cur) a d.toNat (f a)) (hd : shortDsts i = [])
    (hv : f s.cur.a = v) : Answers s (tripleTo s d) (i, v) := answers_write he hd hv

end

/-! ## The values of scalar functions (R226, R227) -/

/-- A choice by a condition is a choice by one that says the same. -/
theorem ite_of_iff {α : Type} {p q : Prop} [Decidable p] [Decidable q] (h : p ↔ q) (x y : α) :
    (if p then x else y) = if q then x else y := ite_congr (propext h) (fun _ => rfl) fun _ => rfl
theorem boolWord_eq {b : Bool} {p : Prop} [Decidable p] (h : b = true ↔ p) : boolWord b = if p then 1 else 0 :=
  ite_of_iff h 1 0
theorem shlWord_eq (x y : Word) : shlWord x y = x <<< y.toNat := by
  unfold shlWord
  split
  · rfl
  · exact (BitVec.shiftLeft_eq_zero (by omega)).symm
theorem shrWord_eq (x y : Word) : shrWord x y = x >>> y.toNat := by
  unfold shrWord
  split
  · rfl
  · exact (BitVec.ushiftRight_eq_zero (by omega)).symm
/-- A count above 31 fills the word with the sign, as a count of 31 does. -/
theorem sarWord_eq (x y : Word) : sarWord x y = x.sshiftRight y.toNat := by
  unfold sarWord
  ext i hi
  simp only [BitVec.getElem_sshiftRight]
  rcases Nat.lt_or_ge y.toNat 32 with hy | hy
  · simp only [show Nat.min y.toNat 31 = y.toNat from Nat.min_eq_left (by omega)]
  · simp only [show Nat.min y.toNat 31 = 31 from Nat.min_eq_right (by omega), show ¬y.toNat + i < 32 by omega, dite_false]
    split
    · simp only [show i = 0 by omega, Nat.add_zero, BitVec.msb_eq_getLsbD_last, BitVec.getLsbD_eq_getElem,
        Nat.add_one_sub_one, Nat.lt_add_one]
    · rfl
theorem mulHighU_eq (x y : Word) : mulHighU x y = (x.setWidth 64 * y.setWidth 64).extractLsb' 32 32 := by
  have hlt : x.toNat * y.toNat < 2 ^ 32 * 2 ^ 32 := Nat.mul_lt_mul'' x.isLt y.isLt
  apply BitVec.eq_of_toNat_eq
  simp only [mulHighU, BitVec.toNat_ofNat, BitVec.extractLsb'_toNat, BitVec.toNat_mul, Nat.shiftRight_eq_div_pow,
    BitVec.toNat_setWidth_of_le (show 32 ≤ 64 by decide), Nat.mod_eq_of_lt (show x.toNat * y.toNat < 2 ^ 64 from hlt)]
/-- The product of the sign extensions is the exact product modulo 2^64. -/
theorem signExtend_mul_eq_ofInt (x y : Word) : x.signExtend 64 * y.signExtend 64 = BitVec.ofInt 64 (x.toInt * y.toInt) := by
  rw [BitVec.ofInt_mul]; rfl
/-- The high word of a number modulo 2^64. -/
theorem ofInt_extract_high (z : Int) : (BitVec.ofInt 64 z).extractLsb' 32 32 = BitVec.ofInt 32 (z / 2 ^ 32) := by
  apply BitVec.eq_of_toNat_eq
  simp only [BitVec.extractLsb'_toNat, BitVec.toNat_ofInt, Nat.shiftRight_eq_div_pow]
  omega
theorem mulHighS_eq (x y : Word) : mulHighS x y = (x.signExtend 64 * y.signExtend 64).extractLsb' 32 32 := by
  rw [signExtend_mul_eq_ofInt, ofInt_extract_high]; rfl
theorem clzN_eq {w : Nat} (hw : 0 < w) (x : BitVec w) : BitVec.ofNat w (clzN w x.toNat) = x.clz := by
  unfold clzN
  split
  case isTrue h0 =>
    exact (BitVec.clz_eq_iff_eq_zero.2 (BitVec.eq_of_toNat_eq h0)).symm
  case isFalse h0 =>
    have hx : x ≠ 0#w := fun h => h0 (by rw [h, BitVec.toNat_zero])
    have hclz : x.clz.toNat < w := by
      simpa only [BitVec.natCast_eq_ofNat, BitVec.lt_def, BitVec.toNat_ofNat, Nat.mod_two_pow_self] using
        BitVec.clz_lt_iff_ne_zero.2 hx
    have hlog : x.toNat.log2 = w - 1 - x.clz.toNat := by
      refine (Nat.log2_eq_iff h0).2 ⟨BitVec.two_pow_sub_clz_le_toNat_of_ne_zero hw hx, ?_⟩
      rw [show w - 1 - x.clz.toNat + 1 = w - x.clz.toNat by omega]
      exact BitVec.toNat_lt_two_pow_sub_clz
    rw [hlog, show w - 1 - (w - 1 - x.clz.toNat) = x.clz.toNat by omega, BitVec.ofNat_toNat, BitVec.setWidth_eq]
/-- The library counts from the highest bit down, the model from the lowest up: here the highest bit is split off. -/
theorem cpopNatRec_succ_top {w : Nat} (x : BitVec w) (n : Nat) :
    x.cpopNatRec (n + 1) 0 = x.cpopNatRec n 0 + b2n (x.getLsbD n) := by
  rw [BitVec.cpopNatRec_succ, BitVec.cpopNatRec_eq]
  cases x.getLsbD n <;> rfl
theorem popcount_eq {w : Nat} (x : BitVec w) (n : Nat) : popcount n x.toNat = x.cpopNatRec n 0 := by
  induction n with
  | zero => rfl
  | succ n ih =>
    rw [cpopNatRec_succ_top, ← ih]
    simp only [popcount, List.range_succ, List.foldl_append, List.foldl_cons, List.foldl_nil, BitVec.testBit_toNat]
theorem slui_eq (i : BitVec 20) : i ++ (0 : BitVec 12) = i.setWidth 32 <<< 12 := by
  rw [BitVec.append_def, BitVec.shiftLeftZeroExtend_eq, BitVec.setWidth'_eq]
  exact BitVec.or_zero

/-! ## The values of mask functions (R230) -/

theorem length_lanesBelow_eq (m : Mask) (n : Nat) : ((List.range n).filter fun i => m.getLsbD i).length = m.cpopNatRec n 0 := by
  induction n with
  | zero => rfl
  | succ n ih =>
    rw [cpopNatRec_succ_top, ← ih]
    rw [List.range_succ, List.filter_append, List.length_append]
    cases h : m.getLsbD n
    case false => rw [List.filter_cons_of_neg (by rw [h]; decide)]; rfl
    case true => rw [List.filter_cons_of_pos h]; rfl
theorem countMask_eq (m : Mask) : BitVec.ofNat 32 (countMask m) = m.cpop.setWidth 32 := by
  apply BitVec.eq_of_toNat_eq
  rw [BitVec.toNat_setWidth, BitVec.toNat_cpop, ← length_lanesBelow_eq, BitVec.toNat_ofNat]
  rfl
theorem firstLane_eq (m : Mask) : firstLane m = m.ctz.toNat := by
  unfold firstLane lanesOf
  rw [List.headD_eq_head?_getD, List.head?_filter]
  by_cases hm : m = 0#96
  · have hnone : (List.range 96).find? (fun i => m.getLsbD i) = none := List.find?_range_eq_none.2 fun j _ => by
      rw [hm, BitVec.getLsbD_zero, Bool.not_false]
    have hctz : m.ctz = 96#96 := BitVec.clz_eq_iff_eq_zero.2 (BitVec.reverse_eq_zero_iff.2 hm)
    rw [hnone, hctz]; rfl
  · have hlt : m.ctz.toNat < 96 := BitVec.lt_def.1 (BitVec.ctz_lt_iff_ne_zero.2 hm)
    have hfind : (List.range 96).find? (fun i => m.getLsbD i) = some m.ctz.toNat :=
      List.find?_range_eq_some.2 ⟨BitVec.getLsbD_true_ctz_of_ne_zero hm, List.mem_range.2 hlt,
        fun j hj => by rw [BitVec.getLsbD_false_of_lt_ctz hj, Bool.not_false]⟩
    rw [hfind]; rfl
theorem laneBit_eq (n : Nat) : laneBit n = 1#96 <<< n := by
  unfold laneBit
  split
  · rfl
  · exact (BitVec.shiftLeft_eq_zero (by omega)).symm

/-! ## The meanings

A statement lists the instructions of one shape with their values; each is an `answers_` lemma, whose equations are the
arm of `exec`, the absence of vector destinations, and the value. -/

theorem scalarArithmetic : ScalarArithmetic := by
  intro s d a b i v x y h
  refine (?_ : ∀ p ∈ _, Answers s (scalarTo s d) p) (i, v) h
  simp only [List.forall_mem_cons]
  exact ⟨
    -- sums, logic and the low product
    answers_scalar rfl rfl rfl, answers_scalar rfl rfl rfl, answers_scalar rfl rfl rfl, answers_scalar rfl rfl rfl,
    answers_scalar rfl rfl rfl, answers_scalar rfl rfl rfl, answers_scalar rfl rfl rfl,
    -- high products
    answers_scalar rfl rfl (mulHighS_eq x y),
    answers_scalar rfl rfl (mulHighU_eq x y),
    -- minima and maxima, signed and unsigned
    answers_scalar rfl rfl (ite_of_iff BitVec.sle_iff_toInt_le.symm _ _),
    answers_scalar rfl rfl (ite_of_iff BitVec.sle_iff_toInt_le.symm _ _),
    answers_scalar rfl rfl (ite_of_iff BitVec.ule_iff_toNat_le.symm _ _),
    answers_scalar rfl rfl (ite_of_iff BitVec.ule_iff_toNat_le.symm _ _),
    -- compares
    answers_scalar rfl rfl (boolWord_eq (decide_eq_true_iff.trans BitVec.slt_iff_toInt_lt.symm)),
    answers_scalar rfl rfl (boolWord_eq (decide_eq_true_iff.trans BitVec.ult_iff_toNat_lt.symm)),
    answers_scalar rfl rfl (boolWord_eq beq_iff_eq),
    -- shifts
    answers_scalar rfl rfl (shlWord_eq x y),
    answers_scalar rfl rfl (shrWord_eq x y),
    answers_scalar rfl rfl (sarWord_eq x y),
    -- counts and sign extensions
    answers_scalar rfl rfl (clzN_eq (by decide) x),
    answers_scalar rfl rfl (congrArg (BitVec.ofNat 32) (popcount_eq x 32)),
    answers_scalar rfl rfl (congrArg (BitVec.signExtend 32) (BitVec.setWidth_eq_extractLsb' (by decide)).symm),
    answers_scalar rfl rfl (congrArg (BitVec.signExtend 32) (BitVec.setWidth_eq_extractLsb' (by decide)).symm),
    List.forall_mem_nil _⟩

theorem scalarImmediates : ScalarImmediates := by
  intro s d a imm hi i v x h
  refine (?_ : ∀ p ∈ _, Answers s (scalarTo s d) p) (i, v) h
  simp only [List.forall_mem_cons]
  exact ⟨answers_scalar rfl rfl rfl, answers_scalar rfl rfl rfl, answers_scalar rfl rfl rfl, answers_scalar rfl rfl rfl,
    answers_scalar rfl rfl (slui_eq hi), List.forall_mem_nil _⟩

theorem scalarPairs : ScalarPairs := by
  intro s d a b i v x y h
  refine (?_ : ∀ p ∈ _, Answers s (pairTo s d) p) (i, v) h
  simp only [List.forall_mem_cons]
  exact ⟨answers_pair rfl rfl rfl, answers_pair rfl rfl rfl, List.forall_mem_nil _⟩

theorem maskTriples : MaskTriples := by
  intro s d a b i v x y h
  refine (?_ : ∀ p ∈ _, Answers s (tripleTo s d) p) (i, v) h
  simp only [List.forall_mem_cons]
  exact ⟨answers_triple rfl rfl rfl, answers_triple rfl rfl rfl, answers_triple rfl rfl rfl, answers_triple rfl rfl rfl,
    answers_triple rfl rfl rfl, answers_triple rfl rfl rfl, answers_triple rfl rfl rfl,
    answers_triple rfl rfl (laneBit_eq _), List.forall_mem_nil _⟩

theorem maskCounts : MaskCounts := by
  intro s d a i v x h
  refine (?_ : ∀ p ∈ _, Answers s (scalarTo s d) p) (i, v) h
  simp only [List.forall_mem_cons]
  exact ⟨answers_scalar rfl rfl (countMask_eq x),
    answers_scalar rfl rfl (congrArg (BitVec.ofNat 32) (firstLane_eq x)), List.forall_mem_nil _⟩

/-! ## The words that trap (R214) -/

/-- The checks of a form that come to its operands alone: no privilege, no handler rule, no element class, no MMODE. -/
def OperandsOnly (f : Form) : Prop := f.priv = .user ∧ f.hill = false ∧ f.cls = .any ∧ f.cvt = none ∧ f.mm = .none

theorem earlyCheck_operandsOnly {i v} (hf : OperandsOnly (formOf i)) :
    earlyCheck i v = if operandsOk (vLimit v) (formOf i) then none else some .ill := by
  obtain ⟨hpriv, hhill, -, -, -⟩ := hf
  simp only [earlyCheck, hpriv, hhill, Bool.false_and]
  cases operandsOk (vLimit v) (formOf i) <;> rfl
theorem lateCheck_operandsOnly {i v} (hf : OperandsOnly (formOf i)) : lateCheck i v = none := by
  obtain ⟨-, -, hcls, hcvt, hmm⟩ := hf
  simp only [lateCheck, hcls, hcvt, hmm]
  rfl
theorem decodeTrap_operandsOnly {i v} (hf : OperandsOnly (formOf i)) :
    decodeTrap i v = if operandsOk (vLimit v) (formOf i) then none else some .ill := by
  simp only [decodeTrap, earlyCheck_operandsOnly hf, lateCheck_operandsOnly hf]
  cases operandsOk (vLimit v) (formOf i) <;> rfl

theorem wordTrap_function {v w} (h : decode w = .error .function) : wordTrap v w = some .ill := by simp only [wordTrap, h]
/-- A word without must-be-zero fields traps by its operands alone. -/
theorem wordTrap_ok {v w i} (h : decode w = .ok i) (hf : OperandsOnly (formOf i)) :
    wordTrap v w = if operandsOk (vLimit v) (formOf i) then none else some .ill := by
  simp only [wordTrap, h, decodeTrap_operandsOnly hf]
/-- A word with must-be-zero fields: its operands are checked before them. -/
theorem wordTrap_zeroIn {v w m i} (h : decode w = zeroIn w m i) (hf : OperandsOnly (formOf i)) :
    wordTrap v w = if operandsOk (vLimit v) (formOf i) then (if w &&& m = 0#32 then none else some .rsvf) else some .ill := by
  by_cases hz : w &&& m = 0#32
  · rw [wordTrap_ok (h.trans (by rw [zeroIn, if_pos hz])) hf]
    rw [if_pos hz]
  · rw [wordTrap, h, zeroIn, if_neg hz]
    simp only [earlyCheck_operandsOnly hf, if_neg hz]
    cases operandsOk (vLimit v) (formOf i) <;> rfl

/-! ### The fields of a word -/

/-- A word has zero bits under a field's mask exactly if the field is zero. -/
theorem mask_eq_zero_iff (w : Word) (s l : Nat) :
    w &&& ((BitVec.allOnes l).setWidth 32 <<< s) = 0#32 ↔ fieldAt w s l = 0 := by
  have hfield : fieldAt w s l = 0 ↔ w.extractLsb' s l = 0#l := by
    rw [fieldAt, BitVec.toNat_eq, BitVec.toNat_zero]
  rw [hfield]
  refine ⟨fun h => ?_, mask_of_field w s l⟩
  ext i hi
  rw [BitVec.getElem_extractLsb', BitVec.getElem_zero]
  by_cases hs : s + i < 32
  · have hz := congrArg (BitVec.getLsbD · (s + i)) h
    simp only [BitVec.getLsbD_and, BitVec.getLsbD_shiftLeft, BitVec.getLsbD_setWidth, BitVec.getLsbD_allOnes,
      BitVec.getLsbD_zero, Nat.add_sub_cancel_left, hs, hi, show ¬s + i < s by omega, show i < 32 by omega,
      decide_true, decide_false, Bool.not_false, Bool.and_true] at hz
    exact hz
  · exact BitVec.getLsbD_of_ge w (s + i) (by omega)
/-- The must-be-zero bits of SB, and those of SA and SB. -/
theorem and_sb_eq_zero_iff (w : Word) : w &&& 0x3f00#32 = 0#32 ↔ fieldAt w 8 6 = 0 := mask_eq_zero_iff w 8 6
theorem and_sa_sb_eq_zero_iff (w : Word) : w &&& 0xfff00#32 = 0#32 ↔ fieldAt w 8 6 = 0 ∧ fieldAt w 14 6 = 0 := by
  rw [show (0xfff00#32 : Word) = (BitVec.allOnes 12).setWidth 32 <<< 8 from rfl, mask_eq_zero_iff]
  simp only [fieldAt, BitVec.extractLsb'_toNat, Nat.shiftRight_eq_div_pow]
  omega
theorem zeroIn_zero (w : Word) (i : Instr) : zeroIn w 0#32 i = .ok i := if_pos BitVec.and_zero
theorem majorOf_eq {w : Word} {n : Nat} (h : fieldAt w 26 6 = n) : majorOf w = BitVec.ofNat 6 n := by
  rw [← h, fieldAt, majorOf, BitVec.ofNat_toNat, BitVec.setWidth_eq]
theorem fn_eq (w : Word) : w.extractLsb' 0 8 = BitVec.ofNat 8 (fieldAt w 0 8) := by
  rw [fieldAt, BitVec.ofNat_toNat, BitVec.setWidth_eq]
theorem fn_ne {w : Word} {k : Nat} (hk : k < 2 ^ 8) (h : fieldAt w 0 8 ≠ k) : w.extractLsb' 0 8 ≠ BitVec.ofNat 8 k := by
  intro he
  exact h (by rw [fieldAt, he, BitVec.toNat_ofNat, Nat.mod_eq_of_lt hk])

/-! ### The scalar ALU -/

/-- The must-be-zero bits of each scalar function: SB of a unary one (R226). -/
def aluZeros (fn : Nat) : Word := if 0x13 ≤ fn ∧ fn ≤ 0x16 then 0x3f00#32 else 0#32
/-- The places of the fields that name pairs (R226). -/
def aluPairs (fn : Nat) : List Nat := if 0x20 ≤ fn then [20, 14, 8] else []

theorem operandsOnly_pairs {ps} : OperandsOnly { pairs := ps } := ⟨rfl, rfl, rfl, rfl, rfl⟩
theorem operandsOk_pairs {V ps} : operandsOk V { pairs := ps } = ps.all pairOk := by
  simp only [operandsOk, List.all_nil, Bool.and_self, Bool.true_and, Bool.and_true]

theorem pairOk_field {w : Word} {l : Nat} : pairOk (w.extractLsb' l 6) = true ↔ fieldAt w l 6 % 2 = 0 ∧ fieldAt w l 6 ≤ 54 := by
  simp only [pairOk, fieldAt, Bool.and_eq_true, decide_eq_true_eq]
theorem and_aluZeros_eq_zero_iff {w : Word} {fn : Nat} :
    w &&& aluZeros fn = 0#32 ↔ (0x13 ≤ fn ∧ fn ≤ 0x16 → fieldAt w 8 6 = 0) := by
  unfold aluZeros
  split
  case isTrue hunary => rw [and_sb_eq_zero_iff]; exact ⟨fun h _ => h, fun h => h hunary⟩
  case isFalse hother => exact ⟨fun _ hunary => absurd hunary hother, fun _ => BitVec.and_zero⟩
theorem all_aluPairs_iff {w : Word} {fn : Nat} :
    ((aluPairs fn).map fun l => w.extractLsb' l 6).all pairOk = true ↔
      (0x20 ≤ fn → (fieldAt w 20 6 % 2 = 0 ∧ fieldAt w 20 6 ≤ 54) ∧
        (fieldAt w 14 6 % 2 = 0 ∧ fieldAt w 14 6 ≤ 54) ∧ fieldAt w 8 6 % 2 = 0 ∧ fieldAt w 8 6 ≤ 54) := by
  unfold aluPairs
  split
  case isTrue hpair =>
    simp only [List.map_cons, List.map_nil, List.all_cons, List.all_nil, Bool.and_true, Bool.and_eq_true, pairOk_field]
    exact ⟨fun h _ => h, fun h => h hpair⟩
  case isFalse hother => exact ⟨fun _ hpair => absurd hpair hother, fun _ => rfl⟩

/-- An allocated scalar function reads as an instruction whose pairs and must-be-zero bits are those of its number. -/
theorem parse01_allocated {w : Word} (h : fieldAt w 0 8 ≤ 0x16 ∨ fieldAt w 0 8 = 0x20 ∨ fieldAt w 0 8 = 0x21) :
    ∃ i, parse01 w = zeroIn w (aluZeros (fieldAt w 0 8)) i ∧
      formOf i = { pairs := (aluPairs (fieldAt w 0 8)).map fun l => w.extractLsb' l 6 } := by
  rw [parse01, fn_eq]
  generalize fieldAt w 0 8 = n at h ⊢
  match n, h with
  | 0, _ | 1, _ | 2, _ | 3, _ | 4, _ | 5, _ | 6, _ | 7, _ | 8, _ | 9, _ | 10, _ | 11, _ | 12, _ | 13, _ | 14, _
  | 15, _ | 16, _ | 17, _ | 18, _ => exact ⟨_, (zeroIn_zero _ _).symm, rfl⟩
  | 19, _ | 20, _ | 21, _ | 22, _ => exact ⟨_, rfl, rfl⟩
  | _, .inr (.inl rfl) | _, .inr (.inr rfl) => exact ⟨_, (zeroIn_zero _ _).symm, rfl⟩
  | n + 23, .inl h => omega
theorem parse01_unallocated {w : Word} (h : ¬(fieldAt w 0 8 ≤ 0x16 ∨ fieldAt w 0 8 = 0x20 ∨ fieldAt w 0 8 = 0x21)) :
    parse01 w = .error .function := by
  have hne : ∀ k, k ≤ 0x16 ∨ k = 0x20 ∨ k = 0x21 → w.extractLsb' 0 8 ≠ BitVec.ofNat 8 k :=
    fun k hk => fn_ne (by omega) (by omega)
  simp [parse01, hne]

/-- Every word of the immediate forms reads as an instruction without pairs or must-be-zero bits (R227). -/
theorem decode_immediate {w : Word} (h : fieldAt w 26 6 ∈ [2, 3, 4, 5, 7]) :
    ∃ i, decode w = .ok i ∧ formOf i = { pairs := [] } := by
  have hmajor := majorOf_eq (w := w) rfl
  generalize fieldAt w 26 6 = n at h hmajor
  simp only [List.mem_cons, List.not_mem_nil, or_false] at h
  rcases h with rfl | rfl | rfl | rfl | rfl
  all_goals exact ⟨_, by rw [decode, hmajor]; rfl, rfl⟩

/-! ### The mask operations -/

/-- The must-be-zero bits of each mask function (R230). -/
def maskZeros (fn : Nat) : Word := if fn ≤ 3 then 0#32 else if fn = 5 ∨ fn = 6 then 0xfff00#32 else 0x3f00#32
/-- The places of the fields that name triples (R230). -/
def maskFields (fn : Nat) : List Nat :=
  if fn ≤ 3 then [20, 14, 8] else if fn = 4 then [20, 14] else if fn = 7 ∨ fn = 8 then [14] else [20]

theorem operandsOnly_triples {ts} : OperandsOnly { triples := ts } := ⟨rfl, rfl, rfl, rfl, rfl⟩
theorem operandsOk_triples {V ts} : operandsOk V { triples := ts } = ts.all tripleOk := by
  simp only [operandsOk, List.all_nil, Bool.and_self, Bool.true_and, Bool.and_true]

theorem and_maskZeros_eq_zero_iff {fn : Nat} (w : Word) (h : fn ≤ 9) :
    w &&& maskZeros fn = 0#32 ↔ (4 ≤ fn → fieldAt w 8 6 = 0) ∧ (fn ∈ [5, 6] → fieldAt w 14 6 = 0) := by
  unfold maskZeros
  match fn, h with
  | 0, _ | 1, _ | 2, _ | 3, _ | 4, _ | 5, _ | 6, _ | 7, _ | 8, _ | 9, _ =>
    simp [and_sb_eq_zero_iff, and_sa_sb_eq_zero_iff]
theorem all_maskFields_iff {fn : Nat} (w : Word) (h : fn ≤ 9) :
    ((maskFields fn).map fun l => fieldAt w l 6).all tripleOk = true ↔
      (fn ∉ [7, 8] → fieldAt w 20 6 % 3 = 0 ∧ fieldAt w 20 6 ≤ 60) ∧
      (fn ∈ [0, 1, 2, 3, 4, 7, 8] → fieldAt w 14 6 % 3 = 0 ∧ fieldAt w 14 6 ≤ 60) ∧
      (fn ≤ 3 → fieldAt w 8 6 % 3 = 0 ∧ fieldAt w 8 6 ≤ 60) := by
  unfold maskFields
  match fn, h with
  | 0, _ | 1, _ | 2, _ | 3, _ | 4, _ | 5, _ | 6, _ | 7, _ | 8, _ | 9, _ => simp [tripleOk]

/-- An allocated mask function reads as an instruction whose triples and must-be-zero bits are those of its number. -/
theorem parse0D_allocated {w : Word} (h : fieldAt w 0 8 ≤ 9) :
    ∃ i, parse0D w = zeroIn w (maskZeros (fieldAt w 0 8)) i ∧
      formOf i = { triples := (maskFields (fieldAt w 0 8)).map fun l => fieldAt w l 6 } := by
  rw [parse0D, fn_eq]
  generalize fieldAt w 0 8 = n at h ⊢
  match n, h with
  | 0, _ | 1, _ | 2, _ | 3, _ => exact ⟨_, (zeroIn_zero _ _).symm, rfl⟩
  | 4, _ | 5, _ | 6, _ | 7, _ | 8, _ | 9, _ => exact ⟨_, rfl, rfl⟩
theorem parse0D_unallocated {w : Word} (h : 9 < fieldAt w 0 8) : parse0D w = .error .function := by
  have hne : ∀ k ≤ 9, w.extractLsb' 0 8 ≠ BitVec.ofNat 8 k := fun k hk => fn_ne (by omega) (by omega)
  simp [parse0D, hne]

/-- A scalar function that names pairs has no must-be-zero bits, so that at most one of the two checks applies. -/
theorem scalarEncodings : ScalarEncodings := by
  intro v w
  dsimp only
  refine ⟨fun hmaj => ?_, fun hmaj => ?_, rfl⟩
  · have hdec : decode w = parse01 w := by rw [decode, majorOf_eq hmaj]; rfl
    by_cases halloc : fieldAt w 0 8 ≤ 0x16 ∨ fieldAt w 0 8 = 0x20 ∨ fieldAt w 0 8 = 0x21
    · obtain ⟨i, hi, hform⟩ := parse01_allocated halloc
      rw [wordTrap_zeroIn (hdec.trans hi) (hform ▸ operandsOnly_pairs), hform, operandsOk_pairs, if_neg (Classical.not_not.2 halloc)]
      simp only [and_aluZeros_eq_zero_iff, all_aluPairs_iff]
      by_cases hpair : 0x20 ≤ fieldAt w 0 8
      · have hzeros : ¬fieldAt w 0 8 ≤ 0x16 := by omega
        simp only [hpair, hzeros, false_and, and_false, false_implies, true_implies, true_and, if_true, if_false, ite_not]
      · simp only [hpair, false_implies, if_true, ne_eq, ← Classical.not_imp, ite_not, and_imp]
    · rw [wordTrap_function (hdec.trans (parse01_unallocated halloc)), if_pos halloc]
  · obtain ⟨i, hi, hform⟩ := decode_immediate hmaj
    rw [wordTrap_ok hi (hform ▸ operandsOnly_pairs), hform]
    rfl

theorem maskEncodings : MaskEncodings := by
  intro v w hmaj
  dsimp only
  have hdec : decode w = parse0D w := by rw [decode, majorOf_eq hmaj]; rfl
  by_cases halloc : fieldAt w 0 8 ≤ 9
  · obtain ⟨i, hi, hform⟩ := parse0D_allocated halloc
    rw [wordTrap_zeroIn (hdec.trans hi) (hform ▸ operandsOnly_triples), hform, operandsOk_triples]
    simp only [all_maskFields_iff w halloc, and_maskZeros_eq_zero_iff w halloc, Nat.not_lt.2 halloc, false_or, ite_not]
  · have hbad : 9 < fieldAt w 0 8 := by omega
    rw [wordTrap_function (hdec.trans (parse0D_unallocated hbad)), if_pos (.inl hbad)]

/-- Settles O2, from the meanings of scalar arithmetic, immediates and pairs and from the checks of their words. -/
theorem scalars : Obligations.Scalars := ⟨scalarArithmetic, scalarImmediates, scalarPairs, scalarEncodings⟩
/-- Settles O3, from the meanings of mask operations and counts and from the checks of their words. -/
theorem masks : Obligations.Masks := ⟨maskTriples, maskCounts, maskEncodings⟩

end Sys2Proof.ScalarControl

/-! Proofs of the cross-lane statements (R274, R275): what a short vector instruction answers, the mask that is given lane by
lane, the lanes that an exchange reads validly, and the words of major 0x2A. -/

namespace Sys2Proof.LaneExchanges

open Sys2Proof Sys2Proof.Machine Sys2Proof.Says Sys2Proof.ScalarControl

/-! ## Masks and conditions lane by lane -/

/-- The number that `maskOf` sums up, of the lanes below n. -/
def maskSum (f : Nat → Bool) (n : Nat) : Nat := (List.range n).foldl (fun a i => if f i then a + 2 ^ i else a) 0

theorem maskSum_succ (f : Nat → Bool) (n : Nat) : maskSum f (n + 1) = if f n then maskSum f n + 2 ^ n else maskSum f n := by
  rw [maskSum, List.range_succ, List.foldl_append]; rfl
theorem maskSum_lt (f : Nat → Bool) (n : Nat) : maskSum f n < 2 ^ n := by
  induction n with
  | zero => exact Nat.one_pos
  | succ n ih => rw [maskSum_succ]; split <;> omega
theorem testBit_maskSum (f : Nat → Bool) {n l : Nat} (hl : l < n) : (maskSum f n).testBit l = f l := by
  induction n with
  | zero => exact absurd hl l.not_lt_zero
  | succ n ih =>
    have hclear := Nat.testBit_lt_two_pow (maskSum_lt f n)
    rw [maskSum_succ]
    rcases Nat.lt_succ_iff_lt_or_eq.1 hl with hbelow | rfl
    · rw [← ih hbelow]
      split
      · rw [Nat.add_comm, Nat.testBit_two_pow_add_gt hbelow]
      · rfl
    · split
      case isTrue hf => rw [Nat.add_comm, Nat.testBit_two_pow_add_eq, hclear, hf, Bool.not_false]
      case isFalse hf => rw [hclear, Bool.eq_false_iff.2 hf]
@[simp] theorem getLsbD_maskOf (f : Nat → Bool) {l : Nat} (hl : l < 96) : (maskOf f).getLsbD l = f l := by
  rw [maskOf, ← maskSum, BitVec.getLsbD_ofNat, testBit_maskSum f hl, decide_eq_true hl, Bool.true_and]
@[simp] theorem flagsOver_zero (m : Mask) : flagsOver m (fun _ => 0) = 0 := by
  unfold flagsOver
  induction lanesOf m with
  | nil => rfl
  | cons l ls ih => simpa only [List.foldl_cons, Nat.or_zero] using ih

/-! ## What a short vector instruction answers -/

/-- A write to a selector changes v and w registers alone (R206). -/
theorem setLanes_frame (a : WaveArch) (n : Nat) (x : Lanes) : ∃ v w, setLanes a n x = { a with v := v, w := w } := by
  unfold setLanes
  split
  · exact ⟨_, _, rfl⟩
  · split <;> exact ⟨_, _, rfl⟩
/-- A short instruction that changes registers, the vector register d among them, leaves the machine as `after` says; older
outstanding operations note the write (R212). -/
theorem simple_issues_vector {i s f} {d : VSel} (hd : shortDsts i = [d]) (hm : shortLanes i s.cur.a = s.cur.a.em)
    (h : Issues i s) : simple i s f = .next (let t := after s (onward (f s.cur.a))
      { t with cur := { t.cur with ops := t.cur.ops.map (noteClash [d.toNat] s.cur.a.em) } }) := by
  obtain ⟨hlive, hchecks, hissue⟩ := h
  rw [simple, checked_issues hlive hchecks hissue, hd, hm]
  exact if_pos rfl
/-- New words in the active lanes, with no conditions raised, are the registers of `vectorTo` (R178, R258). -/
theorem vectorTo_eq (s : State) (d : VSel) (f : Nat → Word) :
    vectorTo s d f 0 false = let t := after s (onward (vecWrite s.cur.a d fun l => (f l, 0)))
      { t with cur := { t.cur with ops := t.cur.ops.map (noteClash [d.toNat] s.cur.a.em) } } := by
  obtain ⟨v, w, hset⟩ := setLanes_frame s.cur.a d.toNat (activeLanes s.cur.a d.toNat f)
  simp only [vecWrite, flagsOver_zero, shiftLast, hset]
  simp only [vectorTo, ← activeLanes.eq_def, hset]
  rfl

/-! ## The lane that is read (R275) -/

theorem xlValid_natCast {em : Mask} {w l j : Nat} :
    xlValid em w l j = true ↔ j < 96 ∧ j / w = l / w ∧ em.getLsbD j = true := by
  have hlane : (j : Int) < 96 ↔ j < 96 := Int.ofNat_lt
  simp only [xlValid, Int.toNat_natCast, Bool.and_eq_true, decide_eq_true_eq, and_assoc, Int.natCast_nonneg, true_and, hlane]
theorem xlValid_neg {em : Mask} {w l : Nat} {j : Int} (h : j < 0) : xlValid em w l j = false := by
  rw [xlValid, decide_eq_false (Int.not_le.2 h)]; rfl

/-! ## The meaning and the words -/

/-- A cross-lane instruction that issues: each active lane takes the word of its source lane, or its own, and xv has the
lanes whose read was valid (R275). -/
theorem crossLane_issues {i s x y f} {src : Nat → Int} {d : VSel} (hd : shortDsts i = [d])
    (hm : shortLanes i s.cur.a = s.cur.a.em) (hsrc : (fun l => f (modeSgw s.cur.a.mode) l (srcWord s.cur.a .raw .fp32 y l)) = src)
    (h : Issues i s) :
    let valid := fun l => xlValid s.cur.a.em (modeSgw s.cur.a.mode) l (src l)
    crossLane i d x y s f = .next (
      let t := vectorTo s d (fun l => srcWord s.cur.a .raw .fp32 x (if valid l then (src l).toNat else l)) 0 false
      { t with cur := { t.cur with a := { t.cur.a with xv := maskOf fun l => s.cur.a.em.getLsbD l && valid l } } }) := by
  subst hsrc
  intro valid
  rw [vectorTo_eq]
  exact simple_issues_vector hd hm h

theorem laneExchange : LaneExchange := by
  intro s d a x i src w k hmem hissues
  obtain ⟨f, hexec, hd, hm, hsrc⟩ : ∃ f : Nat → Nat → Word → Int, exec i s = crossLane i d a x s f ∧ shortDsts i = [d] ∧
      shortLanes i s.cur.a = s.cur.a.em ∧ (fun l => f w l (k l)) = src := by
    simp only [List.mem_cons, List.not_mem_nil, or_false, Prod.mk.injEq] at hmem
    rcases hmem with ⟨rfl, rfl⟩ | ⟨rfl, rfl⟩ | ⟨rfl, rfl⟩ | ⟨rfl, rfl⟩
    · exact ⟨fun _ _ k => k.toNat, rfl, rfl, rfl, rfl⟩
    · exact ⟨fun w l k => (l / w * w + k.toNat : Nat), rfl, rfl, rfl, rfl⟩
    · exact ⟨fun _ l k => l + k.toInt, rfl, rfl, rfl, rfl⟩
    · exact ⟨fun _ l k => (l ^^^ k.toNat : Nat), rfl, rfl, rfl, rfl⟩
  refine ⟨_, _, hexec.trans (crossLane_issues hd hm hsrc hissues), fun l hl hem => ?_, fun l hl hem j => ⟨?valid, ?invalid⟩⟩
  · rw [getLsbD_maskOf _ hl, hem, Bool.false_and]
  case valid =>
    rintro ⟨hj, hsource⟩
    have hvalid : xlValid s.cur.a.em w l (j : Nat) = true := xlValid_natCast.2 hsource
    simp only [hl, getLsbD_maskOf, hem, hj, hvalid, w, if_true, Int.toNat_natCast, Bool.and_self, and_self]
  case invalid =>
    intro hbad
    have hinvalid : xlValid s.cur.a.em w l (src l) = false := by
      rcases hbad with hneg | ⟨hj, hout⟩
      · exact xlValid_neg hneg
      · rw [hj, Bool.eq_false_iff, ne_eq, xlValid_natCast]
        rintro ⟨hlt, hgroup, hactive⟩
        rcases hout with hbeyond | hother | hinactive
        · exact absurd hlt (Nat.not_lt.2 hbeyond)
        · exact hother hgroup
        · exact Bool.false_ne_true (hinactive.symm.trans hactive)
    simp only [hl, getLsbD_maskOf, hem, hinvalid, w, Bool.false_eq_true, if_false, Bool.and_false, and_self]

/-- Every word of major 0x2A is a cross-lane instruction: its two bits of SUB name all four (R274). -/
theorem parse2A_eq (w : Word) : parse2A w =
    .ok (if fieldAt w 24 2 = 0 then .vperm (w.extractLsb' 16 8) (w.extractLsb' 8 8) (w.extractLsb' 0 8)
      else if fieldAt w 24 2 = 1 then .vbcst (w.extractLsb' 16 8) (w.extractLsb' 8 8) (w.extractLsb' 0 8)
      else if fieldAt w 24 2 = 2 then .vshf (w.extractLsb' 16 8) (w.extractLsb' 8 8) (w.extractLsb' 0 8)
      else .vbfly (w.extractLsb' 16 8) (w.extractLsb' 8 8) (w.extractLsb' 0 8)) := by
  rw [parse2A, fieldAt]
  generalize w.extractLsb' 24 2 = sub
  match sub with
  | 0 | 1 | 2 | 3 => rfl

theorem laneExchangeWords : LaneExchangeWords := by
  intro w hmajor
  rw [decode, majorOf_eq hmajor]
  exact parse2A_eq w

/-- Settles O5, from the meaning of the four exchanges and from the decoder of their words. -/
theorem crossLane : Obligations.CrossLane := ⟨laneExchange, laneExchangeWords⟩

end Sys2Proof.LaneExchanges
